-- ==== Sys2Proof/Word.lean ====
section
/-!
DEFINITION. The word types of the module: bytes, 32-bit and 64-bit words (00 R4), and the index ranges of its parts
(01 Table 1.2, 02 Table 2.4).
-/
namespace Sys2Proof

/-- One byte of memory, a flit payload or a message. -/
abbrev Byte := BitVec 8
/-- A 32-bit register, instruction or FP32 pattern. -/
abbrev Word32 := BitVec 32
/-- A 64-bit register or scalar register. -/
abbrev Word64 := BitVec 64

/-- A region, 0 to 3 (R11). -/
abbrev Rgn := Fin 4
/-- A module partition, 0 to 3. -/
abbrev Prt := Fin 4
/-- A fabric link, 0 to 31. -/
abbrev Lnk := Fin 32
/-- A stack and its stack engine, 0 to 23. -/
abbrev Stk := Fin 24
/-- An engine of a region in the order of Table 2.4. -/
abbrev Eng := Fin 53

end Sys2Proof
end

