-- ==== Sys2Proof/Syntax.lean ====
section
/-!
DEFINITION. The commands of the module: one constructor of `Instr` per row of spec/opcode_table.json, and the data
that the rows carry (frames, command words, sensor readings, host requests).
-/
namespace Sys2Proof

/-- Who makes a control-space access (R6, R287, R288). -/
inductive Actor where
  | pf
  | vf (p : Prt)
  | icholt
  | jtag
deriving DecidableEq, Repr

/-- The bell message, Table 2.1 (R34). -/
structure BellMsg where
  periodNum : BitVec 48
  flags : BitVec 16
  lateVec : BitVec 64
  poisonVote : BitVec 256
  periodUs : BitVec 16
  masterAddr : BitVec 16
  fireDelay : BitVec 16
  masterSerial : BitVec 64
  pathDelay : BitVec 32
deriving DecidableEq, Repr

/-- The report frame, Table 2.2 (R37), with the destination of its flit header. -/
structure ReportMsg where
  dest : BitVec 16
  periodNum : BitVec 48
  flags : BitVec 16
  lateVec : BitVec 64
  poisonVote : BitVec 256
deriving DecidableEq, Repr

/-- A wait entry of a command word (R125). -/
structure WaitEntry where
  token : BitVec 8
  count : BitVec 3
  consume : Bool
deriving DecidableEq, Repr

/-- A command word, R124: 32 bytes of a command slot. -/
structure Cmd where
  opcode : BitVec 8
  engine : BitVec 6
  shadow : Bool
  rsv15 : Bool
  sigToken : BitVec 8
  sigAdd : BitVec 4
  rsv28 : BitVec 4
  d0 : BitVec 12
  d1 : BitVec 12
  d2 : BitVec 12
  wait0 : WaitEntry
  wait1 : WaitEntry
  wait2 : WaitEntry
  wait3 : WaitEntry
  rsv84 : BitVec 12
  word4 : Word32
  word5 : Word32
  word6 : Word32
  word7 : Word32
deriving DecidableEq, Repr

/-- How the one re-run of a killed command ends (R17, R156): it passes, meets a residue mismatch again, or fails another
check. -/
inductive Rerun where
  | passed
  | mismatch (col : BitVec 7)
  | failed
deriving DecidableEq, Repr

/-- What the checks of an engine found while it ran a command (R15, R17, R18, R154, R156): nothing; accumulator words
that DEC-TED corrected (ME_ERR_CNT.ACC_CORR); a residue mismatch in a logical column, with the outcome of the re-run; an
uncorrectable accumulator word; an uncorrectable SRAM word, with whether the re-run passes; uncorrectable words of the
stack that a stack engine works on, by their offsets. -/
inductive EngCheck where
  | clean
  | corrected (words : Nat)
  | residue (col : BitVec 7) (again : Rerun)
  | uncorr
  | sram (rerunOk : Bool)
  | stackWords (offsets : List (BitVec 36))
deriving DecidableEq, Repr

/-- What the staging slot of a COLLECTIVE flit shows (R260): nothing; an uncorrectable word of the flit's payload while it is
parked; an uncorrectable word of the partial sum that the flit forms. A word is 8 bytes of the payload. -/
inductive StageCheck where
  | good
  | flit (word : Fin 30)
  | sum (word : Fin 30)
deriving DecidableEq, Repr

/-- What the receiver finds in an arrived flit (R236, R237): good; its CRC failed; a codeword that could not be corrected touches
it, with the number of such codewords that it is the first to show. -/
inductive FlitCheck where
  | good
  | badCrc
  | badWord (codewords : Nat)
deriving DecidableEq, Repr

/-- Bytes 0-11 of a flit header, Table 10.1 (R237): all but its CRC. -/
structure FlitHdr where
  type : BitVec 4
  vc : BitVec 3
  last : Bool
  seq : BitVec 14
  ack : BitVec 14
  cvc : BitVec 3
  cred : BitVec 7
  cls : Bool
  ccls : Bool
  dest : BitVec 16
  src : BitVec 16
  tag : BitVec 16
deriving DecidableEq, Repr

/-- A flit (R237): header, the payload bytes 16-255, and the CRC of header bytes 12-15. -/
structure Flit where
  hdr : FlitHdr
  payload : List Byte
  crc : Word32 := 0
deriving DecidableEq, Repr

/-- Roll-call payload, Table 10.4. -/
structure RollMsg where
  hops : BitVec 8
  epoch : BitVec 16
  serial : Word64
  best : Word64
  second : Word64
  addr : BitVec 16
  posId : BitVec 8
  flags : BitVec 8
  link : BitVec 8
  reach : BitVec 8
  pathM : BitVec 16
  pathD : BitVec 16
  count : Word32
  fNs : BitVec 16
  lNs : BitVec 16
  periodUs : BitVec 16
deriving DecidableEq, Repr

/-- DRAIN payload, Table 13.2 (R316), after its KIND byte. -/
structure DrainMsg where
  src : BitVec 16
  tag : BitVec 16
  store : BitVec 8
  flags : BitVec 8
  status : BitVec 8
  place : Word32
  offset : BitVec 16
  count : BitVec 16
  step : Word32
  data : List Byte
deriving DecidableEq, Repr

/-- A peer request: WRITE, READ_REQ or READ_RESP payload of Table 10.2 with the header fields it needs. -/
structure PeerReq where
  src : BitVec 16
  tag : BitVec 16
  vc : BitVec 3
  offset : BitVec 48
  length : Word32
  returnDA : Word64
  data : List Byte
deriving DecidableEq, Repr

/-- An error frame, Table 10.6, with the destination it is routed to. -/
structure ErrMsg where
  dest : BitVec 16
  code : BitVec 8
  offender : FlitHdr
  detail : Word64
deriving DecidableEq, Repr

/-- Readings that a bell takes: mean draw of each of the ten consumers in W, regulator loss, highest sub-interval
energy in W, and the hottest junction of the 29 dies in degrees C (R358, R364); and of the period that the bell ends the
links on which the copy of a hardening-off had an uncorrectable codeword, and those on which it mismatched (R255). -/
structure Sensors where
  draws : List Nat
  lossW : Nat
  peakW : Nat
  temps : List Nat
  copyBad : List Nat := []
  copyMismatch : List Nat := []
deriving DecidableEq, Repr

/-- Header of an image slot as an update writes it (Table 14.8), with the verdicts of the checks of R353 that need the
body and the key. -/
structure SlotHdr where
  magic : Word32
  seq : Word32
  svn : Byte
  keyIdx : Byte
  length : Word32
  bodyCrcOk : Bool
  hdrCrcOk : Bool
  keyOk : Bool
  sigOk : Bool
deriving DecidableEq, Repr

/-- JTAG instructions of R376. -/
inductive JtagInstr where
  | bypass | idcode | samplePreload | extest | extestPulse | extestTrain
  | scanSram (addr : Word64) | scanReg (offset : Word32)
deriving DecidableEq, Repr

/-- Management requests over MCTP, Table 14.7. -/
inductive MctpReq where
  | control (cmd : Byte)
  | pldmBase (cmd : Byte)
  | pldmSensor (id : BitVec 16)
  | spdm (cmd : Byte)
deriving DecidableEq, Repr

/-- Icholt-to-Icholt messages of MGMT kind ICHOLT that the chapters name (R52, R303, R309, R326). -/
inductive IcholtMsg where
  | periodChange (src : BitVec 16) (periodUs : Word32)
  | periodRefused
  | secAgree (tag : BitVec 16) (atStep : Word32) (interval : Byte)
  | teardownNotice (tag : BitVec 16)
deriving DecidableEq, Repr

/-- The measurements of R319 over one securing step: sum of the last step times and of the excess times with their
numbers, failed modules of the job, window of seconds, all as natural numbers of nanoseconds or counts. -/
structure SecMeas where
  meanStepNs : Nat
  meanExcessNs : Nat
  securingSteps : Nat
  failed : Nat
  windowS : Nat
deriving DecidableEq, Repr

/-- One constructor per row of spec/opcode_table.json, in the table's order. -/
inductive Instr where
  -- bell and timetable (02), ownership and CXL.mem (04)
  | bell (l : Lnk) (f : Flit) (v1 v2 : FlitCheck) (residence : List Nat) (x : Sensors)
  | bellFire (x : Sensors)
  | samplePoint
  | report (l : Lnk) (f : Flit) (v1 v2 : FlitCheck)
  | bellSend
  | overrunWarning
  | stall (p : Prt)
  | substituteBell (elapsed : BitVec 32)
  | missedBellTimeout
  | localTick
  | hubBellPeriodWrite (a : Actor) (v : Word32)
  | ownReq (g : Fin 1536)
  | hostOk (a : Actor) (g : Fin 1536)
  | zeroFillComplete (g : Fin 1536)
  | cxlMemRead (dpa : Word64) (n : Nat)
  | cxlMemWrite (dpa : Word64) (bytes : List Byte)
  -- sequencer (05)
  | go (r : Rgn)
  | dispatch (r : Rgn)
  | nop (r : Rgn) (rd rs : BitVec 5) (imm : BitVec 16)
  | li (r : Rgn) (rd rs : BitVec 5) (imm : BitVec 16)
  | lih (r : Rgn) (rd rs : BitVec 5) (imm : BitVec 16)
  | addi (r : Rgn) (rd rs : BitVec 5) (imm : BitVec 16)
  | shli (r : Rgn) (rd rs : BitVec 5) (imm : BitVec 16)
  | shri (r : Rgn) (rd rs : BitVec 5) (imm : BitVec 16)
  | add (r : Rgn) (rd rs rt : BitVec 5) (low : BitVec 11)
  | sub (r : Rgn) (rd rs rt : BitVec 5) (low : BitVec 11)
  | mul (r : Rgn) (rd rs rt : BitVec 5) (low : BitVec 11)
  | and (r : Rgn) (rd rs rt : BitVec 5) (low : BitVec 11)
  | or (r : Rgn) (rd rs rt : BitVec 5) (low : BitVec 11)
  | xor (r : Rgn) (rd rs rt : BitVec 5) (low : BitVec 11)
  | slt (r : Rgn) (rd rs rt : BitVec 5) (low : BitVec 11)
  | beq (r : Rgn) (rs rt : BitVec 5) (off : BitVec 16)
  | bne (r : Rgn) (rs rt : BitVec 5) (off : BitVec 16)
  | blt (r : Rgn) (rs rt : BitVec 5) (off : BitVec 16)
  | loop (r : Rgn) (rs rt : BitVec 5) (off : BitVec 16)
  | jmp (r : Rgn) (rs rt : BitVec 5) (off : BitVec 16)
  | bflag (r : Rgn) (flag : BitVec 10) (off : BitVec 16)
  | bnflag (r : Rgn) (flag : BitVec 10) (off : BitVec 16)
  | cmdw (r : Rgn) (rd rs : BitVec 5) (imm : BitVec 16)
  | rdtok (r : Rgn) (rd rs : BitVec 5) (imm : BitVec 16)
  | rdstat (r : Rgn) (rd rs : BitVec 5) (imm : BitVec 16)
  -- engine commands, at issue (06-11)
  | matmul (r : Rgn) (e : Fin 16) (x : EngCheck)
  | accOut (r : Rgn) (e : Fin 16) (x : EngCheck)
  | accClear (r : Rgn) (e : Fin 16)
  | attFwd (r : Rgn) (k : Fin 8) (x y : EngCheck)
  | attBwd (r : Rgn) (k : Fin 8) (x y : EngCheck)
  | convDirect (r : Rgn) (k : Fin 2) (x : EngCheck)
  | convFft (r : Rgn) (k : Fin 2) (x : EngCheck)
  | conv4step (r : Rgn) (k : Fin 2) (x : EngCheck)
  | pwMap (r : Rgn) (k : Fin 4) (x : EngCheck)
  | pwNorm (r : Rgn) (k : Fin 4) (x : EngCheck)
  | pwDropout (r : Rgn) (k : Fin 4) (x : EngCheck)
  | pwMask (r : Rgn) (k : Fin 4) (x : EngCheck)
  | pwReduce (r : Rgn) (k : Fin 4) (x : EngCheck)
  | pwConvert (r : Rgn) (k : Fin 4) (x : EngCheck)
  | vocGather (r : Rgn) (x : EngCheck)
  | vocXent (r : Rgn) (x : EngCheck)
  | vocScatter (r : Rgn) (x : EngCheck)
  | copy (r : Rgn) (k : Fin 8) (x : EngCheck)
  | copyT (r : Rgn) (k : Fin 8) (x : EngCheck)
  | digest (r : Rgn) (k : Fin 8) (x : EngCheck)
  | descLoad (r : Rgn) (k : Fin 8) (x : EngCheck)
  | seUpdate (k : Stk) (x : EngCheck)
  | seAccum (k : Stk) (x : EngCheck)
  | seAppend (k : Stk) (x : EngCheck)
  | seScatterAdd (k : Stk) (x : EngCheck)
  | seDrain (k : Stk) (x : EngCheck)
  | seFlip (k : Stk)
  | seFill (k : Stk) (x : EngCheck)
  | lcReduceScatter (l : Lnk) (x : EngCheck)
  | lcGather (l : Lnk) (x : EngCheck)
  | lcGatherHier (l : Lnk) (x : EngCheck)
  | lcAllToAll (l : Lnk) (x : EngCheck)
  | lcAddFwd (l : Lnk) (x : EngCheck)
  | lcSend (l : Lnk) (x : EngCheck)
  | lcRecv (l : Lnk) (x : EngCheck)
  -- sequencer commands
  | bellWait (r : Rgn) (c : Cmd)
  | setStep (r : Rgn) (c : Cmd)
  | clearPoison (r : Rgn) (c : Cmd)
  | endCmd (r : Rgn) (c : Cmd)
  | tokSet (r : Rgn) (c : Cmd)
  | tokRemote (r : Rgn) (c : Cmd)
  | fence (r : Rgn) (c : Cmd)
  | phase (r : Rgn) (c : Cmd)
  | milestone (r : Rgn) (c : Cmd)
  | commandCommit (r : Rgn) (e : Eng)
  | shadowCompare (r : Rgn)
  | patrol (k : Stk) (offset : BitVec 36) (badBits : Nat) (bank row : Nat)
  -- links (10)
  | linkTraining (l : Lnk) (passed polInv : BitVec 4) (reversed permuted : Bool)
  | trainingRetry (l : Lnk)
  | timingProbe (l : Lnk) (time : Word64) (residence : Word32)
  | probeEcho (l : Lnk) (time : Word64) (residence : Word32) (arrival : Word64)
  | sequencedFlit (l : Lnk) (f : Flit) (v : FlitCheck) (residence : List Nat)
  | nak (l : Lnk) (ack : BitVec 14) (v : FlitCheck)
  | replayTimeout (l : Lnk)
  | idle (l : Lnk)
  | laneFail (l : Lnk) (surviving : BitVec 4)
  | linkWiden (l : Lnk)
  | error (l : Lnk) (m : ErrMsg)
  | switch (r : Rgn)
  | hello (l : Lnk) (m : RollMsg)
  | claim (l : Lnk) (m : RollMsg)
  | bind (l : Lnk) (m : RollMsg) (residence : List Nat)
  | probe (l : Lnk) (m : RollMsg) (residence : List Nat)
  | ready (l : Lnk) (m : RollMsg)
  | start (l : Lnk) (m : RollMsg)
  | becomeMaster
  | quietCompletion
  | bellZero
  | frameRepeat (l : Lnk)
  | timeout
  | fabricOfOne
  | collective (l : Lnk) (f : Flit) (stage : StageCheck)
  | done (l : Lnk) (f : Flit)
  | write (l : Lnk) (f : Flit)
  | readReq (l : Lnk) (f : Flit)
  | readResp (l : Lnk) (f : Flit)
  -- partitions (12)
  | load (p : Prt)
  | dbgLock (p : Prt)
  | procPartTeardown (p : Prt)
  | procPreemptReq (p : Prt)
  | procPreemptResume (p : Prt)
  | saveComplete (p : Prt)
  | restoreComplete (p : Prt)
  | preemptTimeout (p : Prt)
  | contextTeardown (p : Prt) (cause : BitVec 4)
  | teardownEnd (p : Prt)
  | regionIsolation (r : Rgn)
  | teardownNotice (tag : BitVec 16)
  | arm (p : Prt)
  | flr (f : Fin 5)
  -- keeping state safe (13)
  | begin (l : Lnk) (m : DrainMsg)
  | data (l : Lnk) (m : DrainMsg)
  | digestFrame (l : Lnk) (m : DrainMsg)
  | endFrame (l : Lnk) (m : DrainMsg)
  | commit (l : Lnk) (m : DrainMsg)
  | reject (l : Lnk) (m : DrainMsg)
  | pairRequest (r : Rgn) (t : Fin 16)
  | pair (l : Lnk) (m : DrainMsg)
  | pairAck (l : Lnk) (m : DrainMsg)
  | pairTimeout (r : Rgn) (t : Fin 16)
  | restoreReq (l : Lnk) (m : DrainMsg)
  | restoreData (l : Lnk) (m : DrainMsg)
  | positionFailed (addr : BitVec 16)
  | graft (addr : BitVec 16) (spare : Bool) (via : Lnk)
  | graftGo
  | hardenReq
  | unitAdmit
  | hardenRetry (kind : BitVec 2) (region : BitVec 2) (index : BitVec 5)
  | intervalUpdate (p : Prt) (m : SecMeas)
  -- host side (14)
  | completion (r : Rgn) (k : Fin 8) (status : BitVec 3) (bytes : List Byte)
  | identifyMemoryDevice
  | getPartitionInfo
  | getHealthInfo
  | getEventRecords
  | clearEventRecords
  | getSupportedLogs
  | getLog (id : Word64)
  | getPoisonList
  | getTimestamp
  | setTimestamp (t : Word64)
  | unsupportedMailboxCommand (op : BitVec 16)
  | assemblyWrite (a : Actor) (n : Fin 16) (word : Fin 7) (v : Word64)
  | post (a : Actor) (n : Fin 16) (v : Word64)
  | phTimeout (n : Fin 32)
  | fabricPost
  | phPost (l : Lnk) (src : BitVec 16) (n : BitVec 8) (msg : List Byte)
  | phAck (l : Lnk) (n : BitVec 8)
  | fabricPostTimeout
  | loadJob (n : Fin 16) (pkg : List Byte) (plan : List (BitVec 16))
  | preempt (n : Fin 16)
  | resume (n : Fin 16)
  | teardown (n : Fin 16)
  | lend (n : Fin 16)
  | reclaim (n : Fin 16)
  | setK (n : Fin 16)
  | dormant (n : Fin 16)
  | mctpRequest (q : MctpReq)
  | pldmUpdate (h : SlotHdr)
  | activateFirmware
  | trialCommit
  | trialFail
  -- power, reset, hardware (15, 16)
  | subInterval (energy : List Nat)
  | allotmentReached (c : Fin 10) (plus5 : Bool)
  | dip (k : Fin 5) (level : BitVec 16)
  | dipRecovery (k : Fin 5)
  | thermalTrip (d : Fin 29)
  | coldReset
  | moduleReset (cause : BitVec 4)
  | warmReset
  | regionReset (r : Rgn)
  | hubResetModule (a : Actor) (key : Byte)
  | hubResetRegion (a : Actor) (key : Byte) (sel : Rgn)
  | bootRom
  | pwrEnAssert (bladeA bladeB : BitVec 16)
  | pwrEnDeassert
  | stackTraining (failed : BitVec 24)
  | dormancyEntered
  | wake (a : Actor)
  | strapSample (pos : Byte) (feed : BitVec 4)
  | spiOwnNFall
  | spiOwnNRise
  | jtagInstruction (i : JtagInstr)
  | readClear (a : Actor) (offset : Word32) (width : BitVec 8)
  | registerWrite (a : Actor) (offset : Word32) (width : BitVec 8) (v : Word64)
  | idleFlit (l : Lnk) (h : FlitHdr) (v : FlitCheck)
  | standbyPowerLoss
  | pciePerstNRelease
  | icholt (m : IcholtMsg)
deriving DecidableEq, Repr

end Sys2Proof
end

