-- ==== Sys2Proof/Decode.lean ====
section
/-!
DEFINITION. Decoders. The opcode table gives no row any bits, so no word spells a command of the block
(`decodeTableWord`). The block itself decodes what it reads from SRAM: scalar instructions (Tables 5.2, 5.3), command
words (R124, R125) and timetable headers (Table 5.1); each has its encoder beside it.
-/
namespace Sys2Proof

/-- The command that a word spells by the table's bits: no row of the table has bits. -/
def decodeTableWord (_nbits _w : Nat) : Option Instr := none

/-- Bits [lo, lo + w) of a number (R4). -/
def field (v lo w : Nat) : Nat := v / 2 ^ lo % 2 ^ w

/-- A scalar instruction (Tables 5.2, 5.3) as region r runs it; none for an operation code that is not listed. Fields
that must be zero are checked by the meanings (R121). -/
def decodeScalar (r : Rgn) (w : Word32) : Option Instr :=
  let a := w.extractLsb' 21 5
  let b := w.extractLsb' 16 5
  let t := w.extractLsb' 11 5
  let imm := w.extractLsb' 0 16
  let low := w.extractLsb' 0 11
  let flag := w.extractLsb' 16 10
  match (w.extractLsb' 26 6).toNat with
  | 0x00 => some (.nop r a b imm)
  | 0x01 => some (.li r a b imm)
  | 0x02 => some (.lih r a b imm)
  | 0x03 => some (.addi r a b imm)
  | 0x04 => some (.shli r a b imm)
  | 0x05 => some (.shri r a b imm)
  | 0x08 => some (.add r a b t low)
  | 0x09 => some (.sub r a b t low)
  | 0x0A => some (.mul r a b t low)
  | 0x0B => some (.and r a b t low)
  | 0x0C => some (.or r a b t low)
  | 0x0D => some (.xor r a b t low)
  | 0x0E => some (.slt r a b t low)
  | 0x10 => some (.beq r a b imm)
  | 0x11 => some (.bne r a b imm)
  | 0x12 => some (.blt r a b imm)
  | 0x13 => some (.loop r a b imm)
  | 0x14 => some (.jmp r a b imm)
  | 0x15 => some (.bflag r flag imm)
  | 0x16 => some (.bnflag r flag imm)
  | 0x18 => some (.cmdw r a b imm)
  | 0x19 => some (.rdtok r a b imm)
  | 0x1A => some (.rdstat r a b imm)
  | _ => none

/-- Formats I and B: operation, two register fields, 16 bits. -/
def encodeI (op : BitVec 6) (a b : BitVec 5) (imm : BitVec 16) : Word32 := op ++ a ++ b ++ imm
/-- Format R: operation, three register fields, 11 low bits. -/
def encodeR (op : BitVec 6) (a b t : BitVec 5) (low : BitVec 11) : Word32 := op ++ a ++ b ++ t ++ low
/-- Format F: operation, flag, offset. -/
def encodeF (op : BitVec 6) (flag : BitVec 10) (off : BitVec 16) : Word32 := op ++ flag ++ off

/-- The region and the word of a scalar instruction; none for every other row. -/
def encodeScalar : Instr → Option (Rgn × Word32)
  | .nop r a b imm => some (r, encodeI 0x00 a b imm)
  | .li r a b imm => some (r, encodeI 0x01 a b imm)
  | .lih r a b imm => some (r, encodeI 0x02 a b imm)
  | .addi r a b imm => some (r, encodeI 0x03 a b imm)
  | .shli r a b imm => some (r, encodeI 0x04 a b imm)
  | .shri r a b imm => some (r, encodeI 0x05 a b imm)
  | .add r a b t low => some (r, encodeR 0x08 a b t low)
  | .sub r a b t low => some (r, encodeR 0x09 a b t low)
  | .mul r a b t low => some (r, encodeR 0x0A a b t low)
  | .and r a b t low => some (r, encodeR 0x0B a b t low)
  | .or r a b t low => some (r, encodeR 0x0C a b t low)
  | .xor r a b t low => some (r, encodeR 0x0D a b t low)
  | .slt r a b t low => some (r, encodeR 0x0E a b t low)
  | .beq r a b off => some (r, encodeI 0x10 a b off)
  | .bne r a b off => some (r, encodeI 0x11 a b off)
  | .blt r a b off => some (r, encodeI 0x12 a b off)
  | .loop r a b off => some (r, encodeI 0x13 a b off)
  | .jmp r a b off => some (r, encodeI 0x14 a b off)
  | .bflag r flag off => some (r, encodeF 0x15 flag off)
  | .bnflag r flag off => some (r, encodeF 0x16 flag off)
  | .cmdw r a b imm => some (r, encodeI 0x18 a b imm)
  | .rdtok r a b imm => some (r, encodeI 0x19 a b imm)
  | .rdstat r a b imm => some (r, encodeI 0x1A a b imm)
  | _ => none

/-- A wait entry (R125). -/
def decodeWait (v : Nat) : WaitEntry :=
  { token := BitVec.ofNat 8 (field v 0 8), count := BitVec.ofNat 3 (field v 8 3), consume := field v 11 1 == 1 }

/-- The 12 bits of a wait entry. -/
def encodeWait (w : WaitEntry) : Nat := w.token.toNat + w.count.toNat * 2 ^ 8 + w.consume.toNat * 2 ^ 11

/-- A command word from its 32 bytes as a little-endian number (R124). -/
def decodeCmd (v : Nat) : Cmd :=
  { opcode := BitVec.ofNat 8 (field v 0 8), engine := BitVec.ofNat 6 (field v 8 6), shadow := field v 14 1 == 1
    rsv15 := field v 15 1 == 1, sigToken := BitVec.ofNat 8 (field v 16 8), sigAdd := BitVec.ofNat 4 (field v 24 4)
    rsv28 := BitVec.ofNat 4 (field v 28 4), d0 := BitVec.ofNat 12 (field v 32 12)
    d1 := BitVec.ofNat 12 (field v 44 12), d2 := BitVec.ofNat 12 (field v 56 12)
    wait0 := decodeWait (field v 68 12), wait1 := decodeWait (field v 80 12)
    wait2 := decodeWait (field v 92 12), wait3 := decodeWait (field v 104 12)
    rsv84 := BitVec.ofNat 12 (field v 116 12), word4 := BitVec.ofNat 32 (field v 128 32)
    word5 := BitVec.ofNat 32 (field v 160 32), word6 := BitVec.ofNat 32 (field v 192 32)
    word7 := BitVec.ofNat 32 (field v 224 32) }

/-- The number of a command word. -/
def encodeCmd (c : Cmd) : Nat :=
  c.opcode.toNat + c.engine.toNat * 2 ^ 8 + c.shadow.toNat * 2 ^ 14 + c.rsv15.toNat * 2 ^ 15 +
  c.sigToken.toNat * 2 ^ 16 + c.sigAdd.toNat * 2 ^ 24 + c.rsv28.toNat * 2 ^ 28 + c.d0.toNat * 2 ^ 32 +
  c.d1.toNat * 2 ^ 44 + c.d2.toNat * 2 ^ 56 + encodeWait c.wait0 * 2 ^ 68 + encodeWait c.wait1 * 2 ^ 80 +
  encodeWait c.wait2 * 2 ^ 92 + encodeWait c.wait3 * 2 ^ 104 + c.rsv84.toNat * 2 ^ 116 +
  c.word4.toNat * 2 ^ 128 + c.word5.toNat * 2 ^ 160 + c.word6.toNat * 2 ^ 192 + c.word7.toNat * 2 ^ 224

/-- A timetable header, Table 5.1, and whether its reserved bytes are zero. -/
structure Header where
  version : Nat
  periodUs : Nat
  slots : Nat
  entry : Nat
  planBase : Nat
  planCount : Nat
  reservedZero : Bool
deriving DecidableEq, Repr

/-- A header from its 256 bytes as a little-endian number. -/
def decodeHeader (v : Nat) : Header :=
  { version := field v 0 16, periodUs := field v 16 16, slots := field v 32 32, entry := field v 64 32
    planBase := field v 128 64, planCount := field v 192 16
    reservedZero := field v 96 32 == 0 && field v 208 48 == 0 && field v 320 1728 == 0 }

end Sys2Proof
end

