-- ==== Sys2Proof/Config.lean ====
section
/-!
DEFINITION. The free values: what the spec leaves open and the machine still produces. Each is an opaque constant, so
no proof can see which value it is (log entry 1).
-/
namespace Sys2Proof.Config

/-- The byte that undefined memory reads as: ticket of the event that left it undefined, and address. -/
opaque freeByte : Nat → Nat → Byte

/-- A bit the spec leaves open, by ticket. -/
opaque freeBit : Nat → Bool

/-- A 64-bit value the spec leaves open, by ticket. -/
opaque freeWord : Nat → Word64

/-- The FP32 result of a function that the spec gives by an error bound only (R164, R172, R192, R193, R217), by the
function's number and the bits of its operands. Equal operands give equal bits (R82). -/
opaque approx : Nat → List Word32 → Word32

/-- The FP32 result of the FFT and four-step convolution paths (R183), by opcode, element index and operand bits. -/
opaque fft : Nat → Nat → List Word32 → Word32

/-- The bytes of a management or mailbox answer whose contents the spec does not give, by the request's number. -/
opaque replyByte : Nat → Nat → Byte

end Sys2Proof.Config
end

