-- ==== Sys2Proof/Machine/State.lean ====
section
/-!
DEFINITION. The state of the module as plain data, the reasons to stop, and the state after reset.
Registers of the control space live in `State.regs`, one entry per field of a register (`Fld`, the table of them is
Machine/Regs.lean); everything else the spec gives the module has a field of its own here.
-/
namespace Sys2Proof.Machine

/-- Reasons to stop with a fault. No meaning of this model raises one: the spec gives every row an effect. -/
inductive Fault where
  /-- Raised by nobody (safe): kept so that the type is not empty. -/
  | neverRaised
deriving DecidableEq, Repr

/-- Reasons to refuse a command. -/
inductive Refusal where
  /-- Raised by the dispatcher for a row without a meaning (safe): no arm of this model uses it. -/
  | notModelled (mnemonic : String)
deriving DecidableEq, Repr

/-- Access codes of Table 0.2 (R7). -/
inductive Acc where
  | ro | rw | w1c | w1s | wo | rc
deriving DecidableEq, Repr

/-- A field of a register: the register's offset for index zero, the field's place in the word, access, reset value,
whether it is a latched count (R55), and whether it keeps its value across a warm reset and across a region reset (R9). -/
structure Fld where
  base : Nat
  lsb : Nat
  width : Nat
  acc : Acc
  reset : Nat
  latched : Bool := false
  warm : Bool := false
  region : Bool := false
deriving DecidableEq, Repr

/-- A layer of memory contents below the listed bytes: zero-filled, or undefined since the event of a ticket. -/
structure Layer where
  lo : Nat
  hi : Nat
  free : Option Nat
deriving DecidableEq, Repr

/-- Memory: the listed bytes in ascending address order, over layers with the newest first (log entry 2). Keys: stack
bytes by linear DA, SRAM bytes by DA, resident accumulator words from 2^65. -/
structure Memory where
  cells : List Host.Cell
  layers : List Layer
deriving DecidableEq, Repr

/-- A map from Nat to Nat, keys ascending, no entry equal to its default. -/
abbrev KMap := List (Nat × Nat)

/-- A tensor descriptor, Table 4.3 (R96). -/
structure Desc where
  base : Nat
  scaleBase : Nat
  format : Nat
  layout : Nat
  stream : Nat
  tensorId : Nat
  round : Nat
  statEn : Bool
  rank : Nat
  blk : Nat
  dir : Bool
  rsv : Nat
  sizes : List Nat
  strides : List Nat
deriving DecidableEq, Repr

/-- An extent of memory in physical keys, [lo, hi). -/
structure Extent where
  lo : Nat
  hi : Nat
deriving DecidableEq, Repr

/-- A non-finite record (R76): class 0 NaN, 1 +infinity, 2 -infinity. -/
structure NfRec where
  elem : Nat
  engine : Nat
  tensorId : Nat
  cls : Nat
  ord : Nat
deriving DecidableEq, Repr

/-- Counts of one watched write (R85). -/
structure Watch where
  elements : Nat
  zeros : Nat
  sat : Nat
  nan : Nat
  inf : Nat
deriving DecidableEq, Repr

/-- What a command does to the state at its commit (R134). -/
inductive Post where
  | bytes (key : Nat) (bs : List Byte)
  | count (f : Fld) (i j k n : Nat)
  | live (f : Fld) (i j k n : Nat)
  | field (f : Fld) (i j k v : Nat)
  | watch (tensorId : Nat) (w : Watch)
  | nonfinite (r : NfRec)
  | zero (lo hi : Nat)
  | dirty (granule : Nat)
  | clean (lo hi : Nat)
  | flip (stack pair step : Nat)
  | poisonVote (group : Nat)
  | poisonRec (link group bucket addr elem : Nat)
deriving DecidableEq, Repr

/-- A value of one unit of a collective: a block of 32 elements with its scale byte, or one element; the poison record
of R269 as (address, element index). Elements are integers of the wire format, or codes. -/
structure UVal where
  scale : Nat
  data : List Int
  poison : Option (Nat × Nat)
deriving DecidableEq, Repr

/-- What an issued link-collective command holds (R258-R278): members, own rank, nodes, shards as (start, length),
element count, elements of a unit, base scale; units held at a hop's level; units at their last level; per rank the
announced count and the row bytes received; destinations that returned DONE; parts of a message as (descriptor, element
bytes, scale bytes). -/
structure Coll where
  ranks : List Nat
  own : Nat
  node : Nat
  shards : List (Nat × Nat)
  total : Nat
  unit : Nat
  base : Nat
  held : List (Nat × Nat × UVal)
  final : List (Nat × UVal)
  counts : List (Nat × Nat)
  rows : List (Nat × List Byte)
  dones : List Nat
  message : List (Nat × List Byte × List Byte)
  closed : Bool
  mismatch : Bool
  /-- An uncorrectable staging word was met (R260). -/
  uncorr : Bool
deriving DecidableEq, Repr

/-- What an issued command still waits for before it can commit. -/
inductive Work where
  | none
  /-- Bytes still to come from outside the module: the number from the host window with the bytes so far (R337), and
  (return DA, DA read, length) of each request to a peer with the bytes so far by DA read (R90). -/
  | remote (host : Nat) (hostGot : List Byte) (peers : List (Nat × Nat × Nat)) (peerGot : KMap)
  | coll (c : Coll)
  | drain (holders : List Nat)
deriving DecidableEq, Repr

/-- A command in an engine's queue (R116): the dispatched copy with its step, seed and block count (R119, R187), and
once issued its latched descriptors (R98), its extents, its computed effect and what it waits for. -/
structure Entry where
  cmd : Cmd
  slot : Nat
  ord : Nat
  step : Nat
  seed : Nat
  beta : Nat
  issued : Bool
  consumed : Bool
  ticket : Nat
  descs : List (Nat × Desc)
  ins : List Extent
  outs : List Extent
  posts : List Post
  work : Work
  /-- Hedge requests left: class, units, period number plus one of the last wait counted (R290). -/
  needs : List (Nat × Nat × Nat)
  failed : Bool
  cause : Nat
  /-- For a SHADOW command, the command dispatched immediately before it (R329). -/
  twin : Option Cmd
deriving DecidableEq, Repr

/-- A SHADOW digest that waits for its twin (R329): engine, digest, ordinal of the twin. -/
structure Shadow where
  engine : Nat
  digest : Nat
  twinOrd : Nat
deriving DecidableEq, Repr

/-- One region: sequencer state outside the registers, flags, queues and accounting. -/
structure Region where
  /-- Instruction within the scalar slot (R113). -/
  pos : Nat
  /-- Pending CMDW patches, oldest first (R123). -/
  patches : List (Nat × Word32)
  /-- Next issue ordinal (R118). -/
  ordinal : Nat
  /-- Sticky poison flags (R45). -/
  poison : BitVec 256
  /-- Accounting phase (R53). -/
  phase : Nat
  /-- First non-finite record of the running block (R76). -/
  nf : Option NfRec
  /-- Link slot plan in force, 64 bytes, empty before the first plan (R114, R239). -/
  plan : List Byte
  /-- Plan entry that the next block applies, as read at the bell wait (R127). -/
  planNext : Option (List Byte)
  /-- The 53 command queues, in dispatch order (R116). -/
  cmds : List Entry
  /-- SHADOW digests that wait (R329). -/
  shadows : List Shadow
  /-- Digests of committed commands that a SHADOW command may have as its twin, by ordinal (R329). -/
  twins : List (Nat × Nat)
  /-- The last command, if an engine command was dispatched last (R329). -/
  prev : Option Cmd
  /-- STATE of the sequencer at a pre-emption's stop, which a resume restores (R294, R297). -/
  savedSeq : Nat
  /-- The region is isolated or in region reset (R19, R366). -/
  isolated : Bool
  /-- Not complete at the last sample point (R36). -/
  late : Bool
  /-- Cycles from the fire time to the last commit of the block (R44, R56). -/
  lastUse : Nat
  /-- Working copies that committed updates of this region's stacks wrote and that no bell has published yet: extent,
  ticket of the update, its step (R28). -/
  unread : List (Extent × Nat × Nat)
  /-- Clock stretched by a dip, by temperature (R362, R364). -/
  dipStretch : Bool
  thermStretch : Bool
  /-- Pacing of matrix issue, of all issue, in this sub-interval (R360). -/
  pacedMatrix : Bool
  pacedAll : Bool
deriving DecidableEq, Repr

/-- A save image of one region (R295). -/
structure Image where
  region : Nat
  sram : Memory
  acc : Memory
  regs : KMap
  seq : Region
deriving DecidableEq, Repr

/-- One module partition: proctor state outside the registers. -/
structure Part where
  /-- Late at the last sample point (R36, R41). -/
  late : Bool
  /-- Save images of the regions (R295). -/
  image : List Image
  /-- The region set the saved job left (R297). -/
  savedRegions : Nat
  /-- The restore of R297 has completed. -/
  restored : Bool
  /-- Waiting for the bell numbered AT after a resume (R297). -/
  resuming : Bool
  /-- Entries of the milestone table reached (R305). -/
  reached : BitVec 64
  /-- Slip record of R305. -/
  slipRec : Int
  /-- Period in which entry LAST was reached, less START (R306). -/
  lastReach : Nat
  /-- ACTIVE clears at the next bell; flag 257 sets at the next bell (R306). -/
  endActive : Bool
  raiseFallback : Bool
  /-- Fabric addresses of the other modules that the job's plan names (R303), set when the job is loaded. -/
  members : List Nat
deriving DecidableEq, Repr

/-- One link interface. -/
structure Link where
  txSeq : Nat
  rxSeq : Nat
  unacked : List Flit
  replays : Nat
  nakSent : Bool
  /-- Credits held, index 2 x VC + class (R239). -/
  credits : List Nat
  /-- Credits to return, same index. -/
  toReturn : List Nat
  /-- Flits that wait for a credit or for a slot of the retry buffer, each with the receive buffer it occupies: 16 x its
  arrival link + the credit index it came with, 512 for a flit of this module. -/
  waiting : List (Nat × Flit)
  /-- Staging: parked COLLECTIVE flits, oldest first (R257, R258). -/
  stage : List Flit
  /-- Of the flits here or in the backlog, those whose slot shows an uncorrectable word, with the word (R260). -/
  stageBad : List (Flit × StageCheck)
  /-- Flits that wait for a staging slot, with the receive buffers they occupy (R259). -/
  backlog : List (Nat × Flit)
  /-- Mask of the lanes in use (R243). -/
  lanes : Nat
  /-- Round trips less residence, units of 0.125 ns (R244). -/
  probes : List Nat
  /-- Time of the last roll-call frame accepted (R246), and timing flits accepted. -/
  rcLast : Option Nat
  timing : Nat
  /-- Last READY heard: count, PATH_M, PATH_D, hops (Table 10.5). -/
  ready : Option (Nat × Nat × Nat × Nat)
  /-- Consecutive bells down (R325). -/
  downBells : Nat
deriving DecidableEq, Repr

/-- One stack: the words with bad bits found per (bank, row) in the running patrol, each with their number, three for an
uncorrectable word; spare rows used per bank, soft repairs not yet permanent (R231, R232), update weights in force (R234). -/
structure Stack where
  rowErrors : List (Nat × Nat × List (Nat × Nat))
  sparesUsed : KMap
  soft : List (Nat × Nat)
  sched : List Nat
deriving DecidableEq, Repr

/-- A granule change that has taken effect and waits for its new owner's access (R109, R110). -/
structure Fill where
  granule : Nat
  kind : Nat
  tag : Nat
  filled : Bool
deriving DecidableEq, Repr

/-- An assembly buffer (R340). -/
structure Asm where
  ph : Nat
  words : List Word64
deriving DecidableEq, Repr

/-- Roll call (R246-R250). -/
structure Roll where
  best : Word64
  second : Word64
  parent : Option Nat
  pathM : Option Nat
  pathD : Option Nat
  lastEpoch : BitVec 16
  changed : Bool
  /-- Latest frame of each kind this module announces: kind, payload, and per link the residence that the frame's path
  delay takes up (R240, R246). -/
  latest : List (Nat × RollMsg × List Nat)
  /-- Epoch of the PROBE that gave the path delay from the deputy. -/
  probeEpoch : BitVec 16
  /-- Bells left of the election of a new deputy (R47); at the master the candidates heard: serial number, address, path
  delay from the master in ns (R249). -/
  electing : Nat
  candidates : List (Nat × Nat × Nat)
deriving DecidableEq, Repr

/-- An image slot of the SPI flash (Table 14.8) with the verdicts of the checks of R353. -/
structure Slot where
  hdr : Option SlotHdr
  marker : Bool
deriving DecidableEq, Repr

/-- A pairing in progress (R320): region, entry, bells waited, answers as (address, FEED_ID, status). -/
structure Pairing where
  region : Nat
  entry : Nat
  bells : Nat
  answers : List (Nat × Nat × Nat)
deriving DecidableEq, Repr

/-- A securing store that receives a generation (R312, R315): store, step, form of its first BEGIN, whether both forms
came; BEGINs as (source, first place, granules), ENDs as (source, first place, granules, digests announced), bytes
received per granule of a source, digests received as (source, tile). -/
structure StoreWork where
  store : Nat
  step : Nat
  full : Bool
  mixed : Bool
  begun : List (Nat × Nat × Nat)
  ends : List (Nat × Nat × Nat × Nat)
  received : KMap
  digests : List (Nat × Nat)
deriving DecidableEq, Repr

/-- A restore in progress (R324): stack, pair, target entry, step; bytes received per granule and contributor, digests
per tile, tiles asked of the other source, tiles that passed; whether it is a surviving member's own secured copy. -/
structure Restore where
  stack : Nat
  pair : Nat
  target : Nat
  step : Nat
  got : KMap
  digests : KMap
  second : List Nat
  done : List Nat
  own : Bool
deriving DecidableEq, Repr

/-- A peer request that waits for a hedge (R290): arrival link, receive buffer it occupies, flit, requests left. -/
structure PeerHeld where
  link : Lnk
  buffer : Nat
  flit : Flit
  needs : List (Nat × Nat × Nat)
deriving DecidableEq, Repr

/-- The hub. -/
structure Hub where
  /-- A valid bell frame is held and has not fired (R31). -/
  pendingBell : Option BellMsg
  /-- A bell has fired since reset (R345); time it fired. -/
  fired : Bool
  firedAt : Nat
  /-- The bell that ends the current period has been sent by this module (R39). -/
  sent : Bool
  repLate : BitVec 64
  repPoison : BitVec 256
  poisonRecv : BitVec 256
  /-- Reports forwarded: destination, period, merged vectors (R37). -/
  forwarded : List (BitVec 16 × BitVec 48 × BitVec 64 × BitVec 256)
  prevMaster : Word64
  deputyPath : Nat
  /-- Fabric address of the bell master (Table 2.1). -/
  masterAddr : Nat
  /-- Fabric address of the deputy, 0xFFFF for none (R37, R47). -/
  deputyAddr : Nat
  /-- START has come and no bell has fired since: the next bell may have any number (R34, R249). -/
  fresh : Bool
  bellsLost : Bool
  ticks : Nat
  roll : Roll
  /-- Torn-down tags, each with 65,536 x its partition (R302). -/
  tornTags : List Nat
  fills : List Fill
  asm : List (Nat × Asm)
  /-- Functions whose AER shows the Unsupported Request status, with the pigeonhole of the post whose header is logged
  (R342). -/
  aer : List (Nat × Nat)
  phTouts : List (Nat × Nat)
  fpostBells : Nat
  slotA : Slot
  slotB : Slot
  /-- Key hashes not revoked, SVN floor, repair record (R353, R232). -/
  keys : List Nat
  svnFloor : Nat
  repairs : List (Nat × Nat × Nat)
  /-- The stacks have not been trained since the last cold or module reset (R232). -/
  untrained : Bool
  /-- Live switch: requested at the next bell, bells into the trial (R355). -/
  switchPending : Bool
  revertPending : Bool
  trialBells : Nat
  /-- Event records of the CXL device: addresses of uncorrectable words found (R339). -/
  events : List Word64
  /-- Time that Set Timestamp gave, and when (R339). -/
  timestamp : Word64
  stampAt : Option Nat
  /-- CXL.mem requests that wait for hedge owner 4, oldest first: address, bytes, data of a write (R290). -/
  cxl : List (Nat × Nat × Option (List Byte))
  /-- WRITE and READ_REQ flits that wait for the hedges of their owner (R289, R290). -/
  peerWait : List PeerHeld
  spiHub : Bool
  jtag : JtagInstr
  straps : Byte × BitVec 4
  powered : Bool
  booted : Bool
  mainPower : Bool
  wakePending : Bool
  /-- Both 48 V blades lie within 44-56 V (R377); PCIE_PERST_N is released; the straps are still to be sampled (R374). -/
  bladesOk : Bool
  perst : Bool
  strapsDue : Bool
  pairings : List Pairing
  stores : List StoreWork
  restores : List Restore
  /-- Ownership entries that Icholt assigns no more, since a row in them found no spare (R232). -/
  worn : List Nat
  /-- Failed attempts per unit (kind, region, index), and comparisons of the running period (R330, R332). -/
  attempts : List ((Nat × Nat × Nat) × Nat)
  /-- Bells that a failed unit still waits before the next attempt (R332). -/
  retries : List ((Nat × Nat × Nat) × Nat)
  compared : Nat
  mismatched : Bool
  admitted : Bool
  /-- Per (stack, pair): the last eight rates as (dirty, granules) and the run of differing recommendations (R318). -/
  rates : List ((Nat × Nat) × List (Nat × Nat))
  recRuns : List ((Nat × Nat) × Nat)
  /-- AT_STEP + 2^32 x INTERVAL of each partition before the last write (R309). -/
  secOld : KMap
  /-- Per 64 x stack + pair: mask of the target entries it has been drained to (R320); per 8 x (64 x stack + pair) +
  holder: granules that the running drain has sent (R316). -/
  drainedTo : KMap
  drainSent : KMap
  /-- Dip reductions: consumer, bells left, reduced allotment in W (R362). -/
  dips : List (Nat × Nat × Nat)
  /-- Rails in a dip that has not recovered (R357, R362); allotments of the running sub-interval in W x 1 us (R358). -/
  dipRails : List Nat
  allot : List Nat
  /-- Stack groups and links paced in the running sub-interval (R360). -/
  paced : List Nat
  /-- The cap in force since the last bell; PWR_CAP shows the one written last (R361). -/
  cap : Nat
  /-- Hedges by 16 x owner + class (R290): level, EN in force, entries written since the last bell. -/
  hedge : KMap
  hedgeOn : KMap
  hedgeNew : List Nat
  /-- Icholt's reports through the status mirror that the page has no field for, as (kind, subject): 1 a pair whose
  method should change (R318), 2 a unit that failed four attempts (R332), 3 a repair without a free place (R232). -/
  reports : List (Nat × Nat)
deriving DecidableEq, Repr

/-- What the module has sent: flits, answers to accesses, requests to the host (log entry 8). -/
inductive Out where
  | flit (l : Nat) (f : Flit)
  | value (a : Actor) (v : Word64)
  | completerAbort (a : Actor)
  | cxlData (bytes : List Byte) (poison : Bool)
  | hostWrite (fn : Nat) (addr : Nat) (bytes : List Byte)
  | hostRead (fn : Nat) (addr : Nat) (n : Nat)
  /-- An error message to the root complex (R58): 1 ERR_COR, 2 ERR_NONFATAL, 3 ERR_FATAL. -/
  | aer (fn : Nat) (kind : Nat)
  | mailbox (code : Nat) (bytes : List Byte)
  | mctp (bytes : List Byte)
  | icholt (dest : Nat) (m : IcholtMsg)
  | tap (v : Word64)
deriving DecidableEq, Repr

/-- The state of the module. -/
structure State where
  /-- Region-clock cycles since reset (log entry 6). -/
  now : Nat
  /-- Counter of free values; the model's own (log entry 1). -/
  ticket : Nat
  /-- Fields of registers that differ from their reset value. -/
  regs : KMap
  /-- Live counts behind the latched fields (R55, R86). -/
  live : KMap
  /-- STAT_SLOT_ID as it counts in this period (R86): slot to tensor ID + 1. -/
  watchId : KMap
  mem : Memory
  /-- 64-bit stack words that hold the poison pattern (R231), by key / 8. -/
  badWords : List Nat
  /-- Dirty 64 KiB stack granules (R222), by key / 65,536. -/
  dirty : List Nat
  regions : Vector Region 4
  parts : Vector Part 4
  links : Vector Link 32
  stks : Vector Stack 24
  hub : Hub
  /-- Sent so far, oldest first. -/
  out : List Out
  /-- Commands waiting, first in, first out. -/
  pending : List Instr
deriving DecidableEq, Repr

/-- A region after reset: nothing in progress, no phase marker (R53). -/
def Region.reset : Region :=
  { pos := 0, patches := [], ordinal := 0, poison := 0, phase := 5, nf := none, plan := [], planNext := none,
    cmds := [], shadows := [], twins := [], prev := none, savedSeq := 0, isolated := false, late := false, lastUse := 0, unread := [], dipStretch := false,
    thermStretch := false, pacedMatrix := false, pacedAll := false }

/-- A partition after reset. -/
def Part.reset : Part :=
  { late := false, image := [], savedRegions := 0, restored := false, resuming := false, reached := 0, slipRec := 0,
    lastReach := 0, endActive := false, raiseFallback := false, members := [] }

/-- A link after reset: down, the default credits of Table 10.3 split between the two classes (R239). -/
def Link.reset : Link :=
  { txSeq := 0, rxSeq := 0, unacked := [], replays := 0, nakSent := false,
    credits := [224, 224, 224, 224, 128, 128, 128, 128, 160, 160, 96, 96, 64, 64],
    toReturn := [0, 0, 0, 0, 0, 0, 0, 0, 0, 0, 0, 0, 0, 0], waiting := [], stage := [], stageBad := [], backlog := [], lanes := 0, probes := [],
    rcLast := none, timing := 0, ready := none, downBells := 0 }

/-- A stack after reset: the weights of SE_SCHED's reset values (R234). -/
def Stack.reset : Stack := { rowErrors := [], sparesUsed := [], soft := [], sched := [8, 4, 2, 4, 4] }

/-- No roll call in progress. -/
def Roll.reset : Roll :=
  { best := 0, second := 0, parent := none, pathM := none, pathD := none, lastEpoch := 0, changed := false,
    latest := [], probeEpoch := 0, electing := 0, candidates := [] }

/-- The image of slot A as the module is delivered (log entry 4). -/
def Slot.delivered : Slot :=
  { hdr := some { magic := 0x4F4C4A31, seq := 1, svn := 0, keyIdx := 0, length := 0, bodyCrcOk := true,
                  hdrCrcOk := true, keyOk := true, sigOk := true }, marker := true }

/-- The hub after a cold reset (R365); straps open (R374), one valid image (log entries 3 and 4). -/
def Hub.reset : Hub :=
  { pendingBell := none, fired := false, firedAt := 0, sent := false, repLate := 0, repPoison := 0, poisonRecv := 0,
    forwarded := [], prevMaster := 0, deputyPath := 0, masterAddr := 0xFFFF, deputyAddr := 0xFFFF, fresh := false, bellsLost := false, ticks := 0, roll := Roll.reset,
    tornTags := [], fills := [], asm := [], aer := [], phTouts := [], fpostBells := 0, slotA := Slot.delivered,
    slotB := { hdr := none, marker := false }, keys := [0, 1, 2, 3], svnFloor := 0, repairs := [], untrained := true,
    switchPending := false, revertPending := false, trialBells := 0, events := [], timestamp := 0, stampAt := none, cxl := [], peerWait := [], spiHub := true,
    jtag := .bypass, straps := (0xFF, 0xF), powered := true, booted := false, mainPower := false,
    wakePending := false, bladesOk := false, perst := false, strapsDue := true, pairings := [], stores := [], restores := [], worn := [], attempts := [], retries := [],
    compared := 0, mismatched := false, admitted := false, rates := [], recRuns := [], secOld := [], drainedTo := [], drainSent := [], dips := [], dipRails := [],
    allot := [0, 0, 0, 0, 0, 0, 0, 0, 0, 0], paced := [],
    cap := 2400, hedge := [], hedgeOn := [], hedgeNew := [], reports := [] }

/-- First key past every memory the module holds. -/
def memEnd : Nat := 0x20000000000000000 + 0x4000000

/-- The module right after a cold reset: every register at the value of its Reset column (nothing listed), every byte
of memory undefined (R365), nothing in progress, an empty queue. -/
def State.reset : State :=
  { now := 0, ticket := 1, regs := [], live := [], watchId := [],
    mem := { cells := [], layers := [{ lo := 0, hi := memEnd, free := some 0 }] },
    badWords := [], dirty := [], regions := Vector.replicate 4 Region.reset,
    parts := Vector.replicate 4 Part.reset, links := Vector.replicate 32 Link.reset,
    stks := Vector.replicate 24 Stack.reset, hub := Hub.reset, out := [], pending := [] }

end Sys2Proof.Machine
end

