-- ==== Sys2Proof/Machine/Regs.lean ====
section
/-!
DEFINITION. The register table of the control space: one definition per field that the chapters' register sections
list (R56, R87, R111, R141, R158, R179, R208, R234, R256, R282, R308, R333, R356, R371), and the register rows with
their offsets. A repeated field takes its number.
-/
namespace Sys2Proof.Machine

/-- HUB_BELL_PERIOD.PERIOD_US: RW, reset 128. -/
def HUB_BELL_PERIOD.PERIOD_US : Fld :=
  { base := 0x10000, lsb := 0, width := 13, acc := .rw, reset := 128 }

/-- HUB_BELL_STATUS.PERIOD_NUM: RO, reset 0. -/
def HUB_BELL_STATUS.PERIOD_NUM : Fld :=
  { base := 0x10008, lsb := 0, width := 48, acc := .ro, reset := 0 }

/-- HUB_BELL_STATUS.CUR_PERIOD_US: RO, reset 0. -/
def HUB_BELL_STATUS.CUR_PERIOD_US : Fld :=
  { base := 0x10008, lsb := 48, width := 13, acc := .ro, reset := 0 }

/-- HUB_BELL_STATUS.IS_MASTER: RO, reset 0. -/
def HUB_BELL_STATUS.IS_MASTER : Fld :=
  { base := 0x10008, lsb := 61, width := 1, acc := .ro, reset := 0 }

/-- HUB_BELL_STATUS.IS_DEPUTY: RO, reset 0. -/
def HUB_BELL_STATUS.IS_DEPUTY : Fld :=
  { base := 0x10008, lsb := 62, width := 1, acc := .ro, reset := 0 }

/-- HUB_BELL_STATUS.SYNCED: RO, reset 0. -/
def HUB_BELL_STATUS.SYNCED : Fld :=
  { base := 0x10008, lsb := 63, width := 1, acc := .ro, reset := 0 }

/-- HUB_BELL_TIMING.FIRE_DELAY_NS: RW, reset 0. -/
def HUB_BELL_TIMING.FIRE_DELAY_NS : Fld :=
  { base := 0x10010, lsb := 0, width := 16, acc := .rw, reset := 0 }

/-- HUB_BELL_TIMING.LEAD_NS: RW, reset 0. -/
def HUB_BELL_TIMING.LEAD_NS : Fld :=
  { base := 0x10010, lsb := 16, width := 16, acc := .rw, reset := 0 }

/-- HUB_BELL_TIMING.PATH_DELAY_NS: RO, reset 0. -/
def HUB_BELL_TIMING.PATH_DELAY_NS : Fld :=
  { base := 0x10010, lsb := 32, width := 16, acc := .ro, reset := 0 }

/-- HUB_BELL_TIMING.ARRIVAL_LINK: RO, reset 0. -/
def HUB_BELL_TIMING.ARRIVAL_LINK : Fld :=
  { base := 0x10010, lsb := 48, width := 5, acc := .ro, reset := 0 }

/-- HUB_BELL_MASTER.MASTER_SERIAL: RO, reset 0. -/
def HUB_BELL_MASTER.MASTER_SERIAL : Fld :=
  { base := 0x10018, lsb := 0, width := 64, acc := .ro, reset := 0 }

/-- HUB_BELL_ERR.MISSED: RC, reset 0. -/
def HUB_BELL_ERR.MISSED : Fld :=
  { base := 0x10020, lsb := 0, width := 16, acc := .rc, reset := 0 }

/-- HUB_BELL_ERR.LATE_ARRIVE: RC, reset 0. -/
def HUB_BELL_ERR.LATE_ARRIVE : Fld :=
  { base := 0x10020, lsb := 16, width := 16, acc := .rc, reset := 0 }

/-- HUB_BELL_ERR.MASTER_CHANGE: RC, reset 0. -/
def HUB_BELL_ERR.MASTER_CHANGE : Fld :=
  { base := 0x10020, lsb := 32, width := 8, acc := .rc, reset := 0 }

/-- HUB_BELL_ERR.LATE_REPORT: RC, reset 0. -/
def HUB_BELL_ERR.LATE_REPORT : Fld :=
  { base := 0x10020, lsb := 40, width := 8, acc := .rc, reset := 0 }

/-- HUB_BELL_ERR.REFUSED: RC, reset 0. -/
def HUB_BELL_ERR.REFUSED : Fld :=
  { base := 0x10020, lsb := 48, width := 16, acc := .rc, reset := 0 }

/-- PROC_PART_MAP.BP0: RW, reset 0. -/
def PROC_PART_MAP.BP0 : Fld :=
  { base := 0x40000, lsb := 0, width := 6, acc := .rw, reset := 0 }

/-- PROC_PART_MAP.BP1: RW, reset 0. -/
def PROC_PART_MAP.BP1 : Fld :=
  { base := 0x40000, lsb := 8, width := 6, acc := .rw, reset := 0 }

/-- PROC_PART_MAP.BP2: RW, reset 0. -/
def PROC_PART_MAP.BP2 : Fld :=
  { base := 0x40000, lsb := 16, width := 6, acc := .rw, reset := 0 }

/-- PROC_PART_MAP.BP3: RW, reset 0. -/
def PROC_PART_MAP.BP3 : Fld :=
  { base := 0x40000, lsb := 24, width := 6, acc := .rw, reset := 0 }

/-- PROC_HOLD_LIMIT.LIMIT: RW, reset 64. -/
def PROC_HOLD_LIMIT.LIMIT : Fld :=
  { base := 0x40008, lsb := 0, width := 8, acc := .rw, reset := 64 }

/-- PROC_PART_STAT.HOLD_CNT: RC, reset 0. -/
def PROC_PART_STAT.HOLD_CNT : Fld :=
  { base := 0x40010, lsb := 0, width := 32, acc := .rc, reset := 0 }

/-- PROC_PART_STAT.CONSEC: RO, reset 0. -/
def PROC_PART_STAT.CONSEC : Fld :=
  { base := 0x40010, lsb := 32, width := 8, acc := .ro, reset := 0 }

/-- PROC_PART_STAT.HELD: RO, reset 0. -/
def PROC_PART_STAT.HELD : Fld :=
  { base := 0x40010, lsb := 40, width := 1, acc := .ro, reset := 0 }

/-- PROC_PART_STAT.STALL: W1C, reset 0. -/
def PROC_PART_STAT.STALL : Fld :=
  { base := 0x40010, lsb := 41, width := 1, acc := .w1c, reset := 0 }

/-- PROC_PART_STAT.DESYNC: W1C, reset 0. -/
def PROC_PART_STAT.DESYNC : Fld :=
  { base := 0x40010, lsb := 42, width := 1, acc := .w1c, reset := 0 }

/-- PROC_PART_STAT.PERIOD_MISMATCH: RO, reset 0. -/
def PROC_PART_STAT.PERIOD_MISMATCH : Fld :=
  { base := 0x40010, lsb := 43, width := 1, acc := .ro, reset := 0 }

/-- PROC_PART_BLOCK.BLOCKS: RO, reset 0. -/
def PROC_PART_BLOCK.BLOCKS : Fld :=
  { base := 0x40030, lsb := 0, width := 48, acc := .ro, reset := 0 }

/-- PROC_REGION_STAT.LAST_USE: RO, reset 0. -/
def PROC_REGION_STAT.LAST_USE : Fld :=
  { base := 0x40100, lsb := 0, width := 16, acc := .ro, reset := 0 }

/-- PROC_REGION_STAT.WARN_CNT: RC, reset 0. -/
def PROC_REGION_STAT.WARN_CNT : Fld :=
  { base := 0x40100, lsb := 32, width := 16, acc := .rc, reset := 0 }

/-- PROC_REGION_STAT.LATE_CNT: RC, reset 0. -/
def PROC_REGION_STAT.LATE_CNT : Fld :=
  { base := 0x40100, lsb := 48, width := 16, acc := .rc, reset := 0 }

/-- RGN_ACCT_SEQ.PERIOD_NUM: RO, reset 0. -/
def RGN_ACCT_SEQ.PERIOD_NUM : Fld :=
  { base := 0x1010000, lsb := 0, width := 48, acc := .ro, reset := 0 }

/-- RGN_PHASE_CNT.CYCLES: RO, reset 0. -/
def RGN_PHASE_CNT.CYCLES : Fld :=
  { base := 0x1010008, lsb := 0, width := 32, acc := .ro, reset := 0, latched := true }

/-- RGN_IDLE.CYCLES: RO, reset 0. -/
def RGN_IDLE.CYCLES : Fld :=
  { base := 0x1010100, lsb := 0, width := 32, acc := .ro, reset := 0, latched := true }

/-- HUB_JOB_SEED.SEED: RW, reset 0. -/
def HUB_JOB_SEED.SEED : Fld :=
  { base := 0x200, lsb := 0, width := 64, acc := .rw, reset := 0 }

/-- RGN_NUM_CNT.SAT: RC, reset 0. -/
def RGN_NUM_CNT.SAT : Fld :=
  { base := 0x1020000, lsb := 0, width := 32, acc := .rc, reset := 0 }

/-- RGN_NUM_CNT.NONFINITE: RC, reset 0. -/
def RGN_NUM_CNT.NONFINITE : Fld :=
  { base := 0x1020000, lsb := 32, width := 32, acc := .rc, reset := 0 }

/-- RGN_NF_FIRST0.ELEM_INDEX: RO, reset 0. -/
def RGN_NF_FIRST0.ELEM_INDEX : Fld :=
  { base := 0x1020008, lsb := 0, width := 48, acc := .ro, reset := 0 }

/-- RGN_NF_FIRST0.ENGINE: RO, reset 0. -/
def RGN_NF_FIRST0.ENGINE : Fld :=
  { base := 0x1020008, lsb := 48, width := 6, acc := .ro, reset := 0 }

/-- RGN_NF_FIRST0.VALID: RO, reset 0. -/
def RGN_NF_FIRST0.VALID : Fld :=
  { base := 0x1020008, lsb := 63, width := 1, acc := .ro, reset := 0 }

/-- RGN_NF_FIRST1.TENSOR_ID: RO, reset 0. -/
def RGN_NF_FIRST1.TENSOR_ID : Fld :=
  { base := 0x1020010, lsb := 0, width := 20, acc := .ro, reset := 0 }

/-- RGN_NF_FIRST1.CLASS: RO, reset 0. -/
def RGN_NF_FIRST1.CLASS : Fld :=
  { base := 0x1020010, lsb := 20, width := 2, acc := .ro, reset := 0 }

/-- RGN_NF_FIRST1.ISSUE_ORD: RO, reset 0. -/
def RGN_NF_FIRST1.ISSUE_ORD : Fld :=
  { base := 0x1020010, lsb := 32, width := 32, acc := .ro, reset := 0 }

/-- RGN_GEN_STEP.STEP: RO, reset 0. -/
def RGN_GEN_STEP.STEP : Fld :=
  { base := 0x1020020, lsb := 0, width := 32, acc := .ro, reset := 0 }

/-- STAT_SEQ.PERIOD_NUM: RO, reset 0. -/
def STAT_SEQ.PERIOD_NUM : Fld :=
  { base := 0x50000, lsb := 0, width := 48, acc := .ro, reset := 0 }

/-- STAT_MISS.ELEMENTS: RO, reset 0. -/
def STAT_MISS.ELEMENTS : Fld :=
  { base := 0x50010, lsb := 0, width := 48, acc := .ro, reset := 0, latched := true }

/-- STAT_SLOT_ID.TENSOR_ID: RW, reset 0. -/
def STAT_SLOT_ID.TENSOR_ID : Fld :=
  { base := 0x50100, lsb := 0, width := 20, acc := .rw, reset := 0 }

/-- STAT_SLOT_ID.EN: RW, reset 0. -/
def STAT_SLOT_ID.EN : Fld :=
  { base := 0x50100, lsb := 31, width := 1, acc := .rw, reset := 0 }

/-- STAT_SLOT_CNT.ELEMENTS: RO, reset 0. -/
def STAT_SLOT_CNT.ELEMENTS : Fld :=
  { base := 0x54000, lsb := 0, width := 48, acc := .ro, reset := 0, latched := true }

/-- STAT_SLOT_CNT.ZEROS: RO, reset 0. -/
def STAT_SLOT_CNT.ZEROS : Fld :=
  { base := 0x54000, lsb := 0, width := 48, acc := .ro, reset := 0, latched := true }

/-- STAT_SLOT_CNT.SAT: RO, reset 0. -/
def STAT_SLOT_CNT.SAT : Fld :=
  { base := 0x54000, lsb := 0, width := 32, acc := .ro, reset := 0, latched := true }

/-- STAT_SLOT_CNT.NAN: RO, reset 0. -/
def STAT_SLOT_CNT.NAN : Fld :=
  { base := 0x54000, lsb := 32, width := 32, acc := .ro, reset := 0, latched := true }

/-- STAT_SLOT_CNT.INF: RO, reset 0. -/
def STAT_SLOT_CNT.INF : Fld :=
  { base := 0x54000, lsb := 0, width := 32, acc := .ro, reset := 0, latched := true }

/-- HUB_STK_MODE.INTLV: RW, reset 0. -/
def HUB_STK_MODE.INTLV : Fld :=
  { base := 0x300, lsb := 0, width := 1, acc := .rw, reset := 0 }

/-- HUB_CXL_DENY_CNT.COUNT: RC, reset 0. -/
def HUB_CXL_DENY_CNT.COUNT : Fld :=
  { base := 0x340, lsb := 0, width := 32, acc := .rc, reset := 0 }

/-- HUB_OWN.KIND: RO, reset 0. -/
def HUB_OWN.KIND : Fld :=
  { base := 0x2000, lsb := 0, width := 2, acc := .ro, reset := 0, warm := true }

/-- HUB_OWN.TAG: RO, reset 0. -/
def HUB_OWN.TAG : Fld :=
  { base := 0x2000, lsb := 2, width := 16, acc := .ro, reset := 0, warm := true }

/-- HUB_OWN.NEXT_KIND: RW, reset 0. -/
def HUB_OWN.NEXT_KIND : Fld :=
  { base := 0x2000, lsb := 18, width := 2, acc := .rw, reset := 0 }

/-- HUB_OWN.NEXT_TAG: RW, reset 0. -/
def HUB_OWN.NEXT_TAG : Fld :=
  { base := 0x2000, lsb := 20, width := 16, acc := .rw, reset := 0 }

/-- HUB_OWN.ERASE: RW, reset 0. -/
def HUB_OWN.ERASE : Fld :=
  { base := 0x2000, lsb := 36, width := 1, acc := .rw, reset := 0 }

/-- HUB_OWN.REQ: W1S, reset 0. -/
def HUB_OWN.REQ : Fld :=
  { base := 0x2000, lsb := 37, width := 1, acc := .w1s, reset := 0 }

/-- HUB_OWN.HOST_OK: W1S, reset 0. -/
def HUB_OWN.HOST_OK : Fld :=
  { base := 0x2000, lsb := 38, width := 1, acc := .w1s, reset := 0 }

/-- HUB_OWN.FILLING: RO, reset 0. -/
def HUB_OWN.FILLING : Fld :=
  { base := 0x2000, lsb := 39, width := 1, acc := .ro, reset := 0 }

/-- RGN_DESC.WORD: RW, reset 0. -/
def RGN_DESC.WORD : Fld :=
  { base := 0x1400000, lsb := 0, width := 64, acc := .rw, reset := 0 }

/-- RGN_SEQ_TT.TT_OFFSET: RW, reset 0. -/
def RGN_SEQ_TT.TT_OFFSET : Fld :=
  { base := 0x1000000, lsb := 8, width := 20, acc := .rw, reset := 0 }

/-- RGN_SEQ_CTRL.GO: W1S, reset 0. -/
def RGN_SEQ_CTRL.GO : Fld :=
  { base := 0x1000008, lsb := 0, width := 1, acc := .w1s, reset := 0 }

/-- RGN_SEQ_STAT.STATE: RO, reset 0. -/
def RGN_SEQ_STAT.STATE : Fld :=
  { base := 0x1000010, lsb := 0, width := 3, acc := .ro, reset := 0 }

/-- RGN_SEQ_STAT.SLOT: RO, reset 0. -/
def RGN_SEQ_STAT.SLOT : Fld :=
  { base := 0x1000010, lsb := 8, width := 24, acc := .ro, reset := 0 }

/-- RGN_SEQ_STAT.HOLD_FLAG: RO, reset 0. -/
def RGN_SEQ_STAT.HOLD_FLAG : Fld :=
  { base := 0x1000010, lsb := 32, width := 1, acc := .ro, reset := 0 }

/-- RGN_SEQ_STAT.FALLBACK: RO, reset 0. -/
def RGN_SEQ_STAT.FALLBACK : Fld :=
  { base := 0x1000010, lsb := 33, width := 1, acc := .ro, reset := 0 }

/-- RGN_SEQ_ERR.CODE: RO, reset 0. -/
def RGN_SEQ_ERR.CODE : Fld :=
  { base := 0x1000018, lsb := 0, width := 8, acc := .ro, reset := 0 }

/-- RGN_SEQ_ERR.ENGINE: RO, reset 0. -/
def RGN_SEQ_ERR.ENGINE : Fld :=
  { base := 0x1000018, lsb := 8, width := 6, acc := .ro, reset := 0 }

/-- RGN_SEQ_ERR.MORE: RO, reset 0. -/
def RGN_SEQ_ERR.MORE : Fld :=
  { base := 0x1000018, lsb := 14, width := 1, acc := .ro, reset := 0 }

/-- RGN_SEQ_ERR.SLOT: RO, reset 0. -/
def RGN_SEQ_ERR.SLOT : Fld :=
  { base := 0x1000018, lsb := 16, width := 24, acc := .ro, reset := 0 }

/-- RGN_SEQ_ERR.ORDINAL: RO, reset 0. -/
def RGN_SEQ_ERR.ORDINAL : Fld :=
  { base := 0x1000018, lsb := 40, width := 24, acc := .ro, reset := 0 }

/-- RGN_SEQ_CNT.DISPATCHED: RO, reset 0. -/
def RGN_SEQ_CNT.DISPATCHED : Fld :=
  { base := 0x1000020, lsb := 0, width := 32, acc := .ro, reset := 0, latched := true }

/-- RGN_SEQ_CNT.QFULL: RO, reset 0. -/
def RGN_SEQ_CNT.QFULL : Fld :=
  { base := 0x1000020, lsb := 32, width := 32, acc := .ro, reset := 0, latched := true }

/-- RGN_SEQ_KILL.KILLED: RC, reset 0. -/
def RGN_SEQ_KILL.KILLED : Fld :=
  { base := 0x1000028, lsb := 0, width := 32, acc := .rc, reset := 0 }

/-- RGN_SEQ_KILL.SHADOWS: RC, reset 0. -/
def RGN_SEQ_KILL.SHADOWS : Fld :=
  { base := 0x1000028, lsb := 32, width := 32, acc := .rc, reset := 0 }

/-- RGN_SEQ_SQ.VALUE: RO, reset 0. -/
def RGN_SEQ_SQ.VALUE : Fld :=
  { base := 0x1000100, lsb := 0, width := 64, acc := .ro, reset := 0 }

/-- RGN_TOK.VALUE: RO, reset 0. -/
def RGN_TOK.VALUE : Fld :=
  { base := 0x1030000, lsb := 0, width := 16, acc := .ro, reset := 0 }

/-- RGN_TOK.LINK: RO, reset 0. -/
def RGN_TOK.LINK : Fld :=
  { base := 0x1030000, lsb := 16, width := 1, acc := .ro, reset := 0 }

/-- ME_STAT.STATE: RO, reset 0. -/
def ME_STAT.STATE : Fld :=
  { base := 0x1040000, lsb := 0, width := 2, acc := .ro, reset := 0, warm := true, region := true }

/-- ME_STAT.SPARES_USED: RO, reset 0. -/
def ME_STAT.SPARES_USED : Fld :=
  { base := 0x1040000, lsb := 2, width := 3, acc := .ro, reset := 0, warm := true, region := true }

/-- ME_STAT.LAST_COL: RO, reset 0. -/
def ME_STAT.LAST_COL : Fld :=
  { base := 0x1040000, lsb := 8, width := 7, acc := .ro, reset := 0, warm := true, region := true }

/-- ME_COL_MAP.COL number v: RW, reset 0. -/
def ME_COL_MAP.COL (v : Nat) : Fld :=
  { base := 0x1040008, lsb := 16 * v + 0, width := 7, acc := .rw, reset := 0, warm := true, region := true }

/-- ME_COL_MAP.VALID number v: RW, reset 0. -/
def ME_COL_MAP.VALID (v : Nat) : Fld :=
  { base := 0x1040008, lsb := 16 * v + 15, width := 1, acc := .rw, reset := 0, warm := true, region := true }

/-- ME_ERR_CNT.RESIDUE: RC, reset 0. -/
def ME_ERR_CNT.RESIDUE : Fld :=
  { base := 0x1040010, lsb := 0, width := 16, acc := .rc, reset := 0 }

/-- ME_ERR_CNT.REPAIRS: RC, reset 0. -/
def ME_ERR_CNT.REPAIRS : Fld :=
  { base := 0x1040010, lsb := 16, width := 16, acc := .rc, reset := 0 }

/-- ME_ERR_CNT.RERUN_FAIL: RC, reset 0. -/
def ME_ERR_CNT.RERUN_FAIL : Fld :=
  { base := 0x1040010, lsb := 32, width := 16, acc := .rc, reset := 0 }

/-- ME_ERR_CNT.ACC_CORR: RC, reset 0. -/
def ME_ERR_CNT.ACC_CORR : Fld :=
  { base := 0x1040010, lsb := 48, width := 16, acc := .rc, reset := 0 }

/-- ME_FEED_CNT.PAUSE: RO, reset 0. -/
def ME_FEED_CNT.PAUSE : Fld :=
  { base := 0x1040018, lsb := 0, width := 32, acc := .ro, reset := 0, latched := true }

/-- ME_FEED_CNT.TILES: RO, reset 0. -/
def ME_FEED_CNT.TILES : Fld :=
  { base := 0x1040018, lsb := 32, width := 32, acc := .ro, reset := 0, latched := true }

/-- SU_STAT.STATE: RO, reset 0. -/
def SU_STAT.STATE : Fld :=
  { base := 0x1050000, lsb := 0, width := 2, acc := .ro, reset := 0 }

/-- SU_STAT.CLAIMED: RO, reset 0. -/
def SU_STAT.CLAIMED : Fld :=
  { base := 0x1050000, lsb := 2, width := 1, acc := .ro, reset := 0 }

/-- SU_CNT.EMPTY_ROWS: RC, reset 0. -/
def SU_CNT.EMPTY_ROWS : Fld :=
  { base := 0x1050008, lsb := 0, width := 32, acc := .rc, reset := 0 }

/-- SU_CNT.NAN_ROWS: RC, reset 0. -/
def SU_CNT.NAN_ROWS : Fld :=
  { base := 0x1050008, lsb := 32, width := 16, acc := .rc, reset := 0 }

/-- SU_CNT.ZERO_RESCALE: RC, reset 0. -/
def SU_CNT.ZERO_RESCALE : Fld :=
  { base := 0x1050008, lsb := 48, width := 16, acc := .rc, reset := 0 }

/-- SU_TILE_CNT.TILES: RO, reset 0. -/
def SU_TILE_CNT.TILES : Fld :=
  { base := 0x1050010, lsb := 0, width := 32, acc := .ro, reset := 0, latched := true }

/-- SU_TILE_CNT.SKIPPED: RO, reset 0. -/
def SU_TILE_CNT.SKIPPED : Fld :=
  { base := 0x1050010, lsb := 32, width := 32, acc := .ro, reset := 0, latched := true }

/-- SU_ROPE_CTRL.STYLE: RW, reset 0. -/
def SU_ROPE_CTRL.STYLE : Fld :=
  { base := 0x1050200, lsb := 0, width := 1, acc := .rw, reset := 0 }

/-- SU_ROPE_CTRL.ROT_PAIRS: RW, reset 0. -/
def SU_ROPE_CTRL.ROT_PAIRS : Fld :=
  { base := 0x1050200, lsb := 1, width := 8, acc := .rw, reset := 0 }

/-- SU_ROPE_FREQ.FREQ: RW, reset 0. -/
def SU_ROPE_FREQ.FREQ : Fld :=
  { base := 0x1050400, lsb := 0, width := 48, acc := .rw, reset := 0 }

/-- CE_CNT.POSITIONS: RO, reset 0. -/
def CE_CNT.POSITIONS : Fld :=
  { base := 0x1060000, lsb := 0, width := 32, acc := .ro, reset := 0, latched := true }

/-- CE_CNT.HALO_READS: RO, reset 0. -/
def CE_CNT.HALO_READS : Fld :=
  { base := 0x1060000, lsb := 32, width := 32, acc := .ro, reset := 0, latched := true }

/-- PE_CNT.ELEMENTS: RO, reset 0. -/
def PE_CNT.ELEMENTS : Fld :=
  { base := 0x1070000, lsb := 0, width := 32, acc := .ro, reset := 0, latched := true }

/-- PE_CNT.ROWS: RO, reset 0. -/
def PE_CNT.ROWS : Fld :=
  { base := 0x1070000, lsb := 32, width := 32, acc := .ro, reset := 0, latched := true }

/-- VE_CNT.BAD_ID: RC, reset 0. -/
def VE_CNT.BAD_ID : Fld :=
  { base := 0x1080000, lsb := 0, width := 16, acc := .rc, reset := 0 }

/-- VE_CNT.IGNORED: RC, reset 0. -/
def VE_CNT.IGNORED : Fld :=
  { base := 0x1080000, lsb := 16, width := 16, acc := .rc, reset := 0 }

/-- VE_CNT.NO_TARGET: RC, reset 0. -/
def VE_CNT.NO_TARGET : Fld :=
  { base := 0x1080000, lsb := 32, width := 16, acc := .rc, reset := 0 }

/-- VE_ROWS.GATHERED: RO, reset 0. -/
def VE_ROWS.GATHERED : Fld :=
  { base := 0x1080008, lsb := 0, width := 32, acc := .ro, reset := 0, latched := true }

/-- VE_ROWS.SCATTERED: RO, reset 0. -/
def VE_ROWS.SCATTERED : Fld :=
  { base := 0x1080008, lsb := 32, width := 32, acc := .ro, reset := 0, latched := true }

/-- SE_STAT.STATE: RO, reset 0. -/
def SE_STAT.STATE : Fld :=
  { base := 0x8000000, lsb := 0, width := 2, acc := .ro, reset := 0 }

/-- SE_STAT.INFLIGHT: RO, reset 0. -/
def SE_STAT.INFLIGHT : Fld :=
  { base := 0x8000000, lsb := 8, width := 5, acc := .ro, reset := 0 }

/-- SE_SCHED.W_UPD: RW, reset 8. -/
def SE_SCHED.W_UPD : Fld :=
  { base := 0x8000008, lsb := 0, width := 4, acc := .rw, reset := 8 }

/-- SE_SCHED.W_ACC: RW, reset 4. -/
def SE_SCHED.W_ACC : Fld :=
  { base := 0x8000008, lsb := 4, width := 4, acc := .rw, reset := 4 }

/-- SE_SCHED.W_SCAT: RW, reset 2. -/
def SE_SCHED.W_SCAT : Fld :=
  { base := 0x8000008, lsb := 8, width := 4, acc := .rw, reset := 2 }

/-- SE_SCHED.W_DRAIN: RW, reset 4. -/
def SE_SCHED.W_DRAIN : Fld :=
  { base := 0x8000008, lsb := 12, width := 4, acc := .rw, reset := 4 }

/-- SE_SCHED.W_EXT: RW, reset 4. -/
def SE_SCHED.W_EXT : Fld :=
  { base := 0x8000008, lsb := 16, width := 4, acc := .rw, reset := 4 }

/-- SE_UPD_CMD.OPT: RO, reset 0. -/
def SE_UPD_CMD.OPT : Fld :=
  { base := 0x8000010, lsb := 0, width := 3, acc := .ro, reset := 0 }

/-- SE_UPD_CMD.POLICY: RO, reset 0. -/
def SE_UPD_CMD.POLICY : Fld :=
  { base := 0x8000010, lsb := 3, width := 2, acc := .ro, reset := 0 }

/-- SE_UPD_CMD.PAIR: RO, reset 0. -/
def SE_UPD_CMD.PAIR : Fld :=
  { base := 0x8000010, lsb := 5, width := 6, acc := .ro, reset := 0 }

/-- SE_UPD_CMD.OUTCOME: RO, reset 0. -/
def SE_UPD_CMD.OUTCOME : Fld :=
  { base := 0x8000010, lsb := 11, width := 2, acc := .ro, reset := 0 }

/-- SE_UPD_CMD.ELEMENTS: RO, reset 0. -/
def SE_UPD_CMD.ELEMENTS : Fld :=
  { base := 0x8000010, lsb := 16, width := 48, acc := .ro, reset := 0 }

/-- SE_CNT.UPD_ELEMENTS: RO, reset 0. -/
def SE_CNT.UPD_ELEMENTS : Fld :=
  { base := 0x8000018, lsb := 0, width := 32, acc := .ro, reset := 0, latched := true }

/-- SE_CNT.ACC_ELEMENTS: RO, reset 0. -/
def SE_CNT.ACC_ELEMENTS : Fld :=
  { base := 0x8000018, lsb := 32, width := 32, acc := .ro, reset := 0, latched := true }

/-- SE_POISON.MARKED: RC, reset 0. -/
def SE_POISON.MARKED : Fld :=
  { base := 0x8000020, lsb := 0, width := 32, acc := .rc, reset := 0 }

/-- SE_POISON.SKIP_CMDS: RC, reset 0. -/
def SE_POISON.SKIP_CMDS : Fld :=
  { base := 0x8000020, lsb := 32, width := 16, acc := .rc, reset := 0 }

/-- SE_POISON.ZERO_BLOCKS: RC, reset 0. -/
def SE_POISON.ZERO_BLOCKS : Fld :=
  { base := 0x8000020, lsb := 48, width := 16, acc := .rc, reset := 0 }

/-- SE_ERR.UNCORR: RC, reset 0. -/
def SE_ERR.UNCORR : Fld :=
  { base := 0x8000028, lsb := 0, width := 16, acc := .rc, reset := 0 }

/-- SE_ERR.FAILED: RC, reset 0. -/
def SE_ERR.FAILED : Fld :=
  { base := 0x8000028, lsb := 16, width := 16, acc := .rc, reset := 0 }

/-- SE_ERR.UNVOTED: RC, reset 0. -/
def SE_ERR.UNVOTED : Fld :=
  { base := 0x8000028, lsb := 32, width := 16, acc := .rc, reset := 0 }

/-- SE_ERR_ADDR.OFFSET: RO, reset 0. -/
def SE_ERR_ADDR.OFFSET : Fld :=
  { base := 0x8000030, lsb := 0, width := 36, acc := .ro, reset := 0 }

/-- SE_ERR_ADDR.VALID: W1C, reset 0. -/
def SE_ERR_ADDR.VALID : Fld :=
  { base := 0x8000030, lsb := 63, width := 1, acc := .w1c, reset := 0 }

/-- SE_SCRUB.HOURS: RW, reset 20. -/
def SE_SCRUB.HOURS : Fld :=
  { base := 0x8000038, lsb := 0, width := 5, acc := .rw, reset := 20 }

/-- SE_SCRUB.PROGRESS: RO, reset 0. -/
def SE_SCRUB.PROGRESS : Fld :=
  { base := 0x8000038, lsb := 8, width := 24, acc := .ro, reset := 0 }

/-- SE_SCRUB.CORR: RC, reset 0. -/
def SE_SCRUB.CORR : Fld :=
  { base := 0x8000038, lsb := 32, width := 16, acc := .rc, reset := 0 }

/-- SE_SCRUB.DOUBLE: RC, reset 0. -/
def SE_SCRUB.DOUBLE : Fld :=
  { base := 0x8000038, lsb := 48, width := 16, acc := .rc, reset := 0 }

/-- SE_REPAIR.SPARES_LEFT: RO, reset 4. -/
def SE_REPAIR.SPARES_LEFT : Fld :=
  { base := 0x8000040, lsb := 0, width := 8, acc := .ro, reset := 4, warm := true }

/-- SE_REPAIR.SOFT: RC, reset 0. -/
def SE_REPAIR.SOFT : Fld :=
  { base := 0x8000040, lsb := 8, width := 16, acc := .rc, reset := 0 }

/-- SE_REPAIR.HARD: RC, reset 0. -/
def SE_REPAIR.HARD : Fld :=
  { base := 0x8000040, lsb := 24, width := 16, acc := .rc, reset := 0 }

/-- SE_REPAIR.NO_SPARE: RC, reset 0. -/
def SE_REPAIR.NO_SPARE : Fld :=
  { base := 0x8000040, lsb := 40, width := 16, acc := .rc, reset := 0 }

/-- SE_BUF0.BASE: RW, reset 0. -/
def SE_BUF0.BASE : Fld :=
  { base := 0x8001000, lsb := 0, width := 20, acc := .rw, reset := 0 }

/-- SE_BUF0.GRANULES: RW, reset 0. -/
def SE_BUF0.GRANULES : Fld :=
  { base := 0x8001000, lsb := 20, width := 20, acc := .rw, reset := 0 }

/-- SE_BUF0.DELTA: RW, reset 0. -/
def SE_BUF0.DELTA : Fld :=
  { base := 0x8001000, lsb := 40, width := 20, acc := .rw, reset := 0 }

/-- SE_BUF1.CUR: RO, reset 0. -/
def SE_BUF1.CUR : Fld :=
  { base := 0x8001008, lsb := 0, width := 1, acc := .ro, reset := 0 }

/-- SE_BUF1.DRAIN_PEND: RO, reset 0. -/
def SE_BUF1.DRAIN_PEND : Fld :=
  { base := 0x8001008, lsb := 1, width := 1, acc := .ro, reset := 0 }

/-- SE_BUF1.DRAIN_BUF: RO, reset 0. -/
def SE_BUF1.DRAIN_BUF : Fld :=
  { base := 0x8001008, lsb := 2, width := 1, acc := .ro, reset := 0 }

/-- SE_BUF1.VALID: RW, reset 0. -/
def SE_BUF1.VALID : Fld :=
  { base := 0x8001008, lsb := 3, width := 1, acc := .rw, reset := 0 }

/-- SE_BUF1.DRAIN_NEXT: RO, reset 0. -/
def SE_BUF1.DRAIN_NEXT : Fld :=
  { base := 0x8001008, lsb := 4, width := 20, acc := .ro, reset := 0 }

/-- SE_BUF1.STEP: RO, reset 0. -/
def SE_BUF1.STEP : Fld :=
  { base := 0x8001008, lsb := 32, width := 32, acc := .ro, reset := 0 }

/-- SE_BUF2.DIRTY: RO, reset 0. -/
def SE_BUF2.DIRTY : Fld :=
  { base := 0x8001010, lsb := 0, width := 20, acc := .ro, reset := 0 }

/-- LNK_STAT.STATE: RO, reset 0. -/
def LNK_STAT.STATE : Fld :=
  { base := 0xC000000, lsb := 0, width := 3, acc := .ro, reset := 0 }

/-- LNK_STAT.WIDTH: RO, reset 0. -/
def LNK_STAT.WIDTH : Fld :=
  { base := 0xC000000, lsb := 3, width := 3, acc := .ro, reset := 0 }

/-- LNK_STAT.LANES_OK: RO, reset 0. -/
def LNK_STAT.LANES_OK : Fld :=
  { base := 0xC000000, lsb := 6, width := 4, acc := .ro, reset := 0 }

/-- LNK_STAT.POL_INV: RO, reset 0. -/
def LNK_STAT.POL_INV : Fld :=
  { base := 0xC000000, lsb := 10, width := 4, acc := .ro, reset := 0 }

/-- LNK_STAT.REVERSED: RO, reset 0. -/
def LNK_STAT.REVERSED : Fld :=
  { base := 0xC000000, lsb := 14, width := 1, acc := .ro, reset := 0 }

/-- LNK_STAT.REACH: RO, reset 3. -/
def LNK_STAT.REACH : Fld :=
  { base := 0xC000000, lsb := 15, width := 2, acc := .ro, reset := 3 }

/-- LNK_STAT.LATENCY: RO, reset 0. -/
def LNK_STAT.LATENCY : Fld :=
  { base := 0xC000000, lsb := 20, width := 20, acc := .ro, reset := 0 }

/-- LNK_PEER_SERIAL.SERIAL: RO, reset 0. -/
def LNK_PEER_SERIAL.SERIAL : Fld :=
  { base := 0xC000008, lsb := 0, width := 64, acc := .ro, reset := 0 }

/-- LNK_PEER.ADDR: RO, reset 0xFFFF. -/
def LNK_PEER.ADDR : Fld :=
  { base := 0xC000010, lsb := 0, width := 16, acc := .ro, reset := 65535 }

/-- LNK_PEER.POS_ID: RO, reset 0. -/
def LNK_PEER.POS_ID : Fld :=
  { base := 0xC000010, lsb := 16, width := 8, acc := .ro, reset := 0 }

/-- LNK_PEER.FEED_ID: RO, reset 0. -/
def LNK_PEER.FEED_ID : Fld :=
  { base := 0xC000010, lsb := 24, width := 4, acc := .ro, reset := 0 }

/-- LNK_PEER.LINK: RO, reset 0. -/
def LNK_PEER.LINK : Fld :=
  { base := 0xC000010, lsb := 28, width := 5, acc := .ro, reset := 0 }

/-- LNK_PEER.SPARE: RO, reset 0. -/
def LNK_PEER.SPARE : Fld :=
  { base := 0xC000010, lsb := 33, width := 1, acc := .ro, reset := 0 }

/-- LNK_PEER.VALID: RO, reset 0. -/
def LNK_PEER.VALID : Fld :=
  { base := 0xC000010, lsb := 34, width := 1, acc := .ro, reset := 0 }

/-- LNK_CRED.CRED number v: RW, reset 56, 56, 32, 32, 40, 24, 16. -/
def LNK_CRED.CRED (v : Nat) : Fld :=
  { base := 0xC000018, lsb := 8 * v + 0, width := 8, acc := .rw, reset := match v with | 0 => 56 | 1 => 56 | 2 => 32 | 3 => 32 | 4 => 40 | 5 => 24 | _ => 16 }

/-- LNK_ERR.CRC: RC, reset 0. -/
def LNK_ERR.CRC : Fld :=
  { base := 0xC000020, lsb := 0, width := 16, acc := .rc, reset := 0 }

/-- LNK_ERR.UNCORR_CW: RC, reset 0. -/
def LNK_ERR.UNCORR_CW : Fld :=
  { base := 0xC000020, lsb := 16, width := 16, acc := .rc, reset := 0 }

/-- LNK_ERR.REPLAYS: RC, reset 0. -/
def LNK_ERR.REPLAYS : Fld :=
  { base := 0xC000020, lsb := 32, width := 16, acc := .rc, reset := 0 }

/-- LNK_ERR.DEGRADES: RC, reset 0. -/
def LNK_ERR.DEGRADES : Fld :=
  { base := 0xC000020, lsb := 48, width := 8, acc := .rc, reset := 0 }

/-- LNK_ERR.HARDEN_FAIL: RC, reset 0. -/
def LNK_ERR.HARDEN_FAIL : Fld :=
  { base := 0xC000020, lsb := 56, width := 8, acc := .rc, reset := 0 }

/-- LNK_RC.DROPPED: RC, reset 0. -/
def LNK_RC.DROPPED : Fld :=
  { base := 0xC000028, lsb := 0, width := 16, acc := .rc, reset := 0 }

/-- LNK_RC.NONRC: RC, reset 0. -/
def LNK_RC.NONRC : Fld :=
  { base := 0xC000028, lsb := 16, width := 16, acc := .rc, reset := 0 }

/-- LNK_RC.VC7_LOST: RC, reset 0. -/
def LNK_RC.VC7_LOST : Fld :=
  { base := 0xC000028, lsb := 32, width := 16, acc := .rc, reset := 0 }

/-- LNK_RC.ERR_SENT: RC, reset 0. -/
def LNK_RC.ERR_SENT : Fld :=
  { base := 0xC000028, lsb := 48, width := 16, acc := .rc, reset := 0 }

/-- LNK_WIDTH.TARGET: RW, reset 4. -/
def LNK_WIDTH.TARGET : Fld :=
  { base := 0xC000030, lsb := 0, width := 3, acc := .rw, reset := 4 }

/-- LNK_WIDTH.HARDEN_BELLS: RW, reset 64. -/
def LNK_WIDTH.HARDEN_BELLS : Fld :=
  { base := 0xC000030, lsb := 3, width := 8, acc := .rw, reset := 64 }

/-- LNK_WIDTH.CLEAN: RO, reset 0. -/
def LNK_WIDTH.CLEAN : Fld :=
  { base := 0xC000030, lsb := 11, width := 8, acc := .ro, reset := 0 }

/-- LNK_WIDTH.PHASE: RO, reset 0. -/
def LNK_WIDTH.PHASE : Fld :=
  { base := 0xC000030, lsb := 19, width := 2, acc := .ro, reset := 0 }

/-- HUB_SERIAL.SERIAL: RO, reset Fused. -/
def HUB_SERIAL.SERIAL : Fld :=
  { base := 0x400, lsb := 0, width := 64, acc := .ro, reset := 1, warm := true }

/-- HUB_FAB.ADDR: RO, reset 0xFFFF. -/
def HUB_FAB.ADDR : Fld :=
  { base := 0x408, lsb := 0, width := 16, acc := .ro, reset := 65535 }

/-- HUB_FAB.GROUP: RW, reset 0. -/
def HUB_FAB.GROUP : Fld :=
  { base := 0x408, lsb := 16, width := 8, acc := .rw, reset := 0 }

/-- HUB_FAB.POS_ID: RO, reset Strap. -/
def HUB_FAB.POS_ID : Fld :=
  { base := 0x408, lsb := 24, width := 8, acc := .ro, reset := 255, warm := true }

/-- HUB_FAB.FEED_ID: RO, reset Strap. -/
def HUB_FAB.FEED_ID : Fld :=
  { base := 0x408, lsb := 32, width := 4, acc := .ro, reset := 15, warm := true }

/-- HUB_FAB.SPARE: RW, reset 0. -/
def HUB_FAB.SPARE : Fld :=
  { base := 0x408, lsb := 36, width := 1, acc := .rw, reset := 0 }

/-- HUB_RC_CTRL.EXPECT: RW, reset 0. -/
def HUB_RC_CTRL.EXPECT : Fld :=
  { base := 0x410, lsb := 0, width := 17, acc := .rw, reset := 0 }

/-- HUB_RC_CTRL.STABLE_US: RW, reset 2,000. -/
def HUB_RC_CTRL.STABLE_US : Fld :=
  { base := 0x410, lsb := 32, width := 16, acc := .rw, reset := 2000 }

/-- HUB_RC_STAT.STATE: RO, reset 0. -/
def HUB_RC_STAT.STATE : Fld :=
  { base := 0x418, lsb := 0, width := 3, acc := .ro, reset := 0 }

/-- HUB_RC_STAT.FAIL_CODE: RO, reset 0. -/
def HUB_RC_STAT.FAIL_CODE : Fld :=
  { base := 0x418, lsb := 8, width := 8, acc := .ro, reset := 0 }

/-- HUB_RC_STAT.EPOCH: RO, reset 0. -/
def HUB_RC_STAT.EPOCH : Fld :=
  { base := 0x418, lsb := 16, width := 16, acc := .ro, reset := 0 }

/-- HUB_RC_STAT.HOPS: RO, reset 0. -/
def HUB_RC_STAT.HOPS : Fld :=
  { base := 0x418, lsb := 32, width := 8, acc := .ro, reset := 0 }

/-- RGN_ROUTE_CTRL.ACTIVE: RO, reset 0. -/
def RGN_ROUTE_CTRL.ACTIVE : Fld :=
  { base := 0x1090000, lsb := 0, width := 1, acc := .ro, reset := 0 }

/-- RGN_ROUTE_CTRL.SWITCH: W1S, reset 0. -/
def RGN_ROUTE_CTRL.SWITCH : Fld :=
  { base := 0x1090000, lsb := 1, width := 1, acc := .w1s, reset := 0 }

/-- RGN_ROUTE.ENTRY number v: RW, reset 0. -/
def RGN_ROUTE.ENTRY (v : Nat) : Fld :=
  { base := 0x10C0000, lsb := 8 * v + 0, width := 8, acc := .rw, reset := 0 }

/-- LNK_ADD_STAGE_LVL.LEVEL: RO, reset 0. -/
def LNK_ADD_STAGE_LVL.LEVEL : Fld :=
  { base := 0xC000100, lsb := 0, width := 15, acc := .ro, reset := 0 }

/-- LNK_ADD_STAGE_LVL.HIGH: RC, reset 0. -/
def LNK_ADD_STAGE_LVL.HIGH : Fld :=
  { base := 0xC000100, lsb := 16, width := 15, acc := .rc, reset := 0 }

/-- LNK_ADD_STAGE_LVL.INFLIGHT: RO, reset 0. -/
def LNK_ADD_STAGE_LVL.INFLIGHT : Fld :=
  { base := 0xC000100, lsb := 32, width := 4, acc := .ro, reset := 0 }

/-- LNK_COLL_CNT.BLOCKS: RO, reset 0. -/
def LNK_COLL_CNT.BLOCKS : Fld :=
  { base := 0xC000108, lsb := 0, width := 32, acc := .ro, reset := 0, latched := true }

/-- LNK_COLL_CNT.BP_CYCLES: RO, reset 0. -/
def LNK_COLL_CNT.BP_CYCLES : Fld :=
  { base := 0xC000108, lsb := 32, width := 32, acc := .ro, reset := 0, latched := true }

/-- LNK_COLL_ERR.SAT: RC, reset 0. -/
def LNK_COLL_ERR.SAT : Fld :=
  { base := 0xC000110, lsb := 0, width := 32, acc := .rc, reset := 0 }

/-- LNK_COLL_ERR.MISMATCH: RC, reset 0. -/
def LNK_COLL_ERR.MISMATCH : Fld :=
  { base := 0xC000110, lsb := 32, width := 8, acc := .rc, reset := 0 }

/-- LNK_COLL_ERR.SCALE_CLAMP: RC, reset 0. -/
def LNK_COLL_ERR.SCALE_CLAMP : Fld :=
  { base := 0xC000110, lsb := 40, width := 8, acc := .rc, reset := 0 }

/-- LNK_COLL_ERR.A2A_DROP: RC, reset 0. -/
def LNK_COLL_ERR.A2A_DROP : Fld :=
  { base := 0xC000110, lsb := 48, width := 8, acc := .rc, reset := 0 }

/-- LNK_COLL_ERR.STAGE_UNCORR: RC, reset 0. -/
def LNK_COLL_ERR.STAGE_UNCORR : Fld :=
  { base := 0xC000110, lsb := 56, width := 8, acc := .rc, reset := 0 }

/-- LNK_POISON_REC0.ADDR: RO, reset 0. -/
def LNK_POISON_REC0.ADDR : Fld :=
  { base := 0xC000118, lsb := 0, width := 16, acc := .ro, reset := 0 }

/-- LNK_POISON_REC0.GROUP: RO, reset 0. -/
def LNK_POISON_REC0.GROUP : Fld :=
  { base := 0xC000118, lsb := 16, width := 8, acc := .ro, reset := 0 }

/-- LNK_POISON_REC0.BUCKET: RO, reset 0. -/
def LNK_POISON_REC0.BUCKET : Fld :=
  { base := 0xC000118, lsb := 24, width := 16, acc := .ro, reset := 0 }

/-- LNK_POISON_REC0.VALID: W1C, reset 0. -/
def LNK_POISON_REC0.VALID : Fld :=
  { base := 0xC000118, lsb := 63, width := 1, acc := .w1c, reset := 0 }

/-- LNK_POISON_REC1.ELEM: RO, reset 0. -/
def LNK_POISON_REC1.ELEM : Fld :=
  { base := 0xC000120, lsb := 0, width := 43, acc := .ro, reset := 0 }

/-- PROC_PART_CFG.REGIONS: RW, reset 0. -/
def PROC_PART_CFG.REGIONS : Fld :=
  { base := 0x40200, lsb := 0, width := 4, acc := .rw, reset := 0 }

/-- PROC_PART_CFG.STATE: RO, reset 0. -/
def PROC_PART_CFG.STATE : Fld :=
  { base := 0x40200, lsb := 4, width := 3, acc := .ro, reset := 0 }

/-- PROC_PART_CFG.LOAD: W1S, reset 0. -/
def PROC_PART_CFG.LOAD : Fld :=
  { base := 0x40200, lsb := 7, width := 1, acc := .w1s, reset := 0 }

/-- PROC_PART_CFG.TEARDOWN: W1S, reset 0. -/
def PROC_PART_CFG.TEARDOWN : Fld :=
  { base := 0x40200, lsb := 8, width := 1, acc := .w1s, reset := 0 }

/-- PROC_PART_CFG.DBG_LOCK: W1S, reset 0. -/
def PROC_PART_CFG.DBG_LOCK : Fld :=
  { base := 0x40200, lsb := 9, width := 1, acc := .w1s, reset := 0 }

/-- PROC_PART_CFG.SAVED: RO, reset 0. -/
def PROC_PART_CFG.SAVED : Fld :=
  { base := 0x40200, lsb := 10, width := 1, acc := .ro, reset := 0 }

/-- PROC_PART_CFG.MULTI: RW, reset 0. -/
def PROC_PART_CFG.MULTI : Fld :=
  { base := 0x40200, lsb := 11, width := 1, acc := .rw, reset := 0 }

/-- PROC_PART_CFG.JOB_TAG: RW, reset 0. -/
def PROC_PART_CFG.JOB_TAG : Fld :=
  { base := 0x40200, lsb := 16, width := 16, acc := .rw, reset := 0 }

/-- PROC_PART_CFG.SAVED_TAG: RO, reset 0. -/
def PROC_PART_CFG.SAVED_TAG : Fld :=
  { base := 0x40200, lsb := 32, width := 16, acc := .ro, reset := 0 }

/-- PROC_PREEMPT.AT: RW, reset 0. -/
def PROC_PREEMPT.AT : Fld :=
  { base := 0x40220, lsb := 0, width := 48, acc := .rw, reset := 0 }

/-- PROC_PREEMPT.MODE: RW, reset 0. -/
def PROC_PREEMPT.MODE : Fld :=
  { base := 0x40220, lsb := 48, width := 1, acc := .rw, reset := 0 }

/-- PROC_PREEMPT.REQ: W1S, reset 0. -/
def PROC_PREEMPT.REQ : Fld :=
  { base := 0x40220, lsb := 49, width := 1, acc := .w1s, reset := 0 }

/-- PROC_PREEMPT.RESUME: W1S, reset 0. -/
def PROC_PREEMPT.RESUME : Fld :=
  { base := 0x40220, lsb := 50, width := 1, acc := .w1s, reset := 0 }

/-- PROC_PREEMPT.REFUSED: W1C, reset 0. -/
def PROC_PREEMPT.REFUSED : Fld :=
  { base := 0x40220, lsb := 51, width := 1, acc := .w1c, reset := 0 }

/-- PROC_SAVE.GRANULE number v: RW, reset 0. -/
def PROC_SAVE.GRANULE (v : Nat) : Fld :=
  { base := 0x40240, lsb := 16 * v + 0, width := 11, acc := .rw, reset := 0 }

/-- PROC_TEAR_STAT.CAUSE: RO, reset 0. -/
def PROC_TEAR_STAT.CAUSE : Fld :=
  { base := 0x40260, lsb := 0, width := 4, acc := .ro, reset := 0 }

/-- PROC_TEAR_STAT.PERIOD: RO, reset 0. -/
def PROC_TEAR_STAT.PERIOD : Fld :=
  { base := 0x40260, lsb := 4, width := 48, acc := .ro, reset := 0 }

/-- PROC_TEAR_CNT.DISCARDED: RC, reset 0. -/
def PROC_TEAR_CNT.DISCARDED : Fld :=
  { base := 0x40280, lsb := 0, width := 32, acc := .rc, reset := 0 }

/-- PROC_TEAR_CNT.TEARDOWNS: RC, reset 0. -/
def PROC_TEAR_CNT.TEARDOWNS : Fld :=
  { base := 0x40280, lsb := 32, width := 16, acc := .rc, reset := 0 }

/-- PROC_TEAR_CNT.PREEMPTS: RC, reset 0. -/
def PROC_TEAR_CNT.PREEMPTS : Fld :=
  { base := 0x40280, lsb := 48, width := 16, acc := .rc, reset := 0 }

/-- PROC_HEDGE.RATE: RW, reset 0. -/
def PROC_HEDGE.RATE : Fld :=
  { base := 0x40400, lsb := 0, width := 32, acc := .rw, reset := 0 }

/-- PROC_HEDGE.EN: RW, reset 0. -/
def PROC_HEDGE.EN : Fld :=
  { base := 0x40400, lsb := 32, width := 1, acc := .rw, reset := 0 }

/-- PROC_HEDGE_CNT.USED: RO, reset 0. -/
def PROC_HEDGE_CNT.USED : Fld :=
  { base := 0x40800, lsb := 0, width := 32, acc := .ro, reset := 0, latched := true }

/-- PROC_HEDGE_CNT.WAITS: RO, reset 0. -/
def PROC_HEDGE_CNT.WAITS : Fld :=
  { base := 0x40800, lsb := 32, width := 32, acc := .ro, reset := 0, latched := true }

/-- PROC_SERVE_CTRL.DEADLINE: RW, reset 0. -/
def PROC_SERVE_CTRL.DEADLINE : Fld :=
  { base := 0x41000, lsb := 0, width := 16, acc := .rw, reset := 0 }

/-- PROC_SERVE_CTRL.LAST: RW, reset 0. -/
def PROC_SERVE_CTRL.LAST : Fld :=
  { base := 0x41000, lsb := 16, width := 6, acc := .rw, reset := 0 }

/-- PROC_SERVE_CTRL.ARM: W1S, reset 0. -/
def PROC_SERVE_CTRL.ARM : Fld :=
  { base := 0x41000, lsb := 22, width := 1, acc := .w1s, reset := 0 }

/-- PROC_SERVE_CTRL.BATCH_ID: RW, reset 0. -/
def PROC_SERVE_CTRL.BATCH_ID : Fld :=
  { base := 0x41000, lsb := 32, width := 32, acc := .rw, reset := 0 }

/-- PROC_SERVE_STAT.START: RO, reset 0. -/
def PROC_SERVE_STAT.START : Fld :=
  { base := 0x41008, lsb := 0, width := 48, acc := .ro, reset := 0 }

/-- PROC_SERVE_STAT.ACTIVE: RO, reset 0. -/
def PROC_SERVE_STAT.ACTIVE : Fld :=
  { base := 0x41008, lsb := 48, width := 1, acc := .ro, reset := 0 }

/-- PROC_SERVE_STAT.FALLBACK: RO, reset 0. -/
def PROC_SERVE_STAT.FALLBACK : Fld :=
  { base := 0x41008, lsb := 49, width := 1, acc := .ro, reset := 0 }

/-- PROC_SERVE_STAT.DONE: RO, reset 0. -/
def PROC_SERVE_STAT.DONE : Fld :=
  { base := 0x41008, lsb := 50, width := 1, acc := .ro, reset := 0 }

/-- PROC_SERVE_STAT.MET: RO, reset 0. -/
def PROC_SERVE_STAT.MET : Fld :=
  { base := 0x41008, lsb := 51, width := 1, acc := .ro, reset := 0 }

/-- PROC_SERVE_STAT.MISSED: RO, reset 0. -/
def PROC_SERVE_STAT.MISSED : Fld :=
  { base := 0x41008, lsb := 52, width := 1, acc := .ro, reset := 0 }

/-- PROC_SERVE_STAT.NEXT: RO, reset 0. -/
def PROC_SERVE_STAT.NEXT : Fld :=
  { base := 0x41008, lsb := 53, width := 6, acc := .ro, reset := 0 }

/-- PROC_SERVE_SLIP.SLIP: RO, reset 0. -/
def PROC_SERVE_SLIP.SLIP : Fld :=
  { base := 0x41010, lsb := 0, width := 16, acc := .ro, reset := 0 }

/-- PROC_SERVE_SLIP.UNKNOWN: RC, reset 0. -/
def PROC_SERVE_SLIP.UNKNOWN : Fld :=
  { base := 0x41010, lsb := 16, width := 16, acc := .rc, reset := 0 }

/-- PROC_SERVE_SLIP.DONE_BELL: RO, reset 0. -/
def PROC_SERVE_SLIP.DONE_BELL : Fld :=
  { base := 0x41010, lsb := 32, width := 16, acc := .ro, reset := 0 }

/-- PROC_SERVE_MS.MILESTONE: RW, reset 0. -/
def PROC_SERVE_MS.MILESTONE : Fld :=
  { base := 0x41100, lsb := 0, width := 16, acc := .rw, reset := 0 }

/-- PROC_SERVE_MS.PLAN: RW, reset 0. -/
def PROC_SERVE_MS.PLAN : Fld :=
  { base := 0x41100, lsb := 16, width := 16, acc := .rw, reset := 0 }

/-- HUB_SEC_CTRL.AT_STEP: RW, reset 0. -/
def HUB_SEC_CTRL.AT_STEP : Fld :=
  { base := 0x5000, lsb := 0, width := 32, acc := .rw, reset := 0 }

/-- HUB_SEC_CTRL.INTERVAL: RW, reset 1. -/
def HUB_SEC_CTRL.INTERVAL : Fld :=
  { base := 0x5000, lsb := 32, width := 8, acc := .rw, reset := 1 }

/-- HUB_SEC_CTRL.K: RW, reset 1. -/
def HUB_SEC_CTRL.K : Fld :=
  { base := 0x5000, lsb := 40, width := 8, acc := .rw, reset := 1 }

/-- HUB_SEC_ERR.DIGEST_MISMATCH: RC, reset 0. -/
def HUB_SEC_ERR.DIGEST_MISMATCH : Fld :=
  { base := 0x5040, lsb := 0, width := 16, acc := .rc, reset := 0 }

/-- HUB_SEC_ERR.OTHER_SOURCE: RC, reset 0. -/
def HUB_SEC_ERR.OTHER_SOURCE : Fld :=
  { base := 0x5040, lsb := 16, width := 8, acc := .rc, reset := 0 }

/-- HUB_SEC_ERR.RESTORE_FAIL: RC, reset 0. -/
def HUB_SEC_ERR.RESTORE_FAIL : Fld :=
  { base := 0x5040, lsb := 24, width := 8, acc := .rc, reset := 0 }

/-- HUB_SEC_ERR.PAIR_REFUSED: RC, reset 0. -/
def HUB_SEC_ERR.PAIR_REFUSED : Fld :=
  { base := 0x5040, lsb := 32, width := 8, acc := .rc, reset := 0 }

/-- HUB_SEC_ERR.REJECT: RC, reset 0. -/
def HUB_SEC_ERR.REJECT : Fld :=
  { base := 0x5040, lsb := 40, width := 8, acc := .rc, reset := 0 }

/-- HUB_GRAFT.ADDR: RW, reset 0xFFFF. -/
def HUB_GRAFT.ADDR : Fld :=
  { base := 0x5048, lsb := 0, width := 16, acc := .rw, reset := 65535 }

/-- HUB_GRAFT.GO: W1S, reset 0. -/
def HUB_GRAFT.GO : Fld :=
  { base := 0x5048, lsb := 16, width := 1, acc := .w1s, reset := 0 }

/-- HUB_GRAFT.DONE: RO, reset 0. -/
def HUB_GRAFT.DONE : Fld :=
  { base := 0x5048, lsb := 17, width := 1, acc := .ro, reset := 0 }

/-- HUB_HARDEN.KIND: RW, reset 0. -/
def HUB_HARDEN.KIND : Fld :=
  { base := 0x5050, lsb := 0, width := 2, acc := .rw, reset := 0 }

/-- HUB_HARDEN.REGION: RW, reset 0. -/
def HUB_HARDEN.REGION : Fld :=
  { base := 0x5050, lsb := 2, width := 2, acc := .rw, reset := 0 }

/-- HUB_HARDEN.INDEX: RW, reset 0. -/
def HUB_HARDEN.INDEX : Fld :=
  { base := 0x5050, lsb := 4, width := 5, acc := .rw, reset := 0 }

/-- HUB_HARDEN.BELLS: RW, reset 64. -/
def HUB_HARDEN.BELLS : Fld :=
  { base := 0x5050, lsb := 9, width := 8, acc := .rw, reset := 64 }

/-- HUB_HARDEN.REQ: W1S, reset 0. -/
def HUB_HARDEN.REQ : Fld :=
  { base := 0x5050, lsb := 17, width := 1, acc := .w1s, reset := 0 }

/-- HUB_HARDEN.STATE: RO, reset 0. -/
def HUB_HARDEN.STATE : Fld :=
  { base := 0x5050, lsb := 18, width := 2, acc := .ro, reset := 0 }

/-- HUB_HARDEN.CLEAN: RO, reset 0. -/
def HUB_HARDEN.CLEAN : Fld :=
  { base := 0x5050, lsb := 20, width := 8, acc := .ro, reset := 0 }

/-- HUB_HARDEN.COMPARED: RC, reset 0. -/
def HUB_HARDEN.COMPARED : Fld :=
  { base := 0x5050, lsb := 28, width := 16, acc := .rc, reset := 0 }

/-- HUB_HARDEN.MISMATCH: RC, reset 0. -/
def HUB_HARDEN.MISMATCH : Fld :=
  { base := 0x5050, lsb := 44, width := 8, acc := .rc, reset := 0 }

/-- HUB_PGRP.ADDR number v: RW, reset 0xFFFF. -/
def HUB_PGRP.ADDR (v : Nat) : Fld :=
  { base := 0x5100, lsb := 16 * v + 0, width := 16, acc := .rw, reset := 65535 }

/-- HUB_SEC_STORE0.BASE: RW, reset 0. -/
def HUB_SEC_STORE0.BASE : Fld :=
  { base := 0x6000, lsb := 0, width := 25, acc := .rw, reset := 0 }

/-- HUB_SEC_STORE0.GRANULES: RW, reset 0. -/
def HUB_SEC_STORE0.GRANULES : Fld :=
  { base := 0x6000, lsb := 25, width := 20, acc := .rw, reset := 0 }

/-- HUB_SEC_STORE0.KIND: RW, reset 0. -/
def HUB_SEC_STORE0.KIND : Fld :=
  { base := 0x6000, lsb := 45, width := 2, acc := .rw, reset := 0 }

/-- HUB_SEC_STORE0.PAIRS: RW, reset 0. -/
def HUB_SEC_STORE0.PAIRS : Fld :=
  { base := 0x6000, lsb := 47, width := 6, acc := .rw, reset := 0 }

/-- HUB_SEC_STORE0.PGRP: RW, reset 0. -/
def HUB_SEC_STORE0.PGRP : Fld :=
  { base := 0x6000, lsb := 53, width := 3, acc := .rw, reset := 0 }

/-- HUB_SEC_STORE1.SRC: RW, reset 0xFFFF. -/
def HUB_SEC_STORE1.SRC : Fld :=
  { base := 0x6008, lsb := 0, width := 16, acc := .rw, reset := 65535 }

/-- HUB_SEC_STORE1.CUR: RO, reset 0. -/
def HUB_SEC_STORE1.CUR : Fld :=
  { base := 0x6008, lsb := 16, width := 1, acc := .ro, reset := 0 }

/-- HUB_SEC_STORE1.VALID: RO, reset 0. -/
def HUB_SEC_STORE1.VALID : Fld :=
  { base := 0x6008, lsb := 17, width := 1, acc := .ro, reset := 0, warm := true }

/-- HUB_SEC_STORE1.WORKING: RO, reset 0. -/
def HUB_SEC_STORE1.WORKING : Fld :=
  { base := 0x6008, lsb := 18, width := 1, acc := .ro, reset := 0 }

/-- HUB_SEC_STORE1.STEP: RO, reset 0. -/
def HUB_SEC_STORE1.STEP : Fld :=
  { base := 0x6008, lsb := 32, width := 32, acc := .ro, reset := 0 }

/-- RGN_SEC_TGT.ADDR: RW, reset 0xFFFF. -/
def RGN_SEC_TGT.ADDR : Fld :=
  { base := 0x10A0000, lsb := 0, width := 16, acc := .rw, reset := 65535 }

/-- RGN_SEC_TGT.STORE: RW, reset 0. -/
def RGN_SEC_TGT.STORE : Fld :=
  { base := 0x10A0000, lsb := 16, width := 8, acc := .rw, reset := 0 }

/-- RGN_SEC_TGT.PGRP: RW, reset 0. -/
def RGN_SEC_TGT.PGRP : Fld :=
  { base := 0x10A0000, lsb := 24, width := 3, acc := .rw, reset := 0 }

/-- RGN_SEC_TGT.OVERRIDE: RW, reset 0. -/
def RGN_SEC_TGT.OVERRIDE : Fld :=
  { base := 0x10A0000, lsb := 27, width := 1, acc := .rw, reset := 0 }

/-- RGN_SEC_TGT.PAIR: W1S, reset 0. -/
def RGN_SEC_TGT.PAIR : Fld :=
  { base := 0x10A0000, lsb := 28, width := 1, acc := .w1s, reset := 0 }

/-- RGN_SEC_TGT.STATE: RO, reset 0. -/
def RGN_SEC_TGT.STATE : Fld :=
  { base := 0x10A0000, lsb := 29, width := 2, acc := .ro, reset := 0 }

/-- RGN_SEC_TGT.RESULT: RO, reset 0. -/
def RGN_SEC_TGT.RESULT : Fld :=
  { base := 0x10A0000, lsb := 31, width := 4, acc := .ro, reset := 0 }

/-- SE_SEC0.SEC_BASE: RW, reset 0. -/
def SE_SEC0.SEC_BASE : Fld :=
  { base := 0x8002000, lsb := 0, width := 20, acc := .rw, reset := 0 }

/-- SE_SEC0.PLACE: RW, reset 0. -/
def SE_SEC0.PLACE : Fld :=
  { base := 0x8002000, lsb := 20, width := 20, acc := .rw, reset := 0 }

/-- SE_SEC0.SEC_VALID: RO, reset 0. -/
def SE_SEC0.SEC_VALID : Fld :=
  { base := 0x8002000, lsb := 40, width := 1, acc := .ro, reset := 0 }

/-- SE_SEC0.CLASS: RW, reset 0. -/
def SE_SEC0.CLASS : Fld :=
  { base := 0x8002000, lsb := 41, width := 2, acc := .rw, reset := 0 }

/-- SE_SEC0.REC: RW, reset 0. -/
def SE_SEC0.REC : Fld :=
  { base := 0x8002000, lsb := 43, width := 2, acc := .rw, reset := 0 }

/-- SE_SEC1.SEC_STEP: RO, reset 0. -/
def SE_SEC1.SEC_STEP : Fld :=
  { base := 0x8002008, lsb := 0, width := 32, acc := .ro, reset := 0, warm := true }

/-- HUB_BAD_ACCESS_CNT.COUNT: RC, reset 0. -/
def HUB_BAD_ACCESS_CNT.COUNT : Fld :=
  { base := 0x348, lsb := 0, width := 32, acc := .rc, reset := 0 }

/-- HUB_MIRROR.EN: RW, reset 0. -/
def HUB_MIRROR.EN : Fld :=
  { base := 0x500, lsb := 0, width := 1, acc := .rw, reset := 0 }

/-- HUB_MIRROR.ADDR: RW, reset 0. -/
def HUB_MIRROR.ADDR : Fld :=
  { base := 0x500, lsb := 12, width := 52, acc := .rw, reset := 0 }

/-- HUB_IMG.SLOT: RO, reset Boot. -/
def HUB_IMG.SLOT : Fld :=
  { base := 0x600, lsb := 0, width := 1, acc := .ro, reset := 0 }

/-- HUB_IMG.STATE: RO, reset 0. -/
def HUB_IMG.STATE : Fld :=
  { base := 0x600, lsb := 1, width := 2, acc := .ro, reset := 0 }

/-- HUB_IMG.TRIAL_FAIL: W1C, reset 0. -/
def HUB_IMG.TRIAL_FAIL : Fld :=
  { base := 0x600, lsb := 3, width := 1, acc := .w1c, reset := 0 }

/-- HUB_IMG.SVN_FLOOR: RO, reset OTP. -/
def HUB_IMG.SVN_FLOOR : Fld :=
  { base := 0x600, lsb := 8, width := 8, acc := .ro, reset := 0, warm := true }

/-- HUB_IMG.SEQ: RO, reset Boot. -/
def HUB_IMG.SEQ : Fld :=
  { base := 0x600, lsb := 32, width := 32, acc := .ro, reset := 0 }

/-- PH_IN.WORD: RW, reset 0. -/
def PH_IN.WORD : Fld :=
  { base := 0x30000, lsb := 0, width := 64, acc := .rw, reset := 0 }

/-- PH_OUT.WORD: RW, reset 0. -/
def PH_OUT.WORD : Fld :=
  { base := 0x30400, lsb := 0, width := 64, acc := .rw, reset := 0 }

/-- PH_IN_STAT.FULL: W1C, reset 0. -/
def PH_IN_STAT.FULL : Fld :=
  { base := 0x30800, lsb := 0, width := 1, acc := .w1c, reset := 0 }

/-- PH_IN_STAT.COLLIDE: W1C, reset 0. -/
def PH_IN_STAT.COLLIDE : Fld :=
  { base := 0x30800, lsb := 1, width := 1, acc := .w1c, reset := 0 }

/-- PH_IN_STAT.REJECT: RC, reset 0. -/
def PH_IN_STAT.REJECT : Fld :=
  { base := 0x30800, lsb := 8, width := 8, acc := .rc, reset := 0 }

/-- PH_IN_STAT.POSTS: RO, reset 0. -/
def PH_IN_STAT.POSTS : Fld :=
  { base := 0x30800, lsb := 16, width := 16, acc := .ro, reset := 0 }

/-- PH_IN_STAT.SRC: RO, reset 0. -/
def PH_IN_STAT.SRC : Fld :=
  { base := 0x30800, lsb := 32, width := 3, acc := .ro, reset := 0 }

/-- PH_IN_STAT.SRC_ADDR: RO, reset 0. -/
def PH_IN_STAT.SRC_ADDR : Fld :=
  { base := 0x30800, lsb := 48, width := 16, acc := .ro, reset := 0 }

/-- PH_OUT_STAT.FULL: W1C, reset 0. -/
def PH_OUT_STAT.FULL : Fld :=
  { base := 0x30880, lsb := 0, width := 1, acc := .w1c, reset := 0 }

/-- PH_OUT_STAT.COLLIDE: W1C, reset 0. -/
def PH_OUT_STAT.COLLIDE : Fld :=
  { base := 0x30880, lsb := 1, width := 1, acc := .w1c, reset := 0 }

/-- PH_OUT_STAT.REJECT: RC, reset 0. -/
def PH_OUT_STAT.REJECT : Fld :=
  { base := 0x30880, lsb := 8, width := 8, acc := .rc, reset := 0 }

/-- PH_OUT_STAT.POSTS: RO, reset 0. -/
def PH_OUT_STAT.POSTS : Fld :=
  { base := 0x30880, lsb := 16, width := 16, acc := .ro, reset := 0 }

/-- PH_OUT_STAT.SRC: RO, reset 0. -/
def PH_OUT_STAT.SRC : Fld :=
  { base := 0x30880, lsb := 32, width := 3, acc := .ro, reset := 0 }

/-- PH_OUT_STAT.SRC_ADDR: RO, reset 0. -/
def PH_OUT_STAT.SRC_ADDR : Fld :=
  { base := 0x30880, lsb := 48, width := 16, acc := .ro, reset := 0 }

/-- PH_CFG.FUNC: RW, reset 0. -/
def PH_CFG.FUNC : Fld :=
  { base := 0x30900, lsb := 0, width := 3, acc := .rw, reset := 0 }

/-- PH_CFG.DOMAIN: RW, reset 0. -/
def PH_CFG.DOMAIN : Fld :=
  { base := 0x30900, lsb := 3, width := 3, acc := .rw, reset := 0 }

/-- PH_MODE.STARTUP: RO, reset 1. -/
def PH_MODE.STARTUP : Fld :=
  { base := 0x30980, lsb := 0, width := 1, acc := .ro, reset := 1 }

/-- PH_MODE.TEST: RW, reset 0. -/
def PH_MODE.TEST : Fld :=
  { base := 0x30980, lsb := 1, width := 1, acc := .rw, reset := 0 }

/-- PH_MODE.RECOVERY: RW, reset 0. -/
def PH_MODE.RECOVERY : Fld :=
  { base := 0x30980, lsb := 2, width := 1, acc := .rw, reset := 0 }

/-- PH_MODE.STRICT: RO, reset 1. -/
def PH_MODE.STRICT : Fld :=
  { base := 0x30980, lsb := 3, width := 1, acc := .ro, reset := 1 }

/-- PH_TOUT.IN: W1C, reset 0. -/
def PH_TOUT.IN : Fld :=
  { base := 0x30988, lsb := 0, width := 16, acc := .w1c, reset := 0 }

/-- PH_TOUT.OUT: W1C, reset 0. -/
def PH_TOUT.OUT : Fld :=
  { base := 0x30988, lsb := 16, width := 16, acc := .w1c, reset := 0 }

/-- PH_FDATA.WORD: RW, reset 0. -/
def PH_FDATA.WORD : Fld :=
  { base := 0x30A00, lsb := 0, width := 64, acc := .rw, reset := 0 }

/-- PH_FSEND.DEST: RW, reset 0xFFFF. -/
def PH_FSEND.DEST : Fld :=
  { base := 0x30A40, lsb := 0, width := 16, acc := .rw, reset := 65535 }

/-- PH_FSEND.PH: RW, reset 0. -/
def PH_FSEND.PH : Fld :=
  { base := 0x30A40, lsb := 16, width := 4, acc := .rw, reset := 0 }

/-- PH_FSEND.GO: W1S, reset 0. -/
def PH_FSEND.GO : Fld :=
  { base := 0x30A40, lsb := 20, width := 1, acc := .w1s, reset := 0 }

/-- PH_FSEND.STATUS: RO, reset 0. -/
def PH_FSEND.STATUS : Fld :=
  { base := 0x30A40, lsb := 21, width := 3, acc := .ro, reset := 0 }

/-- HUB_RESET.KEY: WO, reset 0. -/
def HUB_RESET.KEY : Fld :=
  { base := 0x700, lsb := 0, width := 8, acc := .wo, reset := 0 }

/-- HUB_RESET.MODULE: WO, reset 0. -/
def HUB_RESET.MODULE : Fld :=
  { base := 0x700, lsb := 8, width := 1, acc := .wo, reset := 0 }

/-- HUB_RESET.REGION: WO, reset 0. -/
def HUB_RESET.REGION : Fld :=
  { base := 0x700, lsb := 9, width := 1, acc := .wo, reset := 0 }

/-- HUB_RESET.REGION_SEL: WO, reset 0. -/
def HUB_RESET.REGION_SEL : Fld :=
  { base := 0x700, lsb := 10, width := 2, acc := .wo, reset := 0 }

/-- HUB_RESET.LAST: RO, reset 0. -/
def HUB_RESET.LAST : Fld :=
  { base := 0x700, lsb := 16, width := 4, acc := .ro, reset := 0 }

/-- PWR_CAP.CAP_W: RW, reset 2,400. -/
def PWR_CAP.CAP_W : Fld :=
  { base := 0x20000, lsb := 0, width := 12, acc := .rw, reset := 2400, warm := true }

/-- PWR_STAT.MEAN_W: RO, reset 0. -/
def PWR_STAT.MEAN_W : Fld :=
  { base := 0x20008, lsb := 0, width := 16, acc := .ro, reset := 0 }

/-- PWR_STAT.PEAK_W: RO, reset 0. -/
def PWR_STAT.PEAK_W : Fld :=
  { base := 0x20008, lsb := 16, width := 16, acc := .ro, reset := 0 }

/-- PWR_STAT.THROTTLE: RO, reset 0. -/
def PWR_STAT.THROTTLE : Fld :=
  { base := 0x20008, lsb := 32, width := 4, acc := .ro, reset := 0 }

/-- PWR_STAT.HUB_HOT: RO, reset 0. -/
def PWR_STAT.HUB_HOT : Fld :=
  { base := 0x20008, lsb := 36, width := 1, acc := .ro, reset := 0 }

/-- HUB_PWR_STATE.STATE: RO, reset 0. -/
def HUB_PWR_STATE.STATE : Fld :=
  { base := 0x20010, lsb := 0, width := 2, acc := .ro, reset := 0 }

/-- HUB_PWR_STATE.WAKE: W1S, reset 0. -/
def HUB_PWR_STATE.WAKE : Fld :=
  { base := 0x20010, lsb := 2, width := 1, acc := .w1s, reset := 0 }

/-- HUB_PWR_STATE.PWR_EN: RO, reset 0. -/
def HUB_PWR_STATE.PWR_EN : Fld :=
  { base := 0x20010, lsb := 3, width := 1, acc := .ro, reset := 0 }

/-- PWR_ALLOT.ALLOT_W: RO, reset 0. -/
def PWR_ALLOT.ALLOT_W : Fld :=
  { base := 0x20100, lsb := 0, width := 16, acc := .ro, reset := 0 }

/-- PWR_ALLOT.DRAW_W: RO, reset 0. -/
def PWR_ALLOT.DRAW_W : Fld :=
  { base := 0x20100, lsb := 16, width := 16, acc := .ro, reset := 0 }

/-- PWR_ALLOT.PACED: RO, reset 0. -/
def PWR_ALLOT.PACED : Fld :=
  { base := 0x20100, lsb := 32, width := 16, acc := .ro, reset := 0, latched := true }

/-- PWR_DROOP.EVENTS: RC, reset 0. -/
def PWR_DROOP.EVENTS : Fld :=
  { base := 0x20200, lsb := 0, width := 16, acc := .rc, reset := 0 }

/-- PWR_DROOP.MIN: RO, reset 0. -/
def PWR_DROOP.MIN : Fld :=
  { base := 0x20200, lsb := 16, width := 16, acc := .ro, reset := 0 }

/-- PWR_DROOP.VALID: W1C, reset 0. -/
def PWR_DROOP.VALID : Fld :=
  { base := 0x20200, lsb := 32, width := 1, acc := .w1c, reset := 0 }

/-- PWR_THERM.TEMP_C: RO, reset 0. -/
def PWR_THERM.TEMP_C : Fld :=
  { base := 0x20300, lsb := 0, width := 8, acc := .ro, reset := 0 }

/-- PWR_THERM.MAX_C: RC, reset 0. -/
def PWR_THERM.MAX_C : Fld :=
  { base := 0x20300, lsb := 8, width := 8, acc := .rc, reset := 0 }

/-- PWR_THERM.THROTTLE_BELLS: RC, reset 0. -/
def PWR_THERM.THROTTLE_BELLS : Fld :=
  { base := 0x20300, lsb := 16, width := 16, acc := .rc, reset := 0 }

/-- PWR_THERM.CUT_PCT: RO, reset 0. -/
def PWR_THERM.CUT_PCT : Fld :=
  { base := 0x20300, lsb := 32, width := 8, acc := .ro, reset := 0 }

/-- PWR_THERM.TRIPS: RC, reset 0. -/
def PWR_THERM.TRIPS : Fld :=
  { base := 0x20300, lsb := 40, width := 8, acc := .rc, reset := 0, warm := true }

/-- A register of the control space: name, offset of index zero, the strides and counts of its indices from the
outermost, its width in bytes, its fields. -/
structure RegRow where
  name : String
  base : Nat
  dims : List (Nat × Nat)
  bytes : Nat
  fields : List Fld
deriving DecidableEq, Repr

/-- The HUB_ registers. -/
def regRowsHub : List RegRow :=
  [{ name := "HUB_BELL_PERIOD", base := 0x10000, dims := [], bytes := 4,
     fields := [HUB_BELL_PERIOD.PERIOD_US] },
   { name := "HUB_BELL_STATUS", base := 0x10008, dims := [], bytes := 8,
     fields := [HUB_BELL_STATUS.PERIOD_NUM, HUB_BELL_STATUS.CUR_PERIOD_US, HUB_BELL_STATUS.IS_MASTER, HUB_BELL_STATUS.IS_DEPUTY, HUB_BELL_STATUS.SYNCED] },
   { name := "HUB_BELL_TIMING", base := 0x10010, dims := [], bytes := 8,
     fields := [HUB_BELL_TIMING.FIRE_DELAY_NS, HUB_BELL_TIMING.LEAD_NS, HUB_BELL_TIMING.PATH_DELAY_NS, HUB_BELL_TIMING.ARRIVAL_LINK] },
   { name := "HUB_BELL_MASTER", base := 0x10018, dims := [], bytes := 8,
     fields := [HUB_BELL_MASTER.MASTER_SERIAL] },
   { name := "HUB_BELL_ERR", base := 0x10020, dims := [], bytes := 8,
     fields := [HUB_BELL_ERR.MISSED, HUB_BELL_ERR.LATE_ARRIVE, HUB_BELL_ERR.MASTER_CHANGE, HUB_BELL_ERR.LATE_REPORT, HUB_BELL_ERR.REFUSED] },
   { name := "HUB_JOB_SEED", base := 0x200, dims := [(0x8, 4)], bytes := 8,
     fields := [HUB_JOB_SEED.SEED] },
   { name := "HUB_STK_MODE", base := 0x300, dims := [(0x8, 4)], bytes := 4,
     fields := [HUB_STK_MODE.INTLV] },
   { name := "HUB_CXL_DENY_CNT", base := 0x340, dims := [], bytes := 4,
     fields := [HUB_CXL_DENY_CNT.COUNT] },
   { name := "HUB_OWN", base := 0x2000, dims := [(0x8, 1536)], bytes := 8,
     fields := [HUB_OWN.KIND, HUB_OWN.TAG, HUB_OWN.NEXT_KIND, HUB_OWN.NEXT_TAG, HUB_OWN.ERASE, HUB_OWN.REQ, HUB_OWN.HOST_OK, HUB_OWN.FILLING] },
   { name := "HUB_SERIAL", base := 0x400, dims := [], bytes := 8,
     fields := [HUB_SERIAL.SERIAL] },
   { name := "HUB_FAB", base := 0x408, dims := [], bytes := 8,
     fields := [HUB_FAB.ADDR, HUB_FAB.GROUP, HUB_FAB.POS_ID, HUB_FAB.FEED_ID, HUB_FAB.SPARE] },
   { name := "HUB_RC_CTRL", base := 0x410, dims := [], bytes := 8,
     fields := [HUB_RC_CTRL.EXPECT, HUB_RC_CTRL.STABLE_US] },
   { name := "HUB_RC_STAT", base := 0x418, dims := [], bytes := 8,
     fields := [HUB_RC_STAT.STATE, HUB_RC_STAT.FAIL_CODE, HUB_RC_STAT.EPOCH, HUB_RC_STAT.HOPS] },
   { name := "HUB_SEC_CTRL", base := 0x5000, dims := [(0x8, 4)], bytes := 8,
     fields := [HUB_SEC_CTRL.AT_STEP, HUB_SEC_CTRL.INTERVAL, HUB_SEC_CTRL.K] },
   { name := "HUB_SEC_ERR", base := 0x5040, dims := [], bytes := 8,
     fields := [HUB_SEC_ERR.DIGEST_MISMATCH, HUB_SEC_ERR.OTHER_SOURCE, HUB_SEC_ERR.RESTORE_FAIL, HUB_SEC_ERR.PAIR_REFUSED, HUB_SEC_ERR.REJECT] },
   { name := "HUB_GRAFT", base := 0x5048, dims := [], bytes := 8,
     fields := [HUB_GRAFT.ADDR, HUB_GRAFT.GO, HUB_GRAFT.DONE] },
   { name := "HUB_HARDEN", base := 0x5050, dims := [], bytes := 8,
     fields := [HUB_HARDEN.KIND, HUB_HARDEN.REGION, HUB_HARDEN.INDEX, HUB_HARDEN.BELLS, HUB_HARDEN.REQ, HUB_HARDEN.STATE, HUB_HARDEN.CLEAN, HUB_HARDEN.COMPARED, HUB_HARDEN.MISMATCH] },
   { name := "HUB_PGRP", base := 0x5100, dims := [(0x10, 8), (0x8, 2)], bytes := 8,
     fields := [HUB_PGRP.ADDR 0, HUB_PGRP.ADDR 1, HUB_PGRP.ADDR 2, HUB_PGRP.ADDR 3] },
   { name := "HUB_SEC_STORE0", base := 0x6000, dims := [(0x10, 256)], bytes := 8,
     fields := [HUB_SEC_STORE0.BASE, HUB_SEC_STORE0.GRANULES, HUB_SEC_STORE0.KIND, HUB_SEC_STORE0.PAIRS, HUB_SEC_STORE0.PGRP] },
   { name := "HUB_SEC_STORE1", base := 0x6008, dims := [(0x10, 256)], bytes := 8,
     fields := [HUB_SEC_STORE1.SRC, HUB_SEC_STORE1.CUR, HUB_SEC_STORE1.VALID, HUB_SEC_STORE1.WORKING, HUB_SEC_STORE1.STEP] },
   { name := "HUB_BAD_ACCESS_CNT", base := 0x348, dims := [], bytes := 4,
     fields := [HUB_BAD_ACCESS_CNT.COUNT] },
   { name := "HUB_MIRROR", base := 0x500, dims := [(0x8, 5)], bytes := 8,
     fields := [HUB_MIRROR.EN, HUB_MIRROR.ADDR] },
   { name := "HUB_IMG", base := 0x600, dims := [], bytes := 8,
     fields := [HUB_IMG.SLOT, HUB_IMG.STATE, HUB_IMG.TRIAL_FAIL, HUB_IMG.SVN_FLOOR, HUB_IMG.SEQ] },
   { name := "HUB_RESET", base := 0x700, dims := [], bytes := 4,
     fields := [HUB_RESET.KEY, HUB_RESET.MODULE, HUB_RESET.REGION, HUB_RESET.REGION_SEL, HUB_RESET.LAST] },
   { name := "HUB_PWR_STATE", base := 0x20010, dims := [], bytes := 8,
     fields := [HUB_PWR_STATE.STATE, HUB_PWR_STATE.WAKE, HUB_PWR_STATE.PWR_EN] }]

/-- The PROC_ registers. -/
def regRowsProc : List RegRow :=
  [{ name := "PROC_PART_MAP", base := 0x40000, dims := [], bytes := 4,
     fields := [PROC_PART_MAP.BP0, PROC_PART_MAP.BP1, PROC_PART_MAP.BP2, PROC_PART_MAP.BP3] },
   { name := "PROC_HOLD_LIMIT", base := 0x40008, dims := [], bytes := 4,
     fields := [PROC_HOLD_LIMIT.LIMIT] },
   { name := "PROC_PART_STAT", base := 0x40010, dims := [(0x8, 4)], bytes := 8,
     fields := [PROC_PART_STAT.HOLD_CNT, PROC_PART_STAT.CONSEC, PROC_PART_STAT.HELD, PROC_PART_STAT.STALL, PROC_PART_STAT.DESYNC, PROC_PART_STAT.PERIOD_MISMATCH] },
   { name := "PROC_PART_BLOCK", base := 0x40030, dims := [(0x8, 4)], bytes := 8,
     fields := [PROC_PART_BLOCK.BLOCKS] },
   { name := "PROC_REGION_STAT", base := 0x40100, dims := [(0x8, 4)], bytes := 8,
     fields := [PROC_REGION_STAT.LAST_USE, PROC_REGION_STAT.WARN_CNT, PROC_REGION_STAT.LATE_CNT] },
   { name := "PROC_PART_CFG", base := 0x40200, dims := [(0x8, 4)], bytes := 8,
     fields := [PROC_PART_CFG.REGIONS, PROC_PART_CFG.STATE, PROC_PART_CFG.LOAD, PROC_PART_CFG.TEARDOWN, PROC_PART_CFG.DBG_LOCK, PROC_PART_CFG.SAVED, PROC_PART_CFG.MULTI, PROC_PART_CFG.JOB_TAG, PROC_PART_CFG.SAVED_TAG] },
   { name := "PROC_PREEMPT", base := 0x40220, dims := [(0x8, 4)], bytes := 8,
     fields := [PROC_PREEMPT.AT, PROC_PREEMPT.MODE, PROC_PREEMPT.REQ, PROC_PREEMPT.RESUME, PROC_PREEMPT.REFUSED] },
   { name := "PROC_SAVE", base := 0x40240, dims := [(0x8, 4)], bytes := 8,
     fields := [PROC_SAVE.GRANULE 0, PROC_SAVE.GRANULE 1, PROC_SAVE.GRANULE 2, PROC_SAVE.GRANULE 3] },
   { name := "PROC_TEAR_STAT", base := 0x40260, dims := [(0x8, 4)], bytes := 8,
     fields := [PROC_TEAR_STAT.CAUSE, PROC_TEAR_STAT.PERIOD] },
   { name := "PROC_TEAR_CNT", base := 0x40280, dims := [(0x8, 4)], bytes := 8,
     fields := [PROC_TEAR_CNT.DISCARDED, PROC_TEAR_CNT.TEARDOWNS, PROC_TEAR_CNT.PREEMPTS] },
   { name := "PROC_HEDGE", base := 0x40400, dims := [(0x80, 5), (0x8, 16)], bytes := 8,
     fields := [PROC_HEDGE.RATE, PROC_HEDGE.EN] },
   { name := "PROC_HEDGE_CNT", base := 0x40800, dims := [(0x80, 5), (0x8, 16)], bytes := 8,
     fields := [PROC_HEDGE_CNT.USED, PROC_HEDGE_CNT.WAITS] },
   { name := "PROC_SERVE_CTRL", base := 0x41000, dims := [(0x200, 4)], bytes := 8,
     fields := [PROC_SERVE_CTRL.DEADLINE, PROC_SERVE_CTRL.LAST, PROC_SERVE_CTRL.ARM, PROC_SERVE_CTRL.BATCH_ID] },
   { name := "PROC_SERVE_STAT", base := 0x41008, dims := [(0x200, 4)], bytes := 8,
     fields := [PROC_SERVE_STAT.START, PROC_SERVE_STAT.ACTIVE, PROC_SERVE_STAT.FALLBACK, PROC_SERVE_STAT.DONE, PROC_SERVE_STAT.MET, PROC_SERVE_STAT.MISSED, PROC_SERVE_STAT.NEXT] },
   { name := "PROC_SERVE_SLIP", base := 0x41010, dims := [(0x200, 4)], bytes := 8,
     fields := [PROC_SERVE_SLIP.SLIP, PROC_SERVE_SLIP.UNKNOWN, PROC_SERVE_SLIP.DONE_BELL] },
   { name := "PROC_SERVE_MS", base := 0x41100, dims := [(0x200, 4), (0x4, 64)], bytes := 4,
     fields := [PROC_SERVE_MS.MILESTONE, PROC_SERVE_MS.PLAN] }]

/-- The RGN_ registers. -/
def regRowsRgn : List RegRow :=
  [{ name := "RGN_ACCT_SEQ", base := 0x1010000, dims := [(0x1000000, 4)], bytes := 8,
     fields := [RGN_ACCT_SEQ.PERIOD_NUM] },
   { name := "RGN_PHASE_CNT", base := 0x1010008, dims := [(0x1000000, 4), (0x4, 6)], bytes := 4,
     fields := [RGN_PHASE_CNT.CYCLES] },
   { name := "RGN_IDLE", base := 0x1010100, dims := [(0x1000000, 4), (0x20, 53), (0x4, 8)], bytes := 4,
     fields := [RGN_IDLE.CYCLES] },
   { name := "RGN_NUM_CNT", base := 0x1020000, dims := [(0x1000000, 4)], bytes := 8,
     fields := [RGN_NUM_CNT.SAT, RGN_NUM_CNT.NONFINITE] },
   { name := "RGN_NF_FIRST0", base := 0x1020008, dims := [(0x1000000, 4)], bytes := 8,
     fields := [RGN_NF_FIRST0.ELEM_INDEX, RGN_NF_FIRST0.ENGINE, RGN_NF_FIRST0.VALID] },
   { name := "RGN_NF_FIRST1", base := 0x1020010, dims := [(0x1000000, 4)], bytes := 8,
     fields := [RGN_NF_FIRST1.TENSOR_ID, RGN_NF_FIRST1.CLASS, RGN_NF_FIRST1.ISSUE_ORD] },
   { name := "RGN_GEN_STEP", base := 0x1020020, dims := [(0x1000000, 4)], bytes := 4,
     fields := [RGN_GEN_STEP.STEP] },
   { name := "RGN_DESC", base := 0x1400000, dims := [(0x1000000, 4), (0x40, 4096), (0x8, 8)], bytes := 8,
     fields := [RGN_DESC.WORD] },
   { name := "RGN_SEQ_TT", base := 0x1000000, dims := [(0x1000000, 4)], bytes := 8,
     fields := [RGN_SEQ_TT.TT_OFFSET] },
   { name := "RGN_SEQ_CTRL", base := 0x1000008, dims := [(0x1000000, 4)], bytes := 4,
     fields := [RGN_SEQ_CTRL.GO] },
   { name := "RGN_SEQ_STAT", base := 0x1000010, dims := [(0x1000000, 4)], bytes := 8,
     fields := [RGN_SEQ_STAT.STATE, RGN_SEQ_STAT.SLOT, RGN_SEQ_STAT.HOLD_FLAG, RGN_SEQ_STAT.FALLBACK] },
   { name := "RGN_SEQ_ERR", base := 0x1000018, dims := [(0x1000000, 4)], bytes := 8,
     fields := [RGN_SEQ_ERR.CODE, RGN_SEQ_ERR.ENGINE, RGN_SEQ_ERR.MORE, RGN_SEQ_ERR.SLOT, RGN_SEQ_ERR.ORDINAL] },
   { name := "RGN_SEQ_CNT", base := 0x1000020, dims := [(0x1000000, 4)], bytes := 8,
     fields := [RGN_SEQ_CNT.DISPATCHED, RGN_SEQ_CNT.QFULL] },
   { name := "RGN_SEQ_KILL", base := 0x1000028, dims := [(0x1000000, 4)], bytes := 8,
     fields := [RGN_SEQ_KILL.KILLED, RGN_SEQ_KILL.SHADOWS] },
   { name := "RGN_SEQ_SQ", base := 0x1000100, dims := [(0x1000000, 4), (0x8, 32)], bytes := 8,
     fields := [RGN_SEQ_SQ.VALUE] },
   { name := "RGN_TOK", base := 0x1030000, dims := [(0x1000000, 4), (0x4, 256)], bytes := 4,
     fields := [RGN_TOK.VALUE, RGN_TOK.LINK] },
   { name := "RGN_ROUTE_CTRL", base := 0x1090000, dims := [(0x1000000, 4)], bytes := 4,
     fields := [RGN_ROUTE_CTRL.ACTIVE, RGN_ROUTE_CTRL.SWITCH] },
   { name := "RGN_ROUTE", base := 0x10C0000, dims := [(0x1000000, 4), (0x10000, 2), (0x8, 8192)], bytes := 8,
     fields := [RGN_ROUTE.ENTRY 0, RGN_ROUTE.ENTRY 1, RGN_ROUTE.ENTRY 2, RGN_ROUTE.ENTRY 3, RGN_ROUTE.ENTRY 4, RGN_ROUTE.ENTRY 5, RGN_ROUTE.ENTRY 6, RGN_ROUTE.ENTRY 7] },
   { name := "RGN_SEC_TGT", base := 0x10A0000, dims := [(0x1000000, 4), (0x8, 16)], bytes := 8,
     fields := [RGN_SEC_TGT.ADDR, RGN_SEC_TGT.STORE, RGN_SEC_TGT.PGRP, RGN_SEC_TGT.OVERRIDE, RGN_SEC_TGT.PAIR, RGN_SEC_TGT.STATE, RGN_SEC_TGT.RESULT] }]

/-- The STAT_ registers. -/
def regRowsStat : List RegRow :=
  [{ name := "STAT_SEQ", base := 0x50000, dims := [], bytes := 8,
     fields := [STAT_SEQ.PERIOD_NUM] },
   { name := "STAT_MISS", base := 0x50010, dims := [], bytes := 8,
     fields := [STAT_MISS.ELEMENTS] },
   { name := "STAT_SLOT_ID", base := 0x50100, dims := [(0x4, 1024)], bytes := 4,
     fields := [STAT_SLOT_ID.TENSOR_ID, STAT_SLOT_ID.EN] },
   { name := "STAT_SLOT_CNT", base := 0x54000, dims := [(0x20, 1024), (0x8, 4)], bytes := 8,
     fields := [STAT_SLOT_CNT.ELEMENTS, STAT_SLOT_CNT.NAN] }]

/-- The ME_ registers. -/
def regRowsMe : List RegRow :=
  [{ name := "ME_STAT", base := 0x1040000, dims := [(0x1000000, 4), (0x40, 16)], bytes := 8,
     fields := [ME_STAT.STATE, ME_STAT.SPARES_USED, ME_STAT.LAST_COL] },
   { name := "ME_COL_MAP", base := 0x1040008, dims := [(0x1000000, 4), (0x40, 16)], bytes := 8,
     fields := [ME_COL_MAP.COL 0, ME_COL_MAP.VALID 0, ME_COL_MAP.COL 1, ME_COL_MAP.VALID 1, ME_COL_MAP.COL 2, ME_COL_MAP.VALID 2, ME_COL_MAP.COL 3, ME_COL_MAP.VALID 3] },
   { name := "ME_ERR_CNT", base := 0x1040010, dims := [(0x1000000, 4), (0x40, 16)], bytes := 8,
     fields := [ME_ERR_CNT.RESIDUE, ME_ERR_CNT.REPAIRS, ME_ERR_CNT.RERUN_FAIL, ME_ERR_CNT.ACC_CORR] },
   { name := "ME_FEED_CNT", base := 0x1040018, dims := [(0x1000000, 4), (0x40, 16)], bytes := 8,
     fields := [ME_FEED_CNT.PAUSE, ME_FEED_CNT.TILES] }]

/-- The SU_ registers. -/
def regRowsSu : List RegRow :=
  [{ name := "SU_STAT", base := 0x1050000, dims := [(0x1000000, 4), (0x20, 8)], bytes := 8,
     fields := [SU_STAT.STATE, SU_STAT.CLAIMED] },
   { name := "SU_CNT", base := 0x1050008, dims := [(0x1000000, 4), (0x20, 8)], bytes := 8,
     fields := [SU_CNT.EMPTY_ROWS, SU_CNT.NAN_ROWS, SU_CNT.ZERO_RESCALE] },
   { name := "SU_TILE_CNT", base := 0x1050010, dims := [(0x1000000, 4), (0x20, 8)], bytes := 8,
     fields := [SU_TILE_CNT.TILES, SU_TILE_CNT.SKIPPED] },
   { name := "SU_ROPE_CTRL", base := 0x1050200, dims := [(0x1000000, 4)], bytes := 4,
     fields := [SU_ROPE_CTRL.STYLE, SU_ROPE_CTRL.ROT_PAIRS] },
   { name := "SU_ROPE_FREQ", base := 0x1050400, dims := [(0x1000000, 4), (0x8, 128)], bytes := 8,
     fields := [SU_ROPE_FREQ.FREQ] }]

/-- The CE_ registers. -/
def regRowsCe : List RegRow :=
  [{ name := "CE_CNT", base := 0x1060000, dims := [(0x1000000, 4), (0x20, 2)], bytes := 8,
     fields := [CE_CNT.POSITIONS, CE_CNT.HALO_READS] }]

/-- The PE_ registers. -/
def regRowsPe : List RegRow :=
  [{ name := "PE_CNT", base := 0x1070000, dims := [(0x1000000, 4), (0x20, 4)], bytes := 8,
     fields := [PE_CNT.ELEMENTS, PE_CNT.ROWS] }]

/-- The VE_ registers. -/
def regRowsVe : List RegRow :=
  [{ name := "VE_CNT", base := 0x1080000, dims := [(0x1000000, 4)], bytes := 8,
     fields := [VE_CNT.BAD_ID, VE_CNT.IGNORED, VE_CNT.NO_TARGET] },
   { name := "VE_ROWS", base := 0x1080008, dims := [(0x1000000, 4)], bytes := 8,
     fields := [VE_ROWS.GATHERED, VE_ROWS.SCATTERED] }]

/-- The SE_ registers. -/
def regRowsSe : List RegRow :=
  [{ name := "SE_STAT", base := 0x8000000, dims := [(0x100000, 24)], bytes := 8,
     fields := [SE_STAT.STATE, SE_STAT.INFLIGHT] },
   { name := "SE_SCHED", base := 0x8000008, dims := [(0x100000, 24)], bytes := 4,
     fields := [SE_SCHED.W_UPD, SE_SCHED.W_ACC, SE_SCHED.W_SCAT, SE_SCHED.W_DRAIN, SE_SCHED.W_EXT] },
   { name := "SE_UPD_CMD", base := 0x8000010, dims := [(0x100000, 24)], bytes := 8,
     fields := [SE_UPD_CMD.OPT, SE_UPD_CMD.POLICY, SE_UPD_CMD.PAIR, SE_UPD_CMD.OUTCOME, SE_UPD_CMD.ELEMENTS] },
   { name := "SE_CNT", base := 0x8000018, dims := [(0x100000, 24)], bytes := 8,
     fields := [SE_CNT.UPD_ELEMENTS, SE_CNT.ACC_ELEMENTS] },
   { name := "SE_POISON", base := 0x8000020, dims := [(0x100000, 24)], bytes := 8,
     fields := [SE_POISON.MARKED, SE_POISON.SKIP_CMDS, SE_POISON.ZERO_BLOCKS] },
   { name := "SE_ERR", base := 0x8000028, dims := [(0x100000, 24)], bytes := 8,
     fields := [SE_ERR.UNCORR, SE_ERR.FAILED, SE_ERR.UNVOTED] },
   { name := "SE_ERR_ADDR", base := 0x8000030, dims := [(0x100000, 24)], bytes := 8,
     fields := [SE_ERR_ADDR.OFFSET, SE_ERR_ADDR.VALID] },
   { name := "SE_SCRUB", base := 0x8000038, dims := [(0x100000, 24)], bytes := 8,
     fields := [SE_SCRUB.HOURS, SE_SCRUB.PROGRESS, SE_SCRUB.CORR, SE_SCRUB.DOUBLE] },
   { name := "SE_REPAIR", base := 0x8000040, dims := [(0x100000, 24)], bytes := 8,
     fields := [SE_REPAIR.SPARES_LEFT, SE_REPAIR.SOFT, SE_REPAIR.HARD, SE_REPAIR.NO_SPARE] },
   { name := "SE_BUF0", base := 0x8001000, dims := [(0x100000, 24), (0x20, 64)], bytes := 8,
     fields := [SE_BUF0.BASE, SE_BUF0.GRANULES, SE_BUF0.DELTA] },
   { name := "SE_BUF1", base := 0x8001008, dims := [(0x100000, 24), (0x20, 64)], bytes := 8,
     fields := [SE_BUF1.CUR, SE_BUF1.DRAIN_PEND, SE_BUF1.DRAIN_BUF, SE_BUF1.VALID, SE_BUF1.DRAIN_NEXT, SE_BUF1.STEP] },
   { name := "SE_BUF2", base := 0x8001010, dims := [(0x100000, 24), (0x20, 64)], bytes := 8,
     fields := [SE_BUF2.DIRTY] },
   { name := "SE_SEC0", base := 0x8002000, dims := [(0x100000, 24), (0x10, 64)], bytes := 8,
     fields := [SE_SEC0.SEC_BASE, SE_SEC0.PLACE, SE_SEC0.SEC_VALID, SE_SEC0.CLASS, SE_SEC0.REC] },
   { name := "SE_SEC1", base := 0x8002008, dims := [(0x100000, 24), (0x10, 64)], bytes := 8,
     fields := [SE_SEC1.SEC_STEP] }]

/-- The LNK_ registers. -/
def regRowsLnk : List RegRow :=
  [{ name := "LNK_STAT", base := 0xC000000, dims := [(0x10000, 32)], bytes := 8,
     fields := [LNK_STAT.STATE, LNK_STAT.WIDTH, LNK_STAT.LANES_OK, LNK_STAT.POL_INV, LNK_STAT.REVERSED, LNK_STAT.REACH, LNK_STAT.LATENCY] },
   { name := "LNK_PEER_SERIAL", base := 0xC000008, dims := [(0x10000, 32)], bytes := 8,
     fields := [LNK_PEER_SERIAL.SERIAL] },
   { name := "LNK_PEER", base := 0xC000010, dims := [(0x10000, 32)], bytes := 8,
     fields := [LNK_PEER.ADDR, LNK_PEER.POS_ID, LNK_PEER.FEED_ID, LNK_PEER.LINK, LNK_PEER.SPARE, LNK_PEER.VALID] },
   { name := "LNK_CRED", base := 0xC000018, dims := [(0x10000, 32)], bytes := 8,
     fields := [LNK_CRED.CRED 0, LNK_CRED.CRED 1, LNK_CRED.CRED 2, LNK_CRED.CRED 3, LNK_CRED.CRED 4, LNK_CRED.CRED 5, LNK_CRED.CRED 6] },
   { name := "LNK_ERR", base := 0xC000020, dims := [(0x10000, 32)], bytes := 8,
     fields := [LNK_ERR.CRC, LNK_ERR.UNCORR_CW, LNK_ERR.REPLAYS, LNK_ERR.DEGRADES, LNK_ERR.HARDEN_FAIL] },
   { name := "LNK_RC", base := 0xC000028, dims := [(0x10000, 32)], bytes := 8,
     fields := [LNK_RC.DROPPED, LNK_RC.NONRC, LNK_RC.VC7_LOST, LNK_RC.ERR_SENT] },
   { name := "LNK_WIDTH", base := 0xC000030, dims := [(0x10000, 32)], bytes := 4,
     fields := [LNK_WIDTH.TARGET, LNK_WIDTH.HARDEN_BELLS, LNK_WIDTH.CLEAN, LNK_WIDTH.PHASE] },
   { name := "LNK_ADD_STAGE_LVL", base := 0xC000100, dims := [(0x10000, 32)], bytes := 8,
     fields := [LNK_ADD_STAGE_LVL.LEVEL, LNK_ADD_STAGE_LVL.HIGH, LNK_ADD_STAGE_LVL.INFLIGHT] },
   { name := "LNK_COLL_CNT", base := 0xC000108, dims := [(0x10000, 32)], bytes := 8,
     fields := [LNK_COLL_CNT.BLOCKS, LNK_COLL_CNT.BP_CYCLES] },
   { name := "LNK_COLL_ERR", base := 0xC000110, dims := [(0x10000, 32)], bytes := 8,
     fields := [LNK_COLL_ERR.SAT, LNK_COLL_ERR.MISMATCH, LNK_COLL_ERR.SCALE_CLAMP, LNK_COLL_ERR.A2A_DROP, LNK_COLL_ERR.STAGE_UNCORR] },
   { name := "LNK_POISON_REC0", base := 0xC000118, dims := [(0x10000, 32)], bytes := 8,
     fields := [LNK_POISON_REC0.ADDR, LNK_POISON_REC0.GROUP, LNK_POISON_REC0.BUCKET, LNK_POISON_REC0.VALID] },
   { name := "LNK_POISON_REC1", base := 0xC000120, dims := [(0x10000, 32)], bytes := 8,
     fields := [LNK_POISON_REC1.ELEM] }]

/-- The PH_ registers. -/
def regRowsPh : List RegRow :=
  [{ name := "PH_IN", base := 0x30000, dims := [(0x40, 16), (0x8, 8)], bytes := 8,
     fields := [PH_IN.WORD] },
   { name := "PH_OUT", base := 0x30400, dims := [(0x40, 16), (0x8, 8)], bytes := 8,
     fields := [PH_OUT.WORD] },
   { name := "PH_IN_STAT", base := 0x30800, dims := [(0x8, 16)], bytes := 8,
     fields := [PH_IN_STAT.FULL, PH_IN_STAT.COLLIDE, PH_IN_STAT.REJECT, PH_IN_STAT.POSTS, PH_IN_STAT.SRC, PH_IN_STAT.SRC_ADDR] },
   { name := "PH_OUT_STAT", base := 0x30880, dims := [(0x8, 16)], bytes := 8,
     fields := [PH_OUT_STAT.FULL, PH_OUT_STAT.COLLIDE, PH_OUT_STAT.REJECT, PH_OUT_STAT.POSTS, PH_OUT_STAT.SRC, PH_OUT_STAT.SRC_ADDR] },
   { name := "PH_CFG", base := 0x30900, dims := [(0x4, 32)], bytes := 4,
     fields := [PH_CFG.FUNC, PH_CFG.DOMAIN] },
   { name := "PH_MODE", base := 0x30980, dims := [], bytes := 4,
     fields := [PH_MODE.STARTUP, PH_MODE.TEST, PH_MODE.RECOVERY, PH_MODE.STRICT] },
   { name := "PH_TOUT", base := 0x30988, dims := [], bytes := 8,
     fields := [PH_TOUT.IN, PH_TOUT.OUT] },
   { name := "PH_FDATA", base := 0x30A00, dims := [(0x8, 8)], bytes := 8,
     fields := [PH_FDATA.WORD] },
   { name := "PH_FSEND", base := 0x30A40, dims := [], bytes := 8,
     fields := [PH_FSEND.DEST, PH_FSEND.PH, PH_FSEND.GO, PH_FSEND.STATUS] }]

/-- The PWR_ registers. -/
def regRowsPwr : List RegRow :=
  [{ name := "PWR_CAP", base := 0x20000, dims := [], bytes := 4,
     fields := [PWR_CAP.CAP_W] },
   { name := "PWR_STAT", base := 0x20008, dims := [], bytes := 8,
     fields := [PWR_STAT.MEAN_W, PWR_STAT.PEAK_W, PWR_STAT.THROTTLE, PWR_STAT.HUB_HOT] },
   { name := "PWR_ALLOT", base := 0x20100, dims := [(0x8, 10)], bytes := 8,
     fields := [PWR_ALLOT.ALLOT_W, PWR_ALLOT.DRAW_W, PWR_ALLOT.PACED] },
   { name := "PWR_DROOP", base := 0x20200, dims := [(0x8, 5)], bytes := 8,
     fields := [PWR_DROOP.EVENTS, PWR_DROOP.MIN, PWR_DROOP.VALID] },
   { name := "PWR_THERM", base := 0x20300, dims := [(0x8, 29)], bytes := 8,
     fields := [PWR_THERM.TEMP_C, PWR_THERM.MAX_C, PWR_THERM.THROTTLE_BELLS, PWR_THERM.CUT_PCT, PWR_THERM.TRIPS] }]

/-- Every register of the control space. -/
def regRows : List RegRow :=
  regRowsHub ++ regRowsProc ++ regRowsRgn ++ regRowsStat ++ regRowsMe ++ regRowsSu ++ regRowsCe ++ regRowsPe ++ regRowsVe ++ regRowsSe ++ regRowsLnk ++ regRowsPh ++ regRowsPwr

end Sys2Proof.Machine
end

