-- ==== Sys2Proof/Machine/Access.lean ====
section
/-!
DEFINITION. Maps with a default, and the accessors of register fields: every read and write of a register in this
model goes through `State.get`, `State.put`, `State.bump` and `State.liveAdd`.
-/
namespace Sys2Proof.Machine

/-- The value listed for a key, or the default. -/
def kget : KMap → Nat → Nat → Nat
  | [], _, d => d
  | (a, v) :: t, k, d => if k = a then v else kget t k d

/-- Lists a value for a key, keys ascending. -/
def kset : KMap → Nat → Nat → KMap
  | [], k, v => [(k, v)]
  | (a, w) :: t, k, v =>
    if k < a then (k, v) :: (a, w) :: t else if k = a then (k, v) :: t else (a, w) :: kset t k v

/-- Takes every entry of a key away. -/
def kdel (m : KMap) (k : Nat) : KMap := m.filter (fun x => x.1 != k)

/-- Sets a key, listing nothing that equals the default. -/
def kput (m : KMap) (k d v : Nat) : KMap := if v = d then kdel m k else kset m k v

/-- The key of a field of a register with its indices: distinct for distinct fields and indices below 65,536. -/
def Fld.key (f : Fld) (i j k : Nat) : Nat := (((f.base * 64 + f.lsb) * 65536 + i) * 65536 + j) * 65536 + k

/-- The largest value of a field. -/
def Fld.max (f : Fld) : Nat := 2 ^ f.width - 1

/-- The value of a register field. -/
def State.get (s : State) (f : Fld) (i : Nat := 0) (j : Nat := 0) (k : Nat := 0) : Nat :=
  kget s.regs (f.key i j k) f.reset

/-- A one-bit register field as a Bool. -/
def State.bit (s : State) (f : Fld) (i : Nat := 0) (j : Nat := 0) (k : Nat := 0) : Bool := s.get f i j k != 0

/-- Sets a register field, cut to its width. -/
def State.put (s : State) (f : Fld) (v : Nat) (i : Nat := 0) (j : Nat := 0) (k : Nat := 0) : State :=
  { s with regs := kput s.regs (f.key i j k) f.reset (v % 2 ^ f.width) }

/-- Adds events to a counter, which saturates at its largest value (R10). -/
def State.bump (s : State) (f : Fld) (n : Nat := 1) (i : Nat := 0) (j : Nat := 0) (k : Nat := 0) : State :=
  s.put f (min f.max (s.get f i j k + n)) i j k

/-- The live count behind a latched field (R55). -/
def State.liveGet (s : State) (f : Fld) (i : Nat := 0) (j : Nat := 0) (k : Nat := 0) : Nat :=
  kget s.live (f.key i j k) 0

/-- The place of a field in the control space and in its word, without its indices, from a key. -/
def keyHome (k : Nat) : Nat := k / 281474976710656

/-- Home of a field. -/
def Fld.home (f : Fld) : Nat := f.base * 64 + f.lsb

/-- Events for one step of a latched count: POSITIONS counts 128 and ELEMENTS 512 to a step (R208). -/
def liveUnit (home : Nat) : Nat :=
  if home = CE_CNT.POSITIONS.home then 128 else if home = PE_CNT.ELEMENTS.home then 512 else 1

/-- Adds to the live count behind a latched field. -/
def State.liveAdd (s : State) (f : Fld) (n : Nat := 1) (i : Nat := 0) (j : Nat := 0) (k : Nat := 0) : State :=
  { s with live := kput s.live (f.key i j k) 0 (min ((f.max + 1) * liveUnit f.home - 1) (s.liveGet f i j k + n)) }

/-- The homes of the latched fields. -/
def latchedHomes : List Nat :=
  (regRows.flatMap (·.fields)).filterMap (fun f => if f.latched then some f.home else none) ++
  [STAT_SLOT_CNT.ZEROS, STAT_SLOT_CNT.SAT, STAT_SLOT_CNT.INF].map Fld.home

/-- The latch of R55 and R86: every latched field takes its live count and the live counts restart from zero. -/
def State.latch (s : State) : State :=
  { s with
    regs := s.live.foldl (fun m x => kput m x.1 0 (x.2 / liveUnit (keyHome x.1))) (s.regs.filter (fun x => !latchedHomes.contains (keyHome x.1)))
    live := [] }

/-- Puts a register field back to its reset value for every index. -/
def State.clearHome (s : State) (f : Fld) : State :=
  { s with regs := s.regs.filter (fun x => keyHome x.1 != f.home) }

/-- The first index (region, partition, stack, link ...) in a key. -/
def keyI (k : Nat) : Nat := k / 4294967296 % 65536

/-- The second index in a key. -/
def keyJ (k : Nat) : Nat := k / 65536 % 65536

/-- Puts a register field back to its reset value for every index whose first index is i. -/
def State.clearAt (s : State) (f : Fld) (i : Nat) : State :=
  { s with regs := s.regs.filter (fun x => !(keyHome x.1 == f.home && keyI x.1 == i)) }

/-- The word of a register: its fields at their places, reserved bits zero (R5), write-only fields zero (R7). -/
def State.word (s : State) (row : RegRow) (i j k : Nat) : Nat :=
  row.fields.foldl (fun w f => w + if f.acc = .wo then 0 else s.get f i j k * 2 ^ f.lsb) 0

/-- Peels the indices of an offset from the outermost stride in. -/
def peelDims : List (Nat × Nat) → Nat → Option (List Nat)
  | [], o => if o = 0 then some [] else none
  | (stride, count) :: t, o =>
    if o / stride < count then (peelDims t (o % stride)).map (o / stride :: ·) else none

/-- The row and the indices of an offset within it. -/
def rowAt (row : RegRow) (off : Nat) : Option (RegRow × Nat × Nat × Nat) :=
  if off < row.base then none
  else match peelDims row.dims (off - row.base) with
    | none => none
    | some [] => some (row, 0, 0, 0)
    | some [i] => some (row, i, 0, 0)
    | some [i, j] => some (row, i, j, 0)
    | some (i :: j :: k :: _) => some (row, i, j, k)

/-- The register that occupies an offset of the control space. -/
def findReg (off : Nat) : Option (RegRow × Nat × Nat × Nat) := regRows.findSome? (fun row => rowAt row off)

/-- Updates a region. -/
def State.modRegion (s : State) (r : Rgn) (f : Region → Region) : State :=
  { s with regions := s.regions.set r (f s.regions[r]) }

/-- Updates a partition. -/
def State.modPart (s : State) (p : Prt) (f : Part → Part) : State :=
  { s with parts := s.parts.set p (f s.parts[p]) }

/-- Updates a link. -/
def State.modLink (s : State) (l : Lnk) (f : Link → Link) : State :=
  { s with links := s.links.set l (f s.links[l]) }

/-- Updates a stack. -/
def State.modStack (s : State) (k : Stk) (f : Stack → Stack) : State :=
  { s with stks := s.stks.set k (f s.stks[k]) }

/-- Updates the hub. -/
def State.modHub (s : State) (f : Hub → Hub) : State := { s with hub := f s.hub }

/-- Sends something. -/
def State.emit (s : State) (o : Out) : State := { s with out := s.out ++ [o] }

/-- Takes the next ticket for a free value. -/
def State.nextTicket (s : State) : State := { s with ticket := s.ticket + 1 }

/-- The four regions and the four partitions in ascending order. -/
def allRegions : List Rgn := [0, 1, 2, 3]

end Sys2Proof.Machine
end

