-- ==== Sys2Proof/Machine/Memory.lean ====
section
/-!
DEFINITION. Memory: reading and writing bytes, filling and leaving undefined, in the canonical form `Memory.wf`; and
little-endian numbers over byte lists (R4).
-/
namespace Sys2Proof.Machine

/-- The little-endian number of a byte list. -/
def ofLe : List Byte → Nat
  | [] => 0
  | b :: t => b.toNat + 256 * ofLe t

/-- A number as n bytes, little-endian. -/
def toLe : Nat → Nat → List Byte
  | 0, _ => []
  | n + 1, v => BitVec.ofNat 8 v :: toLe n (v / 256)

/-- Bytes [at, at + n) of a list as a little-endian number; bytes past the end read as zero. -/
def leAt (bs : List Byte) (start n : Nat) : Nat := ofLe ((bs.drop start).take n)

/-- The layer that covers an address. -/
def layerOf : List Layer → Nat → Option Layer
  | [], _ => none
  | y :: t, a => if y.lo ≤ a ∧ a < y.hi then some y else layerOf t a

/-- Whether an unlisted byte at an address reads as zero. -/
def Memory.zeroAt (m : Memory) (a : Nat) : Bool :=
  match layerOf m.layers a with
  | some y => y.free == none
  | none => false

/-- What an unlisted address reads as: zero where the newest layer is a zero fill, else a free value (log entry 2). -/
def Memory.unlisted (m : Memory) (a : Nat) : Byte :=
  match layerOf m.layers a with
  | some { free := none, .. } => 0
  | some { free := some t, .. } => Config.freeByte t a
  | none => Config.freeByte 0 a

/-- The byte listed at an address. -/
def cellAt : List Host.Cell → Nat → Option Byte
  | [], _ => none
  | (k, b) :: t, a => if a = k then some b else cellAt t a

/-- Reads a byte. -/
def Memory.read (m : Memory) (a : Nat) : Byte := (cellAt m.cells a).getD (m.unlisted a)

/-- Lists a byte, addresses ascending. -/
def cellSet : List Host.Cell → Nat → Byte → List Host.Cell
  | [], a, b => [(a, b)]
  | (k, c) :: t, a, b =>
    if a < k then (a, b) :: (k, c) :: t else if a = k then (a, b) :: t else (k, c) :: cellSet t a b

/-- Takes the listed bytes of [lo, hi) away. -/
def cellsOutside (cs : List Host.Cell) (lo hi : Nat) : List Host.Cell :=
  cs.filter (fun c => decide (c.1 < lo) || decide (hi ≤ c.1))

/-- Writes a byte, listing nothing that equals what the address reads as unlisted. -/
def Memory.write (m : Memory) (a : Nat) (b : Byte) : Memory :=
  { m with cells := if m.zeroAt a && b == 0 then cellsOutside m.cells a (a + 1) else cellSet m.cells a b }

/-- Writes a run of bytes from an address up. -/
def Memory.writeBytes (m : Memory) (a : Nat) : List Byte → Memory
  | [] => m
  | b :: t => (m.write a b).writeBytes (a + 1) t

/-- A new layer over [lo, hi): listed bytes and older layers inside it go. -/
def Memory.layer (m : Memory) (lo hi : Nat) (free : Option Nat) : Memory :=
  { cells := cellsOutside m.cells lo hi
    layers := { lo := lo, hi := hi, free := free } ::
      m.layers.filter (fun y => decide (y.lo < lo) || decide (hi < y.hi)) }

/-- Fills [lo, hi) with zeros. -/
def Memory.zero (m : Memory) (lo hi : Nat) : Memory := m.layer lo hi none

/-- Leaves [lo, hi) undefined since the event of a ticket. -/
def Memory.undefine (m : Memory) (lo hi ticket : Nat) : Memory := m.layer lo hi (some ticket)

/-- Addresses strictly rising from a bound on. -/
def cellsRising : Nat → List Host.Cell → Bool
  | _, [] => true
  | lo, (k, _) :: t => decide (lo ≤ k) && cellsRising (k + 1) t

/-- The canonical form: addresses strictly rising, and no listed byte equal to a zero fill below it. -/
def Memory.wf (m : Memory) : Bool :=
  cellsRising 0 m.cells && m.cells.all (fun c => !(m.zeroAt c.1 && c.2 == 0))

/-- The memory restricted to [lo, hi): what a save image keeps (R295). -/
def Memory.slice (m : Memory) (lo hi : Nat) : Memory :=
  { cells := m.cells.filter (fun c => decide (lo ≤ c.1) && decide (c.1 < hi))
    layers := m.layers.filter (fun y => decide (lo < y.hi) && decide (y.lo < hi)) }

/-- Cuts a layer to [lo, hi). -/
def Layer.cut (y : Layer) (lo hi : Nat) : Layer := { y with lo := max y.lo lo, hi := min y.hi hi }

/-- Puts a slice of [lo, hi) back (R297). -/
def Memory.restore (m img : Memory) (lo hi : Nat) : Memory :=
  let m := { m with cells := cellsOutside m.cells lo hi, layers := img.layers.map (·.cut lo hi) ++ m.layers }
  img.cells.foldl (fun m c => m.write c.1 c.2) m

/-- First DA of region r's SRAM (Table 4.1). -/
def sramBase (r : Nat) : Nat := 0x200000000000 + r * 0x10000000

/-- First DA of stack k (Table 4.1). -/
def stackBase (k : Nat) : Nat := k * 0x1000000000

/-- Key of a resident accumulator slot of a matrix engine: eight slots per engine (R149), 8 bytes a word: value, and in
byte 4 whether its accumulation has saturated (R73, R74). -/
def accBase (r e slot : Nat) : Nat := 0x20000000000000000 + ((r * 16 + e) * 8 + slot) * 131072

/-- The output extents of issued, uncommitted commands with their tickets: undefined until the commit (R134). -/
def State.openOuts (s : State) : List (Extent × Nat) :=
  s.regions.toList.flatMap (fun g => g.cmds.flatMap (fun c =>
    if c.issued then c.outs.map (fun x => (x, c.ticket)) else []))

/-- The working copies of updates that no bell has published: a program reads free values there (R28). -/
def State.unreadCopies (s : State) : List (Extent × Nat) :=
  s.regions.toList.flatMap (fun g => g.unread.map (fun u => (u.1, u.2.1)))

/-- Reads a byte of memory as another agent sees it: a free value inside an open output (R134). -/
def readOpen (m : Memory) : List (Extent × Nat) → Nat → Byte
  | [], a => m.read a
  | (x, t) :: rest, a => if x.lo ≤ a ∧ a < x.hi then Config.freeByte t a else readOpen m rest a

/-- Reads n bytes from an address up. -/
def readRun (m : Memory) (opens : List (Extent × Nat)) (a : Nat) : Nat → List Byte
  | 0 => []
  | n + 1 => readOpen m opens a :: readRun m opens (a + 1) n

/-- Bytes [a, a + n) as any agent reads them. -/
def State.bytes (s : State) (a n : Nat) : List Byte := readRun s.mem s.openOuts a n

/-- A little-endian number in memory. -/
def State.num (s : State) (a n : Nat) : Nat := ofLe (s.bytes a n)

/-- The poisoned words that a run of written bytes leaves poisoned: a write of a whole 64-bit word makes it correct
(R231). -/
def healWords (bad : List Nat) (a n : Nat) : List Nat :=
  bad.filter (fun w => !(decide (a ≤ w * 8) && decide (w * 8 + 8 ≤ a + n)))

/-- Writes bytes from an address up. -/
def State.store (s : State) (a : Nat) (bs : List Byte) : State :=
  { s with mem := s.mem.writeBytes a bs, badWords := healWords s.badWords a bs.length }

/-- Fills with zeros, which stores fresh check bits (R231). -/
def State.zeroFill (s : State) (lo hi : Nat) : State :=
  { s with mem := s.mem.zero lo hi, badWords := healWords s.badWords lo (hi - lo) }

/-- Leaves an extent undefined. -/
def State.undefine (s : State) (x : Extent) (ticket : Nat) : State :=
  { s with mem := s.mem.undefine x.lo x.hi ticket }

end Sys2Proof.Machine
end

