-- ==== Sys2Proof/Machine/Num.lean ====
section
/-!
DEFINITION. Numbers: the formats of Tables 3.1 and 3.2, exact values, conversion with saturation and rounding
(R59-R78), the generator (R79, R80), and FP32 arithmetic that rounds once (R71, R73).
-/
namespace Sys2Proof.Machine

/-- An exact value: NaN, an infinity, or sign, magnitude and power of two: (-1)^neg * m * 2^e. -/
inductive Num where
  | nan
  | inf (neg : Bool)
  | fin (neg : Bool) (m : Nat) (e : Int)
deriving DecidableEq, Repr

/-- How a base format is encoded (Table 3.2). `top` is the code of the largest finite magnitude; `infs` and `nans` say
which special values exist. -/
inductive Kind where
  | float (ebits mbits bias top : Nat) (infs nans : Bool)
  | int
  | mask
deriving DecidableEq, Repr

/-- The base format of a format code, bits [6:0] (R59): element bits and kind. -/
def baseFormat : Nat → Option (Nat × Kind)
  | 0x01 => some (32, .float 8 23 127 0x7F7FFFFF true true)
  | 0x02 => some (16, .float 8 7 127 0x7F7F true true)
  | 0x03 => some (16, .float 5 10 15 0x7BFF true true)
  | 0x04 => some (8, .float 4 3 7 0x7E false true)
  | 0x05 => some (8, .float 5 2 15 0x7B true true)
  | 0x06 => some (6, .float 3 2 3 0x1F false false)
  | 0x07 => some (6, .float 2 3 1 0x1F false false)
  | 0x08 => some (4, .float 2 1 1 0x07 false false)
  | 0x09 => some (8, .int)
  | 0x0A => some (4, .int)
  | 0x0B => some (32, .int)
  | 0x0C => some (1, .mask)
  | _ => none

/-- Format codes. -/
def fmtFP32 : Nat := 0x01
def fmtBF16 : Nat := 0x02
def fmtFP16 : Nat := 0x03
def fmtE4M3 : Nat := 0x04
def fmtE5M2 : Nat := 0x05
def fmtINT32 : Nat := 0x0B
def fmtMask : Nat := 0x0C
def fmtWire8 : Nat := 0x40
def fmtWire16 : Nat := 0x41

/-- Whether a code is the block-scaled variant of a base format (R59). -/
def isScaled (c : Nat) : Bool := 0x84 ≤ c && c ≤ 0x8A

/-- Whether a code is a wire format. -/
def isWire (c : Nat) : Bool := c == 0x40 || c == 0x41

/-- Whether a code carries block scales, the wire formats included (R97). -/
def hasScale (c : Nat) : Bool := isScaled c || isWire c

/-- Whether Table 3.1 lists a code (R60). -/
def formatListed (c : Nat) : Bool := (1 ≤ c && c ≤ 0x0C) || isScaled c || isWire c

/-- Element bits and kind of a listed code; wire elements are integers (R262). -/
def format (c : Nat) : Nat × Kind :=
  if c = 0x40 then (8, .int) else if c = 0x41 then (16, .int)
  else (baseFormat (if isScaled c then c - 0x80 else c)).getD (8, .int)

/-- Element bits of a code. -/
def fmtBits (c : Nat) : Nat := (format c).1

/-- A two's complement number of `bits` bits. -/
def signed (bits v : Nat) : Int := if v < 2 ^ (bits - 1) then v else (v : Int) - 2 ^ bits

/-- An integer as an exact value; zero is +0. -/
def numOfInt (i : Int) : Num := .fin (decide (i < 0)) i.natAbs 0

/-- Exponent of the quantum of subnormals. -/
def qmin (mbits bias : Nat) : Int := 1 - (bias : Int) - mbits

/-- Splits the code of a magnitude into significand and quantum exponent. -/
def magOf (mbits bias code : Nat) : Nat × Int :=
  if code / 2 ^ mbits = 0 then (code, qmin mbits bias)
  else (2 ^ mbits + code % 2 ^ mbits, qmin mbits bias + (code / 2 ^ mbits - 1 : Nat))

/-- Reads an element of a format (R62, R63): the block scale is applied by the reader of the tensor. -/
def decodeKind (bits : Nat) (k : Kind) (v : Nat) : Num :=
  match k with
  | .int => numOfInt (signed bits v)
  | .mask => .fin false (v % 2) 0
  | .float ebits mbits bias top infs nans =>
    let neg := decide (2 ^ (bits - 1) ≤ v)
    let code := v % 2 ^ (bits - 1)
    if code ≤ top then .fin neg (magOf mbits bias code).1 (magOf mbits bias code).2
    else if infs && code == (2 ^ ebits - 1) * 2 ^ mbits then .inf neg
    else if nans then .nan else .fin neg (magOf mbits bias code).1 (magOf mbits bias code).2

/-- Reads an element of a format code. -/
def decodeNum (c v : Nat) : Num := decodeKind (format c).1 (format c).2 v

/-- Multiplies by a power of two, exactly. -/
def Num.scale (x : Num) (k : Int) : Num :=
  match x with
  | .fin s m e => .fin s m (e + k)
  | y => y

/-- Changes the sign. -/
def Num.neg : Num → Num
  | .nan => .nan
  | .inf s => .inf (!s)
  | .fin s m e => .fin (!s) m e

/-- Drops the sign. -/
def Num.abs : Num → Num
  | .nan => .nan
  | .inf _ => .inf false
  | .fin _ m e => .fin false m e

/-- Whether a value is neither NaN nor infinite. -/
def Num.isFinite : Num → Bool
  | .fin _ _ _ => true
  | _ => false

/-- Whether a value is NaN. -/
def Num.isNan : Num → Bool
  | .nan => true
  | _ => false

/-- Whether a value is a zero. -/
def Num.isZero : Num → Bool
  | .fin _ m _ => m == 0
  | _ => false

/-- Whether the sign is set. -/
def Num.isNeg : Num → Bool
  | .nan => false
  | .inf s => s
  | .fin s _ _ => s

/-- Compares m1 * 2^e1 with m2 * 2^e2. -/
def cmpMag (m1 : Nat) (e1 : Int) (m2 : Nat) (e2 : Int) : Ordering :=
  let e := min e1 e2
  compare (m1 * 2 ^ (e1 - e).toNat) (m2 * 2 ^ (e2 - e).toNat)

/-- A signed significand over the smaller exponent of two values. -/
def alignInt (s : Bool) (m : Nat) (e lo : Int) : Int :=
  let v : Int := m * 2 ^ (e - lo).toNat
  if s then -v else v

/-- Compares two values; none when either is NaN. Zeros of either sign are equal. -/
def Num.cmp : Num → Num → Option Ordering
  | .nan, _ => none
  | _, .nan => none
  | .inf a, .inf b => some (if a = b then .eq else if a then .lt else .gt)
  | .inf a, .fin _ _ _ => some (if a then .lt else .gt)
  | .fin _ _ _, .inf b => some (if b then .gt else .lt)
  | .fin s1 m1 e1, .fin s2 m2 e2 =>
    some (compare (alignInt s1 m1 e1 (min e1 e2)) (alignInt s2 m2 e2 (min e1 e2)))

/-- a < b, false with NaN. -/
def Num.lt (a b : Num) : Bool := a.cmp b == some .lt
/-- a ≤ b, false with NaN. -/
def Num.le (a b : Num) : Bool := a.cmp b == some .lt || a.cmp b == some .eq
/-- a = b as values, false with NaN. -/
def Num.eqv (a b : Num) : Bool := a.cmp b == some .eq

/-- The exact product; 0 times infinity is NaN (R73), the sign of zero is kept (R64). -/
def Num.mul : Num → Num → Num
  | .nan, _ => .nan
  | _, .nan => .nan
  | .inf a, .inf b => .inf (a != b)
  | .inf a, .fin b m _ => if m = 0 then .nan else .inf (a != b)
  | .fin a m _, .inf b => if m = 0 then .nan else .inf (a != b)
  | .fin a m e, .fin b n f => .fin (a != b) (m * n) (e + f)

/-- The exact sum; infinity less infinity is NaN (R73), an exact zero is +0 unless both addends are -0 (R64). -/
def Num.add : Num → Num → Num
  | .nan, _ => .nan
  | _, .nan => .nan
  | .inf a, .inf b => if a = b then .inf a else .nan
  | .inf a, .fin _ _ _ => .inf a
  | .fin _ _ _, .inf b => .inf b
  | .fin a m e, .fin b n f =>
    let v := alignInt a m e (min e f) + alignInt b n f (min e f)
    if v = 0 then .fin (a && b && (m == 0) && (n == 0)) 0 0
    else .fin (decide (v < 0)) v.natAbs (min e f)

/-- The exact difference. -/
def Num.sub (a b : Num) : Num := a.add b.neg

/-- The rounding of one conversion: nearest even, or stochastic with the element's draw (R77, R78). -/
inductive Rnd where
  | rne
  | sr (u : Nat)
deriving DecidableEq, Repr

/-- Rounds the magnitude m * 2^e to a whole number of quanta 2^q (R77, R78). -/
def roundTo (rnd : Rnd) (m : Nat) (e q : Int) : Nat :=
  if q ≤ e then m * 2 ^ (e - q).toNat
  else
    let sh := (q - e).toNat
    let a := m / 2 ^ sh
    let rem := m % 2 ^ sh
    match rnd with
    | .rne =>
      if rem * 2 < 2 ^ sh then a else if 2 ^ sh < rem * 2 then a + 1 else a + a % 2
    | .sr u => if 2 ^ 32 ≤ rem * 2 ^ 32 / 2 ^ sh + u then a + 1 else a

/-- Converts a finite magnitude to the code of a floating-point format, with whether it saturated (R74). -/
def encodeMag (mbits bias top : Nat) (rnd : Rnd) (m : Nat) (e : Int) : Nat × Bool :=
  if m = 0 then (0, false)
  else
    let q := max ((Nat.log2 m : Int) + e - mbits) (qmin mbits bias)
    let code := (q - qmin mbits bias).toNat * 2 ^ mbits + roundTo rnd m e q
    if top < code then (top, true) else (code, false)

/-- The largest magnitude an integer format holds on a side (R63). -/
def intTop (bits : Nat) (neg : Bool) : Nat := if neg then 2 ^ (bits - 1) else 2 ^ (bits - 1) - 1

/-- Converts a value to an unscaled format, with whether it saturated (R64, R74, Table 3.6). -/
def encodeKind (bits : Nat) (k : Kind) (rnd : Rnd) (x : Num) : Nat × Bool :=
  match k with
  | .mask => (if x.isZero then 0 else 1, false)
  | .int =>
    match x with
    | .nan => (0, false)
    | .inf s => (if s then 2 ^ (bits - 1) else 2 ^ (bits - 1) - 1, false)
    | .fin s m e =>
      let v := roundTo rnd m e 0
      if intTop bits s < v then (if s then 2 ^ (bits - 1) else 2 ^ (bits - 1) - 1, true)
      else (if s && v != 0 then 2 ^ bits - v else v, false)
  | .float ebits mbits bias top infs nans =>
    let sign (s : Bool) : Nat := if s then 2 ^ (bits - 1) else 0
    match x with
    | .nan =>
      if nans then (if infs then (2 ^ ebits - 1) * 2 ^ mbits + 2 ^ (mbits - 1) else 2 ^ (bits - 1) - 1, false)
      else (0, false)
    | .inf s =>
      if infs then (sign s + (2 ^ ebits - 1) * 2 ^ mbits, false)
      else if nans then (2 ^ (bits - 1) - 1, false) else (sign s + top, false)
    | .fin s m e => (sign s + (encodeMag mbits bias top rnd m e).1, (encodeMag mbits bias top rnd m e).2)

/-- Converts a value to a format code, without a block scale. -/
def encodeNum (c : Nat) (rnd : Rnd) (x : Num) : Nat × Bool := encodeKind (format c).1 (format c).2 rnd x

/-- The largest finite magnitude of a base format (R67). -/
def maxFinite (c : Nat) : Nat × Int :=
  match format c with
  | (bits, .int) => (2 ^ (bits - 1) - 1, 0)
  | (_, .mask) => (1, 0)
  | (_, .float _ mbits bias top _ _) => magOf mbits bias top

/-- Rounds a value once into FP32, with saturation instead of overflow (R71, R73). -/
def f32 (x : Num) : Num × Bool :=
  let r := encodeNum fmtFP32 .rne x
  (decodeNum fmtFP32 r.1, r.2)

/-- Rounds into FP32, without the saturation mark. -/
def rnd32 (x : Num) : Num := (f32 x).1

/-- The FP32 pattern of a value, rounded to nearest even. -/
def bits32 (x : Num) : Word32 := BitVec.ofNat 32 (encodeNum fmtFP32 .rne x).1

/-- The value of an FP32 pattern. -/
def ofBits32 (w : Word32) : Num := decodeNum fmtFP32 w.toNat

/-- +0. -/
def Num.zero : Num := .fin false 0 0
/-- 1. -/
def Num.one : Num := .fin false 1 0

/-- A value with the mark that some FP32 operation on the way to it saturated (R73, R74). -/
structure Acc32 where
  val : Num
  sat : Bool
deriving DecidableEq, Repr

/-- Starts an accumulation. -/
def Acc32.of (x : Num) : Acc32 := { val := x, sat := false }

/-- Adds an exact value to a running FP32 sum with one rounding (R71). -/
def Acc32.add (a : Acc32) (x : Num) : Acc32 :=
  let r := f32 (a.val.add x)
  { val := r.1, sat := a.sat || r.2 }

/-- Multiplies a running FP32 value by an exact value with one rounding. -/
def Acc32.mul (a : Acc32) (x : Num) : Acc32 :=
  let r := f32 (a.val.mul x)
  { val := r.1, sat := a.sat || r.2 }

/-- One rounding of an exact value. -/
def Acc32.round (x : Num) : Acc32 := { val := (f32 x).1, sat := (f32 x).2 }

/-- Adds the products of two lists in order to a sum: each product exact, one rounding per addition (R71). -/
def dot32 (a : Acc32) : List (Num × Num) → Acc32
  | [] => a
  | (x, y) :: t => dot32 (a.add (x.mul y)) t

/-- a * x + b * y with both products exact and one rounding (R192, R217). -/
def axpby (a x b y : Num) : Acc32 := Acc32.round ((a.mul x).add (b.mul y))

/-- An exact value without a mark. -/
def aOf (x : Num) : Acc32 := Acc32.of x
/-- The negated value. -/
def aNeg (a : Acc32) : Acc32 := { a with val := a.val.neg }
/-- FP32 operations, rounded once, that hand the saturation marks of their operands on (R73, R74). -/
def aMul (a b : Acc32) : Acc32 := let r := Acc32.round (a.val.mul b.val); { r with sat := a.sat || b.sat || r.sat }
def aAdd (a b : Acc32) : Acc32 := let r := Acc32.round (a.val.add b.val); { r with sat := a.sat || b.sat || r.sat }
def aSub (a b : Acc32) : Acc32 := aAdd a (aNeg b)
/-- a * x + b * y, both products exact, one rounding. -/
def aLin (a : Num) (x : Acc32) (b : Num) (y : Acc32) : Acc32 :=
  let r := axpby a x.val b y.val
  { r with sat := x.sat || y.sat || r.sat }

/-- dot32 over marked values. -/
def aDot (a : Acc32) (ps : List (Acc32 × Acc32)) : Acc32 :=
  let r := dot32 a (ps.map (fun p => (p.1.val, p.2.val)))
  { r with sat := r.sat || ps.any (fun p => p.1.sat || p.2.sat) }

/-- Integer square root from the top bit down. -/
def isqrtFrom : Nat → Nat → Nat → Nat
  | 0, _, r => r
  | b + 1, n, r => if (r + 2 ^ b) * (r + 2 ^ b) ≤ n then isqrtFrom b n (r + 2 ^ b) else isqrtFrom b n r

/-- Integer square root. -/
def isqrt (n : Nat) : Nat := isqrtFrom (Nat.log2 n / 2 + 1) n 0

/-- A magnitude m * 2^e as a quotient n / d with a sticky bit below, enough for one FP32 rounding. -/
def quotient (s : Bool) (n d : Nat) (e : Int) : Num :=
  let sh := 64 + Nat.log2 d
  let q := n * 2 ^ sh / d
  let sticky := if n * 2 ^ sh % d = 0 then 0 else 1
  .fin s (2 * q + sticky) (e - sh - 1)

/-- A square root with a sticky bit below, enough for one FP32 rounding. -/
def rootOf (m : Nat) (e : Int) : Num :=
  let odd := e % 2 != 0
  let m' := if odd then 2 * m else m
  let e' := if odd then e - 1 else e
  let n := m' * 2 ^ 128
  let r := isqrt n
  .fin false (2 * r + if r * r = n then 0 else 1) (e' / 2 - 64 - 1)

/-- The correctly rounded FP32 square root (R217); NaN of a negative value. -/
def sqrt32 : Num → Num
  | .nan => .nan
  | .inf s => if s then .nan else .inf false
  | .fin s m e => if m = 0 then .fin s 0 0 else if s then .nan else rnd32 (rootOf m e)

/-- The FP32 quotient, rounded once (R217, R160). A division by zero and an infinite over an infinite value have no
value in the spec: a free value (log entry 10). -/
def div32 (a b : Num) : Acc32 :=
  match a, b with
  | .nan, _ => Acc32.of .nan
  | _, .nan => Acc32.of .nan
  | .fin s m e, .fin t n f =>
    if n = 0 then Acc32.of (ofBits32 (Config.approx 0xD1 [bits32 a, bits32 b]))
    else if m = 0 then Acc32.of (.fin (s != t) 0 0)
    else Acc32.round (quotient (s != t) m n (e - f))
  | .fin s _ _, .inf t => Acc32.of (.fin (s != t) 0 0)
  | .inf s, .fin t n _ =>
    if n = 0 then Acc32.of (ofBits32 (Config.approx 0xD1 [bits32 a, bits32 b])) else Acc32.of (.inf (s != t))
  | .inf _, .inf _ => Acc32.of (ofBits32 (Config.approx 0xD1 [bits32 a, bits32 b]))

/-- Quotient and square root that hand the marks on. -/
def aDiv (a b : Acc32) : Acc32 := let r := div32 a.val b.val; { r with sat := a.sat || b.sat || r.sat }
def aSqrt (a : Acc32) : Acc32 := { a with val := sqrt32 a.val }

/-- The larger of two values; NaN if either is NaN; +0 over -0 (Table 8.4). -/
def Num.max (a b : Num) : Num :=
  if a.isNan || b.isNan then .nan
  else if a.lt b then b else if b.lt a then a else if a.isNeg then b else a

/-- The smaller of two values; NaN if either is NaN; -0 under +0 (Table 8.4). -/
def Num.min (a b : Num) : Num :=
  if a.isNan || b.isNan then .nan
  else if a.lt b then a else if b.lt a then b else if a.isNeg then a else b

/-- Rounds to a multiple of 2^-30 at or below the value (R164). -/
def cut30 : Num → Num
  | .fin s m e =>
    if -30 ≤ e then .fin s m e
    else
      let sh := (-30 - e).toNat
      let a := m / 2 ^ sh
      .fin s (if s && m % 2 ^ sh != 0 then a + 1 else a) (-30)
  | x => x

/-- The smallest integer at or above a finite value. -/
def ceilNum : Num → Int
  | .fin s m e =>
    if 0 ≤ e then (if s then -(m * 2 ^ e.toNat : Nat) else (m * 2 ^ e.toNat : Nat))
    else
      let d := 2 ^ (-e).toNat
      if s then -((m / d : Nat) : Int) else (((m + d - 1) / d : Nat) : Int)
  | _ => 0

/-- Block scale (R67): the smallest t from -127 to 127 with |x| ≤ maxFinite * 2^t for a block whose largest magnitude
is m * 2^e; candidates around the quotient of the leading bits. -/
def scaleExp (c m : Nat) (e : Int) : Int :=
  let fits (t : Int) : Bool := cmpMag m e (maxFinite c).1 ((maxFinite c).2 + t) != .gt
  let t0 := (Nat.log2 m : Int) + e - Nat.log2 (maxFinite c).1 - (maxFinite c).2
  let t := if fits (t0 - 1) then t0 - 1 else if fits t0 then t0 else t0 + 1
  max (-127) (min 127 t)

/-- The largest magnitude of a block of finite values. -/
def blockMax : List Num → Nat × Int
  | [] => (0, 0)
  | .fin _ m e :: t =>
    let r := blockMax t
    if cmpMag m e r.1 r.2 == .gt then (m, e) else r
  | _ :: t => blockMax t

/-- The scale byte of a block (R67, R68): 0xFF for a non-finite element, 0 for a block of zeros. -/
def scaleByte (c : Nat) (xs : List Num) : Nat :=
  if xs.any (fun x => !x.isFinite) then 0xFF
  else if (blockMax xs).1 = 0 then 0
  else (scaleExp c (blockMax xs).1 (blockMax xs).2 + 127).toNat

/-- One element under a block scale: divided exactly and rounded once (R67); zero under 0xFF (R68). -/
def encodeScaled (c scale : Nat) (rnd : Rnd) (x : Num) : Nat × Bool :=
  if scale = 0xFF then (0, false) else encodeNum c rnd (x.scale (127 - (scale : Int)))

/-- The value of an element under a block scale (R65). -/
def decodeScaled (c scale v : Nat) : Num :=
  if scale = 0xFF then .nan else (decodeNum c v).scale ((scale : Int) - 127)

/-- One round of the generator (R79). -/
def philoxRound (k0 k1 : Nat) (c : Nat × Nat × Nat × Nat) : Nat × Nat × Nat × Nat :=
  let p0 := 0xD2511F53 * c.1
  let p1 := 0xCD9E8D57 * c.2.2.1
  ((p1 / 2 ^ 32) ^^^ c.2.1 ^^^ k0, p1 % 2 ^ 32, (p0 / 2 ^ 32) ^^^ c.2.2.2 ^^^ k1, p0 % 2 ^ 32)

/-- n rounds, the key words growing between them. -/
def philoxRounds : Nat → Nat → Nat → Nat × Nat × Nat × Nat → Nat × Nat × Nat × Nat
  | 0, _, _, c => c
  | n + 1, k0, k1, c =>
    philoxRounds n ((k0 + 0x9E3779B9) % 2 ^ 32) ((k1 + 0xBB67AE85) % 2 ^ 32) (philoxRound k0 k1 c)

/-- Philox-4x32 reduced to 7 rounds (R79). -/
def philox7 (c0 c1 c2 c3 k0 k1 : Nat) : Nat × Nat × Nat × Nat := philoxRounds 7 k0 k1 (c0, c1, c2, c3)

/-- The draw of element n (R80, Table 3.7). -/
def draw (seed purpose stream step tensorId n : Nat) : Nat :=
  let w := philox7 (n / 4 % 2 ^ 32) (n / 2 ^ 34 % 2 ^ 14 + purpose % 4 * 2 ^ 14 + stream % 2 ^ 16 * 2 ^ 16)
    (step % 2 ^ 32) (tensorId % 2 ^ 20) (seed % 2 ^ 32) (seed / 2 ^ 32 % 2 ^ 32)
  match n % 4 with
  | 0 => w.1
  | 1 => w.2.1
  | 2 => w.2.2.1
  | _ => w.2.2.2

end Sys2Proof.Machine
end

