-- ==== Sys2Proof/Machine/Approx.lean ====
section
/-!
DEFINITION. Functions that the spec gives by an error bound only (R164, R172, R192, R193, R217): the value is free
within the bound (log entry 10). The bound is checked against a reference formed in fixed point with 420 fractional
bits; a free value outside the bound is replaced by the reference rounded to nearest.
-/
namespace Sys2Proof.Machine

/-- Fractional bits of the references. -/
def fxP : Nat := 420
/-- One in fixed point. -/
def fxOne : Int := 2 ^ fxP

/-- Product, quotient and conversion in fixed point. -/
def fxMul (a b : Int) : Int := a * b / fxOne
def fxDiv (a b : Int) : Int := if b = 0 then 0 else a * fxOne / b
def fxNum (a : Int) : Num := .fin (decide (a < 0)) a.natAbs (-(fxP : Int))
def fxOf : Num → Int
  | .fin s m e =>
    let v : Int := if 0 ≤ e + fxP then m * 2 ^ (e + fxP).toNat else m / 2 ^ (-(e + fxP)).toNat
    if s then -v else v
  | _ => 0

/-- Sum over n of q^n / (2n + 1) with sign: the series of atan and atanh. -/
def oddSeries (q : Int) : Nat → Nat → Int → Int
  | 0, _, _ => 0
  | k + 1, n, t => t / (2 * n + 1) + oddSeries q k (n + 1) (fxMul t q)

/-- ln 2 = 2 atanh(1/3). -/
def fxLn2 : Int := 2 * oddSeries (fxOne / 9) 150 0 (fxOne / 3)
/-- pi by Machin's formula. -/
def fxPi : Int :=
  16 * oddSeries (-(fxOne / 25)) 120 0 (fxOne / 5) - 4 * oddSeries (-(fxOne / 57121)) 40 0 (fxOne / 239)

/-- Sum of r^n / n!. -/
def expSeries (r : Int) : Nat → Nat → Int → Int
  | 0, _, _ => 0
  | k + 1, n, t => t + expSeries r k (n + 1) (fxMul t r / (n + 1))

/-- e^t as a significand in fixed point and an exponent of two. -/
def expParts (t : Int) : Int × Int :=
  let k := (2 * t + fxLn2) / (2 * fxLn2)
  (expSeries (t - k * fxLn2) 90 0 fxOne, k)

/-- e^t for t up to zero, in fixed point. -/
def expNeg (t : Int) : Int :=
  if t < -(600 * fxOne) then 0 else let p := expParts t; p.1 / 2 ^ (-p.2).toNat

/-- 2^(f / 2^30) for f below 2^30. -/
def exp2Frac (f : Nat) : Num := fxNum (expSeries (fxLn2 * f / 2 ^ 30) 90 0 fxOne)

/-- ln of a positive finite value. -/
def lnRef (m : Nat) (e : Int) : Int :=
  let k := Nat.log2 m
  let x : Int := if k ≤ fxP then m * 2 ^ (fxP - k) else m / 2 ^ (k - fxP)
  let y := fxDiv (x - fxOne) (x + fxOne)
  2 * oddSeries (fxMul y y) 200 0 y + (e + k) * fxLn2

/-- sin and cos of an angle in fixed point by their series: terms alternate, starting at t. -/
def trigSeries (x2 : Int) : Nat → Nat → Int → Int
  | 0, _, _ => 0
  | k + 1, n, t => t + trigSeries x2 k (n + 2) (-(fxMul t x2) / ((n + 1) * (n + 2)))

/-- sin of a phase of f / 2^32 turns. -/
def sinTurns (f : Nat) : Num :=
  let x := 2 * fxPi * f / 2 ^ 32
  fxNum (trigSeries (fxMul x x) 90 1 x)
/-- cos of a phase of f / 2^32 turns. -/
def cosTurns (f : Nat) : Num :=
  let x := 2 * fxPi * f / 2 ^ 32
  fxNum (trigSeries (fxMul x x) 90 0 fxOne)

/-- e^(-|x|) of a finite value. -/
def decay (x : Num) : Int :=
  match x with
  | .fin _ m e => if cmpMag m e 600 0 == .gt then 0 else expNeg (-(fxOf (.fin false m e)))
  | _ => 0

/-- The logistic function and its complement. -/
def sigmoidFx (x : Num) : Int := let z := decay x; if x.isNeg then fxDiv z (fxOne + z) else fxDiv fxOne (fxOne + z)
/-- tanh. -/
def tanhFx (x : Num) : Int :=
  let z := decay x
  let w := fxMul z z
  let v := fxDiv (fxOne - w) (fxOne + w)
  if x.isNeg then -v else v

/-- The series of the normal distribution: x^(2n+1) (-1)^n / (2^n n! (2n+1)). -/
def phiSeries (h : Int) : Nat → Nat → Int → Int
  | 0, _, _ => 0
  | k + 1, n, t => t / (2 * n + 1) + phiSeries h k (n + 1) (-(fxMul t h) / (n + 1))

/-- sqrt(2 pi). -/
def sqrt2pi : Int := isqrt ((2 * fxPi).toNat * 2 ^ fxP)

/-- The normal distribution function. -/
def normalFx (x : Num) : Int :=
  match x with
  | .fin s m e =>
    if cmpMag m e 20 0 == .gt then (if s then 0 else fxOne)
    else
      let t := fxOf x
      fxOne / 2 + fxDiv (phiSeries (fxMul t t / 2) 800 0 t) sqrt2pi
  | _ => 0

/-- The normal density. -/
def densityFx (x : Num) : Int :=
  match x with
  | .fin _ m e =>
    if cmpMag m e 30 0 == .gt then 0
    else let t := fxOf x; fxDiv (expNeg (-(fxMul t t) / 2)) sqrt2pi
  | _ => 0

/-- The last place of FP32 at a value. -/
def ulp32 : Num → Num
  | .fin _ m e => if m = 0 then .fin false 1 (-149) else .fin false 1 (max ((Nat.log2 m : Int) + e - 23) (-149))
  | x => x

/-- A free value within a tolerance of a reference, else the reference rounded. -/
def within (fn : Nat) (args : List Word32) (ref tol : Num) : Num :=
  let c := ofBits32 (Config.approx fn args)
  if c.isFinite && (c.sub ref).abs.le tol then c else rnd32 ref

/-- A finite result within k units of the last place, or 2^-126 (R192); beyond FP32 it saturates (R190). -/
def withinUlps (fn : Nat) (args : List Word32) (ref : Num) (k : Nat) : Acc32 :=
  let r := f32 ref
  if r.2 then { val := r.1, sat := true }
  else Acc32.of (within fn args ref (((ulp32 ref).mul (.fin false k 0)).max (.fin false 1 (-126))))

/-- 2^u for u a multiple of 2^-30: the fractional part within a relative error of 2^-22, the whole part exact (R164,
R165); never above one for u up to zero. -/
def exp2At (n : Int) : Num :=
  if n < -(300 * 2 ^ 30) then .zero
  else if 300 * 2 ^ 30 < n then rnd32 (.fin false 1 300)
  else
    let f := (n % 2 ^ 30).toNat
    let ref := exp2Frac f
    let g := within 0x01 [BitVec.ofNat 32 f] ref (ref.scale (-22))
    let g := if Num.lt (.fin false (if f = 0 then 1 else 2) 0) g then .fin false (if f = 0 then 1 else 2) 0 else g
    rnd32 (g.scale (n / 2 ^ 30))

/-- A finite value in units of 2^-30. -/
def units30 : Num → Int
  | .fin s m e =>
    let v : Int := if -30 ≤ e then m * 2 ^ (e + 30).toNat else m / 2 ^ (-(e + 30)).toNat
    if s then -v else v
  | _ => 0

/-- log2 e as a fixed-point reference. -/
def log2e : Int := fxDiv fxOne fxLn2

/-- x * log2 e rounded toward minus infinity to a multiple of 2^-30, in those units (R164). -/
def timesLog2e (x : Num) : Int :=
  match x with
  | .fin s m e =>
    let p : Int := m * log2e
    let p := if s then -p else p
    let sh := e + 30 - fxP
    if 0 ≤ sh then p * 2 ^ sh.toNat else p / 2 ^ (-sh).toNat
  | _ => 0

/-- The smallest FP32 value at or above a whole number, for E is held in FP32 (R160); at most the largest finite one. -/
def ceil32 (v : Int) : Int :=
  let q : Int := 2 ^ (Nat.log2 v.natAbs - 23)
  min (2 ^ 128 - 2 ^ 104) (-(-v / q) * q)

/-- The log-sum-exp (ex + log2 l) * ln 2 within 2^-20 * max(1, |lse|) (R164). -/
def lseOf (ex l : Num) : Num :=
  match l with
  | .fin true _ _ => ofBits32 (Config.approx 0x1002 [bits32 ex, bits32 l])
  | .fin false m e =>
    let ref := fxNum (fxMul (fxOf ex) fxLn2 + lnRef m e)
    within 0x02 [bits32 ex, bits32 l] ref ((Num.max .one ref.abs).scale (-20))
  | x => x

/-- cos and sin of a phase, absolute error at most 2^-23 (R172). -/
def cosOf (f : Nat) : Num := within 0x03 [BitVec.ofNat 32 f] (cosTurns f) (.fin false 1 (-23))
def sinOf (f : Nat) : Num := within 0x04 [BitVec.ofNat 32 f] (sinTurns f) (.fin false 1 (-23))

/-- 1 / sqrt x of a positive finite value with 200 bits. -/
def rsqrtRef (m : Nat) (e : Int) : Num :=
  let odd := e % 2 != 0
  let m' := if odd then 2 * m else m
  let e' := if odd then e - 1 else e
  let k := 200 + Nat.log2 m'
  .fin false (isqrt (2 ^ (2 * k) / m')) (-(k : Int) - e' / 2)

/-- RSQRT (Table 8.4): within one unit of the last place; infinite at a zero, NaN of a negative value. -/
def rsqrt32 : Num → Acc32
  | .nan => Acc32.of .nan
  | .inf s => Acc32.of (if s then .nan else .zero)
  | .fin s m e =>
    if m = 0 then Acc32.of (.inf s) else if s then Acc32.of .nan
    else withinUlps 0x11 [bits32 (.fin s m e)] (rsqrtRef m e) 1

/-- The same with the mark handed on. -/
def aRsqrt (a : Acc32) : Acc32 := let r := rsqrt32 a.val; { r with sat := a.sat || r.sat }

/-- A result that the spec does not state: free (log entry 10). -/
def unstated (fn : Nat) (args : List Num) : Acc32 := Acc32.of (ofBits32 (Config.approx (fn + 0x1000) (args.map bits32)))

/-- 0.044715 and sqrt(2 / pi). -/
def geluC : Int := fxDiv (44715 * fxOne) (1000000 * fxOne)
def sqrt2OverPi : Int := isqrt ((fxDiv (2 * fxOne) fxPi).toNat * 2 ^ fxP)

/-- tanh of the argument of GELU_TANH, and the argument's derivative. -/
def geluTanhParts (x : Num) : Int × Int :=
  match x with
  | .fin s m e =>
    if cmpMag m e 100 0 == .gt then (if s then -fxOne else fxOne, 0)
    else
      let t := fxOf x
      let t2 := fxMul t t
      let a := fxMul sqrt2OverPi (t + fxMul geluC (fxMul t2 t))
      (tanhFx (fxNum a), fxMul sqrt2OverPi (fxOne + 3 * fxMul geluC t2))
  | _ => (0, 0)

/-- References at a finite value: gelu, its tanh form, silu and their derivatives. -/
def geluRef (x : Num) : Num := x.mul (fxNum (normalFx x))
def geluTanhRef (x : Num) : Num := x.mul (fxNum ((fxOne + (geluTanhParts x).1) / 2))
def siluRef (x : Num) : Num := x.mul (fxNum (sigmoidFx x))
def geluDeriv (x : Num) : Num := (fxNum (normalFx x)).add (x.mul (fxNum (densityFx x)))
def geluTanhDeriv (x : Num) : Num :=
  let p := geluTanhParts x
  (fxNum ((fxOne + p.1) / 2)).add (x.mul (fxNum (fxMul (fxOne - fxMul p.1 p.1) p.2 / 2)))
def siluDeriv (x : Num) : Num :=
  let z := sigmoidFx x
  (fxNum z).add (x.mul (fxNum (fxMul z (fxOne - z))))

/-- One argument function within k ulps; NaN stays NaN; an infinite argument has the value given for it. -/
def unary (fn k : Nat) (x : Num) (ref : Num → Num) (pos neg : Num) : Acc32 :=
  match x with
  | .nan => Acc32.of .nan
  | .inf s => Acc32.of (if s then neg else pos)
  | .fin _ _ _ => withinUlps fn [bits32 x] (ref x) k

/-- z times a function of x within k ulps, the product of the exact values; at an infinite x the function has the value
given for it, and the product is that of IEEE 754. -/
def scaled (fn k : Nat) (x : Num) (args : List Num) (z : Num) (ref : Num → Num) (pos neg : Num) : Acc32 :=
  match x with
  | .nan => Acc32.of .nan
  | .inf s => Acc32.round ((if s then neg else pos).mul z)
  | .fin .. =>
    let v := (ref x).mul z
    if v.isFinite then withinUlps fn ((x :: args).map bits32) v k else Acc32.of v

/-- EXP, LOG, SIGMOID and TANH (Table 8.4). -/
def exp32 (x : Num) : Acc32 :=
  unary 0x0F 2 x (fun v =>
    match v with
    | .fin s m e =>
      if cmpMag m e 1000 0 == .gt then (if s then .fin false 1 (-1000) else .fin false 1 1000)
      else let p := expParts (fxOf v); (fxNum p.1).scale p.2
    | w => w) (.inf false) .zero
def log32 (x : Num) : Acc32 :=
  match x with
  | .fin s m e =>
    if m = 0 then Acc32.of (.inf true) else if s then Acc32.of .nan
    else withinUlps 0x10 [bits32 x] (fxNum (lnRef m e)) 2
  | .inf s => Acc32.of (if s then .nan else .inf false)
  | .nan => Acc32.of .nan
def sigmoid32 (x : Num) : Acc32 := unary 0x0D 2 x (fun v => fxNum (sigmoidFx v)) .one .zero
def tanh32 (x : Num) : Acc32 :=
  unary 0x0E 2 x (fun v => fxNum (tanhFx v)) .one Num.one.neg

/-- RECIP: within one unit of the last place, infinite at a zero. -/
def recip32 (x : Num) : Acc32 :=
  match x with
  | .nan => Acc32.of .nan
  | .inf s => Acc32.of (.fin s 0 0)
  | .fin s m e => if m = 0 then Acc32.of (.inf s) else withinUlps 0x12 [bits32 x] (quotient s 1 m (-e)) 1

end Sys2Proof.Machine
end

