-- ==== Sys2Proof/Machine/Opcodes.lean ====
section
/-!
DEFINITION. The command set of Table 5.6: the range of ENGINE for each opcode, which commands can be killed, and the
descriptors each command names.
-/
namespace Sys2Proof

/-- Opcode, engine and PARAM words of a command. -/
def Cmd.op (c : Cmd) : Nat := c.opcode.toNat
def Cmd.eng (c : Cmd) : Nat := c.engine.toNat
def Cmd.w4 (c : Cmd) : Nat := c.word4.toNat
def Cmd.w5 (c : Cmd) : Nat := c.word5.toNat
def Cmd.w6 (c : Cmd) : Nat := c.word6.toNat
def Cmd.w7 (c : Cmd) : Nat := c.word7.toNat
/-- PARAM as one 128-bit number. -/
def Cmd.param (c : Cmd) : Nat := c.w4 + c.w5 * 2 ^ 32 + c.w6 * 2 ^ 64 + c.w7 * 2 ^ 96
/-- A one-bit field. -/
def flag (v b : Nat) : Bool := field v b 1 == 1

/-- The wait entries of a command. -/
def Cmd.waits (c : Cmd) : List WaitEntry := [c.wait0, c.wait1, c.wait2, c.wait3]

/-- What a command consumes of a token (R130). -/
def Cmd.consumes (c : Cmd) (t : Nat) : Nat :=
  c.waits.foldl (fun n w => if w.consume && w.token.toNat == t then n + w.count.toNat else n) 0

/-- Range of ENGINE for an opcode (Table 5.6); none for a reserved opcode. -/
def engineRange (op : Nat) : Option (Nat × Nat) :=
  if 0x10 ≤ op ∧ op ≤ 0x12 then some (0, 15)
  else if 0x20 ≤ op ∧ op ≤ 0x21 then some (16, 23)
  else if 0x30 ≤ op ∧ op ≤ 0x32 then some (28, 29)
  else if 0x40 ≤ op ∧ op ≤ 0x45 then some (24, 27)
  else if 0x50 ≤ op ∧ op ≤ 0x52 then some (30, 30)
  else if 0x60 ≤ op ∧ op ≤ 0x63 then some (31, 38)
  else if 0x70 ≤ op ∧ op ≤ 0x76 then some (39, 44)
  else if 0x80 ≤ op ∧ op ≤ 0x86 then some (45, 52)
  else if (0x90 ≤ op ∧ op ≤ 0x93) ∨ (0xA0 ≤ op ∧ op ≤ 0xA2) ∨ (0xB0 ≤ op ∧ op ≤ 0xB1) then some (63, 63)
  else none

/-- Whether a command can be killed (R135, R137, R205). -/
def Cmd.killable (c : Cmd) : Bool := c.op < 0x70 && c.op != 0x52

/-- A descriptor that a command names: D0, D1 or D2, the offset in its run, whether it is an output. -/
structure Use where
  base : Nat
  off : Nat
  out : Bool
deriving DecidableEq, Repr

/-- A use as an input or an output. -/
def inp (b k : Nat) : Use := ⟨b, k, false⟩
def outp (b k : Nat) : Use := ⟨b, k, true⟩
/-- A use that a flag turns on. -/
def useIf (c : Bool) (u : Use) : List Use := if c then [u] else []

/-- The functions of PW_MAP that read D1 (Table 8.4). -/
def pwBinary (f : Nat) : Bool :=
  [0x00, 0x01, 0x02, 0x03, 0x04, 0x05, 0x0C, 0x20, 0x21, 0x22, 0x23, 0x24, 0x30, 0x31].contains f

/-- Whether Table 8.4 lists a function. -/
def pwListed (f : Nat) : Bool :=
  decide (f ≤ 0x13) || (decide (0x20 ≤ f) && decide (f ≤ 0x24)) || f == 0x30 || f == 0x31

/-- The operands of an SE_UPDATE (Table 9.2). -/
def updateUses (w : Nat) : List Use :=
  let o := field w 0 3
  [inp 0 0, inp 0 1, inp 0 2] ++
  (if o = 3 ∨ 6 ≤ o then [] else
    [outp 1 0] ++ useIf (o ≤ 2 || o == 5) (outp 1 1) ++ useIf (o == 1 || o == 4 || o == 5) (outp 1 2) ++
    useIf (o == 4 || o == 5) (outp 1 3)) ++
  useIf (flag w 19 && o != 3) (outp 2 0) ++ useIf (flag w 20 && o != 3) (outp 2 1) ++
  (if o = 3 then [outp 2 2] else if o = 4 ∨ o = 5 then [inp 2 2] else [])

/-- A run of n descriptors from a base. -/
def runOf (b n : Nat) (out : Bool) : List Use := (List.range n).map (fun k => ⟨b, k, out⟩)

/-- Descriptors of a message; a reserved NDESC, which BAD_PARAM refuses, names the first alone (Table 11.4). -/
def lcRun (v : Nat) : Nat := if field v 3 3 = 0 ∨ 4 < field v 3 3 then 1 else field v 3 3

/-- The descriptors a command names (Table 5.6, Tables 7.1, 7.8, 8.5-8.8, 9.2, R271-R276), by its mode: a descriptor that
the opcode uses in another mode only, such as D1 of CONV_4STEP outside pass 2 or D2 of VOC_XENT without DH and DE, counts
as unused (DESIGN CHOICE, log entry 55). A halo of one tap is no operand (R187), nor is any of a reserved mode. -/
def Cmd.uses (c : Cmd) : List Use :=
  let w := c.w4
  let v := c.w5
  match c.op with
  | 0x10 => [inp 0 0, inp 1 0] ++ useIf (field w 0 2 == 0) (outp 2 0)
  | 0x11 => [outp 2 0]
  | 0x20 =>
    [inp 0 0] ++ useIf (flag w 27 || field w 25 2 == 3) (inp 0 1) ++ [inp 1 0, inp 1 1] ++
    (if flag w 29 then [] else [inp 2 0, inp 2 1]) ++ [outp 2 2, outp 2 3]
  | 0x21 =>
    [inp 0 0, inp 0 1, inp 0 2] ++ useIf (flag w 27 || field w 25 2 == 3) (inp 0 3) ++
    [inp 1 0, inp 1 1, outp 2 0, outp 2 1, outp 2 2]
  | 0x30 => [inp 0 0, inp 1 0, outp 2 0] ++ useIf (flag w 17 && field w 0 17 != 1) (inp 2 1)
  | 0x31 => [inp 0 0, inp 1 0, outp 2 0] ++ useIf (flag w 17 && field w 0 17 != 1) (inp 2 1)
  | 0x32 => [inp 0 0] ++ useIf (field w 23 2 == 2) (inp 1 0) ++ [outp 2 0]
  | 0x40 =>
    [inp 0 0] ++ useIf (field w 0 8 == 0x23) (inp 0 1) ++ useIf (pwBinary (field w 0 8)) (inp 1 0) ++ [outp 2 0]
  | 0x41 =>
    if 4 ≤ field w 0 8 then []
    else if field w 0 8 < 2 then
      [inp 0 0] ++ useIf (flag w 11) (inp 1 0) ++ useIf (flag w 10) (inp 1 1) ++ [outp 2 0, outp 2 1]
    else [inp 0 0, inp 0 1, inp 1 0] ++ useIf (flag w 11) (inp 1 1) ++ [outp 2 0]
  | 0x42 => [inp 0 0, outp 2 0] ++ useIf (flag w 9) (outp 2 1)
  | 0x43 => [inp 0 0] ++ useIf (field w 0 8 == 4) (inp 1 0) ++ [outp 2 0] ++ useIf (flag w 9) (outp 2 1)
  | 0x44 => [inp 0 0] ++ useIf (field w 0 8 == 5) (inp 1 0) ++ [outp 2 0]
  | 0x45 => [inp 0 0, outp 2 0]
  | 0x50 => [inp 0 0, inp 1 0, outp 2 0]
  | 0x51 =>
    if 2 ≤ field w 0 2 then []
    else if field w 0 2 = 0 then [inp 0 0, inp 0 1, inp 1 0, outp 2 0] ++ useIf (!flag w 6) (inp 2 1)
    else [inp 0 0, inp 0 1, inp 0 2] ++ useIf (!flag w 6) (inp 0 3) ++ [inp 1 0] ++
      useIf (flag w 9) (outp 2 0) ++ useIf (flag w 8) (outp 2 1)
  | 0x52 => [inp 0 0, inp 1 0, outp 1 1]
  | 0x60 => [inp 0 0, outp 2 0]
  | 0x61 => [inp 0 0, outp 2 0]
  | 0x62 => [inp 0 0, outp 2 0]
  | 0x63 => [inp 0 0]
  | 0x70 => updateUses w
  | 0x71 => [inp 0 0, outp 2 0, outp 2 1] ++ useIf (flag w 1) (outp 2 2)
  | 0x72 => [inp 0 0, inp 0 1, outp 1 0]
  | 0x73 => [inp 0 0, inp 1 0, outp 2 0]
  | 0x76 => [outp 2 0]
  | 0x80 => [inp 0 0] ++ useIf (!flag v 0) (inp 0 1) ++ [inp 1 0, inp 1 1, outp 2 0]
  | 0x81 => [inp 0 0, inp 1 0, inp 1 1, outp 2 0]
  | 0x82 => [inp 0 0, inp 1 0, inp 1 1, outp 2 0]
  | 0x83 => [inp 0 0, inp 0 1, inp 1 0, outp 2 0, outp 2 1]
  | 0x84 =>
    [inp 0 0, inp 0 1] ++ (if flag v 0 then [] else [inp 0 2, inp 0 3]) ++
    (if flag v 1 then [inp 1 0, inp 1 1] else [])
  | 0x85 => runOf 0 (lcRun v) false
  | 0x86 => runOf 2 (lcRun v) true
  | _ => []

/-- The descriptor fields whose use a reserved mode leaves unsaid: they are not checked, and BAD_PARAM refuses the
command (R139). -/
def Cmd.unsaid (c : Cmd) : List Nat :=
  let w := c.w4
  match c.op with
  | 0x10 => if 2 ≤ field w 0 2 then [2] else []
  | 0x40 => if pwListed (field w 0 8) then [] else [1]
  | 0x41 => if 4 ≤ field w 0 8 then [0, 1, 2] else []
  | 0x43 => if 5 ≤ field w 0 8 then [1] else []
  | 0x44 => if 6 ≤ field w 0 8 then [1] else []
  | 0x51 => if 2 ≤ field w 0 2 then [0, 1, 2] else []
  | _ => []

/-- First index of D0, D1 or D2. -/
def Cmd.dIndex (c : Cmd) : Nat → Nat
  | 0 => c.d0.toNat
  | 1 => c.d1.toNat
  | _ => c.d2.toNat

/-- The descriptor index of a use. -/
def Cmd.indexOf (c : Cmd) (u : Use) : Nat := c.dIndex u.base + u.off

/-- The descriptor indices a command names. -/
def Cmd.named (c : Cmd) : List Nat := c.uses.map c.indexOf

/-- The descriptor indices a command latches: a reduce-scatter may need the bitmap of a stack target (R271). -/
def Cmd.latched (c : Cmd) : List Nat := c.named ++ if c.op = 0x80 then [c.dIndex 2 + 1] else []

/-- Whether a wait entry is malformed (R125). -/
def badWait (w : WaitEntry) : Bool := w.count == 0 && (w.token != 0 || w.consume)

end Sys2Proof
end

