-- ==== Sys2Proof/Machine/Operands.lean ====
section
/-!
DEFINITION. Operands: the device address map (R88-R94), tensor descriptors and their validity (R96-R101), element
addresses, reading tensors, and forming outputs with their counts (R61, R66-R68, R74-R78, R83-R85).
-/
namespace Sys2Proof.Machine

/-- The spaces of the DA map (Table 4.1). -/
inductive Space where
  | stack
  | sram (r : Nat)
  | control
  | host
  | peer
  | reserved
deriving DecidableEq, Repr

/-- The space of a DA (R88). -/
def spaceOf (da : Nat) : Space :=
  if da < 0x18000000000 then .stack
  else if 0x200000000000 ≤ da ∧ da < 0x200040000000 then .sram ((da - 0x200000000000) / 0x10000000)
  else if 0x300000000000 ≤ da ∧ da < 0x300010000000 then .control
  else if 0x400000000000 ≤ da ∧ da < 0x800000000000 then .host
  else if 0x8000000000000000 ≤ da ∧ da < 0x9000000000000000 then .peer
  else .reserved

/-- Fabric address and peer offset of a peer-window DA. -/
def peerAddr (da : Nat) : Nat := da / 2 ^ 44 % 65536
def peerOffset (da : Nat) : Nat := da % 2 ^ 44

/-- The DA that a peer offset names on the peer (R90). -/
def peerTarget (off : Nat) : Option Nat :=
  if off < 0x18000000000 then some off
  else if 0x80000000000 ≤ off ∧ off < 0x80040000000 then some (0x200000000000 + (off - 0x80000000000))
  else none

/-- The stack byte of a DA in an interleaved region: granules of 4 KiB rotate across six stacks (R92). -/
def interleave (da : Nat) : Nat :=
  let r := da / 0x6000000000
  let o := da % 0x6000000000
  let g := o / 4096
  stackBase (6 * r + g % 6) + g / 6 * 4096 + o % 4096

/-- The memory key of a DA: interleaved stack DAs are mapped, all others stand (R92). -/
def State.phys (s : State) (da : Nat) : Nat :=
  if da < 0x18000000000 && s.bit HUB_STK_MODE.INTLV (da / 0x6000000000) then interleave da else da

/-- The key of a DA for a unit that reads stack operands as linear DAs (R209), or not. -/
def State.key (s : State) (linear : Bool) (da : Nat) : Nat := if linear then da else s.phys da

/-- The extent of stack i of an interleaved region that the DAs [lo, hi) touch. -/
def interleavedPart (lo hi i : Nat) : List Extent :=
  let r := lo / 0x6000000000
  let g1 := lo % 0x6000000000 / 4096
  let g2 := (hi - 1) % 0x6000000000 / 4096
  let first := g1 + (i + 6 - g1 % 6) % 6
  if g2 < first then [] else
  let last := g2 - (g2 % 6 + 6 - i) % 6
  let base := stackBase (6 * r + i)
  [{ lo := base + first / 6 * 4096 + if first = g1 then lo % 4096 else 0
     hi := base + last / 6 * 4096 + if last = g2 then (hi - 1) % 4096 + 1 else 4096 }]

/-- The memory extents of the DAs [lo, hi): none for the host and peer windows. -/
def State.extents (s : State) (linear : Bool) (lo hi : Nat) : List Extent :=
  match spaceOf lo with
  | .stack =>
    if linear then [{ lo := lo, hi := hi }]
    else (List.range 4).flatMap (fun r =>
      let a := max lo (r * 0x6000000000)
      let b := min hi ((r + 1) * 0x6000000000)
      if b ≤ a then []
      else if s.bit HUB_STK_MODE.INTLV r then (List.range 6).flatMap (interleavedPart a b)
      else [{ lo := a, hi := b }])
  | .sram _ => [{ lo := lo, hi := hi }]
  | _ => []

/-- Whether two extents overlap. -/
def Extent.overlaps (a b : Extent) : Bool := decide (a.lo < b.hi) && decide (b.lo < a.hi)

/-- Whether any extents of two lists overlap. -/
def overlapAny (xs ys : List Extent) : Bool := xs.any (fun x => ys.any (fun y => x.overlaps y))

/-- Bits [lo, lo + w) of a number. -/
def bitsAt (v lo w : Nat) : Nat := v / 2 ^ lo % 2 ^ w

/-- Value of a field in a written word. -/
def Fld.ofWord (f : Fld) (v : Nat) : Nat := bitsAt v f.lsb f.width

/-- A descriptor from its 64 bytes as a little-endian number (Table 4.3). -/
def decodeDesc (v : Nat) : Desc :=
  { base := bitsAt v 0 64, scaleBase := bitsAt v 64 64, format := bitsAt v 128 8, layout := bitsAt v 136 8
    stream := bitsAt v 144 16, tensorId := bitsAt v 160 20, round := bitsAt v 180 2, statEn := bitsAt v 182 1 == 1
    rank := bitsAt v 183 3, blk := bitsAt v 186 3, dir := bitsAt v 189 1 == 1
    rsv := bitsAt v 190 2 + bitsAt v 312 8
    sizes := (List.range 5).map (fun d => bitsAt v (192 + 24 * d) 24)
    strides := (List.range 4).map (fun d => bitsAt v (320 + 48 * d) 48) }

/-- Descriptor i of region r. -/
def State.desc (s : State) (r i : Nat) : Desc :=
  decodeDesc ((List.range 8).foldl (fun v w => v + s.get RGN_DESC.WORD r i w * 2 ^ (64 * w)) 0)

/-- SIZEd as written. -/
def Desc.rawSize (d : Desc) (k : Nat) : Nat := d.sizes.getD k 0
/-- SIZEd, an absent dimension counting one index. -/
def Desc.size (d : Desc) (k : Nat) : Nat := max 1 (d.rawSize k)
/-- STRIDEd for d from 1. -/
def Desc.stride (d : Desc) (k : Nat) : Nat := d.strides.getD (k - 1) 0
/-- Number of elements. -/
def Desc.count (d : Desc) : Nat := d.size 0 * d.size 1 * d.size 2 * d.size 3 * d.size 4
/-- Element bits. -/
def Desc.bits (d : Desc) : Nat := fmtBits d.format
/-- Element size in bytes, at least one (R97). -/
def Desc.unit (d : Desc) : Nat := max 1 (d.bits / 8)
/-- Elements of a block (R66). -/
def Desc.block (d : Desc) : Nat := 2 ^ (d.blk + 3)
/-- Side of the tiles of a tiled layout. -/
def Desc.tile (d : Desc) : Nat := if d.layout = 2 then 32 else 128
/-- Whether the layout is tiled. -/
def Desc.tiled (d : Desc) : Bool := d.layout == 1 || d.layout == 2
/-- Whether the layout is PAGED. -/
def Desc.paged (d : Desc) : Bool := d.layout == 4
/-- Whether dims beyond 0 and 1 have index zero only. -/
def Desc.rankOr (d : Desc) : Nat := d.rank

/-- Reserved format, rounding or block-size code: BAD_FORMAT alone (R139). -/
def Desc.codeDefect (d : Desc) : Bool := !formatListed d.format || 2 ≤ d.round || 6 ≤ d.blk

/-- Any other breach of R97: BAD_DESC. So does a PAGED descriptor with BASE outside the stacks, which Table 4.4 rules out
without naming a code (DESIGN CHOICE, log entry 55). -/
def Desc.otherDefect (d : Desc) : Bool :=
  d.rank == 0 || 6 ≤ d.rank ||
  (List.range 5).any (fun k => if k < d.rank then d.rawSize k == 0 else d.rawSize k != 0) ||
  (List.range 4).any (fun k => (d.rank ≤ k + 1 && d.stride (k + 1) != 0)) ||
  !(d.layout == 0 || d.layout == 1 || d.layout == 2 || d.layout == 4) ||
  d.rsv != 0 ||
  (formatListed d.format &&
    (d.base % d.unit != 0 || (List.range 4).any (fun k => d.stride (k + 1) % d.unit != 0) ||
     (!hasScale d.format && (d.scaleBase != 0 || (d.blk != 0 && d.blk < 6) || d.dir)) ||
     (isWire d.format && ((d.blk != 2 && d.blk < 6) || d.dir)))) ||
  (d.tiled && (d.base % 256 != 0 || d.stride 1 != 0)) ||
  (d.paged && 0x18000000000 ≤ d.base)

/-- Sum over dimensions lo to 4 of (SIZEd - 1) * STRIDEd. -/
def Desc.strideSpan (d : Desc) (lo : Nat) : Nat :=
  ((List.range 5).filter (lo ≤ ·)).foldl (fun a k => a + (d.size k - 1) * d.stride k) 0

/-- Bytes from BASE to the end of the extent (R99). -/
def Desc.span (d : Desc) : Nat :=
  if d.tiled then
    d.strideSpan 2 + ((d.size 0 + d.tile - 1) / d.tile) * ((d.size 1 + d.tile - 1) / d.tile) * (d.tile * d.tile) *
      d.bits / 8
  else d.strideSpan 1 + (d.size 0 * d.bits + 7) / 8

/-- Blocks along the sharing direction and in all (R66). -/
def Desc.lineBlocks (d : Desc) : Nat :=
  if d.dir then (d.size 1 + d.block - 1) / d.block else (d.size 0 + d.block - 1) / d.block
def Desc.blocks (d : Desc) : Nat :=
  if d.dir then d.size 0 * d.lineBlocks * d.size 2 * d.size 3 * d.size 4
  else d.lineBlocks * d.size 1 * d.size 2 * d.size 3 * d.size 4

/-- Index of element n in dimension k: dimension 0 fastest (R81). -/
def Desc.index (d : Desc) (n k : Nat) : Nat :=
  match k with
  | 0 => n % d.size 0
  | 1 => n / d.size 0 % d.size 1
  | 2 => n / (d.size 0 * d.size 1) % d.size 2
  | 3 => n / (d.size 0 * d.size 1 * d.size 2) % d.size 3
  | _ => n / (d.size 0 * d.size 1 * d.size 2 * d.size 3)

/-- Logical index of an element from its indices. -/
def Desc.linear (d : Desc) (i0 i1 i2 : Nat) (i3 : Nat := 0) (i4 : Nat := 0) : Nat :=
  i0 + d.size 0 * (i1 + d.size 1 * (i2 + d.size 2 * (i3 + d.size 3 * i4)))

/-- The block of element n, numbered by the order of the blocks' first elements (R66). -/
def Desc.blockOf (d : Desc) (n : Nat) : Nat :=
  let outer := d.index n 2 + d.size 2 * (d.index n 3 + d.size 3 * d.index n 4)
  if d.dir then d.index n 0 + d.size 0 * (d.index n 1 / d.block + d.lineBlocks * outer)
  else d.index n 0 / d.block + d.lineBlocks * (d.index n 1 + d.size 1 * outer)

/-- The elements of block b. -/
def Desc.members (d : Desc) (b : Nat) : List Nat :=
  if d.dir then
    let i0 := b % d.size 0
    let j := b / d.size 0 % d.lineBlocks
    let outer := b / d.size 0 / d.lineBlocks
    (List.range (min d.block (d.size 1 - j * d.block))).map
      (fun x => i0 + d.size 0 * (j * d.block + x + d.size 1 * outer))
  else
    let j := b % d.lineBlocks
    let line := b / d.lineBlocks
    (List.range (min d.block (d.size 0 - j * d.block))).map (fun x => j * d.block + x + d.size 0 * line)

/-- Bit address of element n, from BASE up (R61, R99, R101). -/
def Desc.bitAddr (d : Desc) (n : Nat) : Nat :=
  let i (k : Nat) := d.index n k
  if d.tiled then
    let t := d.tile
    let t0 := (d.size 0 + t - 1) / t
    (d.base + i 2 * d.stride 2 + i 3 * d.stride 3 + i 4 * d.stride 4) * 8 +
      (((i 1 / t) * t0 + i 0 / t) * (t * t) + (i 1 % t) * t + i 0 % t) * d.bits
  else (d.base + i 1 * d.stride 1 + i 2 * d.stride 2 + i 3 * d.stride 3 + i 4 * d.stride 4) * 8 + i 0 * d.bits

/-- A reader of bytes by DA. -/
abbrev Reader := Nat → Byte

/-- The bytes of the module as a command's engine reads them: linear stack DAs for a stack engine (R209); for the other
engines working copies that no bell has published are not there yet (R28). -/
def State.reader (s : State) (linear : Bool) : Reader :=
  let opens := s.openOuts ++ if linear then [] else s.unreadCopies
  fun da => readOpen s.mem opens (s.key linear da)

/-- w bits at a bit address. -/
def readBits (rd : Reader) (a w : Nat) : Nat :=
  bitsAt (ofLe ((List.range ((a % 8 + w + 7) / 8)).map (fun k => rd (a / 8 + k)))) (a % 8) w

/-- PAGED: byte address of element n through the page table at BASE (R227); entries hold stack offsets. -/
def pagedAddr (rd : Reader) (d : Desc) (n : Nat) : Nat :=
  let x := d.index n 1
  let stack := d.base / 0x1000000000
  let entry := ofLe ((List.range 8).map (fun k => rd (d.base + 64 + 8 * (x / 256) + k)))
  stackBase stack + entry % 2 ^ 36 / 4096 * 4096 + ((d.index n 2 * 256 + x % 256) * d.size 0 + d.index n 0) * d.unit

/-- The code of element n. -/
def readCode (rd : Reader) (d : Desc) (n : Nat) : Nat :=
  if d.paged then readBits rd (pagedAddr rd d n * 8) d.bits else readBits rd (d.bitAddr n) d.bits

/-- The scale byte of block b. -/
def readScale (rd : Reader) (d : Desc) (b : Nat) : Nat := (rd (d.scaleBase + b)).toNat

/-- The value of element n (R62-R65). -/
def readElem (rd : Reader) (d : Desc) (n : Nat) : Num :=
  if hasScale d.format then decodeScaled d.format (readScale rd d (d.blockOf n)) (readCode rd d n)
  else decodeNum d.format (readCode rd d n)

/-- The value at indices (i0, i1, i2). -/
def readAt (rd : Reader) (d : Desc) (i0 i1 i2 : Nat) : Num := readElem rd d (d.linear i0 i1 i2)

/-- The codes of a run of elements packed from bit 0, remaining bits zero (R61). -/
def packCodes (bits : Nat) (codes : List Nat) : List Byte :=
  toLe ((codes.length * bits + 7) / 8) (codes.foldr (fun c a => c + 2 ^ bits * a) 0)

/-- Writes of a run of bytes from a DA, cut where the map may change stack (R92). -/
def runPosts (key : Nat → Nat) : Nat → Nat → List Byte → List Post
  | 0, _, _ => []
  | _, _, [] => []
  | fuel + 1, da, bs =>
    let n := 4096 - da % 4096
    if bs.length ≤ n then [.bytes (key da) bs]
    else .bytes (key da) (bs.take n) :: runPosts key fuel (da + n) (bs.drop n)

/-- Writes of a run of bytes from a DA. -/
def bytePosts (key : Nat → Nat) (da : Nat) (bs : List Byte) : List Post :=
  if bs.isEmpty then [] else runPosts key (bs.length / 4096 + 2) da bs

/-- Starts of the dimension-0 runs of a tensor: the element index of each run's first element. -/
def Desc.runs (d : Desc) : List Nat := (List.range (d.count / d.size 0)).map (· * d.size 0)

/-- The writes that place codes: whole runs for LINEAR; whole tiles with zero padding for a tiled layout (R101). -/
def placeCodes (key : Nat → Nat) (d : Desc) (code : Nat → Nat) : List Post :=
  if d.tiled then
    let t := d.tile
    let rows := (d.size 1 + t - 1) / t * t
    let outer := d.size 2 * d.size 3 * d.size 4
    (List.range outer).flatMap (fun o => (List.range rows).flatMap (fun i1 =>
      (List.range ((d.size 0 + t - 1) / t)).flatMap (fun t0 =>
        let n0 := t0 * t + d.size 0 * (min i1 (d.size 1 - 1) + d.size 1 * o)
        let a0 := d.bitAddr n0 + (i1 - min i1 (d.size 1 - 1)) * t * d.bits
        bytePosts key (a0 / 8) (packCodes d.bits ((List.range t).map (fun x =>
          if t0 * t + x < d.size 0 ∧ i1 < d.size 1 then code (n0 + x) else 0))))))
  else d.runs.flatMap (fun n0 =>
    bytePosts key (d.bitAddr n0 / 8) (packCodes d.bits ((List.range (d.size 0)).map (fun x => code (n0 + x)))))

/-- The writes that place codes in a PAGED tensor, run by run through its page table (R101, R227). -/
def placePaged (rd : Reader) (key : Nat → Nat) (d : Desc) (code : Nat → Nat) : List Post :=
  d.runs.flatMap (fun n0 =>
    bytePosts key (pagedAddr rd d n0) (packCodes d.bits ((List.range (d.size 0)).map (fun x => code (n0 + x)))))

/-- The writes that place codes of a matrix engine's output: whole tiles' rows up to the tensor's edge, since padded
elements are never written (R143). -/
def placeBare (key : Nat → Nat) (d : Desc) (code : Nat → Nat) : List Post :=
  if d.tiled then
    let t := d.tile
    (List.range (d.count / d.size 0)).flatMap (fun line => (List.range ((d.size 0 + t - 1) / t)).flatMap (fun t0 =>
      let n0 := t0 * t + d.size 0 * line
      bytePosts key (d.bitAddr n0 / 8)
        (packCodes d.bits ((List.range (min t (d.size 0 - t0 * t))).map (fun x => code (n0 + x))))))
  else placeCodes key d code

/-- An output element: its code, whether it saturated (R74), its class when non-finite (R76), whether it is stored as a
zero, whether its block has scale 0xFF and so holds nothing of it (R68, R85). -/
structure OutElem where
  code : Nat
  sat : Bool
  cls : Option Nat
  zero : Bool
  lost : Bool
deriving DecidableEq, Repr

/-- The class of a non-finite value: 0 NaN, 1 +infinity, 2 -infinity. -/
def Num.cls : Num → Option Nat
  | .nan => some 0
  | .inf s => some (if s then 2 else 1)
  | .fin _ _ _ => none

/-- Converts one element (R74-R78). -/
def convertElem (d : Desc) (scale : Nat) (rnd : Rnd) (x : Acc32) : OutElem :=
  let r := if hasScale d.format then encodeScaled d.format scale rnd x.val else encodeNum d.format rnd x.val
  { code := r.1, sat := x.val.isFinite && (x.sat || r.2), cls := x.val.cls
    zero := (decodeNum d.format r.1).isZero, lost := hasScale d.format && scale == 0xFF }

/-- What an output adds to a commit. -/
structure OutT where
  posts : List Post
  sat : Nat
  nonfinite : Nat
  watch : Watch
  first : Option (Nat × Nat)
deriving DecidableEq, Repr

/-- Counts of a list of output elements (R85): a saturation or a zero only for a finite element of a block that is not
0xFF. An element stored as a zero whose accumulation saturated counts as a saturation alone, for the rule allows one
count and gives no order (DESIGN CHOICE, log entry 55). -/
def watchOf (es : List OutElem) : Watch :=
  { elements := es.length
    zeros := (es.filter (fun e => e.cls.isNone && !e.lost && !e.sat && e.zero)).length
    sat := (es.filter (fun e => e.cls.isNone && !e.lost && e.sat)).length
    nan := (es.filter (fun e => e.cls == some 0)).length
    inf := (es.filter (fun e => e.cls == some 1 || e.cls == some 2)).length }

/-- Elements of an output that count as saturations of its region (R74). -/
def satCount (es : List OutElem) : Nat := (es.filter (fun e => e.cls.isNone && e.sat)).length

/-- The lowest non-finite element with its class (R76). -/
def firstNonfinite : Nat → List OutElem → Option (Nat × Nat)
  | _, [] => none
  | n, e :: t => match e.cls with
    | some c => some (n, c)
    | none => firstNonfinite (n + 1) t

/-- Rounding of element n under a descriptor: its own draw when the mode is stochastic (R77, R80). -/
def rndOf (d : Desc) (dr : Nat → Nat) (n : Nat) : Rnd := if d.round = 1 then .sr (dr n) else .rne

/-- Forms an output: chooses block scales (R67, R68), converts each element once, counts; its codes are placed as
`place` says. -/
def formPlaced (place : Desc → (Nat → Nat) → List Post) (key : Nat → Nat) (d : Desc) (dr : Nat → Nat)
    (val : Nat → Acc32) : OutT :=
  let scales := if hasScale d.format then
      (List.range d.blocks).map (fun b => scaleByte d.format ((d.members b).map (fun n => (val n).val)))
    else []
  let es := (List.range d.count).map (fun n =>
    convertElem d (scales.getD (d.blockOf n) 0) (rndOf d dr n) (val n))
  { posts := place d (fun n => ((es[n]?).map (·.code)).getD 0) ++
      (if hasScale d.format then bytePosts key d.scaleBase (scales.map (BitVec.ofNat 8)) else [])
    sat := satCount es, nonfinite := (watchOf es).nan + (watchOf es).inf, watch := watchOf es
    first := firstNonfinite 0 es }

/-- Forms an output that moves codes without conversion (R102): the values serve the counts only. -/
def formCopy (place : Desc → (Nat → Nat) → List Post) (key : Nat → Nat) (d : Desc) (code : Nat → Nat)
    (scale : Nat → Nat) : OutT :=
  let es := (List.range d.count).map (fun n =>
    let v := if hasScale d.format then decodeScaled d.format (scale (d.blockOf n)) (code n)
      else decodeNum d.format (code n)
    { code := code n, sat := false, cls := v.cls, zero := v.isZero, lost := false : OutElem })
  { posts := place d code ++
      (if hasScale d.format then
        bytePosts key d.scaleBase ((List.range d.blocks).map (fun b => BitVec.ofNat 8 (scale b))) else [])
    sat := 0, nonfinite := (watchOf es).nan + (watchOf es).inf, watch := watchOf es, first := firstNonfinite 0 es }

/-- The commit effects of an output written by region r: bytes, counts, watch slot, non-finite record (R76, R83). -/
def OutT.toPosts (o : OutT) (r engine ord : Nat) (d : Desc) : List Post :=
  o.posts ++ [.count RGN_NUM_CNT.SAT r 0 0 o.sat, .count RGN_NUM_CNT.NONFINITE r 0 0 o.nonfinite] ++
  (if d.statEn && d.tensorId != 0 then [.watch d.tensorId o.watch] else []) ++
  (match o.first with
   | some (n, c) => [.nonfinite { elem := n, engine := engine, tensorId := d.tensorId, cls := c, ord := ord }]
   | none => [])

end Sys2Proof.Machine
end

