-- ==== Sys2Proof/Machine/Ops.lean ====
section
/-!
DEFINITION. The shared operations over the state: partitions and their regions, command words and their operand
indices, tokens, the fault of a region (R140), the kill (R136) and the teardown of a context (R300).
-/
namespace Sys2Proof.Machine

/-- Number of the current period. -/
def State.period (s : State) : Nat := s.get HUB_BELL_STATUS.PERIOD_NUM

/-- States of a partition, PROC_PART_CFG.STATE. -/
def psEmpty : Nat := 0
def psLoaded : Nat := 1
def psRunning : Nat := 2
def psSaving : Nat := 3
def psRestoring : Nat := 4
def psTearing : Nat := 5

/-- States of a sequencer, RGN_SEQ_STAT.STATE. -/
def sqIdle : Nat := 0
def sqRunning : Nat := 1
def sqWait : Nat := 2
def sqEnded : Nat := 3
def sqFault : Nat := 4
def sqPreempted : Nat := 5

/-- The partition that a region belongs to (R283). -/
def State.partOf (s : State) (r : Rgn) : Option Prt :=
  allRegions.find? (fun p => bitsAt (s.get PROC_PART_CFG.REGIONS p) r 1 == 1)

/-- The regions of a partition, ascending. -/
def State.regionsOf (s : State) (p : Prt) : List Rgn :=
  allRegions.filter (fun r => bitsAt (s.get PROC_PART_CFG.REGIONS p) r 1 == 1)

/-- STATE of a partition. -/
def State.partState (s : State) (p : Prt) : Nat := s.get PROC_PART_CFG.STATE p

/-- Whether a region has a job loaded (R284). -/
def State.regionLoaded (s : State) (r : Rgn) : Bool :=
  match s.partOf r with
  | some p => s.partState p != psEmpty
  | none => false

/-- The job tag that runs in a region; zero for none. -/
def State.tagOf (s : State) (r : Rgn) : Nat :=
  match s.partOf r with
  | some p => if s.partState p != psEmpty then s.get PROC_PART_CFG.JOB_TAG p else 0
  | none => 0

/-- STATE of a sequencer. -/
def State.seqState (s : State) (r : Rgn) : Nat := s.get RGN_SEQ_STAT.STATE r

/-- Sets STATE of a sequencer. -/
def State.setSeq (s : State) (r : Rgn) (v : Nat) : State := s.put RGN_SEQ_STAT.STATE v r

/-- Whether the region's partition runs its job and the region takes part (R115, R116, R140, R294, R300, R19). -/
def State.regionRuns (s : State) (r : Rgn) : Bool :=
  (match s.partOf r with
   | some p => s.partState p == psRunning
   | none => false) && !s.regions[r].isolated && s.seqState r != sqFault && s.seqState r != sqPreempted

/-- Stack number of engine index e of region r (Table 2.4). -/
def stackOf (r : Rgn) (e : Nat) : Nat := 6 * r + (e - 39)
/-- Link number of engine index e of region r. -/
def linkOf (r : Rgn) (e : Nat) : Nat := 8 * r + (e - 45)
/-- The region of a link. -/
def linkRegion (l : Lnk) : Rgn := ⟨l.val / 8, by omega⟩
/-- The region of a stack. -/
def stackRegion (k : Stk) : Rgn := ⟨k.val / 6, by omega⟩

/-- Value of token t of region r. -/
def State.tok (s : State) (r : Rgn) (t : Nat) : Nat := s.get RGN_TOK.VALUE r t

/-- Whether the waits of a command are satisfied (R130). -/
def State.waitsMet (s : State) (r : Rgn) (c : Cmd) : Bool :=
  c.waits.all (fun w =>
    decide (((c.waits.filter (fun x => x.token == w.token)).foldl (fun a x => a + x.count.toNat) 0) ≤
      s.tok r w.token.toNat))

/-- Subtracts the COUNT of every entry with CONSUME set (R130). -/
def State.consume (s : State) (r : Rgn) (c : Cmd) : State :=
  c.waits.foldl (fun s w =>
    if w.consume then s.put RGN_TOK.VALUE (s.tok r w.token.toNat - w.count.toNat) r w.token.toNat else s) s

/-- Index of the queue's entries of one engine: the unit of R116. -/
def Entry.eng (e : Entry) : Nat := e.cmd.eng

/-- Whether an entry has issued and has not committed (killed entries have not issued again). -/
def Entry.open (e : Entry) : Bool := e.issued

/-- Whether effects write bytes of a stack. -/
def touchesStack (ps : List Post) (k : Nat) : Bool :=
  ps.any (fun p => match p with | .bytes key _ => key / 2 ^ 36 == k | _ => false)

/-- The unit of stack k of a region, of 0 to 5, that an entry keeps busy: 1 update, 2 accumulate, 4 scatter, 8 drain, 0
none. A VOC_SCATTER keeps the scatter units of the stacks that hold its rows (R205); a reduce-scatter whose sums are
complete keeps the accumulate unit that takes them (R268). -/
def Entry.unitAt (r : Rgn) (k : Nat) (e : Entry) : Nat :=
  if !e.issued then 0
  else if e.eng = 39 + k then
    match e.cmd.op with
    | 0x70 => 1 | 0x75 => 1 | 0x71 => 2 | 0x76 => 2 | 0x72 => 4 | 0x73 => 4 | _ => 8
  else if e.cmd.op = 0x52 ∧ touchesStack e.posts (6 * r + k) then 4
  else if e.cmd.op = 0x80 ∧ touchesStack e.posts (6 * r + k) then 2
  else 0

/-- Whether a unit of a stack is busy (R210). -/
def State.unitBusy (s : State) (k : Stk) (unit : Nat) : Bool :=
  s.regions[stackRegion k].cmds.any (fun e => e.unitAt (stackRegion k) (k.val % 6) == unit)

/-- The softmax units that hold a pair, and the units of the stack engines in flight: CLAIMED and INFLIGHT follow the
queues (R179, R234); bit 4 of INFLIGHT is the scrubber's. -/
def State.syncUnits (s : State) (r : Rgn) : State :=
  let q := s.regions[r].cmds
  let s := (List.range 8).foldl (fun s k =>
    s.put SU_STAT.CLAIMED (if q.any (fun e => e.issued && e.eng == 16 + k) then 1 else 0) r k) s
  let s := (List.range 6).foldl (fun s k =>
    s.put SE_STAT.INFLIGHT
      (q.foldl (fun a e => a ||| e.unitAt r k) (bitsAt (s.get SE_STAT.INFLIGHT (6 * r + k)) 4 1 * 16))
      (6 * r + k)) s
  (List.range 8).foldl (fun s k =>
    s.put LNK_ADD_STAGE_LVL.INFLIGHT ((q.filter (fun e => e.issued && e.eng == 45 + k)).length) (8 * r + k)) s

/-- Replaces the queues of a region. -/
def State.setCmds (s : State) (r : Rgn) (q : List Entry) : State :=
  (s.modRegion r (fun g => { g with cmds := q })).syncUnits r

/-- Leaves extents undefined under a new ticket. -/
def State.undefineAll (s : State) (xs : List Extent) : State :=
  (xs.foldl (fun s x => s.undefine x s.ticket) s).nextTicket

/-- An entry after a kill: at its place, waits consumed, nothing formed (R136). -/
def Entry.killed (e : Entry) : Entry := { e with issued := false, posts := [], work := .none, needs := [] }

/-- Kills every issued killable command of a region that a test names (R136): results discarded, outputs undefined. -/
def State.killWhere (s : State) (r : Rgn) (f : Entry → Bool) : State :=
  let hit (e : Entry) : Bool := e.issued && e.cmd.killable && f e
  let q := s.regions[r].cmds
  let s := s.undefineAll ((q.filter hit).flatMap (fun e => if e.cmd.shadow then [] else e.outs))
  let s := s.bump RGN_SEQ_KILL.KILLED (q.filter hit).length r
  s.setCmds r (q.map (fun e => if hit e then e.killed else e))

/-- Kills every issued killable command of a region. -/
def State.killAll (s : State) (r : Rgn) : State := s.killWhere r (fun _ => true)

/-- The first error or fault of a region is recorded, STATE becomes fault, issue stops and issued killable commands are
killed; later ones set MORE only (R140). -/
def State.regionFault (s : State) (r : Rgn) (code engine slot ord : Nat) : State :=
  if s.get RGN_SEQ_ERR.CODE r != 0 then s.put RGN_SEQ_ERR.MORE 1 r
  else
    let s := s.put RGN_SEQ_ERR.CODE code r
    let s := s.put RGN_SEQ_ERR.ENGINE engine r
    let s := s.put RGN_SEQ_ERR.SLOT slot r
    let s := s.put RGN_SEQ_ERR.ORDINAL ord r
    (s.setSeq r sqFault).killAll r

/-- Adds a signal to a token; a result above 65,535 leaves the token and reports the overflow (R131). -/
def State.addTok (s : State) (r : Rgn) (t n : Nat) : Option State :=
  if 65535 < s.tok r t + n then none else some (s.put RGN_TOK.VALUE (s.tok r t + n) r t)

/-- Signals the token of a command at its commit (R131). -/
def State.signal (s : State) (r : Rgn) (c : Cmd) (slot ord : Nat) : State :=
  if c.sigAdd = 0 then s
  else match s.addTok r c.sigToken.toNat c.sigAdd.toNat with
    | some s' => s'
    | none => s.regionFault r 0x11 c.eng slot ord

/-- Whether a teardown abandons an issued command (R137, R300). -/
def Entry.abandonable (e : Entry) : Bool := e.cmd.op / 16 == 8 || e.cmd.op == 0x74

/-- A drain that a teardown abandons clears DRAIN_PEND of its pair (R300). -/
def State.abandonDrain (s : State) (r : Rgn) (e : Entry) : State :=
  if e.cmd.op = 0x74 then s.put SE_BUF1.DRAIN_PEND 0 (stackOf r e.eng) (bitsAt e.cmd.w4 0 6) else s

/-- One region of a teardown (R300 steps 1 to 3): kill, abandon, empty the queues but for stack-engine commands that
run to commit, clear descriptors and tokens; resident accumulators become undefined (R152). -/
def State.tearRegion (s : State) (r : Rgn) : State :=
  let s := s.killAll r
  let q := s.regions[r].cmds
  let gone := q.filter (fun e => e.issued && e.abandonable)
  let s := gone.foldl (fun s e => s.abandonDrain r e) s
  let s := gone.foldl (fun s e =>
    if e.cmd.op = 0x74 then s.bump SE_ERR.FAILED 1 (stackOf r e.eng) else s) s
  let s := s.undefineAll (gone.flatMap (·.outs) ++
    (List.range 16).map (fun e => { lo := accBase r e 0, hi := accBase r e 8 }))
  let s := s.setCmds r (q.filter (fun e => e.issued && !e.abandonable))
  let s := s.modRegion r (fun g => { g with patches := [], shadows := [], twins := [], prev := none, pos := 0 })
  ((s.clearAt RGN_DESC.WORD r).clearAt RGN_TOK.VALUE r).clearAt RGN_TOK.LINK r

/-- All links. -/
def allLinks : List Lnk := List.ofFn (fun l : Lnk => l)

/-- The module's own fabric address. -/
def State.addr (s : State) : Nat := s.get HUB_FAB.ADDR

/-- Index of credits of a flit: 2 x VC + class. -/
def credIx (f : Flit) : Nat := 2 * f.hdr.vc.toNat + if f.hdr.cls then 1 else 0

/-- The receive buffer that a flit occupies from its arrival on a link (R239). -/
def bufferOf (l : Lnk) (f : Flit) : Nat := 16 * l.val + credIx f

/-- A flit leaves its receive buffer: the credit goes back on its arrival link (R239, R259). -/
def State.returnCredit (s : State) (buffer : Nat) : State :=
  if h : buffer / 16 < 32 then
    s.modLink ⟨buffer / 16, h⟩ (fun x => { x with
      toReturn := x.toReturn.set (buffer % 16) (x.toReturn.getD (buffer % 16) 0 + 1) })
  else s

/-- Staging slots that the partial sums of a reduction take between its hops (R257), packed as in its flits (Table 11.2). The
hop-1 value of a rank that the fold hop leaves unpaired is its own contribution halved, formed when its partner's flit is
there, and takes no slot (log entry 16). -/
def Entry.partialSlots (e : Entry) : Nat :=
  match e.work with
  | .coll c =>
    if e.issued && e.cmd.op == 0x80 && !c.closed then
      let p := c.ranks.length
      let folded := p - 2 ^ Nat.log2 p
      let first := if folded ≠ 0 ∧ 2 * folded ≤ c.own then 1 else 0
      let per := if c.unit = 1 then 56 else if flag e.cmd.w5 1 then 3 else 6
      ((c.held.filter (fun h => decide (first < h.2.1))).length + per - 1) / per
    else 0
  | _ => 0

/-- Staging slots of a link in use (R257): parked flits and partial sums. -/
def State.stageUsed (s : State) (l : Lnk) : Nat :=
  s.links[l].stage.length +
  (s.regions[linkRegion l].cmds.filter (·.eng == 45 + l.val % 8)).foldl (fun n e => n + e.partialSlots) 0

/-- LEVEL and HIGH follow the staging buffer (R282). -/
def State.stageLevel (s : State) (l : Lnk) : State :=
  let n := s.stageUsed l
  let s := s.put LNK_ADD_STAGE_LVL.LEVEL n l
  s.put LNK_ADD_STAGE_LVL.HIGH (max n (s.get LNK_ADD_STAGE_LVL.HIGH l)) l

/-- A teardown discards every staged or parked flit of the tag, and what its engines have still to send (R300). -/
def State.dropTag (s : State) (tag : Nat) : State :=
  allLinks.foldl (fun s l =>
    let keep (f : Flit) : Bool := f.hdr.tag.toNat != tag
    let parked := s.links[l].backlog.filter (fun b => !keep b.2)
    let own := s.addr
    let s := s.modLink l (fun x => { x with
      waiting := x.waiting.filter (fun b => keep b.2 || b.2.hdr.src.toNat != own), stage := x.stage.filter keep, stageBad := x.stageBad.filter (fun b => keep b.1)
      backlog := x.backlog.filter (fun b => keep b.2) })
    let s := parked.foldl (fun s b => s.returnCredit b.1) s
    s.put LNK_ADD_STAGE_LVL.LEVEL (s.stageUsed l) l) s

/-- STATE of a softmax pair as its engines have it: in service with both, in hardening-off with both, else out of service
(R156, R179, R328). -/
def State.pairState (s : State) (r k : Nat) : Nat :=
  let a := s.get ME_STAT.STATE r (2 * k)
  let b := s.get ME_STAT.STATE r (2 * k + 1)
  if a = b ∧ a ≠ 1 then a else 1

/-- Sets STATE of a matrix engine; its softmax pair follows (R156, R179). -/
def State.setMe (s : State) (r m v : Nat) : State :=
  let s := s.put ME_STAT.STATE v r m
  s.put SU_STAT.STATE (s.pairState r (m / 2)) r (m / 2)

/-- Adds to a list without repeats. -/
def addOnce (xs : List Nat) (x : Nat) : List Nat := if xs.contains x then xs else xs ++ [x]

/-- The begin of a teardown (R299, R300 steps 1 to 3): cause and period recorded, every region of the partition torn.
A partition that is empty or already tearing down is left alone. A save or a restore under way is abandoned (R298).
The notices of R303 go to the members that the job's plan names. -/
def State.beginTeardown (s : State) (p : Prt) (cause : Nat) : State :=
  if s.partState p == psEmpty || s.partState p == psTearing then s
  else
    let tag := s.get PROC_PART_CFG.JOB_TAG p
    let s := if s.partState p == psSaving || s.partState p == psRestoring then
        (s.modPart p (fun x => { x with image := [], restored := false, resuming := false })).put
          PROC_PART_CFG.SAVED 0 p
      else s
    let s := s.put PROC_PART_CFG.STATE psTearing p
    let s := s.put PROC_PART_CFG.TEARDOWN 0 p
    let s := s.put PROC_TEAR_STAT.CAUSE cause p
    let s := s.put PROC_TEAR_STAT.PERIOD s.period p
    let s := s.bump PROC_TEAR_CNT.TEARDOWNS 1 p
    let s := (s.regionsOf p).foldl (fun s r => s.tearRegion r) s
    let s := s.dropTag tag
    let s := s.modHub (fun h => { h with tornTags := addOnce h.tornTags (p.val * 65536 + tag) })
    if s.bit PROC_PART_CFG.MULTI p && cause != 8 then
      s.parts[p].members.foldl (fun s a => s.emit (.icholt a (.teardownNotice (BitVec.ofNat 16 tag)))) s
    else s

/-- Whether a tag has been torn down and not loaded again (R302). -/
def State.torn (s : State) (tag : Nat) : Bool := s.hub.tornTags.any (fun x => x % 65536 == tag)

/-- A flit of a torn-down tag is discarded and counted (R302). -/
def State.discardTorn (s : State) (tag : Nat) : State :=
  match s.hub.tornTags.find? (fun x => x % 65536 == tag) with
  | some x => s.bump PROC_TEAR_CNT.DISCARDED 1 (x / 65536)
  | none => s

/-- The end of a teardown (R300 steps 4 and 5), once no command is left to wait for. -/
def State.endTeardown (s : State) (p : Prt) : State :=
  if s.partState p == psTearing && (s.regionsOf p).all (fun r => s.regions[r].cmds.isEmpty) then
    let s := if s.bit PROC_PART_CFG.DBG_LOCK p then
        (s.regionsOf p).foldl (fun s r => s.zeroFill (sramBase r) (sramBase r + 0x10000000)) s
      else s
    let s := (s.put PROC_PART_CFG.STATE psEmpty p).put PROC_PART_CFG.DBG_LOCK 0 p
    (s.regionsOf p).foldl (fun s r => s.setSeq r sqIdle) s
  else s

end Sys2Proof.Machine
end

