-- ==== Sys2Proof/Machine/Ready.lean ====
section
/-!
DEFINITION. When an engine takes the head of its queue (R116, R120, R156, R205, R210, R257, R360), and which of several
ready commands is served when a token covers only some of them (R132).
-/
namespace Sys2Proof.Machine

/-- The latched descriptor of an index. -/
def descOf : List (Nat × Desc) → Nat → Desc
  | [], _ => decodeDesc 0
  | (i, d) :: t, k => if i = k then d else descOf t k

/-- The first entry of an engine's queue that has not issued. -/
def nextOf (q : List Entry) (e : Nat) : Option Entry := q.find? (fun x => x.eng == e && !x.issued)

/-- Whether another command of the region holds a matrix engine (R120, R186, R200). -/
def heldEngines (c : Cmd) : List Nat :=
  match c.op with
  | 0x20 => [2 * (c.eng - 16), 2 * (c.eng - 16) + 1]
  | 0x21 => [2 * (c.eng - 16), 2 * (c.eng - 16) + 1]
  | 0x30 => if flag c.w4 18 then [bitsAt c.w4 19 4] else []
  | 0x51 => [bitsAt c.w4 2 4]
  | _ => []

/-- Whether an engine is held by an issued command of another engine. -/
def State.heldBy (s : State) (r : Rgn) (e : Nat) : Bool :=
  s.regions[r].cmds.any (fun x => x.issued && (heldEngines x.cmd).contains e)

/-- Whether an engine has an issued, uncommitted command. -/
def State.busy (s : State) (r : Rgn) (e : Nat) : Bool := s.regions[r].cmds.any (fun x => x.issued && x.eng == e)

/-- An engine for which the spec states no bound on its uncommitted commands can always take the next one (R116): the
hazard check of R105 keeps them apart and R116 commits them in issue order. -/
def unitFree (_ : State) (_ : Entry) : Bool := true

/-- Whether the engines a command would hold are free (R120). -/
def State.holdsFree (s : State) (r : Rgn) (c : Cmd) : Bool :=
  (heldEngines c).all (fun m => !s.busy r m && !s.heldBy r m)

/-- Whether the power allotment permits issue (R360): matrix issue first, then all issue. -/
def State.powerOk (s : State) (r : Rgn) (c : Cmd) : Bool :=
  let matrix := c.op / 16 == 1 || !(heldEngines c).isEmpty
  !s.regions[r].pacedAll && !(matrix && s.regions[r].pacedMatrix)

/-- Tiles of 128 in a dimension. -/
def tiles (n : Nat) : Nat := (n + 127) / 128

/-- MODE and SLOT0 of a MATMUL. -/
def matMode (c : Cmd) : Nat := bitsAt c.w4 0 2
def matSlot (c : Cmd) : Nat := bitsAt c.w4 2 3

/-- Resident slots a command of the matrix family uses, from its latched or current descriptors. -/
def slotsUsed (s : State) (r : Rgn) (e : Entry) : List Nat :=
  let desc (i : Nat) : Desc := if e.consumed then descOf e.descs i else s.desc r i
  match e.cmd.op with
  | 0x10 =>
    if matMode e.cmd = 1 then
      (List.range (tiles ((desc e.cmd.d0.toNat).size 1) * tiles ((desc e.cmd.d1.toNat).size 1))).map
        (· + matSlot e.cmd)
    else []
  | 0x11 =>
    let d := desc e.cmd.d2.toNat
    (List.range (tiles (d.size 0) * tiles (d.size 1))).map (· + bitsAt e.cmd.w4 0 3)
  | 0x12 => (List.range 8).filter (fun k => flag e.cmd.w4 k)
  | _ => []

/-- Whether a matrix engine takes a command: in service, or a SHADOW command, which the checks of R329 then refuse
unless the engine is in hardening-off (R156). -/
def State.meServes (s : State) (r : Rgn) (m : Nat) (shadow : Bool) : Bool := s.get ME_STAT.STATE r m == 0 || shadow

/-- Ordering between the commands of a matrix engine (R120, R150). -/
def matReady (r : Rgn) (m : Nat) (s : State) (e : Entry) : Bool :=
  let mine := s.regions[r].cmds.filter (fun x => x.issued && x.eng == m)
  let meet (x : Entry) : Bool := (slotsUsed s r x).any (fun k => (slotsUsed s r e).contains k)
  let isWrite (x : Entry) : Bool := x.cmd.op == 0x10 && matMode x.cmd != 1
  let isAccum (x : Entry) : Bool := x.cmd.op == 0x10 && matMode x.cmd == 1
  s.meServes r m e.cmd.shadow && !s.heldBy r m &&
  (if isAccum e then !mine.any (fun x => isWrite x || meet x)
   else if isWrite e then !mine.any isAccum
   else mine.isEmpty)

/-- When a softmax unit takes a command: its pair in service (the issue itself asks that the pair is free, R120). -/
def attReady (r : Rgn) (k : Nat) (s : State) (e : Entry) : Bool :=
  (s.get SU_STAT.STATE r k == 0 || e.cmd.shadow) && s.meServes r (2 * k) e.cmd.shadow && s.meServes r (2 * k + 1) e.cmd.shadow

/-- The matrix engine of a CONV_DIRECT with MIX (Table 8.8), and of a VOC_XENT (Table 8.7). -/
def convMix (c : Cmd) : Bool := flag c.w4 18
def convMe (c : Cmd) : Nat := bitsAt c.w4 19 4
def xeMe (c : Cmd) : Nat := bitsAt c.w4 2 4

/-- When a convolution engine takes a command: the engine of a MIX in service (R156, R186). -/
def convReady (r : Rgn) (s : State) (en : Entry) : Bool :=
  en.cmd.op != 0x30 || !convMix en.cmd || s.meServes r (convMe en.cmd) en.cmd.shadow

/-- When the vocabulary engine takes a VOC_XENT: the held engine in service (R156, R200). -/
def vocXentReady (r : Rgn) (s : State) (e : Entry) : Bool :=
  s.meServes r (xeMe e.cmd) e.cmd.shadow

/-- The integer of an INT32 element. -/
def idAt (rd : Reader) (d : Desc) (n : Nat) : Int := signed 32 (readCode rd d n)

/-- DA ranges of row v of a table: its elements, and the scales of their blocks. -/
def rowRanges (t : Desc) (v : Nat) : List (Nat × Nat) :=
  let first := v * t.size 0
  (if t.tiled then (List.range (t.size 0)).map (fun k =>
      let a := t.bitAddr (first + k)
      (a / 8, (a + t.bits + 7) / 8))
    else [(t.bitAddr first / 8, t.bitAddr first / 8 + (t.size 0 * t.bits + 7) / 8)]) ++
  (if hasScale t.format then [(t.scaleBase + v * t.lineBlocks, t.scaleBase + (v + 1) * t.lineBlocks)] else [])

/-- The stacks that hold the rows of a table that some IDs name. -/
def State.rowStacks (s : State) (linear : Bool) (t : Desc) (ids : List Int) : List Nat :=
  ids.flatMap (fun v =>
    if 0 ≤ v ∧ v < (t.size 1 : Int) then
      (rowRanges t v.toNat).flatMap (fun a => (s.extents linear a.1 a.2).flatMap (fun x =>
        [x.lo / 2 ^ 36, (x.hi - 1) / 2 ^ 36]))
    else [])

/-- The stacks on which a VOC_SCATTER works (R205). -/
def State.scatterStacks (s : State) (r : Rgn) (e : Entry) : List Nat :=
  let desc (i : Nat) : Desc := if e.consumed then descOf e.descs i else s.desc r i
  let ids := desc e.cmd.d0.toNat
  let rd := s.reader false
  s.rowStacks false (desc (e.cmd.d1.toNat + 1)) ((List.range ids.count).map (fun n => idAt rd ids n))

/-- Unit of a stack-engine command (Table 9.1). -/
def seUnit (op : Nat) : Nat :=
  if op = 0x70 ∨ op = 0x75 then 0 else if op = 0x71 ∨ op = 0x76 then 1 else if op = 0x72 ∨ op = 0x73 then 2 else 3

/-- When a stack engine takes a command (R210): not out of service, its unit free of commands and of what it carries out
for another engine (R205, R268). -/
def seReady (k : Stk) (s : State) (e : Entry) : Bool :=
  s.get SE_STAT.STATE k != 1 && !s.unitBusy k (2 ^ seUnit e.cmd.op)

/-- When the vocabulary engine takes a VOC_SCATTER: the scatter units of the stacks that hold its rows are free (R205,
R210). -/
def vocScatterReady (r : Rgn) (s : State) (e : Entry) : Bool :=
  (List.range 6).all (fun k => !(s.scatterStacks r e).contains (6 * r.val + k) ||
    !s.unitBusy ⟨6 * r.val + k % 6, by have := r.isLt; omega⟩ 4)

/-- A link interface takes a command while it holds fewer than eight issued ones (R257). -/
def lcReady (r : Rgn) (e : Nat) (s : State) (_ : Entry) : Bool :=
  decide ((s.regions[r].cmds.filter (fun x => x.issued && x.eng == e)).length < 8)

/-- Whether the engine of an entry can take it, by its opcode (R116). -/
def State.engineTakes (s : State) (r : Rgn) (e : Entry) : Bool :=
  match e.cmd.op with
  | 0x10 => matReady r e.eng s e
  | 0x11 => matReady r e.eng s e
  | 0x12 => matReady r e.eng s e
  | 0x20 => attReady r (e.eng - 16) s e
  | 0x21 => attReady r (e.eng - 16) s e
  | 0x30 => convReady r s e
  | 0x51 => vocXentReady r s e
  | 0x52 => vocScatterReady r s e
  | op =>
    if op / 16 = 7 then seReady ⟨6 * r.val + (e.eng - 39) % 6, by have := r.isLt; omega⟩ s e
    else if op / 16 = 8 then lcReady r e.eng s e
    else true

/-- Whether an opcode and an engine index belong together (Table 5.6). -/
def engineFits (op e : Nat) : Bool :=
  match engineRange op with
  | some (lo, hi) => decide (lo ≤ e) && decide (e ≤ hi)
  | none => false

/-- Whether the head of a queue is ready: it waits for nothing but to be served (R116, R132). -/
def State.contends (s : State) (r : Rgn) (e : Entry) : Bool :=
  s.regionRuns r && engineFits e.cmd.op e.eng && s.engineTakes r e && s.powerOk r e.cmd && s.holdsFree r e.cmd &&
  !e.consumed && s.waitsMet r e.cmd

/-- What the ready heads of the engines below an index consume of a token. -/
def State.consumedBelow (s : State) (r : Rgn) (e t : Nat) : Nat :=
  (List.range e).foldl (fun n k => match nextOf s.regions[r].cmds k with
    | some y => if s.contends r y then n + y.cmd.consumes t else n
    | none => n) 0

/-- Whether a ready command of engine e must wait because a token that it consumes covers only ready commands of lower
engines: they are served in ascending engine index, the sequencer last (R132). -/
def State.outranked (s : State) (r : Rgn) (e : Nat) (c : Cmd) : Bool :=
  c.waits.any (fun w =>
    let t := w.token.toNat
    let below := s.consumedBelow r e t
    w.consume && c.consumes t != 0 && below != 0 && decide (s.tok r t < below + c.consumes t))

end Sys2Proof.Machine
end

