-- ==== Sys2Proof/Machine/Issue.lean ====
section
/-!
DEFINITION. Issue and commit of engine commands: the checks every command shares (R89, R97, R100, R105, R107, R128,
R135, R139), issue (R116, R134), the effects of a commit (R84, R131, R134), and the failure of a command (R384).
-/
namespace Sys2Proof.Machine

/-- What an engine sees when it takes a command from its queue: the descriptors are latched (R98). -/
structure Ctx where
  s : State
  r : Rgn
  p : Prt
  e : Entry
  ds : List (Nat × Desc)

/-- Descriptor `off` of the run at D0, D1 or D2. -/
def Ctx.d (x : Ctx) (b off : Nat) : Desc := descOf x.ds (x.e.cmd.dIndex b + off)
/-- The command word. -/
def Ctx.c (x : Ctx) : Cmd := x.e.cmd
/-- Whether the command names an operand. -/
def Ctx.uses (x : Ctx) (b off : Nat) : Bool := x.c.uses.any (fun u => u.base == b && u.off == off)

/-- Whether the unit takes stack DAs as linear ones (R209): a stack engine, and for the target of a reduce-scatter its
link interface too (R268). -/
def linearCmd (c : Cmd) : Bool := c.op / 16 == 7
def linearOut (c : Cmd) : Bool := linearCmd c || c.op == 0x80

/-- The memory key of an output DA of this command. -/
def Ctx.key (x : Ctx) (da : Nat) : Nat := x.s.key (linearOut x.c) da
/-- The reader of this command's engine. -/
def Ctx.rd (x : Ctx) : Reader := x.s.reader (linearCmd x.c)

/-- Draw of element n of a tensor for this command (R80, R81, R119). -/
def Ctx.u32 (x : Ctx) (d : Desc) (purpose n : Nat) : Nat :=
  draw x.e.seed purpose d.stream x.e.step d.tensorId n

/-- SEQ_LEN, PAGES and PAGE_BYTES of the page table at a DA (Table 9.5). -/
def pageSeqLen (rd : Reader) (base : Nat) : Nat := readBits rd (base * 8) 23
def pagePages (rd : Reader) (base : Nat) : Nat := readBits rd ((base + 4) * 8) 15
def pageBytes (rd : Reader) (base : Nat) : Nat := readBits rd ((base + 8) * 8) 32
/-- Entry e of a page table: offset and VALID. -/
def pageEntry (rd : Reader) (base e : Nat) : Nat × Bool :=
  let v := ofLe ((List.range 8).map (fun k => rd (base + 64 + 8 * e + k)))
  (v % 2 ^ 36 / 4096 * 4096, bitsAt v 63 1 == 1)
/-- PAGE_BYTES that R227 gives for a descriptor. -/
def pageSize (d : Desc) : Nat := (d.size 0 * 256 * d.size 2 * d.unit + 4095) / 4096 * 4096

/-- A PAGED tensor as a copy engine reads it: positions 0 to SEQ_LEN - 1 (R227). -/
def seqDesc (rd : Reader) (d : Desc) : Desc :=
  if d.paged then { d with sizes := d.sizes.set 1 (pageSeqLen rd d.base) } else d

/-- DA ranges [lo, hi) of a page table's header and of its first n pages. -/
def pagedRanges (rd : Reader) (d : Desc) (first last : Nat) : List (Nat × Nat) :=
  (d.base, d.base + 64 + 8 * last) ::
  (List.range (last - first)).map (fun k =>
    let a := d.base / 2 ^ 36 * 2 ^ 36 + (pageEntry rd d.base (first + k)).1
    (a, a + pageSize d))

/-- DA ranges of a descriptor: elements and scales (R99), or page table and pages. -/
def descRanges (rd : Reader) (d : Desc) : List (Nat × Nat) :=
  if d.paged then pagedRanges rd d 0 ((pageSeqLen rd d.base + 255) / 256)
  else (d.base, d.base + d.span) :: (if hasScale d.format then [(d.scaleBase, d.scaleBase + d.blocks)] else [])

/-- The half of a halo slot that a convolution reads (R187). -/
def haloHalf (d : Desc) (beta : Nat) : Desc :=
  { d with base := d.base + beta % 2 * d.stride 2, sizes := d.sizes.set 2 1 }

/-- The descriptor that counts for an operand's extent: a halo counts by its half alone (R187). It is the extent of R89,
R105 and R107; the descriptor itself is what R97 checks. -/
def Ctx.effective (x : Ctx) (u : Use) : Desc :=
  let d := descOf x.ds (x.c.indexOf u)
  if (x.c.op == 0x30 || x.c.op == 0x31) && u == inp 2 1 then haloHalf d x.e.beta else d

/-- DA ranges that the operands of a command read and write. -/
def Ctx.ranges (x : Ctx) (out : Bool) : List (Nat × Nat) :=
  (x.c.uses.filter (fun u => u.out == out)).flatMap (fun u => descRanges x.rd (x.effective u))

/-- Memory extents of DA ranges. -/
def Ctx.extents (x : Ctx) (rs : List (Nat × Nat)) : List Extent :=
  rs.flatMap (fun a => x.s.extents (linearCmd x.c) a.1 a.2)
/-- Memory extents of output DA ranges. -/
def Ctx.outExtents (x : Ctx) (rs : List (Nat × Nat)) : List Extent :=
  rs.flatMap (fun a => x.s.extents (linearOut x.c) a.1 a.2)

/-- The starts of the dimension-0 runs (or tile arrays) of an output with their common length in bytes. -/
def runStarts (rd : Reader) (d : Desc) : List Nat × Nat :=
  if d.paged then (d.runs.map (pagedAddr rd d), d.size 0 * d.unit)
  else if d.tiled then
    ((List.range (d.size 2 * d.size 3 * d.size 4)).map (fun n => (d.bitAddr (n * d.size 0 * d.size 1)) / 8),
     d.span - d.strideSpan 2)
  else (d.runs.map (fun n => d.bitAddr n / 8), (d.size 0 * d.bits + 7) / 8)

/-- Whether each stride passes everything below it: then no two runs meet. -/
def nested (d : Desc) : Bool :=
  let step (a : Bool × Nat) (k : Nat) : Bool × Nat :=
    if d.size k = 1 then a else (a.1 && decide (a.2 ≤ d.stride k), (d.size k - 1) * d.stride k + a.2)
  if d.tiled then ([2, 3, 4].foldl step (true, d.span - d.strideSpan 2)).1
  else ([1, 2, 3, 4].foldl step (true, (d.size 0 * d.bits + 7) / 8)).1

/-- Whether ascending starts are all at least a length apart. -/
def apart (len : Nat) : List Nat → Bool
  | a :: b :: t => decide (a + len ≤ b) && apart len (b :: t)
  | _ => true

/-- Whether runs of one length from some starts overlap. -/
def runsMeet (len : Nat) (starts : List Nat) : Bool := !apart len (starts.mergeSort (fun a b => decide (a ≤ b)))

/-- Whether two element indices of an output address one byte (R100). -/
def selfOverlap (rd : Reader) (d : Desc) : Bool :=
  if !d.paged && nested d then false else runsMeet (runStarts rd (seqDesc rd d)).2 (runStarts rd (seqDesc rd d)).1

/-- First DA of the ownership entries that [lo, hi) touches. -/
def ownPoints (lo hi : Nat) : List Nat :=
  lo :: (List.range ((hi - 1) / 2 ^ 30 - lo / 2 ^ 30)).map (fun k => (lo / 2 ^ 30 + k + 1) * 2 ^ 30)

/-- The HUB_OWN entry that governs a stack DA (R108). -/
def State.ownEntry (s : State) (linear : Bool) (da : Nat) : Nat :=
  let r := da / 0x6000000000
  if !linear && s.bit HUB_STK_MODE.INTLV r then 384 * r + da % 0x6000000000 / (6 * 2 ^ 30) else da / 2 ^ 30

/-- Whether a change of a granule is filling or waits to give its new owner access (R109, R110). -/
def State.changing (s : State) (g : Nat) : Bool := s.hub.fills.any (fun f => f.granule == g)

/-- Whether a granule belongs to a job's tag and is not being changed (R107, R110). -/
def State.ownedBy (s : State) (g tag : Nat) : Bool :=
  s.get HUB_OWN.KIND g == 3 && s.get HUB_OWN.TAG g == tag && !s.changing g

/-- Whether the stack DAs [lo, hi) belong to a tag. -/
def State.ownsRange (s : State) (linear : Bool) (tag lo hi : Nat) : Bool :=
  (ownPoints lo hi).all (fun da => s.ownedBy (s.ownEntry linear da) tag)

/-- Whether [lo, hi) lies in region r's SRAM. -/
def inSram (r : Nat) (lo hi : Nat) : Bool := decide (sramBase r ≤ lo) && decide (hi ≤ sramBase r + 0x10000000)
/-- Whether [lo, hi) lies in stack k. -/
def inStack (k : Nat) (lo hi : Nat) : Bool := decide (stackBase k ≤ lo) && decide (hi ≤ stackBase (k + 1))
/-- Whether [lo, hi) lies in the stacks of region r. -/
def inStacksOf (r : Nat) (lo hi : Nat) : Bool :=
  decide (stackBase (6 * r) ≤ lo) && decide (hi ≤ stackBase (6 * r + 6))

/-- Whether the peer-window DAs [lo, hi) name bytes of one peer other than the module itself (R90). -/
def State.peerOk (s : State) (lo hi : Nat) : Bool :=
  peerAddr lo == peerAddr (hi - 1) && peerAddr lo != s.get HUB_FAB.ADDR &&
  (match peerTarget (peerOffset lo), peerTarget (peerOffset (hi - 1)) with
   | some a, some b =>
     match spaceOf a, spaceOf b with
     | .stack, .stack => true
     | .sram i, .sram j => i == j
     | _, _ => false
   | _, _ => false)

/-- Whether a command's engine reaches [lo, hi) (R89, Table 4.2, R209, R286). -/
def Ctx.reaches (x : Ctx) (u : Use) (lo hi : Nat) : Bool :=
  let r := x.r.val
  let f := x.c.op / 16
  if f = 6 then
    match spaceOf lo, spaceOf (hi - 1) with
    | .sram i, .sram j => i == j && (x.s.regionsOf x.p).any (fun q => q.val == i)
    | .stack, .stack => true
    | .host, .host => true
    | .peer, .peer => x.s.peerOk lo hi
    | _, _ => false
  else if f = 7 then inSram r lo hi || inStack (stackOf x.r x.e.eng) lo hi
  else if f = 8 then inSram r lo hi || inStacksOf r lo hi
  else if (x.c.op == 0x50 && u == inp 1 0) || (x.c.op == 0x52 && u == outp 1 1) then inStacksOf r lo hi
  else inSram r lo hi

/-- Whether an operand may carry a wire format (R262): the SRAM output of LC_REDUCE_SCATTER, the input of LC_SEND, the output
of LC_RECV. -/
def wireUse (op : Nat) (out : Bool) (base : Nat) : Bool :=
  (op == 0x80 && out && (match spaceOf base with | .sram _ => true | _ => false)) || (op == 0x85 && !out) || (op == 0x86 && out)

/-- Codes of one operand: BAD_DESC, BAD_FORMAT, BAD_ADDRESS, NOT_OWNED (R139). Of the caches of an SE_APPEND only what it
touches is checked, by its own codes (R228). -/
def Ctx.operandCodes (x : Ctx) (u : Use) : List Nat :=
  let d := descOf x.ds (x.c.indexOf u)
  let cache := x.c.op == 0x72 && u.out
  let rs := if cache then [] else descRanges x.rd (x.effective u)
  (if 4095 < x.c.indexOf u || d.otherDefect then [3] else []) ++
  (if u.out && !cache && selfOverlap x.rd d then [3] else []) ++
  (if d.codeDefect || (isWire d.format && !wireUse x.c.op u.out d.base) then [4] else []) ++
  (if rs.all (fun a => x.reaches u a.1 a.2) then [] else [6]) ++
  (if rs.any (fun a => spaceOf a.1 == .stack &&
      !x.s.ownsRange (if u.out then linearOut x.c else linearCmd x.c) (x.s.get PROC_PART_CFG.JOB_TAG x.p) a.1 a.2) then [7] else [])

/-- DA range of the region's timetable, from its base to the end of its last slot (R112). -/
def State.timetable (s : State) (r : Rgn) : Nat × Nat :=
  let base := sramBase r + s.get RGN_SEQ_TT.TT_OFFSET r * 256
  (base, base + 256 + 32 * s.num (base + 4) 4)

/-- Codes of the command word itself: reserved bits, SHADOW, unused indices, wait entries (R124, R125, R138). -/
def wordCodes (c : Cmd) : List Nat :=
  (if c.rsv15 || c.rsv28 != 0 || c.rsv84 != 0 || (c.shadow && !c.killable) then [1] else []) ++
  ([0, 1, 2].flatMap (fun b =>
    if c.uses.any (fun u => u.base == b) || c.dIndex b == 0 || c.unsaid.contains b then [] else [3])) ++
  (if c.waits.any badWait then [9] else [])

/-- The part of an extent in [lo, hi). -/
def Extent.clip (x : Extent) (lo hi : Nat) : List Extent :=
  if max x.lo lo < min x.hi hi then [{ lo := max x.lo lo, hi := min x.hi hi }] else []

/-- What extents hold of the region's own SRAM and stacks: the bytes that the hazard check covers (R105). -/
def ownExtents (r : Rgn) (xs : List Extent) : List Extent :=
  xs.flatMap (fun x => x.clip (sramBase r) (sramBase r + 0x10000000) ++ x.clip (stackBase (6 * r)) (stackBase (6 * r + 6)))

/-- The descriptor indices that an uncommitted command names (R128), the bitmap of a reduce-scatter into a stack among
them (R271). -/
def State.namedBy (s : State) (r : Rgn) (e : Entry) : List Nat :=
  let target := if e.consumed then descOf e.descs e.cmd.d2.toNat else s.desc r e.cmd.d2.toNat
  e.cmd.named ++ if e.cmd.op = 0x80 ∧ spaceOf target.base = .stack then [e.cmd.d2.toNat + 1] else []

/-- The descriptors that a DESC_LOAD rewrites (R128). -/
def loads (c : Cmd) (i : Nat) : Bool :=
  c.op == 0x63 && decide (bitsAt c.w4 0 12 ≤ i) && decide (i < bitsAt c.w4 0 12 + bitsAt c.w4 12 13)

/-- Whether DA ranges of the host or the peer window overlap: the bytes that lie in no memory of the module (R135). -/
def windowOverlap (xs ys : List (Nat × Nat)) : Bool :=
  let away (a : Nat × Nat) : Bool := spaceOf a.1 == .host || spaceOf a.1 == .peer
  xs.any (fun a => away a && ys.any (fun b => away b && decide (a.1 < b.2) && decide (b.1 < a.2)))

/-- The timetables that a command must not write (R112): its own region's, and those in the other regions of its
partition. -/
def Ctx.timetables (x : Ctx) : List Extent :=
  ((x.s.regionsOf x.p).filter (fun q => q == x.r || x.s.num (sramBase q + x.s.get RGN_SEQ_TT.TT_OFFSET q * 256) 2 == 1)).map
    (fun q => { lo := (x.s.timetable q).1, hi := (x.s.timetable q).2 })

/-- Codes of the hazard checks over DA ranges (R105, R112, R128, R135). -/
def Ctx.hazardCodes (x : Ctx) (rd wr : List (Nat × Nat)) : List Nat :=
  let ins := x.extents rd
  let outs := x.outExtents wr
  let others := x.s.regions[x.r].cmds.filter (fun e => e.consumed && !e.cmd.shadow &&
    !(e.eng == x.e.eng && e.ord == x.e.ord && e.ticket == x.e.ticket))
  let all := x.s.regions[x.r].cmds.filter (fun e => !(e.eng == x.e.eng && e.ord == x.e.ord))
  let mine := ownExtents x.r outs
  (if !x.c.shadow && others.any (fun e =>
      overlapAny mine (ownExtents x.r (e.ins ++ e.outs)) ||
      overlapAny (ownExtents x.r ins) (ownExtents x.r e.outs)) then [8] else []) ++
  (if x.c.killable && (overlapAny ins outs || windowOverlap rd wr) then [8] else []) ++
  (if all.any (fun e => (x.s.namedBy x.r e).any (loads x.c)) then [8] else []) ++
  (if all.any (fun e => (x.s.namedBy x.r { x.e with consumed := true, descs := x.ds }).any (loads e.cmd)) then [8] else []) ++
  (if overlapAny outs x.timetables then [6] else [])

/-- Whether the engine of a command is in hardening-off: matrix engines and softmax pairs (R329). -/
def State.inHarden (s : State) (r : Rgn) (c : Cmd) : Bool :=
  (c.op / 16 == 1 && s.get ME_STAT.STATE r c.eng == 2) || (c.op / 16 == 2 && s.get SU_STAT.STATE r (c.eng - 16) == 2)

/-- Whether a command may be the twin of a SHADOW command (R329): same opcode, descriptors and PARAM, on an in-service
engine of the same family. -/
def State.twinOk (s : State) (r : Rgn) (c t : Cmd) : Bool :=
  t.op == c.op && t.d0 == c.d0 && t.d1 == c.d1 && t.d2 == c.d2 && t.param == c.param && !t.shadow &&
  (if t.op / 16 = 1 then s.get ME_STAT.STATE r t.eng == 0 else s.get SU_STAT.STATE r (t.eng - 16) == 0)

/-- Codes of a SHADOW command (R329). -/
def Ctx.shadowCodes (x : Ctx) : List Nat :=
  if x.c.shadow then
    (if x.s.inHarden x.r x.c then [] else [2]) ++
    (match x.e.twin with
     | some t => if x.s.twinOk x.r x.c t then [] else [1]
     | none => [1])
  else []

/-- The codes every command shares, over the given DA ranges. -/
def Ctx.sharedCodes (x : Ctx) (ins outs : List (Nat × Nat)) : List Nat :=
  wordCodes x.c ++ x.shadowCodes ++ x.c.uses.flatMap x.operandCodes ++ x.hazardCodes ins outs

/-- The lowest code of a list (R139). -/
def lowest : List Nat → Option Nat
  | [] => none
  | a :: t => match lowest t with
    | none => some a
    | some b => some (min a b)

/-- What a command forms when it issues: its effects at commit, what it still waits for, whether it fails. -/
structure Effect where
  posts : List Post
  work : Work := .none
  failed : Bool := false
  cause : Nat := 6

/-- Replaces the first entry of an engine that a test names. -/
def replaceEntry (f : Entry → Bool) (new : Entry) : List Entry → List Entry
  | [] => []
  | a :: t => if f a then new :: t else a :: replaceEntry f new t

/-- Lines of 256 bytes that [lo, hi) touches. -/
def lines (lo hi : Nat) : Nat := (hi + 255) / 256 - lo / 256

/-- Requests for the bytes [lo, hi) of the stacks under the hedges, by the region of each line (R289). -/
def stackNeeds (lo hi : Nat) : List (Nat × Nat × Nat) :=
  (List.range 4).filterMap (fun c =>
    let a := max lo (c * 0x6000000000)
    let b := min hi ((c + 1) * 0x6000000000)
    if a < b then some (c, lines a b, 0) else none)

/-- Requests of a command under the hedges (R289): stack lines per region and host lines. -/
def Ctx.hedgeNeeds (x : Ctx) (rs : List (Nat × Nat)) : List (Nat × Nat × Nat) :=
  if x.c.op == 0x50 || x.c.op / 16 == 6 || x.c.op / 16 == 8 then
    rs.flatMap (fun a => match spaceOf a.1 with
      | .stack => stackNeeds a.1 a.2
      | .host => [(11, lines a.1 a.2, 0)]
      | _ => [])
  else []

/-- SEQS and TABLE_STRIDE of SE_APPEND (Table 9.6); count and descriptor of cache i. -/
def apSeqs (c : Cmd) : Nat := bitsAt c.w4 0 9
def apStride (c : Cmd) : Nat := c.w5
def Ctx.apCount (x : Ctx) (i : Nat) : Nat := (idAt x.rd (x.d 0 1) i).toNat
def Ctx.apCache (x : Ctx) (i : Nat) : Desc := { x.d 1 0 with base := (x.d 1 0).base + i * apStride x.c }

/-- The pages that cache i needs for its new positions (R228). -/
def Ctx.apPages (x : Ctx) (i : Nat) : List Nat :=
  let len := pageSeqLen x.rd (x.apCache i).base
  if x.apCount i = 0 then []
  else (List.range ((len + x.apCount i + 255) / 256)).filter (fun e => decide (len / 256 ≤ e))

/-- DA ranges of the page-table entries that an append reads. -/
def Ctx.apEntries (x : Ctx) : List (Nat × Nat) :=
  (List.range (apSeqs x.c)).flatMap (fun i => (x.apPages i).map (fun e =>
    let a := (x.apCache i).base + 64 + 8 * e
    (a, a + 8)))

/-- DA ranges of the table rows that the IDs at D0 name. -/
def Ctx.idRows (x : Ctx) (t : Desc) : List (Nat × Nat) :=
  let ids := x.d 0 0
  let hit (n : Nat) : List Nat :=
    let i := idAt x.rd ids n
    if 0 ≤ i ∧ i < (t.size 1 : Int) then [i.toNat] else []
  (((List.range ids.count).flatMap hit).foldl addOnce []).flatMap (rowRanges t)

/-- What a command reads out of its input ranges: of a table that IDs index, only the rows that they name (R198, R205,
R229); of a page table, only the entries that an append needs (R228). -/
def Ctx.touched (x : Ctx) (ins : List (Nat × Nat)) : List (Nat × Nat) :=
  match x.c.op with
  | 0x50 => descRanges x.rd (x.d 0 0) ++ x.idRows (x.d 1 0)
  | 0x52 => descRanges x.rd (x.d 0 0) ++ descRanges x.rd (x.d 1 0) ++ x.idRows (x.d 1 1)
  | 0x72 => ins ++ x.apEntries
  | 0x73 => descRanges x.rd (x.d 0 0) ++ descRanges x.rd (x.d 1 0) ++ x.idRows (x.d 2 0)
  | _ => ins

/-- Poisoned stack words that DA ranges touch, as word numbers (R231). -/
def Ctx.badIn (x : Ctx) (rs : List (Nat × Nat)) : List Nat :=
  let xs := x.extents rs
  x.s.badWords.filter (fun w => xs.any (fun e => e.overlaps { lo := w * 8, hi := w * 8 + 8 }))

/-- Counts uncorrectable words met by a command and records the last address (R231, R234). -/
def State.meetBad (s : State) (ws : List Nat) : State :=
  ws.foldl (fun s w =>
    let k := w * 8 / 2 ^ 36
    ((s.bump SE_ERR.UNCORR 1 k).put SE_ERR_ADDR.OFFSET (w * 8 % 2 ^ 36) k).put SE_ERR_ADDR.VALID 1 k) s

/-- The stack DA of a physical stack byte (R92). -/
def State.daOf (s : State) (key : Nat) : Nat :=
  let k := key / 2 ^ 36
  let o := key % 2 ^ 36
  if s.bit HUB_STK_MODE.INTLV (k / 6) then k / 6 * 0x6000000000 + (o / 4096 * 6 + k % 6) * 4096 + o % 4096 else key

/-- A stack word turns out uncorrectable (R231): it holds the poison pattern from now on and counts; a word of host-owned
memory enters the event records of the CXL device (R339). -/
def State.spoilWord (s : State) (word : Nat) : State :=
  let s := if !s.badWords.contains word && s.get HUB_OWN.KIND (word / 2 ^ 27) == 1 then
      s.modHub (fun h => { h with events := h.events ++ [BitVec.ofNat 64 (s.daOf (word * 8))] })
    else s
  ({ s with badWords := addOnce s.badWords word } : State).meetBad [word]

/-- A failed command: nothing formed, nothing to wait for before its commit reports it (R384). -/
def Entry.fail (e : Entry) (cause : Nat) : Entry := { e with failed := true, cause := cause, posts := [], work := .none }

/-- A head command that its engine does not execute is refused when it would issue: BAD_ENGINE, or BAD_OPCODE, which is
lower, where that applies too (Table 5.9). -/
def State.refuseStray (s : State) (x : Ctx) : State :=
  if s.regionRuns x.r && s.powerOk x.r x.c && s.waitsMet x.r x.c && !engineFits x.c.op x.e.eng then
    s.regionFault x.r (if (wordCodes x.c).contains 1 then 1 else 2) x.e.eng x.e.slot x.e.ord
  else s

/-- Issue of the head command of an engine if it has the opcode (R116): the engine can take it, its waits are satisfied,
no ready command of a lower engine comes first (R132) and power permits; then the checks run, and the command is refused
(R140) or issues: descriptors latched, waits consumed, its effect formed, its outputs undefined until it commits
(R134). -/
def State.issue (s : State) (r : Rgn) (e op : Nat) (ready : State → Entry → Bool)
    (ranges : Ctx → List (Nat × Nat) × List (Nat × Nat)) (codes : Ctx → List Nat) (run : Ctx → Effect) : State :=
  match s.partOf r, nextOf s.regions[r].cmds e with
  | some p, some en =>
    if s.regionRuns r && en.cmd.op == op && ready s en && s.powerOk r en.cmd && s.holdsFree r en.cmd &&
        (en.consumed || (s.waitsMet r en.cmd && !s.outranked r e en.cmd)) then
      let ds := if en.consumed then en.descs else en.cmd.latched.map (fun i => (i, s.desc r i))
      let x : Ctx := { s := s, r := r, p := p, e := en, ds := ds }
      let io := ranges x
      match if en.consumed then none else lowest (x.sharedCodes io.1 io.2 ++ codes x) with
      | some code => s.regionFault r code e en.slot en.ord
      | none =>
        let f := run x
        let bad := x.badIn (x.touched io.1)
        let s := if en.consumed then s else s.consume r en.cmd
        let s := s.meetBad bad
        let en' := { en with
          issued := true, consumed := true, ticket := s.ticket, descs := ds, ins := x.extents io.1
          outs := if en.cmd.shadow then [] else x.outExtents io.2
          posts := f.posts, work := f.work, needs := x.hedgeNeeds (x.touched io.1 ++ io.2), failed := f.failed, cause := f.cause }
        (s.nextTicket).setCmds r (replaceEntry (fun y => y.eng == e && !y.issued)
          (if bad.isEmpty then en' else en'.fail 6) s.regions[r].cmds)
    else s.refuseStray { s := s, r := r, p := p, e := en, ds := [] }
  | _, _ => s

/-- Replaces an issued entry. -/
def State.putEntry (s : State) (r : Rgn) (e : Entry) : State :=
  s.setCmds r (replaceEntry (fun y => y.eng == e.eng && y.ord == e.ord && y.issued) e s.regions[r].cmds)

/-- The entry that an engine issued under a ticket. -/
def State.issuedEntry (s : State) (r : Rgn) (e ticket : Nat) : Option Entry :=
  s.regions[r].cmds.find? (fun x => x.eng == e && x.issued && x.ticket == ticket)

/-- Changes the entry that an engine issued under a ticket. -/
def State.editIssued (s : State) (r : Rgn) (e ticket : Nat) (f : Entry → Entry) : State :=
  s.setCmds r (s.regions[r].cmds.map (fun x => if x.eng == e && x.issued && x.ticket == ticket then f x else x))

/-- Whether an engine has a command issued under a ticket: the one that its checks speak of. -/
def State.issuedAt (s : State) (r : Rgn) (e ticket : Nat) : Bool := (s.issuedEntry r e ticket).isSome

/-- What the checks of a block other than a matrix engine found in a command that it issued (R15, R17, R137): an
uncorrectable SRAM word kills a killable command, which re-runs once and fails if it meets the word again; a command that
cannot be killed fails. -/
def State.checkBlock (s : State) (r : Rgn) (e ticket : Nat) (x : EngCheck) : State :=
  match s.issuedEntry r e ticket, x with
  | some y, .sram ok =>
    let s := if y.cmd.killable then s.bump RGN_SEQ_KILL.KILLED 1 r else s
    if y.cmd.killable && ok then s else s.editIssued r e ticket (·.fail 6)
  | _, _ => s

/-- The 64-bit words of its stack that an issued command reads, or rewrites in part as an append does its rows (R228), out
of those at some offsets. -/
def Entry.meets (e : Entry) (stack : Nat) (offsets : List (BitVec 36)) : List Nat :=
  let xs := e.ins ++ if e.cmd.op = 0x72 then e.outs else []
  (offsets.map (fun o => (stackBase stack + o.toNat) / 8)).filter (fun w =>
    xs.any (fun x => x.overlaps { lo := w * 8, hi := w * 8 + 8 }))

/-- What the checks of a stack engine found in a command that it issued (R15, R18): uncorrectable words of the stack that
the command reads are poisoned, and the command fails. -/
def State.checkStack (s : State) (k : Stk) (e ticket : Nat) (x : EngCheck) : State :=
  let r := stackRegion k
  match s.issuedEntry r e ticket, x with
  | some y, .stackWords os =>
    let ws := y.meets k.val os
    if ws.isEmpty then s else (ws.foldl (fun s w => s.spoilWord w) s).editIssued r e ticket (·.fail 6)
  | _, _ => s.checkBlock r e ticket x

/-- The slot that watches a tensor, lowest first (R83). -/
def State.watchSlot (s : State) (tensorId : Nat) : Option Nat :=
  (s.watchId.find? (fun x => x.2 == tensorId + 1)).map (·.1)

/-- Adds the counts of a watched write (R83-R85). -/
def State.watched (s : State) (tensorId : Nat) (w : Watch) : State :=
  match s.watchSlot tensorId with
  | none => s.liveAdd STAT_MISS.ELEMENTS w.elements
  | some i =>
    let s := s.liveAdd STAT_SLOT_CNT.ELEMENTS w.elements i 0
    let s := s.liveAdd STAT_SLOT_CNT.ZEROS w.zeros i 1
    let s := s.liveAdd STAT_SLOT_CNT.SAT w.sat i 2
    let s := s.liveAdd STAT_SLOT_CNT.NAN w.nan i 2
    s.liveAdd STAT_SLOT_CNT.INF w.inf i 3

/-- Whether a record comes before another: issue ordinal, then element (R76). -/
def NfRec.before (a b : NfRec) : Bool := a.ord < b.ord || (a.ord == b.ord && a.elem < b.elem)

/-- Number of dirty granules in [lo, hi) of 64 KiB granule numbers. -/
def dirtyCount (ds : List Nat) (lo hi : Nat) : Nat := (ds.filter (fun g => decide (lo ≤ g) && decide (g < hi))).length

/-- First 64 KiB granule (by key / 65,536) of buffer b of a pair. -/
def State.bufBase (s : State) (k p b : Nat) : Nat :=
  k * 2 ^ 20 + s.get SE_BUF0.BASE k p + if b = 1 then s.get SE_BUF0.DELTA k p else 0

/-- A flip of a pair at its commit (R214, R222): CUR toggles, STEP is set, the dirty count of the new current buffer is
latched and remembered for the rate of change (R318). -/
def State.flipPair (s : State) (k p step : Nat) : State :=
  let cur := 1 - s.get SE_BUF1.CUR k p
  let n := s.get SE_BUF0.GRANULES k p
  let base := s.bufBase k p cur
  let dirty := dirtyCount s.dirty base (base + n)
  let s := (s.put SE_BUF1.CUR cur k p).put SE_BUF1.STEP step k p
  let s := s.put SE_BUF2.DIRTY dirty k p
  s.modHub (fun h =>
    let old := ((h.rates.find? (fun x => x.1 == (k, p))).map (·.2)).getD []
    { h with rates := h.rates.filter (fun x => x.1 != (k, p)) ++ [((k, p), (old ++ [(dirty, n)]).drop
        ((old.length + 1) - 8))] })

/-- One effect of a commit. -/
def State.post (s : State) (r : Rgn) : Post → State
  | .bytes key bs => s.store key bs
  | .zero lo hi => s.zeroFill lo hi
  | .count f i j k n => if n = 0 then s else s.bump f n i j k
  | .live f i j k n => if n = 0 then s else s.liveAdd f n i j k
  | .field f i j k v => s.put f v i j k
  | .watch t w => s.watched t w
  | .nonfinite n =>
    s.modRegion r (fun g => { g with nf := match g.nf with
      | some o => if n.before o then some n else some o
      | none => some n })
  | .dirty g => { s with dirty := addOnce s.dirty g }
  | .clean lo hi => { s with dirty := s.dirty.filter (fun g => decide (g < lo) || decide (hi ≤ g)) }
  | .flip k p step => s.flipPair k p step
  | .poisonVote g => s.modHub (fun h => { h with poisonRecv := h.poisonRecv ||| (1#256 <<< g) })
  | .poisonRec l g b addr elem =>
    if s.bit LNK_POISON_REC0.VALID l then s
    else
      let s := ((s.put LNK_POISON_REC0.ADDR addr l).put LNK_POISON_REC0.GROUP g l).put LNK_POISON_REC0.BUCKET b l
      (s.put LNK_POISON_REC0.VALID 1 l).put LNK_POISON_REC1.ELEM elem l

/-- Poisoned words of which the writes of one command replace every byte hold correct check bits again (R231). -/
def healedBy (ws : List Nat) (ps : List Post) : List Nat :=
  let written (a : Nat) : Bool := ps.any (fun p => match p with
    | .bytes key bs => decide (key ≤ a) && decide (a < key + bs.length)
    | .zero lo hi => decide (lo ≤ a) && decide (a < hi)
    | _ => false)
  ws.filter (fun w => !(List.range 8).all (fun k => written (8 * w + k)))

/-- The effects of a commit in order. -/
def State.postAll (s : State) (r : Rgn) : List Post → State
  | [] => s
  | a :: t => (s.post r a).postAll r t

/-- Whether nothing outside the engine keeps a command from its commit. -/
def Work.done : Work → Bool
  | .none => true
  | .remote host hostGot peers peerGot =>
    decide (host ≤ hostGot.length) && peerGot.length == peers.foldl (fun a x => a + x.2.2) 0
  | .coll c => c.closed
  | .drain holders => holders.isEmpty

/-- Takes what the hedges let pass of a command's requests (R290): the requests left wait for a later bell, each
counted once per period. -/
def State.takeHedge (s : State) (p : Prt) : List (Nat × Nat × Nat) → State × List (Nat × Nat × Nat)
  | [] => (s, [])
  | (c, n, w) :: t =>
    let i := 16 * p.val + c
    if kget s.hub.hedgeOn i 0 = 0 then s.takeHedge p t
    else
      let level := kget s.hub.hedge i 0
      let m := min level n
      let s := s.modHub (fun h => { h with hedge := kput h.hedge i 0 (level - m) })
      let s := s.liveAdd PROC_HEDGE_CNT.USED m p c
      let left := n - m
      let s := if left != 0 && w != s.period + 1 then s.liveAdd PROC_HEDGE_CNT.WAITS left p c else s
      let q := s.takeHedge p t
      (q.1, if left = 0 then q.2 else (c, left, s.period + 1) :: q.2)

/-- Whether a failed command writes nothing: an SE_UPDATE that found poison without a vote (R220), which records so. -/
def Entry.keepsOutputs (e : Entry) : Bool := e.cmd.op == 0x70 && !e.posts.isEmpty

/-- The commit of a command (R134): effects, token, the block's last commit time; a failed command leaves its outputs
undefined but where it writes nothing, signals nothing and tears the job down (R384), unless a teardown is under way. -/
def State.commitEntry (s : State) (r : Rgn) (p : Prt) (e : Entry) (q : List Entry) : State :=
  let tearing := s.partState p == psTearing
  let s := s.setCmds r q
  let s := s.modRegion r (fun g => { g with lastUse := s.now - s.hub.firedAt })
  if e.failed then
    let s := if e.keepsOutputs then s else s.undefineAll e.outs
    let s := if e.cmd.op / 16 == 7 || e.cmd.op == 0x52 then
        s.bump SE_ERR.FAILED 1 (if e.cmd.op == 0x52 then (descOf e.descs (e.cmd.d1.toNat + 1)).base / 2 ^ 36 else stackOf r e.eng) else s
    let s := s.postAll r e.posts
    if tearing then s else s.beginTeardown p e.cause
  else
    let s := s.postAll r e.posts
    let s : State := { s with badWords := healedBy s.badWords e.posts }
    if tearing then s else s.signal r e.cmd e.slot e.ord

/-- Issued entries of a removed list of extents, as seen by the flag of the region: `true` when the head of engine e's
queue has issued. -/
def headOf (q : List Entry) (e : Nat) : Option Entry := q.find? (fun x => x.eng == e)

/-- Removes the first entry of an engine. -/
def dropHead (q : List Entry) (e : Nat) : List Entry :=
  match q with
  | [] => []
  | a :: t => if a.eng = e then t else a :: dropHead t e

/-- Counts and record of an output written by this command (R76, R83). -/
def Ctx.out (x : Ctx) (d : Desc) (o : OutT) : List Post := o.toPosts x.r x.e.eng x.e.ord d

/-- Places the codes of an output: a PAGED one through its page table, any other by its layout (R101). -/
def Ctx.place (x : Ctx) (d : Desc) (code : Nat → Nat) : List Post :=
  if d.paged then placePaged x.rd x.key d code else placeCodes x.key d code

/-- Forms an output at a descriptor from the values of its elements. -/
def Ctx.form (x : Ctx) (d : Desc) (val : Nat → Acc32) : List Post :=
  x.out d (formPlaced x.place x.key d (x.u32 d 0) val)

/-- Forms an output of a matrix engine, which writes no padding (R143). -/
def Ctx.formBare (x : Ctx) (d : Desc) (val : Nat → Acc32) : List Post :=
  x.out d (formPlaced (placeBare x.key) x.key d (x.u32 d 0) val)

/-- Forms some elements of an output in a format of whole bytes, each at its own byte address. -/
def Ctx.formSome (x : Ctx) (d : Desc) (addr : Nat → Nat) (ns : List Nat) (val : Nat → Acc32) : List Post :=
  let es := ns.map (fun n => (n, convertElem d 0 (rndOf d (x.u32 d 0) n) (val n)))
  let w := watchOf (es.map (·.2))
  x.out d
    { posts := es.flatMap (fun t => bytePosts x.key (addr t.1) (toLe (d.bits / 8) t.2.code))
      sat := satCount (es.map (·.2)), nonfinite := w.nan + w.inf, watch := w
      first := es.findSome? (fun t => t.2.cls.map (fun c => (t.1, c))) }

/-- The ranges of the operands alone. -/
def Ctx.plainRanges (x : Ctx) : List (Nat × Nat) × List (Nat × Nat) := (x.ranges false, x.ranges true)

/-- A code when a condition holds. -/
def bad (c : Bool) (code : Nat) : List Nat := if c then [code] else []

/-- Whether bits of a word outside a mask are set. -/
def rsvSet (w mask : Nat) : Bool := (w &&& (2 ^ 32 - 1 - mask)) != 0

end Sys2Proof.Machine
end

