-- ==== Sys2Proof/Machine/Matrix.lean ====
section
/-!
DEFINITION. The matrix engines: MATMUL, ACC_OUT, ACC_CLEAR (R142-R153), residue checks and leaving service (R154-R156).
-/
namespace Sys2Proof.Machine

/-- Format classes of Table 6.3. -/
def isFp8 (c : Nat) : Bool := c == 0x04 || c == 0x05 || c == 0x84 || c == 0x85
def isFloat8Lane (c : Nat) : Bool := isFp8 c || [0x06, 0x07, 0x86, 0x87].contains c
def isFp4 (c : Nat) : Bool := c == 0x08 || c == 0x88
def isInt8Lane (c : Nat) : Bool := c == 0x09 || c == 0x89
def isInt4Lane (c : Nat) : Bool := c == 0x0A || c == 0x8A

/-- Whether a pair stands in a row of Table 6.3 in this order. -/
def pairRow (a b : Nat) : Bool :=
  (a == fmtBF16 && (b == fmtBF16 || isFp8 b)) || (a == fmtFP16 && (b == fmtFP16 || isFp8 b)) ||
  (isFloat8Lane a && (isFloat8Lane b || isFp4 b)) || (isFp4 a && isFp4 b) ||
  (isInt8Lane a && (isInt8Lane b || isInt4Lane b)) || (isInt4Lane a && isInt4Lane b)

/-- Whether Table 6.3 allows a pair, in either order. -/
def pairOk (a b : Nat) : Bool := pairRow a b || pairRow b a

/-- Whether a pair accumulates in INT32: both unscaled integers. -/
def intPair (a b : Nat) : Bool := (a == 0x09 || a == 0x0A) && (b == 0x09 || b == 0x0A)

/-- Output formats of an FP32 accumulator (Table 6.4). -/
def accOutFormat (c : Nat) : Bool := [0x01, 0x02, 0x03, 0x04, 0x05, 0x84, 0x85].contains c

/-- Formats that are no matrix operands (R69). -/
def notOperand (c : Nat) : Bool := c == fmtFP32 || c == fmtINT32 || c == fmtMask

/-- Adds to an INT32 accumulation that saturates and stays saturated (R72). -/
def intAdd (a : Int × Bool) (v : Int) : Int × Bool :=
  if a.2 then a
  else if 2147483647 < a.1 + v then (2147483647, true)
  else if a.1 + v < -2147483648 then (-2147483648, true) else (a.1 + v, false)

/-- The integer of an integer element. -/
def intOf : Num → Int
  | .fin s m e => let v : Int := m * 2 ^ e.toNat; if s then -v else v
  | _ => 0

/-- The inner products of one output element: A[b][m][k] x B[b][k][n] in ascending k (R142). -/
def innerPairs (rd : Reader) (a b : Desc) (bt m n : Nat) : List (Num × Num) :=
  (List.range (a.size 0)).map (fun k =>
    (readAt rd a k m bt, readAt rd b k n (if b.rank = 2 then 0 else bt)))

/-- One output element from a starting sum. -/
def matElem (rd : Reader) (a b : Desc) (start : Acc32) (bt m n : Nat) : Acc32 :=
  let ps := innerPairs rd a b bt m n
  if intPair a.format b.format then
    let v := ps.foldl (fun t p => intAdd t (intOf p.1 * intOf p.2)) (0, false)
    { val := numOfInt v.1, sat := v.2 }
  else dot32 start ps

/-- Checks of a product with an output descriptor (R143, R144, R149). -/
def productCodes (a b d : Desc) : List Nat :=
  bad (notOperand a.format || notOperand b.format) 4 ++ bad (!pairOk a.format b.format) 5 ++
  bad (if intPair a.format b.format then d.format != fmtINT32 else !accOutFormat d.format) 5 ++
  bad (hasScale d.format && 128 < d.block) 0x0B ++
  bad (!(a.rank == 2 || a.rank == 3) || d.rank != a.rank || !(b.rank == a.rank || b.rank == 2) ||
    a.size 0 != b.size 0 || a.size 1 != d.size 1 || b.size 1 != d.size 0 || a.size 2 != d.size 2 ||
    (b.rank == 3 && b.size 2 != a.size 2)) 0x0B

/-- Checks of a MATMUL (R143, R144, R149, R153). -/
def matmulCodes (x : Ctx) : List Nat :=
  let c := x.c
  let a := x.d 0 0
  let b := x.d 1 0
  bad (2 ≤ matMode c || rsvSet c.w4 0x1F || c.w5 != 0 || c.w6 != 0 || c.w7 != 0 ||
    (matMode c == 0 && matSlot c != 0)) 0x0C ++
  (if matMode c = 1 then
    bad (notOperand a.format || notOperand b.format) 4 ++
    bad (!pairOk a.format b.format || intPair a.format b.format) 5 ++
    bad (a.rank != 2 || b.rank != 2 || a.size 0 != b.size 0 ||
      8 - matSlot c < tiles (a.size 1) * tiles (b.size 1)) 0x0B
  else if matMode c = 0 then productCodes a b (x.d 2 0)
  else bad (notOperand a.format || notOperand b.format) 4 ++ bad (!pairOk a.format b.format) 5)

/-- Key of the accumulator word of cell (m, n) of a product whose first slot is given (R149). -/
def accWord (r e slot0 nTiles m n : Nat) : Nat :=
  accBase r e (slot0 + n / 128 + nTiles * (m / 128)) + (m % 128 * 128 + n % 128) * 8

/-- A resident accumulator word with its saturation mark. -/
def State.readAcc (s : State) (key : Nat) : Acc32 :=
  { val := decodeNum fmtFP32 (ofLe (readRun s.mem [] key 4)), sat := (s.mem.read (key + 4)).toNat % 2 == 1 }

/-- The bytes of an accumulator word. -/
def accBytes (a : Acc32) : List Byte :=
  toLe 4 (bits32 a.val).toNat ++ [if a.sat then 1 else 0, 0, 0, 0]

/-- The effect of a product written to an output descriptor (R149 WRITE). -/
def productPosts (x : Ctx) (a b d : Desc) : List Post :=
  let rd := x.rd
  x.formBare d (fun i => matElem rd a b (Acc32.of .zero) (d.index i 2) (d.index i 1) (d.index i 0))

/-- The cycles that the grid of matrix engine m paused between beats during a command (R146): how many depends on the
banks that other engines use at the time, so their number is a free value (log entry 51). -/
def Ctx.pauses (x : Ctx) (m : Nat) : Post :=
  .live ME_FEED_CNT.PAUSE x.r m 0 ((Config.freeWord x.s.ticket).toNat % 2 ^ 32)

/-- The effect of a MATMUL (R142, R149, R158). -/
def matmulEffect (x : Ctx) : Effect :=
  let a := x.d 0 0
  let b := x.d 1 0
  let m := a.size 1
  let n := b.size 1
  let count := Post.live ME_FEED_CNT.TILES x.r x.e.eng 0 (tiles m * tiles n * a.size 2)
  if matMode x.c = 1 then
    let rd := x.rd
    { posts := (List.range m).flatMap (fun i => (List.range n).map (fun j =>
        let key := accWord x.r x.e.eng (matSlot x.c) (tiles n) i j
        .bytes key (accBytes (matElem rd a b (x.s.readAcc key) 0 i j)))) ++ [count, x.pauses x.e.eng] }
  else { posts := productPosts x a b (x.d 2 0) ++ [count, x.pauses x.e.eng] }

/-- A matrix engine leaves service (R156): its pair's softmax unit with it, its other killable commands are killed, and
the failing command of engine e is reported failed at its commit with CAUSE 4. -/
def State.leaveService (s : State) (r : Rgn) (m e ticket : Nat) : State :=
  let s := (s.setMe r m 1).killWhere r (fun x => x.eng == m && x.ticket != ticket)
  s.editIssued r e ticket (·.fail 4)

/-- A residue mismatch counts, and its column is recorded (R154). -/
def State.mismatch (s : State) (r : Rgn) (m : Nat) (col : BitVec 7) : State :=
  (s.bump ME_ERR_CNT.RESIDUE 1 r m).put ME_STAT.LAST_COL col.toNat r m

/-- The next free spare column: the lowest entry of ME_COL_MAP that is not VALID (R155). -/
def State.freeSpare (s : State) (r m : Nat) : Option Nat :=
  [0, 1, 2, 3].find? (fun j => s.get (ME_COL_MAP.VALID j) r m == 0)

/-- SPARES_USED shows the spare columns mapped (R158). -/
def State.countSpares (s : State) (r m : Nat) : State :=
  s.put ME_STAT.SPARES_USED (([0, 1, 2, 3].filter (fun j => s.get (ME_COL_MAP.VALID j) r m != 0)).length) r m

/-- A column is mapped to a spare (R154, R155). -/
def State.mapColumn (s : State) (r m j : Nat) (col : BitVec 7) : State :=
  let s := (s.put (ME_COL_MAP.COL j) col.toNat r m).put (ME_COL_MAP.VALID j) 1 r m
  (s.countSpares r m).bump ME_ERR_CNT.REPAIRS 1 r m

/-- The re-run of a killed command of matrix engine m (R154, R156): one that fails a check again takes the engine out of
service. -/
def State.rerun (s : State) (r : Rgn) (m e ticket : Nat) : Rerun → State
  | .passed => s
  | .mismatch col => ((s.mismatch r m col).bump ME_ERR_CNT.RERUN_FAIL 1 r m).leaveService r m e ticket
  | .failed => (s.bump ME_ERR_CNT.RERUN_FAIL 1 r m).leaveService r m e ticket

/-- What the checks of matrix engine m found while engine e ran the command of a ticket (R17, R154-R156). -/
def State.checkEngine (s : State) (r : Rgn) (m e ticket : Nat) (x : EngCheck) : State :=
  if !s.issuedAt r e ticket then s
  else match x with
  | .clean => s
  | .stackWords _ => s
  | .corrected words => s.bump ME_ERR_CNT.ACC_CORR words r m
  | .uncorr => s.leaveService r m e ticket
  | .sram ok => (s.bump RGN_SEQ_KILL.KILLED 1 r).rerun r m e ticket (if ok then .passed else .failed)
  | .residue col again =>
    let s := s.mismatch r m col
    match s.freeSpare r m with
    | none => s.leaveService r m e ticket
    | some j => ((s.bump RGN_SEQ_KILL.KILLED 1 r).mapColumn r m j col).rerun r m e ticket again

/-- What the checks found while a unit of another kind ran the command of a ticket: those of the matrix engine that the
command holds (R186, R200), or of the unit alone (R17). -/
def State.checkUnit (s : State) (r : Rgn) (e ticket : Nat) (x : EngCheck) : State :=
  match s.issuedEntry r e ticket with
  | none => s
  | some y => match heldEngines y.cmd with
    | m :: _ => s.checkEngine r m e ticket x
    | [] => s.checkBlock r e ticket x

/-- MATMUL: the head command of ME e issues (R142-R153). -/
def execMatmul (r : Rgn) (e : Fin 16) (x : EngCheck) (s : State) : Host.Outcome State Fault Refusal :=
  let t := s.ticket
  .next ((s.issue r e.val 0x10 (matReady r e.val) Ctx.plainRanges matmulCodes matmulEffect).checkEngine r e.val e.val t x)

/-- Checks of an ACC_OUT (R144, R151, R153). -/
def accOutCodes (x : Ctx) : List Nat :=
  let d := x.d 2 0
  bad (rsvSet x.c.w4 0xF || x.c.w5 != 0 || x.c.w6 != 0 || x.c.w7 != 0) 0x0C ++
  bad (!accOutFormat d.format) 5 ++ bad (hasScale d.format && 128 < d.block) 0x0B ++
  bad (d.rank != 2 || 8 - bitsAt x.c.w4 0 3 < tiles (d.size 0) * tiles (d.size 1)) 0x0B

/-- The effect of an ACC_OUT (R151): the slots convert to D2 and, with CLEAR, are zero from the commit. -/
def accOutEffect (x : Ctx) : Effect :=
  let d := x.d 2 0
  let nT := tiles (d.size 0)
  let slot0 := bitsAt x.c.w4 0 3
  let count := nT * tiles (d.size 1)
  { posts := x.formBare d (fun i =>
      x.s.readAcc (accWord x.r x.e.eng slot0 nT (d.index i 1) (d.index i 0))) ++
      (if flag x.c.w4 3 then
        [.zero (accBase x.r x.e.eng slot0) (accBase x.r x.e.eng (slot0 + count))] else []) ++
      [.live ME_FEED_CNT.TILES x.r x.e.eng 0 count] }

/-- ACC_OUT. -/
def execAccOut (r : Rgn) (e : Fin 16) (x : EngCheck) (s : State) : Host.Outcome State Fault Refusal :=
  let t := s.ticket
  .next ((s.issue r e.val 0x11 (matReady r e.val) Ctx.plainRanges accOutCodes accOutEffect).checkEngine r e.val e.val t x)

/-- Checks and effect of an ACC_CLEAR (R151, R153). -/
def accClearCodes (x : Ctx) : List Nat :=
  bad (rsvSet x.c.w4 0xFF || x.c.w5 != 0 || x.c.w6 != 0 || x.c.w7 != 0) 0x0C
def accClearEffect (x : Ctx) : Effect :=
  { posts := ((List.range 8).filter (fun k => flag x.c.w4 k)).map (fun k =>
      .zero (accBase x.r x.e.eng k) (accBase x.r x.e.eng (k + 1))) }

/-- ACC_CLEAR. -/
def execAccClear (r : Rgn) (e : Fin 16) (s : State) : Host.Outcome State Fault Refusal :=
  .next (s.issue r e.val 0x12 (matReady r e.val) Ctx.plainRanges accClearCodes accClearEffect)

end Sys2Proof.Machine
end

