-- ==== Sys2Proof/Machine/Attention.lean ====
section
/-!
DEFINITION. Attention pairs: ATT_FWD (R159-R173) and ATT_BWD (R174-R176).
-/
namespace Sys2Proof.Machine

/-- PARAM fields of the attention commands (05, the list after R383). -/
def attQ0 (c : Cmd) : Nat := bitsAt c.w4 0 22
def attHeadDim (c : Cmd) : Nat := bitsAt c.w4 22 3
def attMask (c : Cmd) : Nat := bitsAt c.w4 25 2
def attSeg (c : Cmd) : Bool := flag c.w4 27
def attRope (c : Cmd) : Bool := flag c.w4 28
def attFirst (c : Cmd) : Bool := flag c.w4 29
def attFinal (c : Cmd) : Bool := flag c.w4 30
def attK0 (c : Cmd) : Nat := bitsAt c.w5 0 22
def attWindow (c : Cmd) : Nat := bitsAt c.w6 0 22
def attScale (c : Cmd) : Num := ofBits32 c.word7

/-- Head dimension d. -/
def attDim (c : Cmd) : Nat := ([64, 96, 128, 192, 256][attHeadDim c]?).getD 0

/-- Whether a descriptor has the given sizes and no more dimensions. -/
def sized (d : Desc) (n0 n1 n2 : Nat) : Bool :=
  d.rank ≤ 3 && d.size 0 == n0 && d.size 1 == n1 && d.size 2 == n2

/-- Whether Table 7.3 allows a key or value format for a query format. -/
def kvFormatOk (q f : Nat) : Bool :=
  if q = fmtBF16 ∨ q = fmtFP16 then
    f == q || [0x04, 0x05, 0x06, 0x07, 0x08, 0x84, 0x85, 0x86, 0x87, 0x88].contains f
  else (q == 0x04 || q == 0x84) && [0x04, 0x05, 0x08, 0x84, 0x85, 0x88].contains f

/-- The mask operand of a command: segment starts or bitmap. -/
def attMaskDesc (x : Ctx) : Desc := x.d 0 (if x.c.op = 0x20 then 1 else 3)

/-- Whether an operand has the head dimension, n positions and h heads; a reserved HEAD_DIM gives no size for dimension 0
and leaves the others (Table 7.7). -/
def attSized (c : Cmd) (t : Desc) (n h : Nat) : Bool :=
  sized t (if 5 ≤ attHeadDim c then t.size 0 else attDim c) n h

/-- Checks that both attention commands share (Table 7.7). SEG_EN with MASK 3 leaves the mask operand without a kind, so
that only BAD_PARAM applies to it. -/
def attCodes (x : Ctx) : List Nat :=
  let c := x.c
  let q := x.d 0 0
  let k := x.d 1 0
  let v := x.d 1 1
  let m := attMaskDesc x
  let d := attDim c
  let rot := x.s.get SU_ROPE_CTRL.ROT_PAIRS x.r
  bad (5 ≤ attHeadDim c || (attMask c == 2 && attWindow c == 0) || (attMask c != 2 && attWindow c != 0) ||
    (attSeg c && attMask c == 3) || !(attScale c).isFinite || (attScale c).isNeg || (attScale c).isZero ||
    flag c.w4 31 || bitsAt c.w5 22 10 != 0 || bitsAt c.w6 22 10 != 0) 0x0C ++
  bad (!attSized c q (q.size 1) (q.size 2) || !attSized c k (k.size 1) (k.size 2) ||
    !attSized c v (k.size 1) (k.size 2) || q.size 2 % k.size 2 != 0 || v.layout != 1 ||
    (attRope c && (rot == 0 || (attHeadDim c < 5 && d < 2 * rot)))) 0x0B ++
  bad (attSeg c && attMask c != 3 && (m.rank != 1 || 65536 < m.size 0)) 0x0B ++
  bad (attMask c == 3 && !attSeg c && (m.size 0 != tiles (k.size 1) || m.size 1 != tiles (q.size 1) ||
    !(m.rank == 2 || (m.rank == 3 && m.size 2 == q.size 2)))) 0x0B ++
  bad (!kvFormatOk q.format k.format || !kvFormatOk q.format v.format ||
    (attRope c && !(q.format == fmtBF16 || q.format == fmtFP16)) ||
    (attSeg c && attMask c != 3 && m.format != fmtINT32) ||
    (attMask c == 3 && !attSeg c && m.format != fmtMask)) 5 ++
  bad (4194304 ≤ attQ0 c + q.size 1 - 1 || 4194304 ≤ attK0 c + k.size 1 - 1) 0x0A

/-- Checks of ATT_FWD (Table 7.1, R162, R173). -/
def attFwdCodes (x : Ctx) : List Nat :=
  let q := x.d 0 0
  let n := q.size 1
  let h := q.size 2
  let o := x.d 2 2
  let st := x.d 2 3
  attCodes x ++
  (if attFirst x.c then [] else
    bad (!attSized x.c (x.d 2 0) n h || !sized (x.d 2 1) 2 n h) 0x0B ++
    bad ((x.d 2 0).format != fmtFP32 || (x.d 2 1).format != fmtFP32) 5) ++
  bad (!attSized x.c o n h || !sized st (if attFinal x.c then 1 else 2) n h) 0x0B ++
  bad (st.format != fmtFP32 ||
    !(o.format == fmtFP32 || (attFinal x.c && (o.format == fmtBF16 || o.format == fmtFP16)))) 5

/-- Visible positions (R169): the segment of a position is the largest used start at or below it (R170). -/
def usedStarts (last : Int) : List Int → List Int
  | [] => []
  | a :: t => if last < a ∧ 0 < a ∧ a < 4194304 then a :: usedStarts a t else usedStarts last t
def segmentOf (starts : List Int) (p : Nat) : Nat := (starts.filter (fun a => decide (a ≤ (p : Int)))).length

/-- The used segment starts of a command. -/
def attStarts (x : Ctx) : List Int :=
  if attSeg x.c then
    usedStarts 0 ((List.range (attMaskDesc x).count).map (fun n => intOf (readElem x.rd (attMaskDesc x) n)))
  else []

/-- Whether key j is visible to query row i of head h (R169). -/
def attVisible (x : Ctx) (starts : List Int) (h i j : Nat) : Bool :=
  let c := x.c
  let qp := attQ0 c + i
  let kp := attK0 c + j
  let m := attMaskDesc x
  (match attMask c with
   | 0 => true
   | 1 => kp ≤ qp
   | 2 => kp ≤ qp && decide (qp - kp < attWindow c)
   | _ => kp ≤ qp && !(readAt x.rd m (j / 128) (i / 128) (if m.rank = 2 then 0 else h)).isZero) &&
  (!attSeg c || segmentOf starts qp == segmentOf starts kp)

/-- Rounds into the lanes of a 16-bit query format. -/
def toLane (f : Nat) (x : Num) : Num := decodeNum f (encodeNum f .rne x).1

/-- The partner of element t among the rotated pairs: the pair and whether t is its second element (R171). -/
def ropePair (style rot t : Nat) : Option (Nat × Bool) :=
  if style = 0 then if t < rot then some (t, false) else if t < 2 * rot then some (t - rot, true) else none
  else if t < 2 * rot then some (t / 2, t % 2 == 1) else none

/-- Index of the first and the second element of a pair. -/
def ropeFirst (style _rot k : Nat) : Nat := if style = 0 then k else 2 * k
def ropeSecond (style rot k : Nat) : Nat := if style = 0 then k + rot else 2 * k + 1

/-- Rotation of a vector at a position, forward or inverse: each sum is rounded once in FP32 and then taken into the lanes
(R171, R172, R175). A block scale travels to the product (R162): element t is rotated and rounded under its own scale, 2
to the power `scale t`; elements outside the pairs pass unchanged. -/
def rotate (s : State) (r : Rgn) (pos : Nat) (inverse : Bool) (scale : Nat → Int) (lane : Num → Num) (v : List Acc32) :
    List Acc32 :=
  let style := s.get SU_ROPE_CTRL.STYLE r
  let rot := s.get SU_ROPE_CTRL.ROT_PAIRS r
  let at' (k : Nat) : Acc32 := v.getD k (aOf .zero)
  (List.range v.length).map (fun t =>
    match ropePair style rot t with
    | none => at' t
    | some (k, second) =>
      let phase := pos * s.get SU_ROPE_FREQ.FREQ r k % 2 ^ 48 / 2 ^ 16
      let x := at' (ropeFirst style rot k)
      let y := at' (ropeSecond style rot k)
      let co := cosOf phase
      let si := if inverse then (sinOf phase).neg else sinOf phase
      let sum := if second then (x.val.mul si).add (y.val.mul co) else (x.val.mul co).sub (y.val.mul si)
      let z := Acc32.round (sum.scale (-scale t))
      { val := (lane z.val).scale (scale t), sat := x.sat || y.sat || z.sat })

/-- The block scale of element n as a power of two; none for a format without one. -/
def scalePower (rd : Reader) (d : Desc) (n : Nat) : Int :=
  if hasScale d.format then (readScale rd d (d.blockOf n) : Int) - 127 else 0

/-- A row of Q or K as it enters the first engine: widened, and rotated into Q's lanes with ROPE_EN. -/
def attRow (x : Ctx) (d : Desc) (pos0 i h : Nat) : List Acc32 :=
  let row := (List.range (d.size 0)).map (fun t => aOf (readAt x.rd d t i h))
  if attRope x.c then
    rotate x.s x.r (pos0 + i) false (fun t => scalePower x.rd d (d.linear t i h)) (toLane (x.d 0 0).format) row
  else row

/-- A score: the dot product in FP32, scaled with one rounding. -/
def attScore (c : Cmd) (q k : List Acc32) : Acc32 := aMul (aDot (Acc32.of .zero) (q.zip k)) (aOf (attScale c))

/-- The state of one row (R160): E, absent once non-finite; l; O; and what the row adds to the counts. -/
structure AttRow where
  ex : Option Int
  l : Acc32
  o : List Acc32
  becameNan : Bool
  zeroRescale : Nat

/-- The most negative finite FP32 value, an integer. -/
def attInitial : Int := -(2 ^ 128 - 2 ^ 104)

/-- 2^k as a rescale factor: zero below 2^-149. -/
def pow2Factor (k : Int) : Num := if k < -149 then .zero else .fin false 1 k

/-- P as the second engine takes it (Table 7.3), as an exact value. -/
def attP (qfmt : Nat) (p : Num) : Num :=
  if qfmt = fmtBF16 ∨ qfmt = fmtFP16 then toLane qfmt p else (toLane fmtE4M3 (p.scale 8)).scale (-8)

/-- tile_row (R164): one row against the visible keys of one tile, as (score, value row), in ascending order. E is held as
an FP32 value (R160): beyond 2^24 the ceiling is taken to the next FP32 value above it, so that no p exceeds one (DESIGN
CHOICE, log entry 55). A saturated score marks the sums that it feeds (R73). -/
def tileRow (qfmt : Nat) (keys : List (Acc32 × List Num)) (a : AttRow) : AttRow :=
  match a.ex with
  | none => a
  | some ex =>
    if keys.any (fun k => !k.1.val.isFinite) then { a with ex := none, becameNan := true }
    else if keys.isEmpty then a
    else
      let us := keys.map (fun k => timesLog2e k.1.val)
      let top := us.foldl max (us.headD 0)
      let exNew := max ex (ceil32 ((top + 2 ^ 30 - 1) / 2 ^ 30))
      let c := pow2Factor (ex - exNew)
      let rescue := if c.isZero && !a.l.val.isZero then 1 else 0
      let start : Acc32 × List Acc32 := (a.l.mul c, a.o.map (fun v => v.mul c))
      let r := (us.zip keys).foldl (fun t uk =>
        let p := exp2At (uk.1 - exNew * 2 ^ 30)
        let q := attP qfmt p
        let mark := uk.2.1.sat
        (aAdd t.1 { val := p, sat := mark },
         (t.2.zip uk.2.2).map (fun ov => aAdd ov.1 { val := q.mul ov.2, sat := mark }))) start
      { ex := some exNew, l := r.1, o := r.2, becameNan := a.becameNan, zeroRescale := a.zeroRescale + rescue }

/-- Whether a tile pair has a visible pair of positions (R163). -/
def tileVisible (x : Ctx) (starts : List Int) (h a b nq nk : Nat) : Bool :=
  (List.range (min 128 (nq - 128 * a))).any (fun i => (List.range (min 128 (nk - 128 * b))).any (fun j =>
    attVisible x starts h (128 * a + i) (128 * b + j)))

/-- E as read from memory: absent for NaN and for an infinity (R168). -/
def exOf (v : Num) : Option Int := match v with | .fin .. => some (ceil32 (ceilNum v)) | _ => none

/-- The state a row starts from (R160). -/
def attStart (x : Ctx) (d i h : Nat) : AttRow :=
  if attFirst x.c then
    { ex := some attInitial, l := Acc32.of .zero, o := List.replicate d (Acc32.of .zero), becameNan := false
      zeroRescale := 0 }
  else
    let e := readAt x.rd (x.d 2 1) 0 i h
    { ex := exOf e, l := Acc32.of (readAt x.rd (x.d 2 1) 1 i h)
      o := (List.range d).map (fun t => Acc32.of (readAt x.rd (x.d 2 0) t i h))
      becameNan := !e.isFinite && !e.isNan, zeroRescale := 0 }

/-- All rows of a forward command, heads slowest (R161). -/
def attRows (x : Ctx) (starts : List Int) : List AttRow :=
  let q := x.d 0 0
  let k := x.d 1 0
  let v := x.d 1 1
  let d := attDim x.c
  let nq := q.size 1
  let nk := k.size 1
  (List.range (q.size 2)).flatMap (fun h =>
    let hk := h * k.size 2 / q.size 2
    let ks := (List.range nk).map (fun j =>
      (attRow x k (attK0 x.c) j hk, (List.range d).map (fun t => readAt x.rd v t j hk)))
    (List.range nq).map (fun i =>
      let qr := attRow x q (attQ0 x.c) i h
      (List.range (tiles nk)).foldl (fun a b =>
        let keys := (List.range (min 128 (nk - 128 * b))).filterMap (fun j =>
          if attVisible x starts h i (128 * b + j) then
            (ks[128 * b + j]?).map (fun kv => (attScore x.c qr kv.1, kv.2))
          else none)
        tileRow q.format keys a) (attStart x d i h)))

/-- Tile pairs computed and in all. -/
def attTiles (x : Ctx) (starts : List Int) : Nat × Nat :=
  let q := x.d 0 0
  let k := x.d 1 0
  let ps := (List.range (q.size 2)).flatMap (fun h => (List.range (tiles (q.size 1))).flatMap (fun a =>
    (List.range (tiles (k.size 1))).map (fun b => tileVisible x starts h a b (q.size 1) (k.size 1))))
  ((ps.filter id).length, ps.length)

/-- E as the state holds it, exactly: canonical NaN for a non-finite row. -/
def exNum (e : Option Int) : Num := match e with | some v => rnd32 (numOfInt v) | none => .nan

/-- finish (R163): one output element and the log-sum-exp of a row. -/
def attOut (a : AttRow) (t : Nat) : Acc32 :=
  match a.ex with
  | none => Acc32.of .nan
  | some _ =>
    if a.l.val.isZero then Acc32.of .zero
    else
      let o := a.o.getD t (Acc32.of .zero)
      let r := div32 o.val a.l.val
      { val := r.val, sat := o.sat || a.l.sat || r.sat }
def attLse (a : AttRow) : Acc32 :=
  match a.ex with
  | none => aOf .nan
  | some e => { a.l with val := if a.l.val.isZero then .fin false 0xFFFFFF 104 else lseOf (numOfInt e) a.l.val }

/-- Counts of a command's rows and tiles (R163, R164, R167, R168). -/
def attCounts (x : Ctx) (rows : List AttRow) (starts : List Int) : List Post :=
  let k := x.e.eng - 16
  let t := attTiles x starts
  [.live SU_TILE_CNT.TILES x.r k 0 t.1, .live SU_TILE_CNT.SKIPPED x.r k 0 (t.2 - t.1),
   .count SU_CNT.NAN_ROWS x.r k 0 ((rows.filter (·.becameNan)).length),
   .count SU_CNT.ZERO_RESCALE x.r k 0 (rows.foldl (fun n a => n + a.zeroRescale) 0),
   .count SU_CNT.EMPTY_ROWS x.r k 0 (if attFinal x.c && x.c.op == 0x20 then
     (rows.filter (fun a => a.ex.isSome && a.l.val.isZero)).length else 0)]

/-- The effect of ATT_FWD. -/
def attFwdEffect (x : Ctx) : Effect :=
  let starts := attStarts x
  let rows := attRows x starts
  let nq := (x.d 0 0).size 1
  let row (d : Desc) (n : Nat) : AttRow := rows.getD (d.index n 1 + nq * d.index n 2) (attStart x 0 0 0)
  let o := x.d 2 2
  let st := x.d 2 3
  { posts :=
      (if attFinal x.c then
        x.form o (fun n => attOut (row o n) (o.index n 0)) ++ x.form st (fun n => attLse (row st n))
      else
        x.form o (fun n => ((row o n).o).getD (o.index n 0) (Acc32.of .zero)) ++
        x.form st (fun n => if st.index n 0 = 0 then Acc32.of (exNum (row st n).ex) else (row st n).l)) ++
      attCounts x rows starts }

/-- What the checks of the two engines of a pair found while it ran the command of a ticket (R156, R178). -/
def State.checkPair (s : State) (r : Rgn) (k : Nat) (ticket : Nat) (x y : EngCheck) : State :=
  (s.checkEngine r (2 * k) (16 + k) ticket x).checkEngine r (2 * k + 1) (16 + k) ticket y

/-- ATT_FWD. -/
def execAttFwd (r : Rgn) (k : Fin 8) (x y : EngCheck) (s : State) : Host.Outcome State Fault Refusal :=
  .next ((s.issue r (16 + k.val) 0x20 (attReady r k.val) Ctx.plainRanges attFwdCodes attFwdEffect).checkPair r k.val
    s.ticket x y)

/-- Checks of ATT_BWD (Table 7.8, R174). -/
def attBwdCodes (x : Ctx) : List Nat :=
  let q := x.d 0 0
  let k := x.d 1 0
  let out (e : Desc) : Bool := e.format == fmtFP32 || e.format == fmtBF16
  attCodes x ++ bad (attFirst x.c || attFinal x.c) 0x0C ++
  bad (!attSized x.c (x.d 0 1) (q.size 1) (q.size 2) || !sized (x.d 0 2) 2 (q.size 1) (q.size 2) ||
    !attSized x.c (x.d 2 0) (q.size 1) (q.size 2) || !attSized x.c (x.d 2 1) (k.size 1) (k.size 2) ||
    !attSized x.c (x.d 2 2) (k.size 1) (k.size 2)) 0x0B ++
  bad (!(q.format == fmtBF16 || q.format == fmtFP16) || (x.d 0 1).format != q.format ||
    (x.d 0 2).format != fmtFP32 || (x.d 2 0).format != fmtFP32 || !out (x.d 2 1) || !out (x.d 2 2)) 5

/-- p and dS of one pair of positions in Q's format (R175). -/
structure BwdPair where
  p : Acc32
  ds : Acc32

/-- p_ij and dS_ij (R175). -/
def bwdPair (qfmt : Nat) (c : Cmd) (q k dout v : List Acc32) (lse delta : Num) (visible : Bool) : BwdPair :=
  let score := attScore c q k
  let diff := score.val.sub lse
  let p : Acc32 := if !visible then aOf .zero
    else match diff with
      | .fin .. => { score with val := exp2At (timesLog2e diff) }
      | .inf true => aOf .zero
      | _ => aOf .nan
  let dp := aDot (Acc32.of .zero) (dout.zip v)
  let ds := aMul p (aSub dp (aOf delta))
  { p := { p with val := toLane qfmt p.val }, ds := { ds with val := toLane qfmt ds.val } }

/-- Transposed sum of value rows with weights, in order (R71). -/
def weighted (d : Nat) (ws : List (Acc32 × List Acc32)) : List Acc32 :=
  ws.foldl (fun acc w => (acc.zip w.2).map (fun av =>
    aAdd av.1 { val := w.1.val.mul av.2.val, sat := w.1.sat || av.2.sat })) (List.replicate d (Acc32.of .zero))

/-- Applies the scale and, with ROPE_EN, the inverse rotation to a gradient row (R175). -/
def bwdFinish (x : Ctx) (pos : Nat) (v : List Acc32) : List Acc32 :=
  let w := v.map (fun a => a.mul (attScale x.c))
  if attRope x.c then rotate x.s x.r pos true (fun _ => 0) id w else w

/-- The effect of ATT_BWD (R175, R176). -/
def attBwdEffect (x : Ctx) : Effect :=
  let starts := attStarts x
  let q := x.d 0 0
  let k := x.d 1 0
  let v := x.d 1 1
  let d := attDim x.c
  let nq := q.size 1
  let nk := k.size 1
  let hq := q.size 2
  let hk := k.size 2
  let rowOf (e : Desc) (i h : Nat) : List Acc32 := (List.range d).map (fun t => aOf (readAt x.rd e t i h))
  let heads := (List.range hq).map (fun h =>
    let g := h * hk / hq
    let ks := (List.range nk).map (fun j => (attRow x k (attK0 x.c) j g, rowOf v j g))
    let qs := (List.range nq).map (fun i => (attRow x q (attQ0 x.c) i h, rowOf (x.d 0 1) i h))
    let used := (List.range (tiles nq)).map (fun a => (List.range (tiles nk)).map (fun b =>
      tileVisible x starts h a b nq nk))
    let pairs := (List.range nq).map (fun i => (List.range nk).map (fun j =>
      if (used.getD (i / 128) []).getD (j / 128) false then
        match qs[i]?, ks[j]? with
        | some a, some b => some (bwdPair q.format x.c a.1 b.1 a.2 b.2 (readAt x.rd (x.d 0 2) 0 i h)
            (readAt x.rd (x.d 0 2) 1 i h) (attVisible x starts h i j))
        | _, _ => none
      else none))
    (qs, ks, pairs))
  let dq := (List.range hq).flatMap (fun h => (List.range nq).map (fun i =>
    match heads[h]? with
    | none => []
    | some t => bwdFinish x (attQ0 x.c + i) (weighted d ((List.range nk).filterMap (fun j =>
        match (t.2.2.getD i []).getD j none, t.2.1[j]? with
        | some p, some b => some (p.ds, b.1)
        | _, _ => none)))))
  let col (g j : Nat) (f : BwdPair → Acc32) (row : List Acc32 × List Acc32 → List Acc32) : List Acc32 :=
    weighted d ((List.range hq).flatMap (fun h =>
      if h * hk / hq = g then
        match heads[h]? with
        | none => []
        | some t => (List.range nq).filterMap (fun i =>
            match (t.2.2.getD i []).getD j none, t.1[i]? with
            | some p, some a => some (f p, row a)
            | _, _ => none)
      else []))
  let dk := (List.range hk).flatMap (fun g => (List.range nk).map (fun j =>
    bwdFinish x (attK0 x.c + j) (col g j (·.ds) (·.1))))
  let dv := (List.range hk).flatMap (fun g => (List.range nk).map (fun j => col g j (·.p) (·.2)))
  let put (e : Desc) (rows : List (List Acc32)) : List Post :=
    x.form e (fun n => (rows.getD (e.index n 1 + e.size 1 * e.index n 2) []).getD (e.index n 0) (Acc32.of .zero))
  { posts := put (x.d 2 0) dq ++ put (x.d 2 1) dk ++ put (x.d 2 2) dv ++ attCounts x [] starts }

/-- ATT_BWD. -/
def execAttBwd (r : Rgn) (k : Fin 8) (x y : EngCheck) (s : State) : Host.Outcome State Fault Refusal :=
  .next ((s.issue r (16 + k.val) 0x21 (attReady r k.val) Ctx.plainRanges attBwdCodes attBwdEffect).checkPair r k.val
    s.ticket x y)

end Sys2Proof.Machine
end

