-- ==== Sys2Proof/Machine/Route.lean ====
section
/-!
DEFINITION. Sending flits: routing tables (R251), credits and the retry buffer (R239, R241), the hedges of the virtual
channels (R290), error frames (R253), and the checks of R237 and R322 on bytes.
-/
namespace Sys2Proof.Machine

/-- Flit types of Table 10.2. -/
def ftIdle : Nat := 0
def ftWrite : Nat := 1
def ftReadReq : Nat := 2
def ftReadResp : Nat := 3
def ftCollective : Nat := 4
def ftBell : Nat := 5
def ftReport : Nat := 6
def ftRollCall : Nat := 7
def ftMgmt : Nat := 8
def ftDrain : Nat := 9
def ftError : Nat := 10
def ftNak : Nat := 11

/-- One step of a CRC with the most significant bit first. -/
def crcBits (w poly : Nat) : Nat → Nat → Nat
  | 0, c => c
  | n + 1, c => crcBits w poly n (if 2 ^ (w - 1) ≤ c then (c * 2 % 2 ^ w) ^^^ poly else c * 2)

/-- CRC-32 of R237. -/
def crc32 (bs : List Byte) : Nat :=
  (bs.foldl (fun c b => crcBits 32 0x04C11DB7 8 (c ^^^ (b.toNat * 2 ^ 24))) 0xFFFFFFFF) ^^^ 0xFFFFFFFF

/-- One step of a reflected CRC. -/
def crcBitsR (poly : Nat) : Nat → Nat → Nat
  | 0, c => c
  | n + 1, c => crcBitsR poly n (if c % 2 = 1 then (c / 2) ^^^ poly else c / 2)

/-- CRC-64 of R322, from a running value on. -/
def crc64From (c : Nat) (bs : List Byte) : Nat :=
  bs.foldl (fun c b => crcBitsR 0xC96C5795D7870F42 8 (c ^^^ b.toNat)) c
def crc64 (bs : List Byte) : Nat := (crc64From (2 ^ 64 - 1) bs) ^^^ (2 ^ 64 - 1)

/-- One CRC-64 for each MiB of a list, the last one for what is left (R322). -/
def tileDigests : Nat → List Byte → List Nat
  | 0, _ => []
  | n + 1, bs => if bs.isEmpty then [] else crc64 (bs.take 1048576) :: tileDigests n (bs.drop 1048576)

/-- Cuts a list into pieces of n bytes. -/
def chunks (n : Nat) : Nat → List Byte → List (List Byte)
  | 0, _ => []
  | f + 1, bs => if bs.isEmpty then [] else bs.take n :: chunks n f (bs.drop n)
def chunk (n : Nat) (bs : List Byte) : List (List Byte) := chunks n (bs.length + 1) bs

/-- Bytes 0-11 of a flit header as a number (Table 10.1). -/
def hdrBits (h : FlitHdr) : Nat :=
  h.type.toNat + h.vc.toNat * 2 ^ 4 + (if h.last then 2 ^ 7 else 0) + h.seq.toNat * 2 ^ 8 + h.ack.toNat * 2 ^ 22 +
  h.cvc.toNat * 2 ^ 36 + h.cred.toNat * 2 ^ 39 + (if h.cls then 2 ^ 46 else 0) + (if h.ccls then 2 ^ 47 else 0) +
  h.dest.toNat * 2 ^ 48 + h.src.toNat * 2 ^ 64 + h.tag.toNat * 2 ^ 80

/-- The CRC of a flit: over header bytes 0-11 and the payload (R237). -/
def flitCrc (h : FlitHdr) (payload : List Byte) : Word32 := BitVec.ofNat 32 (crc32 (toLe 12 (hdrBits h) ++ payload))

/-- A flit with its CRC, as it leaves. -/
def sealFlit (f : Flit) : Flit := { f with crc := flitCrc f.hdr f.payload }

/-- A header from its bits. -/
def hdrOf (v : Nat) : FlitHdr :=
  { type := BitVec.ofNat 4 v, vc := BitVec.ofNat 3 (v / 2 ^ 4), last := bitsAt v 7 1 == 1
    seq := BitVec.ofNat 14 (v / 2 ^ 8), ack := BitVec.ofNat 14 (v / 2 ^ 22), cvc := BitVec.ofNat 3 (v / 2 ^ 36)
    cred := BitVec.ofNat 7 (v / 2 ^ 39), cls := bitsAt v 46 1 == 1, ccls := bitsAt v 47 1 == 1
    dest := BitVec.ofNat 16 (v / 2 ^ 48), src := BitVec.ofNat 16 (v / 2 ^ 64), tag := BitVec.ofNat 16 (v / 2 ^ 80) }

/-- A list of bytes made n long with zeros. -/
def padTo (n : Nat) (bs : List Byte) : List Byte := bs.take n ++ List.replicate (n - bs.length) 0

/-- A new flit of this module. -/
def State.newFlit (s : State) (type vc : Nat) (last : Bool) (dest tag : Nat) (payload : List Byte) : Flit :=
  { hdr := { type := BitVec.ofNat 4 type, vc := BitVec.ofNat 3 vc, last := last, seq := 0, ack := 0, cvc := 0, cred := 0
             cls := false, ccls := false, dest := BitVec.ofNat 16 dest, src := BitVec.ofNat 16 s.addr
             tag := BitVec.ofNat 16 tag }
    payload := padTo 240 payload }

/-- The loaded partition with a job tag (R283). -/
def State.partOfTag (s : State) (tag : Nat) : Option Prt :=
  if tag = 0 then none
  else allRegions.find? (fun p => s.partState p != psEmpty && s.get PROC_PART_CFG.JOB_TAG p == tag)

/-- Whether a region of a partition that runs a tag. -/
def State.regionOfTag (s : State) (r : Rgn) (tag : Nat) : Bool := tag != 0 && s.tagOf r == tag

/-- The hedge index of a flit that this module's engines originate (R289). -/
def State.flitHedge (s : State) (f : Flit) : Option Nat :=
  if f.hdr.src.toNat == s.addr && [ftWrite, ftReadReq, ftCollective, ftDrain].contains f.hdr.type.toNat then
    match s.partOfTag f.hdr.tag.toNat with
    | some p =>
      let i := 16 * p.val + 4 + f.hdr.vc.toNat
      if kget s.hub.hedgeOn i 0 = 0 then none else some i
    | none => none
  else none

/-- Takes credits that wait to be returned into a header (R239). -/
def Link.returning (x : Link) (h : FlitHdr) : Link × FlitHdr :=
  match (List.range 14).find? (fun i => x.toReturn.getD i 0 != 0) with
  | none => (x, h)
  | some i =>
    let n := min 127 (x.toReturn.getD i 0)
    ({ x with toReturn := x.toReturn.set i (x.toReturn.getD i 0 - n) },
     { h with cvc := BitVec.ofNat 3 (i / 2), ccls := i % 2 == 1, cred := BitVec.ofNat 7 n })

/-- Sends a sequenced flit on a link: a credit, a sequence number, a place in the retry buffer (R239, R241). -/
def State.transmit (s : State) (l : Lnk) (f : Flit) : State :=
  let x := s.links[l]
  let i := credIx f
  let t := x.returning { f.hdr with seq := BitVec.ofNat 14 x.txSeq, ack := BitVec.ofNat 14 x.rxSeq, cvc := 0, cred := 0
                                    ccls := false }
  let g := sealFlit { f with hdr := t.2 }
  (s.modLink l (fun _ => { t.1 with
    credits := t.1.credits.set i (t.1.credits.getD i 0 - 1), txSeq := (x.txSeq + 1) % 16384
    unacked := t.1.unacked ++ [g] })).emit (.flit l g)

/-- Whether a flit is a PROBE or PROBE_ECHO of the timing exchange (R244, Table 14.4). -/
def isTiming (f : Flit) : Bool := f.hdr.type.toNat == ftMgmt && (leAt f.payload 0 1 == 1 || leAt f.payload 0 1 == 2)

/-- Whether a link carries a flit: any once it is up; before START roll-call and timing flits (R246), of a module whose
roll call failed roll-call frames alone (R247); while it trains timing flits (R244). -/
def State.linkCarries (s : State) (l : Lnk) (f : Flit) : Bool :=
  match s.get LNK_STAT.STATE l with
  | 1 => isTiming f
  | 2 => f.hdr.type.toNat == ftRollCall || (isTiming f && s.get HUB_RC_STAT.STATE != 6)
  | 3 => true
  | _ => false

/-- Sends what may be sent of a list of waiting flits, in order within each virtual channel and class; answers what
keeps waiting. With `count`, every wait for a hedge counts (R290). A flit that leaves frees its receive buffer (R239). -/
def State.pumpList (s : State) (l : Lnk) (count : Bool) (blocked : List Nat) : List (Nat × Flit) → State × List (Nat × Flit)
  | [] => (s, [])
  | b :: t =>
    let f := b.2
    let i := credIx f
    let x := s.links[l]
    let stuck := blocked.contains i || x.credits.getD i 0 == 0 || decide (4096 ≤ x.unacked.length) ||
      !s.linkCarries l f
    match if stuck then none else s.flitHedge f with
    | some h =>
      if kget s.hub.hedge h 0 = 0 then
        let s := if count then s.liveAdd PROC_HEDGE_CNT.WAITS 1 (h / 16) (h % 16) else s
        let q := s.pumpList l count (i :: blocked) t
        (q.1, b :: q.2)
      else
        let s := s.modHub (fun u => { u with hedge := kput u.hedge h 0 (kget u.hedge h 0 - 1) })
        let s := s.liveAdd PROC_HEDGE_CNT.USED 1 (h / 16) (h % 16)
        ((s.transmit l f).returnCredit b.1).pumpList l count blocked t
    | none =>
      if stuck then
        let q := s.pumpList l count (i :: blocked) t
        (q.1, b :: q.2)
      else ((s.transmit l f).returnCredit b.1).pumpList l count blocked t

/-- Sends what a link may send. -/
def State.pump (s : State) (l : Lnk) (count : Bool) : State :=
  let q := s.pumpList l count [] s.links[l].waiting
  q.1.modLink l (fun x => { x with waiting := q.2 })

/-- Puts a flit on a link: sent at once, or kept waiting behind others of its channel and class. `buffer` is the receive
buffer it occupies, 512 for a flit of this module. -/
def State.enqueueFlit (s : State) (l : Lnk) (f : Flit) (buffer : Nat := 512) : State :=
  let behind := s.links[l].waiting.filterMap (fun g => if credIx g.2 = credIx f then some (credIx g.2) else none)
  let q := s.pumpList l true behind [(buffer, f)]
  q.1.modLink l (fun x => { x with waiting := x.waiting ++ q.2 })

/-- The next hop of a destination in the active table of a region (R251). -/
def State.routeOf (s : State) (r : Rgn) (dest : Nat) : Option (Lnk × Bool) :=
  let e := s.get (RGN_ROUTE.ENTRY (dest % 8)) r (s.get RGN_ROUTE_CTRL.ACTIVE r) (dest / 8)
  if bitsAt e 7 1 = 1 then some (⟨e % 32, Nat.mod_lt _ (by omega)⟩, bitsAt e 5 1 == 1) else none

/-- Routes a flit from a region; answers the code of the error otherwise (R251, R253). -/
def State.forward (s : State) (r : Rgn) (f : Flit) (buffer : Nat := 512) : State × Option Nat :=
  match s.routeOf r f.hdr.dest.toNat with
  | none => (s, some 1)
  | some (l, up) =>
    if s.get LNK_STAT.STATE l = 0 ∨ s.get LNK_STAT.STATE l = 4 then (s, some 7)
    else (s.enqueueFlit l { f with hdr := { f.hdr with cls := f.hdr.cls || up } } buffer, none)

/-- Whether an error frame may answer a flit (R253). -/
def answerable (h : FlitHdr) : Bool := !([ftIdle, ftNak, ftError].contains h.type.toNat) && h.vc != 7

/-- The error frame that answers a flit (Table 10.6). -/
def State.errorFlit (s : State) (code : Nat) (f : Flit) (detail : Nat) : Flit :=
  s.newFlit ftError 6 true f.hdr.src.toNat 0
    ([BitVec.ofNat 8 code, 0, 0, 0] ++ toLe 12 (hdrBits f.hdr) ++ toLe 4 f.crc.toNat ++ toLe 8 detail)

/-- Whether n bytes of the peer window from a DA on hold a byte of a peer. -/
def peerHolds (da n dest offset : Nat) : Bool :=
  spaceOf da == .peer && peerAddr da == dest && decide (peerOffset da ≤ offset) && decide (offset < peerOffset da + n)

/-- Whether an operand of a copy names a byte of a peer: among its elements or its scales (R90). -/
def namesPeer (d : Desc) (dest offset : Nat) : Bool :=
  peerHolds d.base d.span dest offset || (hasScale d.format && peerHolds d.scaleBase d.blocks dest offset)

/-- A copy command whose flit draws an error frame is reported failed at its commit (R253). -/
def State.failCopies (s : State) (h : FlitHdr) (detail : Nat) : State :=
  if h.type.toNat == ftWrite || h.type.toNat == ftReadReq then
    allRegions.foldl (fun s r =>
      if s.regionOfTag r h.tag.toNat then
        s.setCmds r (s.regions[r].cmds.map (fun e =>
          if e.issued && e.cmd.op / 16 == 6 && e.descs.any (fun d => namesPeer d.2 h.dest.toNat detail) then
            e.fail 6
          else e))
      else s) s
  else s

/-- A flit that arrives on a link before the module has received START is dropped and counted (R246). -/
def State.started (s : State) (l : Lnk) (run : State → State) : State :=
  if s.get HUB_RC_STAT.STATE = 5 then run s else s.bump LNK_RC.NONRC 1 l

/-- Discards a flit and answers it with an error frame (R253); an answer to the module itself fails its copy at once. -/
def State.refuseFlit (s : State) (arrival : Option Lnk) (r : Rgn) (f : Flit) (code detail : Nat) : State :=
  if !answerable f.hdr then
    if f.hdr.type.toNat == ftError then
      match arrival with
      | some l => s.bump LNK_RC.ERR_SENT 1 l
      | none => s
    else s
  else if f.hdr.src.toNat == s.addr then s.failCopies f.hdr detail
  else
    let s := match arrival with
      | some l => s.bump LNK_RC.ERR_SENT 1 l
      | none => s
    (s.forward r (s.errorFlit code f detail)).1

/-- Peer offset in the first bytes of a payload. -/
def payloadOffset (f : Flit) : Nat := leAt f.payload 0 6 % 2 ^ 44

/-- The DETAIL of an error frame about a flit. -/
def detailOf (f : Flit) : Nat :=
  if [ftWrite, ftReadReq, ftReadResp].contains f.hdr.type.toNat then payloadOffset f else 0

/-- Sends a flit of this module from a region. -/
def State.send (s : State) (r : Rgn) (f : Flit) : State :=
  match s.forward r f with
  | (t, none) => t
  | (t, some code) => t.refuseFlit none r f code (detailOf f)

/-- Sends several flits in order. -/
def State.sendAll (s : State) (r : Rgn) : List Flit → State
  | [] => s
  | f :: t => (s.send r f).sendAll r t

/-- The peer offset that names a DA of this module (R90). -/
def ownOffset (da : Nat) : Nat := if da < 0x18000000000 then da else 0x80000000000 + (da - 0x200000000000)

/-- Flits of WRITE or READ_RESP: up to 232 bytes each from an offset up (Table 10.2). -/
def State.dataFlits (s : State) (type vc dest tag offset : Nat) (bs : List Byte) : List Flit :=
  let ps := chunk 232 bs
  (List.range ps.length).map (fun i =>
    let p := ps.getD i []
    s.newFlit type vc (i + 1 == ps.length) dest tag (toLe 6 (offset + 232 * i) ++ toLe 2 p.length ++ p))

end Sys2Proof.Machine
end

