-- ==== Sys2Proof/Machine/Copy.lean ====
section
/-!
DEFINITION. Copy engines: COPY, COPY_T (R102, R104), DIGEST (R383), DESC_LOAD (R128), their traffic to the host window
and to peers (R90, R91, R337), and the service of a peer's requests (R90).
-/
namespace Sys2Proof.Machine

/-- The peer request in a WRITE, READ_REQ or READ_RESP flit (Table 10.2). -/
def requestOf (f : Flit) : PeerReq :=
  let read := f.hdr.type.toNat == ftReadReq
  { src := f.hdr.src, tag := f.hdr.tag, vc := f.hdr.vc, offset := BitVec.ofNat 48 (leAt f.payload 0 6)
    length := BitVec.ofNat 32 (if read then leAt f.payload 6 4 else min 232 (leAt f.payload 6 2))
    returnDA := BitVec.ofNat 64 (if read then leAt f.payload 10 6 else 0)
    data := if read then [] else (f.payload.drop 8).take (leAt f.payload 6 2) }

/-- Whether a space lies outside the module. -/
def isRemote (da : Nat) : Bool := spaceOf da == .host || spaceOf da == .peer

/-- Whether a command has an operand in the peer window. -/
def Ctx.hasPeer (x : Ctx) : Bool := x.c.uses.any (fun u => spaceOf (descOf x.ds (x.c.indexOf u)).base == .peer)

/-- PARAM of COPY and COPY_T (Table 5.8). A WRITE or READ_REQ travels on VC 0-5 (Table 10.2). -/
def copyParam (x : Ctx) : List Nat :=
  let vc := bitsAt x.c.w4 0 3
  bad (rsvSet x.c.w4 7 || x.c.w5 != 0 || x.c.w6 != 0 || x.c.w7 != 0 || (vc != 0 && !x.hasPeer) || 5 < vc) 0x0C

/-- Format rules of COPY (R102). -/
def copyCodes (x : Ctx) : List Nat :=
  let a := seqDesc x.rd (x.d 0 0)
  let y := seqDesc x.rd (x.d 2 0)
  copyParam x ++
  bad (a.format != y.format || a.blk != y.blk || a.count != y.count || (a.paged && a.rawSize 1 == 0) ||
    (y.paged && y.rawSize 1 == 0) ||
    (hasScale a.format && (a.dir != y.dir || a.size 0 != y.size 0 || (a.dir && a.size 1 != y.size 1)))) 4

/-- Format rules of COPY_T (R104). -/
def copyTCodes (x : Ctx) : List Nat :=
  let a := seqDesc x.rd (x.d 0 0)
  let y := seqDesc x.rd (x.d 2 0)
  copyParam x ++
  bad (a.format != y.format || a.format == fmtMask || a.size 0 != y.size 1 || a.size 1 != y.size 0 ||
    (a.paged && a.rawSize 1 == 0) || (y.paged && y.rawSize 1 == 0) || (List.range 5).any (fun k => 2 ≤ k && a.size k != y.size k) ||
    (hasScale a.format && (a.blk != y.blk || a.dir == y.dir))) 4

/-- The input element that output element n takes. -/
def copySource (op : Nat) (a y : Desc) (n : Nat) : Nat :=
  if op = 0x61 then a.linear (y.index n 1) (y.index n 0) (y.index n 2) (y.index n 3) (y.index n 4) else n

/-- The effect of a copy from a reader of its input: codes move, scales travel with their blocks. -/
def copyPosts (x : Ctx) (rd : Reader) : List Post :=
  let a := seqDesc rd (x.d 0 0)
  let y := seqDesc x.rd (x.d 2 0)
  x.out y (formCopy x.place x.key y (fun n => readCode rd a (copySource x.c.op a y n))
    (fun b => readScale rd a (a.blockOf (copySource x.c.op a y ((y.members b).headD 0)))))

/-- Digests needed for an extent of n bytes. -/
def digestTiles (n : Nat) : Nat := (n + 1048575) / 1048576

/-- Checks of DIGEST (R383). -/
def digestCodes (x : Ctx) : List Nat :=
  noneOf x ++ bad ((x.d 2 0).span < 8 * digestTiles (x.d 0 0).span) 0x0B
where
  /-- DIGEST has no PARAM. -/
  noneOf (x : Ctx) : List Nat := bad (x.c.param != 0) 0x0C

/-- The effect of DIGEST from a reader of its input: the bytes of its extent in ascending address order. R99 gives a PAGED
D0 no extent; the bytes from BASE that a LINEAR extent of its sizes has are digested (DESIGN CHOICE, log entry 55). -/
def digestPosts (x : Ctx) (rd : Reader) : List Post :=
  let a := x.d 0 0
  let bs := (List.range a.span).map (fun k => rd (a.base + k))
  bytePosts x.key (x.d 2 0).base ((tileDigests (digestTiles a.span) bs).flatMap (toLe 8))

/-- The effect of a copy-family command from a reader. -/
def copyFamilyPosts (x : Ctx) (rd : Reader) : List Post := if x.c.op = 0x62 then digestPosts x rd else copyPosts x rd

/-- Requests of a remote read: pieces of at most 2^30 bytes as (return DA, DA read, length). The return DA of a piece of
elements lies at the same distance from the output's BASE, of scales from its SCALE_BASE (log entry 31). -/
def readPieces : Nat → Nat → Nat → Nat → List (Nat × Nat × Nat)
  | 0, _, _, _ => []
  | f + 1, ret, lo, n =>
    if n = 0 then []
    else let m := min n (2 ^ 30); (ret, lo, m) :: readPieces f (ret + m) (lo + m) (n - m)

/-- All requests of a copy's input that lies outside the module: its elements and its scales, each where they lie. -/
def Ctx.remoteReads (x : Ctx) : List (Nat × Nat × Nat) :=
  let a := x.d 0 0
  let y := x.d 2 0
  (if isRemote a.base then readPieces (a.span / 2 ^ 30 + 1) y.base a.base a.span else []) ++
  (if hasScale a.format && x.c.op != 0x62 && isRemote a.scaleBase then
    readPieces (a.blocks / 2 ^ 30 + 1) y.scaleBase a.scaleBase a.blocks
   else [])

/-- Those to the host window, and those to peers. -/
def Ctx.hostReads (x : Ctx) : List (Nat × Nat × Nat) := x.remoteReads.filter (fun a => spaceOf a.2.1 == .host)
def Ctx.peerReads (x : Ctx) : List (Nat × Nat × Nat) := x.remoteReads.filter (fun a => spaceOf a.2.1 == .peer)

/-- Bytes of a list of requests. -/
def readTotal (rs : List (Nat × Nat × Nat)) : Nat := rs.foldl (fun n x => n + x.2.2) 0

/-- The effect of a copy-family command at issue: formed at once from the module's memories, or once the bytes from
outside have come. -/
def copyEffect (x : Ctx) : Effect :=
  if x.remoteReads.isEmpty then { posts := copyFamilyPosts x x.rd }
  else { posts := [], work := .remote (readTotal x.hostReads) [] x.peerReads [] }

/-- The issue context of an entry that has issued. -/
def Entry.ctx (e : Entry) (s : State) (r : Rgn) (p : Prt) : Ctx := { s := s, r := r, p := p, e := e, ds := e.descs }

/-- Bytes of a run of host reads by DA. -/
def hostByte : List (Nat × Nat × Nat) → List Byte → Nat → Byte
  | [], _, _ => 0
  | (_, lo, n) :: t, got, da => if lo ≤ da ∧ da < lo + n then got.getD (da - lo) 0 else hostByte t (got.drop n) da

/-- A reader of the module's bytes and of those that have come from outside. -/
def Entry.remoteReader (e : Entry) (x : Ctx) : Reader :=
  match e.work with
  | .remote _ hostGot _ peerGot => fun da =>
    match spaceOf da with
    | .host => hostByte x.hostReads hostGot da
    | .peer => BitVec.ofNat 8 (kget peerGot da 0)
    | _ => x.rd da
  | _ => x.rd

/-- Function of a partition on PCIe (R287). -/
def vfOf (p : Prt) : Nat := p.val + 1

/-- Sends the part of an issued copy's output that leaves the module: host writes and WRITE flits (R90, R91). -/
def State.sendOutputs (s : State) (r : Rgn) (p : Prt) (e : Entry) : State :=
  let away := e.posts.filterMap (fun q => match q with
    | .bytes key bs => if isRemote key then some (key, bs) else none
    | _ => none)
  if away.isEmpty then s
  else
    let keep := e.posts.filter (fun q => match q with | .bytes key _ => !isRemote key | _ => true)
    let s := s.setCmds r (replaceEntry (fun y => y.eng == e.eng && y.ord == e.ord && y.issued) { e with posts := keep }
      s.regions[r].cmds)
    if e.cmd.shadow then s
    else
      let tag := s.get PROC_PART_CFG.JOB_TAG p
      away.foldl (fun s a =>
        if spaceOf a.1 = .host then s.emit (.hostWrite (vfOf p) (a.1 - 0x400000000000) a.2)
        else s.sendAll r (s.dataFlits ftWrite (bitsAt e.cmd.w4 0 3) (peerAddr a.1) tag (peerOffset a.1) a.2)) s

/-- Sends the requests of an issued copy's remote input. -/
def State.sendReads (s : State) (r : Rgn) (p : Prt) (e : Entry) : State :=
  match e.work with
  | .remote _ _ peers _ =>
    let s := (e.ctx s r p).hostReads.foldl (fun s a => s.emit (.hostRead (vfOf p) (a.2.1 - 0x400000000000) a.2.2)) s
    let tag := s.get PROC_PART_CFG.JOB_TAG p
    s.sendAll r (peers.map (fun a => s.newFlit ftReadReq (bitsAt e.cmd.w4 0 3) true (peerAddr a.2.1) tag
      (toLe 6 (peerOffset a.2.1) ++ toLe 4 a.2.2 ++ toLe 6 a.1)))
  | _ => s

/-- Issue of a copy-family command with what its engine's checks find and what it sends. -/
def State.issueCopy (s : State) (r : Rgn) (k op : Nat) (codes : Ctx → List Nat) (run : Ctx → Effect) (y : EngCheck) :
    State :=
  let e := 31 + k
  let t := (s.issue r e op unitFree Ctx.plainRanges codes run).checkBlock r e s.ticket y
  match t.issuedEntry r e s.ticket, t.partOf r with
  | some en, some p => if en.failed then t else (t.sendOutputs r p en).sendReads r p en
  | _, _ => t

/-- COPY. -/
def execCopy (r : Rgn) (k : Fin 8) (x : EngCheck) (s : State) : Host.Outcome State Fault Refusal :=
  .next (s.issueCopy r k.val 0x60 copyCodes copyEffect x)

/-- COPY_T. -/
def execCopyT (r : Rgn) (k : Fin 8) (x : EngCheck) (s : State) : Host.Outcome State Fault Refusal :=
  .next (s.issueCopy r k.val 0x61 copyTCodes copyEffect x)

/-- DIGEST. -/
def execDigest (r : Rgn) (k : Fin 8) (x : EngCheck) (s : State) : Host.Outcome State Fault Refusal :=
  .next (s.issueCopy r k.val 0x62 digestCodes copyEffect x)

/-- Checks of DESC_LOAD (Table 5.8). -/
def descLoadCodes (x : Ctx) : List Nat :=
  let first := bitsAt x.c.w4 0 12
  let count := bitsAt x.c.w4 12 13
  let a := x.d 0 0
  bad (rsvSet x.c.w4 0x1FFFFFF || x.c.w5 != 0 || x.c.w6 != 0 || x.c.w7 != 0 || count == 0 || 4096 < first + count) 0x0C ++
  bad (!inSram x.r a.base (a.base + a.span)) 6 ++ bad (a.span < 64 * count) 0x0B

/-- The effect of DESC_LOAD: descriptors FIRST and on take the images (R128). -/
def descLoadEffect (x : Ctx) : Effect :=
  let first := bitsAt x.c.w4 0 12
  { posts := (List.range (bitsAt x.c.w4 12 13)).flatMap (fun i => (List.range 8).map (fun w =>
      .field RGN_DESC.WORD x.r (first + i) w
        (ofLe ((List.range 8).map (fun b => x.rd ((x.d 0 0).base + 64 * i + 8 * w + b)))))) }

/-- DESC_LOAD. -/
def execDescLoad (r : Rgn) (k : Fin 8) (x : EngCheck) (s : State) : Host.Outcome State Fault Refusal :=
  .next (s.issueCopy r k.val 0x63 descLoadCodes descLoadEffect x)

/-- Forms the effect of a copy once all its bytes have come. -/
def State.finishRemote (s : State) (r : Rgn) (p : Prt) (e : Entry) : State :=
  if e.work.done && !e.failed then
    let x := e.ctx s r p
    let e := { e with posts := copyFamilyPosts x (e.remoteReader x) }
    (s.putEntry r e).sendOutputs r p e
  else s.putEntry r e

/-- COMPLETION (R337): data of a host-window read, or a status of UR (1) or CA (4) that fails the copy. -/
def State.completion (s : State) (r : Rgn) (k status : Nat) (bs : List Byte) : State :=
  match s.partOf r, s.regions[r].cmds.find? (fun e => e.eng == 31 + k && e.issued) with
  | some p, some e =>
    match e.work with
    | .remote need got peers peerGot =>
      if got.length < need then
        if status = 1 ∨ status = 4 then s.putEntry r (e.fail 6)
        else if status = 0 then s.finishRemote r p { e with work := .remote need ((got ++ bs).take need) peers peerGot }
        else s
      else s
    | _ => s
  | _, _ => s
def execCompletion (r : Rgn) (k : Fin 8) (status : BitVec 3) (bs : List Byte) (s : State) :
    Host.Outcome State Fault Refusal := .next (s.completion r k.val status.toNat bs)

/-- The part of a peer's response that answers requests to it, as (DA read, byte) pairs. -/
def answers (need : List (Nat × Nat × Nat)) (src offset : Nat) (bs : List Byte) : List (Nat × Byte) :=
  need.flatMap (fun a =>
    let lo := ownOffset a.1 % 2 ^ 44
    if peerAddr a.2.1 = src ∧ lo ≤ offset ∧ offset + bs.length ≤ lo + a.2.2 then
      (List.range bs.length).map (fun i => (a.2.1 + (offset - lo) + i, bs.getD i 0))
    else [])

/-- Whether a copy waits for a response of a tag. -/
def Entry.awaits (e : Entry) (src offset : Nat) (bs : List Byte) : Bool :=
  match e.work with
  | .remote _ _ peers _ => e.issued && !(answers peers src offset bs).isEmpty
  | _ => false

/-- READ_RESP (R90): the data reach the copy command that asked for them, and with its commit the return DA. -/
def State.readResp (s : State) (f : Flit) : State :=
  let q := requestOf f
  if s.torn q.tag.toNat then s.discardTorn q.tag.toNat
  else allRegions.foldl (fun s r =>
    if s.regionOfTag r q.tag.toNat then
      match s.partOf r, s.regions[r].cmds.find? (fun e => e.awaits q.src.toNat q.offset.toNat q.data) with
      | some p, some e => match e.work with
        | .remote host hostGot peers got =>
          let got := (answers peers q.src.toNat q.offset.toNat q.data).foldl (fun m a => kset m a.1 a.2.toNat) got
          s.finishRemote r p { e with work := .remote host hostGot peers got }
        | _ => s
      | _, _ => s
    else s) s
def execReadResp (l : Lnk) (f : Flit) (s : State) : Host.Outcome State Fault Refusal :=
  .next (s.started l (fun s => if f.hdr.type.toNat = ftReadResp then s.readResp f else s))

/-- The refusal of a peer request for [offset, offset + n): none when the bytes may be served (R90, R107, R302). -/
def State.peerRefusal (s : State) (tag offset n : Nat) : Option Nat :=
  match peerTarget offset, peerTarget (offset + n - 1) with
  | some lo, some last =>
    match spaceOf lo, spaceOf last with
    | .stack, .stack =>
      if tag != 0 && s.ownsRange false tag lo (last + 1) then none else some 2
    | .sram i, .sram j =>
      if i != j then some 3
      else if s.regionOfTag ⟨i % 4, Nat.mod_lt _ (by omega)⟩ tag then none else some 2
    | _, _ => some 3
  | _, _ => some 3

/-- A WRITE or READ_REQ is served (R90): the bytes are stored, or go back in READ_RESP flits to the return DA, when the
tag may reach them; else it is refused. -/
def State.servePeer (s : State) (l : Lnk) (f : Flit) : State :=
  let q := requestOf f
  let o := q.offset.toNat % 2 ^ 44
  let n := q.length.toNat
  if n = 0 then s
  else match s.peerRefusal q.tag.toNat o n, peerTarget o with
  | none, some da =>
    if f.hdr.type.toNat = ftWrite then s.postAll (linkRegion l) (bytePosts s.phys da q.data)
    else
      let bs := (List.range n).map (fun i => readOpen s.mem s.openOuts (s.phys (da + i)))
      s.sendAll (linkRegion l)
        (s.dataFlits ftReadResp q.vc.toNat q.src.toNat q.tag.toNat (ownOffset q.returnDA.toNat % 2 ^ 44) bs)
  | some code, _ => s.refuseFlit (some l) (linkRegion l) f code o
  | _, _ => s

/-- The stack lines that serving a request moves under the hedges of the partition that runs its tag (R289): none for a
request that is refused. -/
def State.peerNeeds (s : State) (f : Flit) : Option (Prt × List (Nat × Nat × Nat)) :=
  let q := requestOf f
  let o := q.offset.toNat % 2 ^ 44
  let n := q.length.toNat
  match s.peerRefusal q.tag.toNat o n, peerTarget o, s.partOfTag q.tag.toNat with
  | none, some da, some p => if spaceOf da = .stack then some (p, stackNeeds da (da + n)) else none
  | _, _, _ => none

/-- Whether an earlier request of the same source and channel waits (R238). -/
def behindPeer (held : List PeerHeld) (f : Flit) : Bool :=
  held.any (fun h => h.flit.hdr.src == f.hdr.src && h.flit.hdr.vc == f.hdr.vc)

/-- Serves a request once the hedges have let its stack lines pass (R290); until then it waits in its receive buffer.
`held` are the requests before it that still wait. After a teardown a WRITE of the tag is discarded and counted (R302). -/
def State.peerStep (s : State) (held : List PeerHeld) (l : Lnk) (buffer : Nat) (f : Flit)
    (needs : Option (List (Nat × Nat × Nat))) : State × List PeerHeld :=
  if f.hdr.type.toNat = ftWrite ∧ s.torn f.hdr.tag.toNat then
    ((s.discardTorn f.hdr.tag.toNat).returnCredit buffer, held)
  else match s.peerNeeds f with
  | none => ((s.servePeer l f).returnCredit buffer, held)
  | some (p, all) =>
    let rs := needs.getD all
    if behindPeer held f then (s, held ++ [⟨l, buffer, f, rs⟩])
    else
      let t := s.takeHedge p rs
      if t.2.isEmpty then ((t.1.servePeer l f).returnCredit buffer, held) else (t.1, held ++ [⟨l, buffer, f, t.2⟩])

/-- A WRITE or READ_REQ arrives in a receive buffer, 512 for none. -/
def State.peerRequest (s : State) (l : Lnk) (buffer : Nat) (f : Flit) : State :=
  let t := s.peerStep s.hub.peerWait l buffer f none
  t.1.modHub (fun h => { h with peerWait := t.2 })

/-- Waiting requests at a bell, after the hedges are refilled. -/
def State.peerBell (s : State) : State :=
  let t := s.hub.peerWait.foldl (fun (t : State × List PeerHeld) h =>
    t.1.peerStep t.2 h.link h.buffer h.flit (some h.needs)) (s, [])
  t.1.modHub (fun h => { h with peerWait := t.2 })

/-- WRITE; another TYPE is not this event (log entry 5). -/
def execWrite (l : Lnk) (f : Flit) (s : State) : Host.Outcome State Fault Refusal :=
  .next (s.started l (fun s => if f.hdr.type.toNat = ftWrite then s.peerRequest l 512 f else s))

/-- READ_REQ. -/
def execReadReq (l : Lnk) (f : Flit) (s : State) : Host.Outcome State Fault Refusal :=
  .next (s.started l (fun s => if f.hdr.type.toNat = ftReadReq then s.peerRequest l 512 f else s))

end Sys2Proof.Machine
end

