-- ==== Sys2Proof/Machine/Flags.lean ====
section
/-!
DEFINITION. The flags of a region: the 256 sticky poison flags, the hold flag and the fallback flag (R45, Table 5.4),
and the votes that a module reports (R37, R38, R270).
-/
namespace Sys2Proof.Machine

/-- Whether a poison flag of a region is set. -/
def State.poisonFlag (s : State) (r : Rgn) (g : Nat) : Bool := s.regions[r].poison.getLsbD g

/-- Clears one poison flag (R126). -/
def State.clearPoisonFlag (s : State) (r : Rgn) (g : Nat) : State :=
  s.modRegion r (fun x => { x with poison := x.poison &&& ~~~(1#256 <<< g) })

/-- Clears all poison flags. -/
def State.clearPoisonAll (s : State) (r : Rgn) : State := s.modRegion r (fun x => { x with poison := 0 })

/-- ORs a vote into the poison flags of every region (R45). -/
def State.votePoison (s : State) (v : BitVec 256) : State :=
  allRegions.foldl (fun s r => s.modRegion r (fun x => { x with poison := x.poison ||| v })) s

/-- Notes a poisoned block delivered for a group: it goes into the next report (R37, R270). -/
def State.notePoison (s : State) (g : Nat) : State :=
  s.modHub (fun h => { h with poisonRecv := h.poisonRecv ||| (1#256 <<< g) })

/-- The flag that BFLAG and BNFLAG name; none for a reserved one (Table 5.4). -/
def State.branchFlag (s : State) (r : Rgn) (f : Nat) : Option Bool :=
  if f < 256 then some (s.poisonFlag r f)
  else if f = 256 then some (s.bit RGN_SEQ_STAT.HOLD_FLAG r)
  else if f = 257 then some (s.bit RGN_SEQ_STAT.FALLBACK r)
  else none

end Sys2Proof.Machine
end

