-- ==== Sys2Proof/Machine/Pointwise.lean ====
section
/-!
DEFINITION. Pointwise engines: PW_MAP, PW_NORM, PW_DROPOUT, PW_MASK, PW_REDUCE, PW_CONVERT (R190-R197), with the
merge and finish of cross-entropy states (R201, R202).
-/
namespace Sys2Proof.Machine

/-- PARAM of the pointwise family (Table 8.5). -/
def pwSel (c : Cmd) : Nat := bitsAt c.w4 0 8
def pwDim (c : Cmd) : Bool := flag c.w4 8
def pwAux (c : Cmd) : Bool := flag c.w4 9
def pwBias (c : Cmd) : Bool := flag c.w4 10
def pwGain (c : Cmd) : Bool := flag c.w4 11
def pwA (c : Cmd) : Num := ofBits32 c.word5
def pwB (c : Cmd) : Num := ofBits32 c.word6

/-- Descriptors of a command's inputs, and of its outputs. -/
def Ctx.side (x : Ctx) (out : Bool) : List Desc :=
  (x.c.uses.filter (fun u => u.out == out)).map (fun u => descOf x.ds (x.c.indexOf u))

/-- Whether two descriptors have the same sizes. -/
def sameSizes (a b : Desc) : Bool := (List.range 5).all (fun k => a.size k == b.size k)

/-- Block size and sharing direction of a block-scaled input must be those of a block-scaled output (R197). -/
def pwScaleCodes (x : Ctx) : List Nat :=
  bad ((x.side true).any (fun o => isScaled o.format && (x.side false).any (fun i =>
    isScaled i.format && (i.blk != o.blk || i.dir != o.dir)))) 4

/-- Bits of PARAM that a pointwise opcode does not use (Table 8.5). -/
def pwParam (x : Ctx) (mask4 mask5 mask6 : Nat) : List Nat :=
  bad (rsvSet x.c.w4 mask4 || rsvSet x.c.w5 mask5 || rsvSet x.c.w6 mask6 || x.c.w7 != 0) 0x0C

/-- All bits of a word. -/
def allBits : Nat := 2 ^ 32 - 1

/-- Every named operand carries the sizes of D2 (R190). -/
def pwSizes (x : Ctx) : List Nat :=
  bad (!(x.side false ++ x.side true).all (fun d => sameSizes d (x.d 2 0))) 0x0B

/-- Counts of a pointwise command (R208). -/
def pwCounts (x : Ctx) (elements rows : Nat) : List Post :=
  [.live PE_CNT.ELEMENTS x.r (x.e.eng - 24) 0 elements, .live PE_CNT.ROWS x.r (x.e.eng - 24) 0 rows]

/-- Elementwise functions of Table 8.4. At an infinite x the formula is evaluated as IEEE 754 has it (R192): sigma, the
normal distribution and tanh have their limits there, so x * sigma(x) is NaN at -infinity, a zero times an infinity; the
derivatives are 1 and 0 (DEDUCED, log entry 10). -/
def pwFunc (f : Nat) (x y g a b : Num) : Acc32 :=
  match f with
  | 0x00 => Acc32.round (x.add y)
  | 0x01 => Acc32.round (x.sub y)
  | 0x02 => Acc32.round (x.mul y)
  | 0x03 => axpby a x b y
  | 0x04 => Acc32.round (x.max y)
  | 0x05 => Acc32.round (x.min y)
  | 0x06 => Acc32.round ((a.mul x).add b)
  | 0x07 => Acc32.round x.abs
  | 0x08 => Acc32.round (x.max .zero)
  | 0x09 => unary 0x09 4 x geluRef (.inf false) .nan
  | 0x0A => unary 0x0A 4 x geluTanhRef (.inf false) .nan
  | 0x0B => unary 0x0B 4 x siluRef (.inf false) .nan
  | 0x0C => scaled 0x0C 4 x [y] y siluRef (.inf false) .nan
  | 0x0D => sigmoid32 x
  | 0x0E => tanh32 x
  | 0x0F => exp32 x
  | 0x10 => log32 x
  | 0x11 => rsqrt32 x
  | 0x12 => recip32 x
  | 0x13 => Acc32.round (x.mul x)
  | 0x20 => scaled 0x20 8 x [y] y geluDeriv .one .zero
  | 0x21 => scaled 0x21 8 x [y] y geluTanhDeriv .one .zero
  | 0x22 => scaled 0x22 8 x [y] y siluDeriv .one .zero
  | 0x23 => scaled 0x23 8 x [y, g] (y.mul g) siluDeriv .one .zero
  | _ => scaled 0x24 4 x [y] y siluRef (.inf false) .nan

/-- A finite value as an integer, if it is one. -/
def asInt : Num → Option Int
  | .fin s m e =>
    let v : Option Int := if 0 ≤ e then some (m * 2 ^ e.toNat : Nat)
      else if m % 2 ^ (-e).toNat = 0 then some (m / 2 ^ (-e).toNat : Nat) else none
    if s then v.map (- ·) else v
  | _ => none

/-- 2^(a - b) for a ≤ b as a factor; beyond 2^-1000 the factor is as good as any smaller one for one rounding. -/
def powFactor (a b : Int) : Num := .fin false 1 (max (a - b) (-1000))

/-- A state of the streaming cross-entropy in FP32 (R201). -/
structure XentRow where
  ex : Num
  l : Acc32
  zt : Acc32

/-- XENT_MERGE (R202). E holds whole numbers in every state that the VE writes; other values have no stated power. -/
def xentMerge (a b : XentRow) : XentRow :=
  let zt := Acc32.of (a.zt.val.max b.zt.val)
  if a.ex.isNan || b.ex.isNan then { ex := .nan, l := Acc32.of .nan, zt := zt }
  else
    { ex := a.ex.max b.ex, zt := zt
      l := match asInt a.ex, asInt b.ex with
        | some i, some j => aLin (powFactor i (max i j)) a.l (powFactor j (max i j)) b.l
        | _, _ => unstated 0x30 [a.ex, a.l.val, b.ex, b.l.val] }

/-- The value that E and zt start from: 0xFF7F_FFFF. -/
def xentInitial : Num := .fin true 0xFFFFFF 104

/-- xent_finish (R201): loss and log-sum-exp. -/
def xentFinish (a : XentRow) (tgt : Int) : Acc32 × Acc32 :=
  match a.ex with
  | .fin .. =>
    let lse : Acc32 := { a.l with val := if a.l.val.isZero then .fin false 0xFFFFFF 104 else lseOf a.ex a.l.val }
    (if tgt < 0 ∨ a.zt.val.eqv xentInitial then Acc32.of .zero else aSub lse a.zt, lse)
  | _ => (Acc32.of .nan, Acc32.of .nan)

/-- The state row in a tensor whose dimension 0 has size 3. -/
def xentRow (rd : Reader) (d : Desc) (row : Nat) : XentRow :=
  { ex := readElem rd d (3 * row), l := Acc32.of (readElem rd d (3 * row + 1)), zt := Acc32.of (readElem rd d (3 * row + 2)) }

/-- Checks of PW_MAP (R192, R202). -/
def pwMapCodes (x : Ctx) : List Nat :=
  let f := pwSel x.c
  let y := x.d 2 0
  pwParam x 0xFF allBits allBits ++ bad (!pwListed f) 0x0C ++ pwScaleCodes x ++
  (if f = 0x30 then pwSizes x ++ bad (y.size 0 != 3) 0x0B
   else if f = 0x31 then
    bad (y.size 0 != 2 || (x.d 0 0).size 0 != 3 || (x.d 0 0).count != y.count / 2 * 3 ||
      (x.d 1 0).count != y.count / 2) 0x0B ++ bad ((x.d 1 0).format != fmtINT32) 5
   else if pwListed f then pwSizes x else [])

/-- The effect of PW_MAP. -/
def pwMapEffect (x : Ctx) : Effect :=
  let f := pwSel x.c
  let rd := x.rd
  let y := x.d 2 0
  let val (n : Nat) : Acc32 :=
    if f = 0x30 then
      let m := xentMerge (xentRow rd (x.d 0 0) (n / 3)) (xentRow rd (x.d 1 0) (n / 3))
      match n % 3 with
      | 0 => Acc32.round m.ex
      | 1 => m.l
      | _ => Acc32.round m.zt.val
    else if f = 0x31 then
      let t := xentFinish (xentRow rd (x.d 0 0) (n / 2)) (idAt rd (x.d 1 0) (n / 2))
      if n % 2 = 0 then t.1 else t.2
    else
      let opt (b off : Nat) : Num := if x.uses b off then readElem rd (x.d b off) n else .zero
      pwFunc f (readElem rd (x.d 0 0) n) (opt 1 0) (opt 0 1) (pwA x.c) (pwB x.c)
  { posts := x.form y val ++ pwCounts x y.count 0 }

/-- PW_MAP. -/
def execPwMap (r : Rgn) (k : Fin 4) (x : EngCheck) (s : State) : Host.Outcome State Fault Refusal :=
  .next ((s.issue r (24 + k.val) 0x40 unitFree Ctx.plainRanges pwMapCodes pwMapEffect).checkBlock r (24 + k.val) s.ticket x)

/-- Pairs of neighbours summed: one level of the tree (R195). -/
def pairUp : List Acc32 → List Acc32
  | a :: b :: t => aAdd a b :: pairUp t
  | t => t

/-- n levels of the tree. -/
def treeSum : Nat → List Acc32 → List Acc32
  | 0, l => l
  | n + 1, l => treeSum n (pairUp l)

/-- The dimension-0 sum (R195): 512 lanes, then nine levels. An unused lane adds nothing. -/
def laneSum (ts : List Acc32) : Acc32 :=
  let lane (k : Nat) : Acc32 := (List.range ((ts.length + 511 - k) / 512)).foldl
    (fun a j => aAdd a (ts.getD (k + 512 * j) (aOf .zero))) (Acc32.of (.fin true 0 0))
  ((treeSum 9 ((List.range 512).map lane)).head?).getD (Acc32.of .zero)

/-- The dimension-1 sum: ascending. -/
def lineSum (ts : List Num) : Acc32 := ts.foldl Acc32.add (Acc32.of (.fin true 0 0))

/-- norm_fwd (R193): outputs, mean and reciprocal deviation of a row, every operation rounded, each mark handed on to what
its value feeds (R73). -/
def normFwd (x g b : List Num) (rms : Bool) (eps : Num) : List Acc32 × Acc32 × Acc32 :=
  let invh := div32 .one (.fin false x.length 0)
  let mu := if rms then aOf .zero else aMul (laneSum (x.map aOf)) invh
  let dev (a : Num) : Acc32 := aSub (aOf a) mu
  let v := aMul (laneSum (x.map (fun a => aMul (dev a) (dev a)))) invh
  let rho := aRsqrt (aAdd v (aOf eps))
  ((x.zip (g.zip b)).map (fun t => aAdd (aMul (aMul (dev t.1) rho) (aOf t.2.1)) (aOf t.2.2)), mu, rho)

/-- norm_bwd: the data gradient of a row. -/
def normBwd (x dy g : List Num) (mu rho : Num) (rms : Bool) : List Acc32 :=
  let invh := div32 .one (.fin false x.length 0)
  let xh := x.map (fun a => aMul (aSub (aOf a) (aOf mu)) (aOf rho))
  let gd := (g.zip dy).map (fun t => aMul (aOf t.1) (aOf t.2))
  let a1 := if rms then aOf .zero else aMul (laneSum gd) invh
  let a2 := aMul (laneSum ((gd.zip xh).map (fun t => aMul t.1 t.2))) invh
  (gd.zip xh).map (fun t => aMul (aOf rho) (aSub (aSub t.1 a1) (aMul t.2 a2)))

/-- Checks of PW_NORM (R193). -/
def pwNormCodes (x : Ctx) : List Nat :=
  let m := pwSel x.c
  let y := x.d 2 0
  let st := if m < 2 then x.d 2 1 else x.d 0 1
  let row := [x.d 0 0] ++ (if x.uses 1 0 then [x.d 1 0] else []) ++ (if x.uses 1 1 then [x.d 1 1] else [])
  pwParam x 0xCFF allBits 0 ++ bad (4 ≤ m || (pwBias x.c && m != 0)) 0x0C ++ pwScaleCodes x ++
  bad (32768 < y.size 0 || !row.all (fun d => sameSizes d y) || st.size 0 != 2 ||
    st.count != 2 * (y.count / y.size 0)) 0x0B ++
  bad (st.format != fmtFP32) 5

/-- The effect of PW_NORM. -/
def pwNormEffect (x : Ctx) : Effect :=
  let rd := x.rd
  let y := x.d 2 0
  let h := y.size 0
  let rows := y.count / h
  let line (d : Desc) (i : Nat) : List Num := (List.range h).map (fun k => readElem rd d (i * h + k))
  let opt (on : Bool) (d : Desc) (v : Num) (i : Nat) : List Num := if on then line d i else List.replicate h v
  let pick (t : List (List Acc32)) (n : Nat) : Acc32 := (t.getD (n / h) []).getD (n % h) (Acc32.of .zero)
  if pwSel x.c < 2 then
    let rms := pwSel x.c == 1
    let t := (List.range rows).map (fun i =>
      normFwd (line (x.d 0 0) i) (opt (pwGain x.c) (x.d 1 0) .one i) (opt (pwBias x.c) (x.d 1 1) .zero i) rms (pwA x.c))
    { posts := x.form y (pick (t.map (·.1))) ++
        x.form (x.d 2 1) (fun n => match t[n / 2]? with
          | some q => if n % 2 = 0 then q.2.1 else q.2.2
          | none => Acc32.of .zero) ++ pwCounts x y.count rows }
  else
    let rms := pwSel x.c == 3
    let t := (List.range rows).map (fun i =>
      normBwd (line (x.d 0 0) i) (line (x.d 1 0) i) (opt (pwGain x.c) (x.d 1 1) .one i)
        (readElem rd (x.d 0 1) (2 * i)) (readElem rd (x.d 0 1) (2 * i + 1)) rms)
    { posts := x.form y (pick t) ++ pwCounts x y.count rows }

/-- PW_NORM. -/
def execPwNorm (r : Rgn) (k : Fin 4) (x : EngCheck) (s : State) : Host.Outcome State Fault Refusal :=
  .next ((s.issue r (24 + k.val) 0x41 unitFree Ctx.plainRanges pwNormCodes pwNormEffect).checkBlock r (24 + k.val) s.ticket x)

/-- Checks and effect of PW_DROPOUT (R194). -/
def pwDropoutCodes (x : Ctx) : List Nat :=
  pwParam x 0x200 allBits allBits ++ pwScaleCodes x ++ pwSizes x ++
  bad (pwAux x.c && (x.d 2 1).format != fmtMask) 5
def pwDropoutEffect (x : Ctx) : Effect :=
  let y := x.d 2 0
  let keep (n : Nat) : Bool := decide (x.c.w5 ≤ x.u32 y 1 n)
  { posts := x.form y (fun n => Acc32.round ((readElem x.rd (x.d 0 0) n).mul (if keep n then pwB x.c else .zero))) ++
      (if pwAux x.c then x.form (x.d 2 1) (fun n => Acc32.of (if keep n then .one else .zero)) else []) ++
      pwCounts x y.count 0 }

/-- PW_DROPOUT. -/
def execPwDropout (r : Rgn) (k : Fin 4) (x : EngCheck) (s : State) : Host.Outcome State Fault Refusal :=
  .next ((s.issue r (24 + k.val) 0x42 unitFree Ctx.plainRanges pwDropoutCodes pwDropoutEffect).checkBlock r (24 + k.val) s.ticket x)

/-- The comparison of PW_MASK (R196). -/
def pwCompare (m : Nat) (x y a : Num) : Bool :=
  match m with
  | 0 => a.lt x
  | 1 => a.le x
  | 2 => x.cmp a == some .lt || x.cmp a == some .gt
  | 3 => x.abs.le a
  | _ => y.lt x

/-- Checks and effect of PW_MASK. -/
def pwMaskCodes (x : Ctx) : List Nat :=
  pwParam x 0x2FF allBits 0 ++ bad (5 ≤ pwSel x.c) 0x0C ++ pwScaleCodes x ++ pwSizes x
def pwMaskEffect (x : Ctx) : Effect :=
  let y := x.d 2 0
  let v (n : Nat) : Num := readElem x.rd (x.d 0 0) n
  let hold (n : Nat) : Bool :=
    pwCompare (pwSel x.c) (v n) (if x.uses 1 0 then readElem x.rd (x.d 1 0) n else .zero) (pwA x.c)
  { posts := x.form y (fun n => Acc32.of (if hold n then .one else .zero)) ++
      (if pwAux x.c then x.form (x.d 2 1) (fun n => if hold n then Acc32.round (v n) else Acc32.of .zero) else []) ++
      pwCounts x y.count 0 }

/-- PW_MASK. -/
def execPwMask (r : Rgn) (k : Fin 4) (x : EngCheck) (s : State) : Host.Outcome State Fault Refusal :=
  .next ((s.issue r (24 + k.val) 0x43 unitFree Ctx.plainRanges pwMaskCodes pwMaskEffect).checkBlock r (24 + k.val) s.ticket x)

/-- Checks of PW_REDUCE (R195). -/
def pwReduceCodes (x : Ctx) : List Nat :=
  let a := x.d 0 0
  let y := x.d 2 0
  let dim := if pwDim x.c then 1 else 0
  pwParam x 0x1FF 0 0 ++ bad (6 ≤ pwSel x.c) 0x0C ++ pwScaleCodes x ++
  bad (!(List.range 5).all (fun k => y.size k == if k = dim then 1 else a.size k) ||
    (pwSel x.c == 5 && !sameSizes (x.d 1 0) a)) 0x0B

/-- One line of a reduction. -/
def reduceLine (op : Nat) (dim1 : Bool) (x y : List Num) : Acc32 :=
  let sum (ts : List Num) : Acc32 := if dim1 then lineSum ts else laneSum (ts.map aOf)
  let best (f : Num → Num → Num) (ts : List Num) : Acc32 := match ts with
    | [] => Acc32.of .zero
    | a :: t => Acc32.round (t.foldl f a)
  match op with
  | 0 => sum x
  | 1 => sum (x.map (fun a => a.mul a))
  | 2 => best Num.max x
  | 3 => best Num.min x
  | 4 => best Num.max (x.map Num.abs)
  | _ => sum ((x.zip y).map (fun t => t.1.mul t.2))

/-- The effect of PW_REDUCE. -/
def pwReduceEffect (x : Ctx) : Effect :=
  let a := x.d 0 0
  let y := x.d 2 0
  let line (d : Desc) (n : Nat) : List Num :=
    if pwDim x.c then (List.range (a.size 1)).map (fun k =>
      readElem x.rd d (d.linear (y.index n 0) k (y.index n 2) (y.index n 3) (y.index n 4)))
    else (List.range (a.size 0)).map (fun k => readElem x.rd d (n * a.size 0 + k))
  { posts := x.form y (fun n => reduceLine (pwSel x.c) (pwDim x.c) (line a n)
        (if pwSel x.c = 5 then line (x.d 1 0) n else [])) ++ pwCounts x y.count y.count }

/-- PW_REDUCE. -/
def execPwReduce (r : Rgn) (k : Fin 4) (x : EngCheck) (s : State) : Host.Outcome State Fault Refusal :=
  .next ((s.issue r (24 + k.val) 0x44 unitFree Ctx.plainRanges pwReduceCodes pwReduceEffect).checkBlock r (24 + k.val) s.ticket x)

/-- Checks and effect of PW_CONVERT (R197). -/
def pwConvertCodes (x : Ctx) : List Nat := pwParam x 0 0 0 ++ pwSizes x
def pwConvertEffect (x : Ctx) : Effect :=
  let y := x.d 2 0
  { posts := x.form y (fun n => Acc32.of (readElem x.rd (x.d 0 0) n)) ++ pwCounts x y.count 0 }

/-- PW_CONVERT. -/
def execPwConvert (r : Rgn) (k : Fin 4) (x : EngCheck) (s : State) : Host.Outcome State Fault Refusal :=
  .next ((s.issue r (24 + k.val) 0x45 unitFree Ctx.plainRanges pwConvertCodes pwConvertEffect).checkBlock r (24 + k.val) s.ticket x)

end Sys2Proof.Machine
end

