-- ==== Sys2Proof/Machine/Vocab.lean ====
section
/-!
DEFINITION. The vocabulary engine: VOC_GATHER, VOC_XENT, VOC_SCATTER (R198-R206).
-/
namespace Sys2Proof.Machine

/-- All of PARAM zero. -/
def noParam (c : Cmd) : List Nat := bad (c.param != 0) 0x0C

/-- IDs of a command. -/
def vocIds (x : Ctx) : List Int := (List.range (x.d 0 0).count).map (fun n => idAt x.rd (x.d 0 0) n)

/-- Counts of IDs below zero and at or above the table (R199). -/
def vocIdCounts (x : Ctx) (v : Nat) : List Post :=
  let ids := vocIds x
  [.count VE_CNT.IGNORED x.r 0 0 ((ids.filter (fun i => decide (i < 0))).length),
   .count VE_CNT.BAD_ID x.r 0 0 ((ids.filter (fun i => decide ((v : Int) ≤ i))).length)]

/-- Whether a row of a table lies in more than one 4 KiB granule: a LINEAR row by its ends, a tiled one by its elements. -/
def rowCrosses (t : Desc) (v : Nat) : Bool :=
  let at' (k : Nat) : Nat := t.bitAddr (v * t.size 0 + k) / 8 / 4096
  if t.tiled then (List.range (t.size 0)).any (fun k => at' k != at' 0)
  else at' 0 != (t.bitAddr (v * t.size 0) / 8 + (t.size 0 * t.bits + 7) / 8 - 1) / 4096

/-- Checks of VOC_GATHER (R198). A block-scaled row can be moved without conversion only with blocks along the row. -/
def vocGatherCodes (x : Ctx) : List Nat :=
  let ids := x.d 0 0
  let t := x.d 1 0
  let y := x.d 2 0
  noParam x.c ++
  bad (ids.format != fmtINT32 || y.format != t.format || (isScaled y.format && (t.blk != y.blk || t.dir || y.dir))) 5 ++
  bad (ids.rank != 1 || 2 < t.rank || 2 < y.rank || t.size 0 != y.size 0 || y.size 1 != ids.size 0 ||
    (x.s.bit HUB_STK_MODE.INTLV x.r && (List.range (t.size 1)).any (rowCrosses t))) 0x0B

/-- The effect of VOC_GATHER (R198, R199). -/
def vocGatherEffect (x : Ctx) : Effect :=
  let rd := x.rd
  let t := x.d 1 0
  let y := x.d 2 0
  let ids := vocIds x
  let row (n : Nat) : Option Nat :=
    let i := ids.getD n 0
    if 0 ≤ i ∧ i < t.size 1 then some i.toNat else none
  let code (n : Nat) : Nat := match row (y.index n 1) with
    | some v => readCode rd t (v * t.size 0 + y.index n 0)
    | none => 0
  let scale (b : Nat) : Nat := match row (b / y.lineBlocks) with
    | some v => readScale rd t (v * t.lineBlocks + b % y.lineBlocks)
    | none => 0
  { posts := x.out y (formCopy x.place x.key y code scale) ++ vocIdCounts x (t.size 1) ++
      [.live VE_ROWS.GATHERED x.r 0 0 (y.size 1)] }

/-- VOC_GATHER. -/
def execVocGather (r : Rgn) (x : EngCheck) (s : State) : Host.Outcome State Fault Refusal :=
  .next ((s.issue r 30 0x50 unitFree Ctx.plainRanges vocGatherCodes vocGatherEffect).checkUnit r 30 s.ticket x)

/-- PARAM of VOC_XENT (Table 8.7). -/
def xeMode (c : Cmd) : Nat := bitsAt c.w4 0 2
def xeFirst (c : Cmd) : Bool := flag c.w4 6
def xeFinal (c : Cmd) : Bool := flag c.w4 7
def xeDh (c : Cmd) : Bool := flag c.w4 8
def xeDe (c : Cmd) : Bool := flag c.w4 9
def xeBase (c : Cmd) : Nat := bitsAt c.w5 0 20

/-- Checks of VOC_XENT (R200, R206). -/
def vocXentCodes (x : Ctx) : List Nat :=
  let c := x.c
  let h := x.d 0 0
  let tg := x.d 0 1
  let e := x.d 1 0
  let hid := h.size 0
  let n := h.size 1
  let vr := e.size 1
  let f32s (b off n0 n1 : Nat) : List Nat := if x.uses b off then
      bad (!sized (x.d b off) n0 n1 1) 0x0B ++ bad ((x.d b off).format != fmtFP32) 5
    else []
  if 2 ≤ xeMode c then [0x0C] else
  bad ((xeMode c == 1 && xeFinal c) || bitsAt c.w4 10 22 != 0 || bitsAt c.w5 20 12 != 0 ||
    c.w7 != 0) 0x0C ++
  bad (32768 < hid || 1048576 < xeBase c + vr || e.layout != 1 || 2 < h.rank || 2 < e.rank || e.size 0 != hid ||
    tg.rank != 1 || tg.size 0 != n) 0x0B ++
  bad (!(h.format == fmtBF16 || h.format == fmtFP16) || !kvFormatOk h.format e.format || tg.format != fmtINT32) 5 ++
  (if xeMode c = 0 then f32s 2 0 (if xeFinal c then 2 else 3) n ++ f32s 2 1 3 n
   else f32s 0 2 2 n ++ f32s 0 3 hid n ++ f32s 2 0 hid vr ++ f32s 2 1 hid n)

/-- The running state of a token. -/
structure XentAcc where
  ex : Option Int
  l : Acc32
  zt : Acc32

/-- xent_tile (R201) over the valid logits of a tile, as (logit, global ID). -/
def xentTile (tgt : Int) (zs : List (Acc32 × Nat)) (a : XentAcc) : XentAcc :=
  match a.ex with
  | none => a
  | some ex =>
    if zs.any (fun z => !z.1.val.isFinite) then { a with ex := none }
    else
      let us := zs.map (fun z => (timesLog2e z.1.val, z.1.sat))
      let exNew := max ex (ceil32 ((us.foldl (fun m u => max m u.1) ((us.headD (0, false)).1) + 2 ^ 30 - 1) / 2 ^ 30))
      let l := us.foldl (fun (l : Acc32) u => aAdd l { val := exp2At (u.1 - exNew * 2 ^ 30), sat := u.2 })
        (a.l.mul (powFactor ex exNew))
      { ex := some exNew, l := l
        zt := zs.foldl (fun zt z => if (z.2 : Int) = tgt then z.1 else zt) a.zt }

/-- The hidden row of a token and the embedding row of an entry. -/
def xeHidden (x : Ctx) (t : Nat) : List Num := (List.range ((x.d 0 0).size 0)).map (fun k => readAt x.rd (x.d 0 0) k t 0)
def xeEntry (x : Ctx) (v : Nat) : List Num := (List.range ((x.d 1 0).size 0)).map (fun k => readAt x.rd (x.d 1 0) k v 0)

/-- A logit. -/
def xeLogit (h e : List Num) : Acc32 := dot32 (Acc32.of .zero) (h.zip e)

/-- The state a token starts from (R201). -/
def xeStart (x : Ctx) (t : Nat) : XentAcc :=
  if xeFirst x.c then { ex := some attInitial, l := Acc32.of .zero, zt := Acc32.of xentInitial }
  else
    let s := xentRow x.rd (x.d 2 1) t
    { ex := exOf s.ex, l := s.l, zt := s.zt }

/-- The state of a token after the command's tiles. -/
def xeToken (x : Ctx) (es : List (List Num)) (t : Nat) : XentAcc :=
  let h := xeHidden x t
  let vr := es.length
  (List.range (tiles vr)).foldl (fun a b =>
    xentTile (idAt x.rd (x.d 0 1) t)
      ((List.range (min 128 (vr - 128 * b))).map (fun j =>
        (xeLogit h (es.getD (128 * b + j) []), xeBase x.c + 128 * b + j))) a) (xeStart x t)

/-- The effect of STATS. A row without its target gives loss +0 and counts in NO_TARGET; a NaN row gives NaN and does not
count. -/
def xentStats (x : Ctx) : List Post :=
  let es := (List.range ((x.d 1 0).size 1)).map (xeEntry x)
  let rows := (List.range ((x.d 0 0).size 1)).map (xeToken x es)
  let y := x.d 2 0
  let tgt (t : Nat) : Int := idAt x.rd (x.d 0 1) t
  let fin (t : Nat) : Acc32 × Acc32 := match rows[t]? with
    | some a => xentFinish { ex := exNum a.ex, l := a.l, zt := a.zt } (tgt t)
    | none => (Acc32.of .zero, Acc32.of .zero)
  if xeFinal x.c then
    x.form y (fun n => if y.index n 0 = 0 then (fin (y.index n 1)).1 else (fin (y.index n 1)).2) ++
    [.count VE_CNT.NO_TARGET x.r 0 0 (((List.range rows.length).filter (fun t =>
      decide (0 ≤ tgt t) && ((rows[t]?).map (fun a => a.ex.isSome && a.zt.val.eqv xentInitial)).getD false)).length)]
  else x.form y (fun n => match rows[y.index n 1]? with
    | some a => match y.index n 0 with
      | 0 => Acc32.of (exNum a.ex)
      | 1 => a.l
      | _ => a.zt
    | none => Acc32.of .zero)

/-- 2^(z log2 e - lse log2 e) with the exponent formed to 30 fractional bits (R203). -/
def xentPower (z lse : Num) : Num :=
  match z, lse with
  | .fin .., .fin .. => exp2At (timesLog2e z + timesLog2e lse.neg)
  | _, _ => match z.sub lse with
    | .inf true => .zero
    | v => v

/-- g of a token and an entry (R203), in the hidden's format. -/
def xentGrad (fmt : Nat) (tgt : Int) (id : Nat) (z : Acc32) (lse scale : Num) : Acc32 :=
  if tgt < 0 then aOf .zero
  else
    let p : Acc32 := { z with val := xentPower z.val lse }
    let g := aMul (aSub p (aOf (if (id : Int) = tgt then .one else .zero))) (aOf scale)
    { g with val := toLane fmt g.val }

/-- The effect of GRAD (R203). -/
def xentGrads (x : Ctx) : List Post :=
  let rd := x.rd
  let nTok := (x.d 0 0).size 1
  let vr := (x.d 1 0).size 1
  let hid := (x.d 0 0).size 0
  let es := (List.range vr).map (xeEntry x)
  let hs := (List.range nTok).map (xeHidden x)
  let gs := (List.range nTok).map (fun t => (List.range vr).map (fun v =>
    xentGrad (x.d 0 0).format (idAt rd (x.d 0 1) t) (xeBase x.c + v) (xeLogit (hs.getD t []) (es.getD v []))
      (readElem rd (x.d 0 2) (2 * t + 1)) (ofBits32 x.c.word6)))
  let dh (n : Nat) : Acc32 :=
    let t := n / hid
    aDot (Acc32.of (if xeFirst x.c then .zero else readElem rd (x.d 0 3) n))
      ((List.range vr).map (fun v => ((gs.getD t []).getD v (aOf .zero), aOf ((es.getD v []).getD (n % hid) .zero))))
  let de (n : Nat) : Acc32 :=
    let v := n / hid
    aDot (Acc32.of .zero)
      ((List.range nTok).map (fun t => ((gs.getD t []).getD v (aOf .zero), aOf ((hs.getD t []).getD (n % hid) .zero))))
  (if xeDe x.c then x.form (x.d 2 0) de else []) ++ (if xeDh x.c then x.form (x.d 2 1) dh else [])

/-- The effect of VOC_XENT. -/
def vocXentEffect (x : Ctx) : Effect := { posts := (if xeMode x.c = 0 then xentStats x else xentGrads x) ++ [x.pauses (xeMe x.c)] }

/-- VOC_XENT. -/
def execVocXent (r : Rgn) (x : EngCheck) (s : State) : Host.Outcome State Fault Refusal :=
  .next ((s.issue r 30 0x51 (vocXentReady r) Ctx.plainRanges vocXentCodes vocXentEffect).checkUnit r 30 s.ticket x)

/-- Checks shared by the scatter-adds: IDs, rows and table (R205, R229). -/
def scatterCodes (ids rows table : Desc) : List Nat :=
  bad (ids.format != fmtINT32 || !(rows.format == fmtFP32 || rows.format == fmtBF16) || table.format != fmtFP32) 5 ++
  bad (ids.rank != 1 || 2 < rows.rank || 2 < table.rank || rows.size 0 != table.size 0 || rows.size 1 != ids.size 0) 0x0B

/-- Inserts into an ascending list without repeats. -/
def insertOnce (n : Nat) : List Nat → List Nat
  | [] => [n]
  | a :: t => if n < a then n :: a :: t else if n = a then a :: t else a :: insertOnce n t

/-- Distinct IDs of a command that name a row of the table, ascending. -/
def scatterIds (x : Ctx) (v : Nat) : List Nat :=
  (vocIds x).foldl (fun l i => if 0 ≤ i ∧ i < (v : Int) then insertOnce i.toNat l else l) []

/-- The merged rows added into the table (R205, R229): rows of one ID summed in ascending n, the sum added once. -/
def scatterPosts (x : Ctx) (rows table : Desc) : List Post :=
  let rd := x.rd
  let ids := vocIds x
  let h := table.size 0
  let hit (v : Nat) : List Nat := (List.range ids.length).filter (fun n => ids.getD n 0 == (v : Int))
  x.formSome table (fun n => table.bitAddr n / 8)
    ((scatterIds x (table.size 1)).flatMap (fun v => (List.range h).map (fun k => v * h + k)))
    (fun n =>
      let m := (hit (n / h)).foldl (fun (a : Acc32) i => a.add (readElem rd rows (i * h + n % h)))
        (Acc32.of (.fin true 0 0))
      let t := (Acc32.of (readElem rd table n)).add m.val
      { val := t.val, sat := t.sat || m.sat })

/-- Checks and effect of VOC_SCATTER. -/
def vocScatterCodes (x : Ctx) : List Nat := noParam x.c ++ scatterCodes (x.d 0 0) (x.d 1 0) (x.d 1 1)
def vocScatterEffect (x : Ctx) : Effect :=
  let t := x.d 1 1
  { posts := scatterPosts x (x.d 1 0) t ++ vocIdCounts x (t.size 1) ++
      [.live VE_ROWS.SCATTERED x.r 0 0 (scatterIds x (t.size 1)).length] }

/-- The ranges of VOC_SCATTER: the table is read and written. -/
def vocScatterRanges (x : Ctx) : List (Nat × Nat) × List (Nat × Nat) :=
  (x.ranges false ++ x.ranges true, x.ranges true)

/-- VOC_SCATTER. -/
def execVocScatter (r : Rgn) (x : EngCheck) (s : State) : Host.Outcome State Fault Refusal :=
  .next ((s.issue r 30 0x52 (vocScatterReady r) vocScatterRanges vocScatterCodes vocScatterEffect).checkUnit r 30 s.ticket x)

end Sys2Proof.Machine
end

