-- ==== Sys2Proof/Machine/StackEng.lean ====
section
/-!
DEFINITION. Stack engines: SE_UPDATE (R213-R222), SE_ACCUM (R223-R225), SE_APPEND (R227, R228), SE_SCATTER_ADD (R229),
SE_FLIP (R214), SE_FILL (R226), and the patrol of the scrubber (R231, R232). SE_DRAIN stands in Machine/Drain.lean.
-/
namespace Sys2Proof.Machine

/-- Engine index of a stack in its region. -/
def seEng (k : Stk) : Nat := 39 + k.val % 6

/-- Whether an operand lies in SRAM, in the own stack. -/
def Ctx.sramOp (x : Ctx) (d : Desc) : List Nat := bad (!inSram x.r d.base (d.base + 1)) 6
def Ctx.stackOp (x : Ctx) (d : Desc) : List Nat := bad (!inStack (stackOf x.r x.e.eng) d.base (d.base + 1)) 6

/-- PARAM fields of SE_UPDATE (Table 9.6). -/
def upOpt (c : Cmd) : Nat := bitsAt c.w4 0 3
def upPolicy (c : Cmd) : Nat := bitsAt c.w4 3 2
def upPair (c : Cmd) : Nat := bitsAt c.w4 5 6
def upGroup (c : Cmd) : Nat := bitsAt c.w4 11 8
def upRow (c : Cmd) : Bool := flag c.w4 19 && upOpt c != 3
def upCol (c : Cmd) : Bool := flag c.w4 20 && upOpt c != 3
def upNesterov (c : Cmd) : Bool := flag c.w4 21
def upBase (c : Cmd) : Nat := c.w5 + bitsAt c.w6 0 16 * 2 ^ 32

/-- Stack of a command's engine, current buffer of its pair, and the distance to a buffer in bytes. -/
def Ctx.stack (x : Ctx) : Nat := stackOf x.r x.e.eng
def Ctx.cur (x : Ctx) : Nat := x.s.get SE_BUF1.CUR x.stack (upPair x.c)
def Ctx.dist (x : Ctx) (b : Nat) : Nat := if b = 1 then x.s.get SE_BUF0.DELTA x.stack (upPair x.c) * 65536 else 0

/-- A descriptor moved by a distance. -/
def Desc.moved (d : Desc) (n : Nat) : Desc :=
  { d with base := d.base + n, scaleBase := if hasScale d.format then d.scaleBase + n else d.scaleBase }

/-- The operands of an SE_UPDATE that lie in the pair (Table 9.2). -/
def pairUses (c : Cmd) : List Use := c.uses.filter (fun u => u.base == 1 || (u.base == 2 && u.off < 2))

/-- A pair operand in the current buffer, and in the alternate one. -/
def Ctx.old (x : Ctx) (b off : Nat) : Desc := (x.d b off).moved (x.dist x.cur)
def Ctx.new (x : Ctx) (b off : Nat) : Desc := (x.d b off).moved (x.dist (1 - x.cur))

/-- DA ranges of an SE_UPDATE with the distance added (R213). -/
def updateRanges (x : Ctx) : List (Nat × Nat) × List (Nat × Nat) :=
  let side (f : Nat → Nat → Desc) : List (Nat × Nat) := (pairUses x.c).flatMap (fun u => descRanges x.rd (f u.base u.off))
  let plain (out : Bool) : List (Nat × Nat) :=
    (x.c.uses.filter (fun u => u.out == out && !(pairUses x.c).contains u)).flatMap (fun u =>
      descRanges x.rd (x.d u.base u.off))
  (plain false ++ side x.old, plain true ++ side x.new)

/-- A word of the hyperparameter record (Table 9.3), and the clip factor. -/
def Ctx.hyper (x : Ctx) (n : Nat) : Num := readElem x.rd (x.d 0 2) n
def Ctx.clip (x : Ctx) : Num := if x.c.w7 != 0 then ofBits32 x.c.word7 else x.hyper 12

/-- Whether a format may hold a working copy (R219). -/
def copyFormat (f : Nat) : Bool := [0x02, 0x03, 0x04, 0x05, 0x84, 0x85].contains f

/-- Checks of SE_UPDATE (R213, R215-R220, R233). -/
def updateCodes (x : Ctx) : List Nat :=
  let c := x.c
  let o := upOpt c
  let g := x.d 0 0
  let k := x.stack
  let p := upPair c
  let tag := x.s.get PROC_PART_CFG.JOB_TAG x.p
  let lo := x.s.bufBase k p 0 * 65536
  let hi := lo + x.s.get SE_BUF0.GRANULES k p * 65536
  let moved := (pairUses c).flatMap (fun u => descRanges x.rd (x.old u.base u.off) ++ descRanges x.rd (x.new u.base u.off))
  let inBuf (d : Desc) : Bool := (descRanges x.rd d).all (fun a => decide (lo ≤ a.1) && decide (a.2 ≤ hi))
  let state (off : Nat) : List Nat := if x.uses 1 off then
      bad ((x.d 1 off).format != fmtFP32) 4 ++
      (if off = 2 && o != 1 then bad ((x.d 1 2).count != g.size 1) 0x0B
       else if off = 3 then bad ((x.d 1 3).count != g.size 0) 0x0B
       else bad (!sized (x.d 1 off) (g.size 0) (g.size 1) 1 || (x.d 1 off).rank != 2) 0x0B) else []
  let copy (on : Bool) (d : Desc) (n0 n1 : Nat) : List Nat := if on then
      bad (!copyFormat d.format) 4 ++ bad (d.rank != 2 || !(d.layout == 0 || d.layout == 1) || !sized d n0 n1 1) 0x0B
    else []
  let row := x.d 2 0
  let col := x.d 2 1
  bad (6 ≤ o || upPolicy c == 3 || (upNesterov c && o != 0) || bitsAt c.w4 22 10 != 0 || bitsAt c.w6 16 16 != 0) 0x0C ++
  x.stackOp g ++ x.stackOp (x.d 0 1) ++ x.sramOp (x.d 0 2) ++
  bad (g.format != fmtFP32 || (x.d 0 1).format != fmtMask || (x.d 0 2).format != fmtFP32) 4 ++
  bad (g.rank != 2 || (x.d 0 1).count != (g.count + 31) / 32 || (x.d 0 2).count != 16) 0x0B ++
  bad (!x.clip.isFinite || x.clip.isNeg || x.clip.isZero ||
    (o != 3 && [13, 14, 15].any (fun n => readCode x.rd (x.d 0 2) n != 0))) 0x0C ++
  state 0 ++ state 1 ++ state 2 ++ state 3 ++
  copy (upRow c) row (g.size 0) (g.size 1) ++ copy (upCol c) col (g.size 1) (g.size 0) ++
  bad (upRow c && upCol c && (isScaled row.format || isScaled col.format) &&
    (row.format != col.format || row.blk != col.blk || row.dir == col.dir)) 4 ++
  (if x.uses 2 2 then x.sramOp (x.d 2 2) ++ bad ((x.d 2 2).format != fmtFP32) 4 ++
    bad ((x.d 2 2).count != g.size 0 + g.size 1) 0x0B else []) ++
  bad (!x.s.bit SE_BUF1.VALID k p || !(pairUses c).all (fun u => inBuf (x.d u.base u.off))) 6 ++
  bad (moved.any (fun a => !inStack k a.1 a.2)) 6 ++
  bad (moved.any (fun a => !x.s.ownsRange true tag a.1 a.2)) 7 ++
  bad (x.s.bit SE_BUF1.DRAIN_PEND k p && x.s.get SE_BUF1.DRAIN_BUF k p == 1 - x.cur) 8

/-- Sign of a value: zero for either zero. -/
def signOf (x : Num) : Num := if x.isNan then .nan else if x.isZero then .zero else if x.isNeg then Num.one.neg else .one

/-- New master and moments of one element. -/
structure UpdElem where
  w : Acc32
  m : Acc32
  v : Acc32

/-- sgd, adamw and lion of R217, from the hyperparameters. -/
def sgdElem (h : Nat → Num) (clip : Num) (nest : Bool) (w m g : Num) : UpdElem :=
  let g := aMul (aOf g) (aOf clip)
  let g := aLin (h 8) (aOf w) .one g
  let m := aLin (h 9) (aOf m) .one g
  let d := if nest then aLin (h 9) m .one g else m
  { w := aLin .one (aOf w) (h 0).neg d, m := m, v := aOf .zero }
def adamwElem (h : Nat → Num) (clip w m v g : Num) : UpdElem :=
  let g := aMul (aOf g) (aOf clip)
  let m := aLin (h 1) (aOf m) (h 2) g
  let v := aLin (h 3) (aOf v) (h 4) (aMul g g)
  let den := aAdd (aSqrt (aMul v (aOf (h 6)))) (aOf (h 5))
  let q := aDiv m den
  { w := aLin (h 7) (aOf w) (h 0).neg q, m := m, v := v }
def lionElem (h : Nat → Num) (clip w m g : Num) : UpdElem :=
  let g := aMul (aOf g) (aOf clip)
  let c := aLin (h 1) (aOf m) (h 2) g
  let w := aLin (h 7) (aOf w) (h 0).neg { val := signOf c.val, sat := c.sat }
  { w := w, m := aLin (h 3) (aOf m) (h 4) g, v := aOf .zero }

/-- One element of fact_pass2: its row factor, the column factor and the sum of the column factors. -/
def factElem (h : Nat → Num) (clip : Num) (five : Bool) (rf cf csum : Acc32) (w m g : Num) : UpdElem :=
  let g := aMul (aOf g) (aOf clip)
  let vh := aAdd (aMul rf (aDiv cf csum)) (aOf (h 5))
  let u := aMul g (aRsqrt vh)
  let m := if five then aLin (h 1) (aOf m) (h 2) u else aOf m
  let u := if five then m else u
  { w := aLin (h 7) (aOf w) (h 0).neg u, m := m, v := aOf .zero }

/-- Whether the 32-element block of element n of the gradient is poisoned (R220). -/
def Ctx.poisoned (x : Ctx) (n : Nat) : Bool := !(readElem x.rd (x.d 0 1) (n / 32)).isZero

/-- Poisoned blocks of the command's range. -/
def Ctx.poisonBlocks (x : Ctx) : Nat :=
  ((List.range (((x.d 0 0).count + 31) / 32)).filter (fun b => !(readElem x.rd (x.d 0 1) b).isZero)).length

/-- Forms an output of the alternate buffer from the values, keeping what `keep` names as the current buffer has it: an
element, or a scale block whose elements are all kept (R220); and the dirty granules (R222). -/
def formKept (x : Ctx) (old new : Desc) (keep : Nat → Bool) (dr : Nat → Nat) (val : Nat → Acc32) : List Post :=
  let rd := x.rd
  let whole (b : Nat) : Bool := (new.members b).all keep
  let sc := hasScale new.format
  let kept (n : Nat) : Bool := if sc then whole (new.blockOf n) else keep n
  let scales := if sc then (List.range new.blocks).map (fun b =>
      if whole b then readScale rd old b else scaleByte new.format ((new.members b).map (fun n => (val n).val)))
    else []
  let es := (List.range new.count).map (fun n =>
    if kept n then
      let c := readCode rd old n
      let v := readElem rd old n
      { code := c, sat := false, cls := v.cls, zero := v.isZero, lost := false : OutElem }
    else convertElem new (scales.getD (new.blockOf n) 0) (rndOf new dr n) (val n))
  let w := watchOf es
  let code (n : Nat) : Nat := ((es[n]?).map (·.code)).getD 0
  let dirty := (List.range new.count).filterMap (fun n =>
      if code n == readCode rd old n then none else some (new.bitAddr n / 8 / 65536)) ++
    (List.range scales.length).filterMap (fun b =>
      if scales.getD b 0 == readScale rd old b then none else some ((new.scaleBase + b) / 65536))
  x.out new
    { posts := x.place new code ++ bytePosts x.key new.scaleBase (scales.map (BitVec.ofNat 8))
      sat := satCount es, nonfinite := w.nan + w.inf, watch := w, first := firstNonfinite 0 es } ++
  (dirty.foldl addOnce []).map .dirty

/-- What the command records of itself (SE_UPD_CMD). -/
def updRecord (x : Ctx) (outcome : Nat) : List Post :=
  [.field SE_UPD_CMD.OPT x.stack 0 0 (upOpt x.c), .field SE_UPD_CMD.POLICY x.stack 0 0 (upPolicy x.c),
   .field SE_UPD_CMD.PAIR x.stack 0 0 (upPair x.c), .field SE_UPD_CMD.OUTCOME x.stack 0 0 outcome,
   .field SE_UPD_CMD.ELEMENTS x.stack 0 0 (x.d 0 0).count]

/-- fact_pass1 (R217, R218): sums of squares along rows and columns; poisoned blocks add 0 but under PASS. -/
def pass1Posts (x : Ctx) : List Post :=
  let g := x.d 0 0
  let skip (n : Nat) : Bool := upPolicy x.c != 2 && x.poisoned n
  let sq (n : Nat) : Acc32 :=
    if skip n then aOf .zero else let v := aMul (aOf (readElem x.rd g n)) (aOf x.clip); aMul v v
  let sum (ns : List Nat) : Acc32 := (ns.map sq).foldl aAdd (aOf (.fin true 0 0))
  x.form (x.d 2 2) (fun t =>
    if t < g.size 1 then sum ((List.range (g.size 0)).map (fun j => g.linear j t 0))
    else sum ((List.range (g.size 1)).map (fun i => g.linear (t - g.size 1) i 0)))

/-- The state that an applied SE_UPDATE other than pass 1 writes. -/
def updatePosts (x : Ctx) : List Post :=
  let c := x.c
  let o := upOpt c
  let rd := x.rd
  let g := x.d 0 0
  let h := x.hyper
  let cols := g.size 0
  let rows := g.size 1
  let keep (n : Nat) : Bool := upPolicy c == 1 && x.poisoned n
  let rs (i : Nat) : Num := readElem rd (x.d 2 2) i
  let fac (off i : Nat) (sum inv : Num) : Acc32 :=
    aLin (h 3) (aOf (readElem rd (x.old 1 off) i)) (h 4) (aMul (aOf sum) (aOf inv))
  let rf := if o = 4 ∨ o = 5 then (List.range rows).map (fun i => fac 2 i (rs i) (h 11)) else []
  let cf := if o = 4 ∨ o = 5 then (List.range cols).map (fun j => fac 3 j (rs (rows + j)) (h 10)) else []
  let csum := cf.foldl aAdd (aOf (.fin true 0 0))
  let at' (off n : Nat) : Num := if x.uses 1 off then readElem rd (x.old 1 off) n else .zero
  let es := (List.range g.count).map (fun n =>
    let w := at' 0 n
    if keep n then { w := aOf w, m := aOf (at' 1 n), v := aOf (if o = 1 then at' 2 n else .zero) : UpdElem }
    else
      let gv := readElem rd g n
      match o with
      | 0 => sgdElem h x.clip (upNesterov c) w (at' 1 n) gv
      | 1 => adamwElem h x.clip w (at' 1 n) (at' 2 n) gv
      | 2 => lionElem h x.clip w (at' 1 n) gv
      | _ => factElem h x.clip (o == 5) (rf.getD (n / cols) (aOf .zero)) (cf.getD (n % cols) (aOf .zero)) csum w
          (at' 1 n) gv)
  let pick (f : UpdElem → Acc32) (n : Nat) : Acc32 := ((es[n]?).map f).getD (aOf .zero)
  let put (off : Nat) (f : Nat → Acc32) (k : Nat → Bool) : List Post :=
    if x.uses 1 off then formKept x (x.old 1 off) (x.new 1 off) k (x.u32 (x.d 1 off) 0) f else []
  let master := x.d 1 0
  let dr (n : Nat) : Nat := x.u32 master 0 (upBase c + n)
  let turn (n : Nat) : Nat := n / rows + cols * (n % rows)
  put 0 (pick (·.w)) keep ++ put 1 (pick (·.m)) keep ++
  (if o = 1 then put 2 (pick (·.v)) keep else []) ++
  (if o = 4 ∨ o = 5 then
    put 2 (fun i => rf.getD i (aOf .zero)) (fun _ => false) ++ put 3 (fun j => cf.getD j (aOf .zero)) (fun _ => false)
   else []) ++
  (if upRow c then formKept x (x.old 2 0) (x.new 2 0) keep dr (pick (·.w)) else []) ++
  (if upCol c then formKept x (x.old 2 1) (x.new 2 1) (fun n => keep (turn n)) (fun n => dr (turn n))
    (fun n => pick (·.w) (turn n)) else [])

/-- The effect of SE_UPDATE under its policy (R220). -/
def updateEffect (x : Ctx) : Effect :=
  let c := x.c
  if upPolicy c = 0 ∧ x.s.poisonFlag x.r (upGroup c) then
    { posts := [.count SE_POISON.SKIP_CMDS x.stack 0 0 1] ++ updRecord x 1 }
  else if upPolicy c = 0 ∧ x.poisonBlocks ≠ 0 then
    { posts := [.count SE_ERR.UNVOTED x.stack 0 0 1] ++ updRecord x 2, failed := true }
  else
    { posts := (if upOpt c = 3 then pass1Posts x
        else updatePosts x ++ [.live SE_CNT.UPD_ELEMENTS x.stack 0 0 (x.d 0 0).count]) ++
        (if upPolicy c = 1 ∧ upOpt c ≠ 3 then [.count SE_POISON.ZERO_BLOCKS x.stack 0 0 x.poisonBlocks] else []) ++
        updRecord x 0 }

/-- SE_UPDATE. -/
def execSeUpdate (k : Stk) (x : EngCheck) (s : State) : Host.Outcome State Fault Refusal :=
  .next ((s.issue (stackRegion k) (seEng k) 0x70 (seReady k) updateRanges updateCodes updateEffect).checkStack k (seEng k) s.ticket x)

/-- The accumulation of a contribution into a target and its bitmap (R223, R224): values, bitmap bits, newly marked
blocks. -/
structure AccResult where
  t : Nat → Acc32
  bit : Nat → Bool
  marked : Nat

/-- Values c with the blocks that arrive poisoned, over the old target and bitmap. -/
def accumulate (n : Nat) (first : Bool) (c : Nat → Num) (arrives : Nat → Bool) (t : Nat → Num) (old : Nat → Bool) :
    AccResult :=
  let blocks := (n + 31) / 32
  let hit := (List.range blocks).map (fun b =>
    arrives b || (List.range (min 32 (n - 32 * b))).any (fun j => !(c (32 * b + j)).isFinite))
  let bit (b : Nat) : Bool := hit.getD b false || (!first && old b)
  { t := fun i => if bit (i / 32) then Acc32.of .nan
      else if first then Acc32.round (c i) else Acc32.round ((t i).add (c i))
    bit := bit
    marked := ((List.range blocks).filter (fun b => bit b && !old b)).length }

/-- Sum of squares of a target (R225): 256 lanes, then eight levels, every operation rounded. -/
def sumSquares (n : Nat) (t : Nat → Acc32) : Acc32 :=
  let sq (i : Nat) : Acc32 := aMul (t i) (t i)
  let lane (k : Nat) : Acc32 := (List.range ((n + 255 - k) / 256)).foldl (fun a j => aAdd a (sq (k + 256 * j)))
    (aOf (.fin true 0 0))
  ((treeSum 8 ((List.range 256).map lane)).head?).getD (aOf .zero)

/-- Checks of SE_ACCUM. -/
def accumCodes (x : Ctx) : List Nat :=
  let c := x.d 0 0
  let t := x.d 2 0
  let b := x.d 2 1
  bad (rsvSet x.c.w4 3 || x.c.w5 != 0 || x.c.w6 != 0 || x.c.w7 != 0) 0x0C ++
  x.sramOp c ++ x.stackOp t ++ x.stackOp b ++
  bad (!(c.format == fmtFP32 || c.format == fmtBF16 || c.format == fmtFP16) || t.format != fmtFP32 ||
    b.format != fmtMask) 4 ++
  bad (!sameSizes c t || b.count != (t.count + 31) / 32) 0x0B ++
  (if flag x.c.w4 1 then x.sramOp (x.d 2 2) ++ bad ((x.d 2 2).format != fmtFP32) 4 ++
    bad ((x.d 2 2).count != 1) 0x0B else [])

/-- The effect of SE_ACCUM. -/
def accumEffect (x : Ctx) : Effect :=
  let t := x.d 2 0
  let rd := x.rd
  let n := t.count
  let a := accumulate n (flag x.c.w4 0) (fun i => readElem rd (x.d 0 0) i) (fun _ => false) (fun i => readElem rd t i)
    (fun b => !(readElem rd (x.d 2 1) b).isZero)
  { posts := x.form t a.t ++ x.form (x.d 2 1) (fun b => Acc32.of (if a.bit b then .one else .zero)) ++
      (if flag x.c.w4 1 then x.form (x.d 2 2) (fun _ => sumSquares n a.t) else []) ++
      [.count SE_POISON.MARKED x.stack 0 0 a.marked, .live SE_CNT.ACC_ELEMENTS x.stack 0 0 n] }

/-- Ranges of SE_ACCUM: with FIRST clear the target and its bitmap are read as well. -/
def accumRanges (x : Ctx) : List (Nat × Nat) × List (Nat × Nat) :=
  (x.ranges false ++ (if flag x.c.w4 0 then [] else descRanges x.rd (x.d 2 0) ++ descRanges x.rd (x.d 2 1)), x.ranges true)

/-- SE_ACCUM. -/
def execSeAccum (k : Stk) (x : EngCheck) (s : State) : Host.Outcome State Fault Refusal :=
  .next ((s.issue (stackRegion k) (seEng k) 0x71 (seReady k) accumRanges accumCodes accumEffect).checkStack k (seEng k) s.ticket x)

/-- The first row of D0 that cache i takes. -/
def Ctx.apFirst (x : Ctx) (i : Nat) : Nat := (List.range i).foldl (fun a j => a + x.apCount j) 0

/-- Byte address of element (k, position, head) of a paged cache (R227). -/
def cellAddr (rd : Reader) (d : Desc) (k p h : Nat) : Nat :=
  d.base / 2 ^ 36 * 2 ^ 36 + (pageEntry rd d.base (p / 256)).1 + ((h * 256 + p % 256) * d.size 0 + k) * d.unit

/-- DA ranges that an append writes: the headers and the page bytes (R228). -/
def appendOuts (x : Ctx) : List (Nat × Nat) :=
  (List.range (apSeqs x.c)).flatMap (fun i =>
    let d := x.apCache i
    let n := pageSeqLen x.rd d.base
    (d.base, d.base + 64) :: (List.range (x.apCount i)).flatMap (fun q => (List.range (d.size 2)).map (fun h =>
      let a := cellAddr x.rd d 0 (n + q) h
      (a, a + d.size 0 * d.unit))))

/-- Ranges of SE_APPEND. -/
def appendRanges (x : Ctx) : List (Nat × Nat) × List (Nat × Nat) :=
  (x.ranges false ++ (List.range (apSeqs x.c)).map (fun i => ((x.apCache i).base, (x.apCache i).base + 64)), appendOuts x)

/-- Whether the pages that cache i needs are all there (R228). -/
def Ctx.apThere (x : Ctx) (i : Nat) : Bool :=
  let base := (x.apCache i).base
  (x.apPages i).all (fun e => decide (e < pagePages x.rd base) && (pageEntry x.rd base e).2)

/-- Whether two new elements of cache i fall on one byte: two of its pages meet (R100). -/
def Ctx.apMeets (x : Ctx) (i : Nat) : Bool :=
  let d := x.apCache i
  x.apThere i && runsMeet (d.size 0 * d.unit) ((List.range (x.apCount i)).flatMap (fun q => (List.range (d.size 2)).map (fun h =>
    cellAddr x.rd d 0 (pageSeqLen x.rd d.base + q) h)))

/-- Checks of SE_APPEND (R228, R233). -/
def appendCodes (x : Ctx) : List Nat :=
  let c := x.c
  let a := x.d 0 0
  let n := x.d 0 1
  let d := x.d 1 0
  let tag := x.s.get PROC_PART_CFG.JOB_TAG x.p
  bad (rsvSet c.w4 0x1FF || apSeqs c == 0 || 256 < apSeqs c || apStride c % 64 != 0 || c.w6 != 0 || c.w7 != 0) 0x0C ++
  x.sramOp a ++ x.sramOp n ++ x.stackOp d ++
  bad (!([0x02, 0x03, 0x04, 0x05].contains d.format) || n.format != fmtINT32) 4 ++
  bad (!d.paged || n.count != apSeqs c || a.size 0 != d.size 0 || a.size 2 != d.size 2 ||
    a.size 1 != x.apFirst (apSeqs c) || (List.range (apSeqs c)).any (fun i => decide (idAt x.rd n i < 0))) 0x0B ++
  (List.range (apSeqs c)).flatMap (fun i =>
    let d := x.apCache i
    let len := pageSeqLen x.rd d.base
    let last := len + x.apCount i
    bad (pageBytes x.rd d.base != pageSize d || d.rawSize 1 < last || !x.apThere i) 0x0B ++ bad (4194304 < last) 0x0A ++
    bad (x.apMeets i) 3) ++
  bad ((appendOuts x ++ x.apEntries).any (fun w => !inStack x.stack w.1 w.2)) 6 ++
  bad ((appendOuts x ++ x.apEntries).any (fun w => !x.s.ownsRange true tag w.1 w.2)) 7

/-- The effect of SE_APPEND: rows converted into the pages, and each new SEQ_LEN. -/
def appendEffect (x : Ctx) : Effect :=
  { posts := (List.range (apSeqs x.c)).flatMap (fun i =>
      let d := x.apCache i
      let len := pageSeqLen x.rd d.base
      let n := x.apCount i
      let first := x.apFirst i
      let ns := (List.range (d.size 2)).flatMap (fun h => (List.range n).flatMap (fun q =>
        (List.range (d.size 0)).map (fun k => d.linear k (len + q) h)))
      x.formSome d (fun e => cellAddr x.rd d (d.index e 0) (d.index e 1) (d.index e 2)) ns
        (fun e => Acc32.of (readAt x.rd (x.d 0 0) (d.index e 0) (first + d.index e 1 - len) (d.index e 2))) ++
      [.bytes (x.key d.base) (toLe 4 (len + n))]) }

/-- SE_APPEND. -/
def execSeAppend (k : Stk) (x : EngCheck) (s : State) : Host.Outcome State Fault Refusal :=
  .next ((s.issue (stackRegion k) (seEng k) 0x72 (seReady k) appendRanges appendCodes appendEffect).checkStack k (seEng k) s.ticket x)

/-- Checks and effect of SE_SCATTER_ADD (R229). -/
def scatterAddCodes (x : Ctx) : List Nat :=
  noParam x.c ++ x.sramOp (x.d 0 0) ++ x.sramOp (x.d 1 0) ++ x.stackOp (x.d 2 0) ++
  scatterCodes (x.d 0 0) (x.d 1 0) (x.d 2 0) ++ bad (65536 < (x.d 0 0).count) 0x0B
def scatterAddEffect (x : Ctx) : Effect :=
  { posts := scatterPosts x (x.d 1 0) (x.d 2 0) ++ vocIdCounts x ((x.d 2 0).size 1) }

/-- SE_SCATTER_ADD. -/
def execSeScatterAdd (k : Stk) (x : EngCheck) (s : State) : Host.Outcome State Fault Refusal :=
  .next ((s.issue (stackRegion k) (seEng k) 0x73 (seReady k) vocScatterRanges scatterAddCodes scatterAddEffect).checkStack k (seEng k) s.ticket x)

/-- Checks and effect of SE_FLIP (R214). -/
def flipCodes (x : Ctx) : List Nat := bad (rsvSet x.c.w4 0x1FF || x.c.w7 != 0) 0x0C
def flipEffect (x : Ctx) : Effect :=
  if flag x.c.w4 8 && x.s.poisonFlag x.r (bitsAt x.c.w4 0 8) then { posts := [] }
  else
    let mask := x.c.w5 + x.c.w6 * 2 ^ 32
    { posts := ((List.range 64).filter (fun p => bitsAt mask p 1 == 1)).map (fun p => .flip x.stack p x.e.step) }

/-- SE_FLIP. -/
def execSeFlip (k : Stk) (s : State) : Host.Outcome State Fault Refusal :=
  .next (s.issue (stackRegion k) (seEng k) 0x75 (seReady k) Ctx.plainRanges flipCodes flipEffect)

/-- Checks and effect of SE_FILL (R226): the pattern over the extent of D2, counted as the elements that it leaves there
(R83). -/
def fillCodes (x : Ctx) : List Nat :=
  let d := x.d 2 0
  bad (x.c.w5 != 0 || x.c.w6 != 0 || x.c.w7 != 0) 0x0C ++ x.stackOp d ++ bad (d.span % 4 != 0) 0x0B
def fillEffect (x : Ctx) : Effect :=
  let d := x.d 2 0
  let pattern : Reader := fun da => (toLe 4 x.c.w4).getD ((da - d.base) % 4) 0
  let o := formCopy (fun _ _ => []) x.key d (fun n => readBits pattern (d.bitAddr n) d.bits) (readScale x.rd d)
  { posts := x.out d { o with posts :=
      if x.c.w4 = 0 then [.zero (x.key d.base) (x.key d.base + d.span)]
      else [.bytes (x.key d.base) ((List.replicate (d.span / 4) (toLe 4 x.c.w4)).flatten)] } }

/-- SE_FILL. -/
def execSeFill (k : Stk) (x : EngCheck) (s : State) : Host.Outcome State Fault Refusal :=
  .next ((s.issue (stackRegion k) (seEng k) 0x76 (seReady k) Ctx.plainRanges fillCodes fillEffect).checkStack k (seEng k) s.ticket x)

/-- The words with bad bits found so far in a row of the running patrol. -/
def Stack.errorsOf (x : Stack) (bank row : Nat) : List (Nat × Nat) :=
  match x.rowErrors.find? (fun e => e.1 == bank && e.2.1 == row) with
  | some e => e.2.2
  | none => []

/-- Whether the bad words of a row call for its repair (R232): one that is uncorrectable, two with two bad bits, or four
corrected ones. -/
def needsRepair (ws : List (Nat × Nat)) : Bool :=
  ws.any (fun w => decide (3 ≤ w.2)) || decide (2 ≤ (ws.filter (fun w => w.2 == 2)).length) ||
  decide (4 ≤ (ws.filter (fun w => decide (w.2 < 3))).length)

/-- The soft repair of a row, or its lack of a spare: then the granule of the word is assigned no more (R232). -/
def State.repairRow (s : State) (k : Stk) (bank row granule : Nat) : State :=
  let used := kget s.stks[k].sparesUsed bank 0
  if 4 ≤ used then (s.bump SE_REPAIR.NO_SPARE 1 k).modHub (fun h => { h with worn := addOnce h.worn granule })
  else
    let s := s.modStack k (fun x => { x with
      sparesUsed := kset x.sparesUsed bank (used + 1), soft := x.soft ++ [(bank, row)]
      rowErrors := x.rowErrors.filter (fun e => !(e.1 == bank && e.2.1 == row)) })
    let worst := s.stks[k].sparesUsed.foldl (fun m b => max m b.2) 0
    (s.bump SE_REPAIR.SOFT 1 k).put SE_REPAIR.SPARES_LEFT (4 - worst) k

/-- The scrubber's bit of INFLIGHT (R234): busy from the first word of a patrol until its last (DEDUCED, log entry 48). -/
def State.scrubbing (s : State) (k : Stk) (on : Bool) : State :=
  s.put SE_STAT.INFLIGHT (s.get SE_STAT.INFLIGHT k % 16 + if on then 16 else 0) k

/-- PATROL (R231, R232): one word read, corrected and rewritten, or left with the poison pattern; a row with enough
errors, each word counted once, is repaired. A patrol that starts over forgets the rows of the last one. -/
def State.patrol (s : State) (k : Stk) (offset badBits bank row : Nat) : State :=
  let pos := offset / 4096
  let word := (k.val * 2 ^ 36 + offset) / 8
  let s := if pos < s.get SE_SCRUB.PROGRESS k then s.modStack k (fun x => { x with rowErrors := [] }) else s
  let s := (s.put SE_SCRUB.PROGRESS pos k).scrubbing k (offset / 8 + 1 != 2 ^ 33)
  let lost := 3 ≤ badBits || s.badWords.contains word
  if badBits = 0 && !lost then s
  else
    let e := (s.stks[k].errorsOf bank row).filter (fun w => w.1 != word) ++ [(word, if lost then 3 else badBits)]
    let s := if lost then s.spoilWord word
      else
        let s := s.bump SE_SCRUB.CORR 1 k
        if badBits = 2 then s.bump SE_SCRUB.DOUBLE 1 k else s
    let s := s.modStack k (fun x => { x with
      rowErrors := x.rowErrors.filter (fun y => !(y.1 == bank && y.2.1 == row)) ++ [(bank, row, e)] })
    if needsRepair e then s.repairRow k bank row (64 * k.val + offset / 2 ^ 30) else s

/-- PATROL. -/
def execPatrol (k : Stk) (offset : BitVec 36) (badBits : Nat) (bank row : Nat) (s : State) :
    Host.Outcome State Fault Refusal := .next (s.patrol k offset.toNat badBits bank row)

end Sys2Proof.Machine
end

