-- ==== Sys2Proof/Machine/Commit.lean ====
section
/-!
DEFINITION. COMMAND_COMMIT (R134, R138, R290, R384) and SHADOW_COMPARE with the mismatch of a unit in hardening-off
(R329, R330, R332).
-/
namespace Sys2Proof.Machine

/-- What a command would leave in memory, over nothing. -/
def postMemory (ps : List Post) : Memory :=
  ps.foldl (fun m p => match p with | .bytes key bs => m.writeBytes key bs | _ => m) { cells := [], layers := [] }

/-- The bytes that a SHADOW command or its twin digests: outputs in operand order, each in its logical element order with
its scales behind; then resident accumulator words (R138, R322). -/
def State.digestBytes (s : State) (e : Entry) : List Byte :=
  let m := postMemory e.posts
  let rd : Reader := fun da => m.read (s.key (linearOut e.cmd) da)
  (e.cmd.uses.filter (·.out)).flatMap (fun u =>
    let d := descOf e.descs (e.cmd.indexOf u)
    packCodes d.bits ((List.range d.count).map (readCode rd d)) ++
    (if hasScale d.format then (List.range d.blocks).map (fun b => rd (d.scaleBase + b)) else [])) ++
  e.posts.flatMap (fun p => match p with
    | .bytes key bs => if accBase 0 0 0 ≤ key then bs.take 4 else []
    | _ => [])

/-- Whether a twin's digest may still be asked for. -/
def Region.wantsTwin (g : Region) (ord : Nat) : Bool :=
  g.ordinal == ord + 1 || g.cmds.any (fun e => e.cmd.shadow && e.ord == ord + 1) || g.shadows.any (·.twinOrd == ord)

/-- Keeps the digest of a committed matrix or attention command while a SHADOW command may need it (R329). -/
def State.keepTwin (s : State) (r : Rgn) (e : Entry) : State :=
  if (e.cmd.op / 16 == 1 || e.cmd.op / 16 == 2) && !e.cmd.shadow then
    let d := crc64 (s.digestBytes e)
    s.modRegion r (fun g => { g with twins := (g.twins ++ [(e.ord, d)]).filter (fun t => g.wantsTwin t.1) })
  else s

/-- Memory extents of the working copies that an SE_UPDATE wrote: its row-order and column-order copies in the alternate
buffer (R28, Table 9.2); none when it wrote nothing (R26, R220). -/
def Ctx.copyExtents (x : Ctx) : List Extent :=
  if x.e.posts.any (fun q => match q with | .bytes _ _ => true | _ => false) then
    x.extents ((pairUses x.c).flatMap (fun u => if u.base = 2 then descRanges x.rd (x.new u.base u.off) else []))
  else []

/-- The copies of an SE_UPDATE that commits are hidden from the program until a bell publishes them (R28). -/
def State.hideCopies (s : State) (r : Rgn) (p : Prt) (e : Entry) : State :=
  if e.cmd.op = 0x70 && !e.failed then
    let xs := ({ s := s, r := r, p := p, e := e, ds := e.descs } : Ctx).copyExtents
    s.modRegion r (fun g => { g with unread := g.unread ++ xs.map (fun x => (x, e.ticket, e.step)) })
  else s

/-- Whether a region's partition still has an update command of a step that has not committed. -/
def State.updating (s : State) (r : Rgn) (step : Nat) : Bool :=
  let rs := match s.partOf r with | some p => s.regionsOf p | none => [r]
  rs.any (fun q => s.regions[q].cmds.any (fun e => e.cmd.op == 0x70 && e.step == step))

/-- A bell publishes the copies of every step whose update commands have all committed (R28). -/
def State.publish (s : State) : State :=
  allRegions.foldl (fun t (r : Rgn) => t.modRegion r (fun g => { g with
    unread := g.unread.filter (fun u => s.updating r u.2.2) })) s

/-- Whether flits of a drain still wait to be sent (R230); one that sends nothing has none (R310). -/
def State.drainWaiting (s : State) (r : Rgn) (e : Entry) : Bool :=
  let l : Lnk := ⟨8 * r.val + bitsAt e.cmd.w4 6 3 % 8, by omega⟩
  let place := s.get SE_SEC0.PLACE (stackOf r e.eng) (bitsAt e.cmd.w4 0 6)
  (match e.work with | .drain _ => true | _ => false) && s.links[l].waiting.any (fun b =>
    let f := b.2
    f.hdr.type.toNat == ftDrain && f.hdr.src.toNat == s.addr && f.hdr.tag.toNat == s.tagOf r &&
    leAt f.payload 1 1 == s.get RGN_SEC_TGT.STORE r (bitsAt e.cmd.w4 9 4) && decide (leAt f.payload 0 1 ≤ 2) &&
    decide (place + (if leAt f.payload 0 1 = 2 then e.cmd.w5 else 0) ≤ leAt f.payload 4 4) &&
    decide (leAt f.payload 4 4 < place + e.cmd.w5 + e.cmd.w6))

/-- Whether a reduce-scatter into a stack waits for its turn of the accumulate unit (R210, R268). -/
def State.awaitsUnit (s : State) (r : Rgn) (e : Entry) : Bool :=
  e.cmd.op == 0x80 && (List.range 6).any (fun k => touchesStack e.posts (6 * r.val + k) &&
    s.regions[r].cmds.any (fun y => y.eng == 39 + k && y.unitAt r k == 2))

/-- COMMAND_COMMIT: the oldest command of engine e commits once the hedges have passed its requests and nothing outside
or in the accumulate unit keeps it; a SHADOW command frees its entry with its digest. -/
def State.commit (s : State) (r : Rgn) (e : Nat) : State :=
  match s.partOf r, headOf s.regions[r].cmds e with
  | some p, some en =>
    if !en.issued then s
    else
      let t := s.takeHedge p en.needs
      let s := t.1
      let en := { en with needs := t.2 }
      let rest := dropHead s.regions[r].cmds e
      if !t.2.isEmpty || !en.work.done || s.drainWaiting r en || s.awaitsUnit r en then
        s.setCmds r (replaceEntry (fun y => y.eng == e) en s.regions[r].cmds)
      else if en.cmd.shadow then
        let d := crc64 (s.digestBytes en)
        let s := (s.setCmds r rest).bump RGN_SEQ_KILL.SHADOWS 1 r
        s.modRegion r (fun g => { g with shadows := g.shadows ++ [{ engine := e, digest := d, twinOrd := en.ord - 1 }] })
      else
        let s := if en.failed then s else s.keepTwin r en
        let s := (s.hideCopies r p en).commitEntry r p en rest
        if en.failed && en.posts.isEmpty && en.cmd.op == 0x70 then
          s.postAll r (updRecord { s := s, r := r, p := p, e := en, ds := en.descs } 2)
        else s
  | _, _ => s
def execCommandCommit (r : Rgn) (e : Eng) (s : State) : Host.Outcome State Fault Refusal := .next (s.commit r e.val)

/-- Sets the state of a unit of HUB_HARDEN: a matrix engine, a softmax pair with its two engines, a region's stacks
(R328). -/
def State.setUnit (s : State) (kind region index v : Nat) : State :=
  match kind with
  | 0 => s.setMe region index v
  | 1 => (s.setMe region (2 * index) v).setMe region (2 * index + 1) v
  | _ => (List.range 6).foldl (fun s i => s.put SE_STAT.STATE v (6 * region + i)) s

/-- Failed attempts of a unit. -/
def State.attemptsOf (s : State) (u : Nat × Nat × Nat) : Nat :=
  ((s.hub.attempts.find? (fun x => x.1 == u)).map (·.2)).getD 0

/-- Whether the wait of a failed unit is over (R332). -/
def State.retryDue (s : State) (u : Nat × Nat × Nat) : Bool := s.hub.retries.all (fun x => x.1 != u || x.2 == 0)

/-- The n-th attempt of a unit has failed (R332): the next one is due after 256 x 2^(n - 1) bells; a fourth failure is
reported. -/
def Hub.attemptFailed (h : Hub) (u : Nat × Nat × Nat) (n : Nat) : Hub :=
  { h with
    attempts := h.attempts.filter (fun x => x.1 != u) ++ [(u, n)]
    retries := h.retries.filter (fun x => x.1 != u) ++ [(u, 256 * 2 ^ (n - 1))]
    reports := if 4 ≤ n then h.reports ++ [(2, u.1 * 65536 + u.2.1 * 256 + u.2.2)] else h.reports }

/-- A mismatch (R330, R332): the unit leaves service again, the attempt has failed. -/
def State.hardenMismatch (s : State) : State :=
  let s := s.bump HUB_HARDEN.MISMATCH 1
  if s.get HUB_HARDEN.STATE = 1 then
    let u := (s.get HUB_HARDEN.KIND, s.get HUB_HARDEN.REGION, s.get HUB_HARDEN.INDEX)
    let s := (s.setUnit u.1 u.2.1 u.2.2 1).put HUB_HARDEN.STATE 3
    let n := s.attemptsOf u + 1
    s.modHub (fun h => { h.attemptFailed u n with mismatched := true })
  else s

/-- SHADOW_COMPARE (R329): the oldest SHADOW digest whose twin has committed is compared and both are forgotten. -/
def State.shadowCompare (s : State) (r : Rgn) : State :=
  let g := s.regions[r]
  match g.shadows.find? (fun x => g.twins.any (fun t => t.1 == x.twinOrd)) with
  | none => s
  | some x =>
    let same := g.twins.any (fun t => t.1 == x.twinOrd && t.2 == x.digest)
    let s := s.modRegion r (fun g => { g with
      shadows := g.shadows.erase x, twins := g.twins.filter (fun t => t.1 != x.twinOrd) })
    let s := (s.bump HUB_HARDEN.COMPARED 1).modHub (fun h => { h with compared := h.compared + 1 })
    if same then s else s.hardenMismatch
def execShadowCompare (r : Rgn) (s : State) : Host.Outcome State Fault Refusal := .next (s.shadowCompare r)

end Sys2Proof.Machine
end

