-- ==== Sys2Proof/Machine/Store.lean ====
section
/-!
DEFINITION. Securing stores: the DRAIN frames of Table 13.2, mirror slots (R312), parity stripes (R313-R315), digests
(R323), and COMMIT and REJECT at the source (R310, R315). Log entry 27 lists what the frames leave open.
-/
namespace Sys2Proof.Machine

/-- Kinds of DRAIN frames (Table 13.2). -/
def dkBegin : Nat := 1
def dkData : Nat := 2
def dkDigest : Nat := 3
def dkEnd : Nat := 4
def dkCommit : Nat := 5
def dkReject : Nat := 6
def dkPair : Nat := 7
def dkPairAck : Nat := 8
def dkRestoreReq : Nat := 9
def dkRestoreData : Nat := 10

/-- Payload of a DRAIN frame. -/
def drainBytes (kind : Nat) (m : DrainMsg) : List Byte :=
  [BitVec.ofNat 8 kind, m.store, m.flags, m.status] ++ toLe 4 m.place.toNat ++ toLe 2 m.offset.toNat ++
  toLe 2 m.count.toNat ++ toLe 4 m.step.toNat ++ m.data

/-- A DRAIN frame from a flit, with its kind. -/
def drainOf (f : Flit) : Nat × DrainMsg :=
  (leAt f.payload 0 1,
   { src := f.hdr.src, tag := f.hdr.tag, store := BitVec.ofNat 8 (leAt f.payload 1 1)
     flags := BitVec.ofNat 8 (leAt f.payload 2 1), status := BitVec.ofNat 8 (leAt f.payload 3 1)
     place := BitVec.ofNat 32 (leAt f.payload 4 4), offset := BitVec.ofNat 16 (leAt f.payload 8 2)
     count := BitVec.ofNat 16 (leAt f.payload 10 2), step := BitVec.ofNat 32 (leAt f.payload 12 4)
     data := f.payload.drop 16 })

/-- A frame of this module. -/
def State.drainMsg (s : State) (tag store flags status place offset step : Nat) (data : List Byte) : DrainMsg :=
  { src := BitVec.ofNat 16 s.addr, tag := BitVec.ofNat 16 tag, store := BitVec.ofNat 8 store
    flags := BitVec.ofNat 8 flags, status := BitVec.ofNat 8 status, place := BitVec.ofNat 32 place
    offset := BitVec.ofNat 16 offset, count := BitVec.ofNat 16 data.length, step := BitVec.ofNat 32 step, data := data }

/-- The flit of a frame. -/
def State.drainFlit (s : State) (dest kind : Nat) (m : DrainMsg) : Flit :=
  s.newFlit ftDrain 5 true dest m.tag.toNat (drainBytes kind m)

/-- FLAGS: sender's rank, P, Q, FULL. -/
def drRank (m : DrainMsg) : Nat := m.flags.toNat % 8
def drP (m : DrainMsg) : Bool := m.flags.getLsbD 3
def drQ (m : DrainMsg) : Bool := m.flags.getLsbD 4
def drFull (m : DrainMsg) : Bool := m.flags.getLsbD 5
/-- The data bytes of a frame. -/
def drData (m : DrainMsg) : List Byte := m.data.take m.count.toNat
/-- A flag of FLAGS. -/
def flagBit (c : Bool) (n : Nat) : Nat := if c then 2 ^ n else 0

/-- The members of a parity group in rank order (R313). -/
def State.pgrp (s : State) (g : Nat) : List Nat := (List.range 8).map (fun j => s.get (HUB_PGRP.ADDR (j % 4)) g (j / 4))
/-- Rank of an address in a parity group. -/
def State.rankIn (s : State) (g addr : Nat) : Option Nat := (s.pgrp g).findIdx? (· == addr)

/-- Granules of a slot of a store, and granules for its digests (R333): a parity store keeps those of two members. -/
def State.slotGranules (s : State) (q : Nat) : Nat :=
  let n := s.get HUB_SEC_STORE0.GRANULES q
  if s.get HUB_SEC_STORE0.KIND q = 2 then 2 * ((n + 7) / 8) else n
def State.digestGranules (s : State) (q : Nat) : Nat :=
  let n := s.get HUB_SEC_STORE0.GRANULES q
  let members := if s.get HUB_SEC_STORE0.KIND q = 2 then 2 else 1
  (8 * members * ((n + 15) / 16) + 65535) / 65536

/-- First byte of a slot of a store. -/
def State.slotKey (s : State) (q slot : Nat) : Nat :=
  (s.get HUB_SEC_STORE0.BASE q + slot * (s.slotGranules q + s.digestGranules q)) * 65536
/-- Committed and incoming slot. -/
def State.committed (s : State) (q : Nat) : Nat := s.get HUB_SEC_STORE1.CUR q
def State.incoming (s : State) (q : Nat) : Nat := 1 - s.get HUB_SEC_STORE1.CUR q

/-- Place k of a mirror slot; the P or Q stripe k of a parity slot. -/
def State.placeKey (s : State) (q slot place : Nat) (isQ : Bool) : Nat :=
  let n := s.get HUB_SEC_STORE0.GRANULES q
  s.slotKey q slot + 65536 *
    (if s.get HUB_SEC_STORE0.KIND q = 2 then place / 8 + (if isQ then (n + 7) / 8 else 0) else place)

/-- Digest of a tile in a slot; `which` is 0 for the member next below in rank, 1 for the one below that (R323). -/
def State.digestKey (s : State) (q slot which tile : Nat) : Nat :=
  s.slotKey q slot + s.slotGranules q * 65536 + 8 * (which * ((s.get HUB_SEC_STORE0.GRANULES q + 15) / 16) + tile)

/-- Multiplication by two in the field of R314. -/
def gfDouble (b : Byte) : Byte := if b.getLsbD 7 then (b <<< 1) ^^^ 0x1D else b <<< 1
/-- Multiplication by g to a power. -/
def gfScale : Nat → Byte → Byte
  | 0, b => b
  | n + 1, b => gfScale n (gfDouble b)

/-- XOR of two byte runs. -/
def xorBytes (a b : List Byte) : List Byte := List.zipWith (· ^^^ ·) a b

/-- Copies n bytes of memory. -/
def State.copyRun (s : State) (src dst n : Nat) : State := s.store dst (s.bytes src n)

/-- Whether a store takes frames of a source (R312, R313). -/
def State.storeTakes (s : State) (q src : Nat) : Bool :=
  match s.get HUB_SEC_STORE0.KIND q with
  | 1 => s.get HUB_SEC_STORE1.SRC q == src
  | 2 => (s.pgrp (s.get HUB_SEC_STORE0.PGRP q)).contains src
  | _ => false

/-- The running work of a store for a step. -/
def State.storeWork (s : State) (q step : Nat) : Option StoreWork :=
  s.hub.stores.find? (fun w => w.store == q && w.step == step)

/-- Records the running work of a store. -/
def State.putWork (s : State) (w : StoreWork) : State :=
  s.modHub (fun h => { h with stores := h.stores.filter (fun x => x.store != w.store) ++ [w] })

/-- The final drain that a frame of a holder answers: region and entry (R310). -/
def State.drainFor (s : State) (m : DrainMsg) : Option (Rgn × Entry) :=
  allRegions.findSome? (fun r =>
    if s.regionOfTag r m.tag.toNat then
      (s.regions[r].cmds.find? (fun e =>
        e.issued && e.cmd.op == 0x74 &&
        (match e.work with | .drain hs => hs.contains m.src.toNat | _ => false) &&
        s.get SE_SEC0.PLACE (stackOf r e.eng) (bitsAt e.cmd.w4 0 6) == m.place.toNat &&
        s.get RGN_SEC_TGT.STORE r (bitsAt e.cmd.w4 9 4) == m.store.toNat &&
        s.get SE_BUF1.STEP (stackOf r e.eng) (bitsAt e.cmd.w4 0 6) == m.step.toNat)).map (fun e => (r, e))
    else none)

/-- COMMIT at the source (R310): one holder fewer to wait for. -/
def State.drainCommit (s : State) (m : DrainMsg) : State :=
  match s.drainFor m with
  | some (r, e) => match e.work with
    | .drain hs => s.putEntry r { e with work := .drain (hs.filter (fun a => a != m.src.toNat)) }
    | _ => s
  | none => s

/-- REJECT at the source (R315): the final drain is reported failed at its commit. -/
def State.drainReject (s : State) (m : DrainMsg) : State :=
  match s.drainFor m with
  | some (r, e) => s.putEntry r { e with failed := true, posts := [], work := .none }
  | none => s

/-- Answers a source: locally when it is this module. -/
def State.storeReply (s : State) (r : Rgn) (kind : Nat) (dest tag q place step status : Nat) : State :=
  let m := s.drainMsg tag q 0 status place 0 step []
  if dest = s.addr then (if kind = dkCommit then s.drainCommit m else s.drainReject m)
  else s.send r (s.drainFlit dest kind m)

/-- Answers every END of a generation that has come. -/
def State.replyEnds (s : State) (r : Rgn) (kind status tag : Nat) (w : StoreWork) : State :=
  w.ends.foldl (fun s e => s.storeReply r kind e.1 tag w.store e.2.1 w.step status) s

/-- Starts a generation in the incoming slot; parity stripes start at zero, or from the committed stripes (R315). -/
def State.beginWork (s : State) (q step : Nat) (full : Bool) : State × StoreWork :=
  let s := s.put HUB_SEC_STORE1.WORKING 1 q
  let n := s.slotGranules q * 65536
  let s := if s.get HUB_SEC_STORE0.KIND q = 2 then
      (if full then s.zeroFill (s.slotKey q (s.incoming q)) (s.slotKey q (s.incoming q) + n)
       else s.copyRun (s.slotKey q (s.committed q)) (s.slotKey q (s.incoming q)) n)
    else s
  (s, { store := q, step := step, full := full, mixed := false, begun := [], ends := [], received := [], digests := [] })

/-- BEGIN (R312, R315): another step restarts the incoming slot; a dirty form first copies the committed places of the
pair; a second form in a parity generation rejects it. -/
def State.storeBegin (s : State) (r : Rgn) (m : DrainMsg) : State :=
  let q := m.store.toNat
  let parity := s.get HUB_SEC_STORE0.KIND q == 2
  if !s.storeTakes q m.src.toNat then s
  else
    let n := leAt m.data 0 4
    let t := match s.storeWork q m.step.toNat with
      | some w => (s, w)
      | none => s.beginWork q m.step.toNat (drFull m)
    let s := t.1
    let w := t.2
    let p := m.place.toNat
    let s := if !parity && !drFull m then
        s.copyRun (s.placeKey q (s.committed q) p false) (s.placeKey q (s.incoming q) p false) (n * 65536)
      else s
    let clash := parity && w.full != drFull m && !w.mixed
    let w := { w with
      mixed := w.mixed || clash
      begun := w.begun.filter (fun b => !(b.1 == m.src.toNat && b.2.1 == p)) ++ [(m.src.toNat, p, n)]
      ends := w.ends.filter (fun e => !(e.1 == m.src.toNat && e.2.1 == p))
      received := w.received.filter (fun x => !(x.1 / 4 / 2 ^ 20 == m.src.toNat && decide (p ≤ x.1 / 4 % 2 ^ 20) &&
        decide (x.1 / 4 % 2 ^ 20 < p + n))) }
    let s := s.putWork w
    if clash then (s.bump HUB_SEC_ERR.REJECT 1).replyEnds r dkReject 4 m.tag.toNat w else s

/-- DATA (R312, R315): bytes of a mirror granule, or a contribution to a P or a Q stripe. -/
def State.storeData (s : State) (m : DrainMsg) : State :=
  let q := m.store.toNat
  let p := m.place.toNat
  let o := m.offset.toNat
  match s.storeWork q m.step.toNat with
  | none => s
  | some w =>
    if !s.storeTakes q m.src.toNat || w.mixed || s.get HUB_SEC_STORE0.GRANULES q ≤ p || 65536 < o + m.count.toNat then s
    else
      let parity := s.get HUB_SEC_STORE0.KIND q == 2
      let id := (m.src.toNat * 2 ^ 20 + p) * 4 + (if drP m then 1 else if drQ m then 2 else 0)
      let w := { w with received := kset w.received id (kget w.received id 0 + m.count.toNat) }
      let s := s.putWork w
      let key (isQ : Bool) : Nat := s.placeKey q (s.incoming q) p isQ + o
      let add (s : State) (isQ : Bool) : State :=
        let x := if isQ then (drData m).map (gfScale (drRank m)) else drData m
        s.store (key isQ) (xorBytes (s.bytes (key isQ) x.length) x)
      if !parity then s.store (key false) (drData m)
      else if drP m then add s false
      else if drQ m then add s true
      else s

/-- DIGEST (R323): digests of tiles PLACE and on go into the incoming slot. -/
def State.storeDigest (s : State) (m : DrainMsg) : State :=
  let q := m.store.toNat
  match s.storeWork q m.step.toNat with
  | none => s
  | some w =>
    if !s.storeTakes q m.src.toNat then s
    else
      let which := if s.get HUB_SEC_STORE0.KIND q = 2 then
          (((s.rankIn (s.get HUB_SEC_STORE0.PGRP q) s.addr).getD 0 + 8 - drRank m) % 8 + 7) % 8 % 2
        else 0
      let n := m.count.toNat / 8
      let s := s.store (s.digestKey q (s.incoming q) which m.place.toNat) (m.data.take (8 * n))
      s.putWork { w with digests := w.digests.filter (fun d => !(d.1 == m.src.toNat && decide (m.place.toNat ≤ d.2) &&
          decide (d.2 < m.place.toNat + n))) ++ (List.range n).map (fun i => (m.src.toNat, m.place.toNat + i)) }

/-- Whether an END has every granule and digest that it announces. -/
def StoreWork.endMet (w : StoreWork) (announced : Nat) (e : Nat × Nat × Nat × Nat) : Bool :=
  let n := ((w.begun.find? (fun b => b.1 == e.1 && b.2.1 == e.2.1)).map (·.2.2)).getD 0
  (w.received.filter (fun x => x.2 == 65536 && x.1 / 4 / 2 ^ 20 == e.1 && decide (e.2.1 ≤ x.1 / 4 % 2 ^ 20) &&
    decide (x.1 / 4 % 2 ^ 20 < e.2.1 + n))).length == announced &&
  decide (e.2.2.2 ≤ (w.digests.filter (fun d => d.1 == e.1 && decide (e.2.1 / 16 ≤ d.2) &&
    decide (d.2 < e.2.1 / 16 + (n + 15) / 16))).length)

/-- END (R312, R315): the store commits once END has come from every one of its pairs, of all eight members for parity,
with everything announced; a mixed generation draws REJECT. -/
def State.storeEnd (s : State) (r : Rgn) (m : DrainMsg) : State :=
  let q := m.store.toNat
  match s.storeWork q m.step.toNat with
  | none => s
  | some w =>
    if !s.storeTakes q m.src.toNat then s
    else if w.mixed then s.storeReply r dkReject m.src.toNat m.tag.toNat q m.place.toNat w.step 4
    else
      let e := (m.src.toNat, m.place.toNat, leAt m.data 0 4, leAt m.data 4 4)
      let w := { w with ends := w.ends.filter (fun x => !(x.1 == e.1 && x.2.1 == e.2.1)) ++ [e] }
      let want := (s.get HUB_SEC_STORE0.PAIRS q + 1) * (if s.get HUB_SEC_STORE0.KIND q = 2 then 8 else 1)
      if w.ends.length == want && w.ends.all (fun e => w.endMet e.2.2.1 e) then
        let s := (s.put HUB_SEC_STORE1.CUR (s.incoming q) q).put HUB_SEC_STORE1.STEP w.step q
        let s := (s.put HUB_SEC_STORE1.VALID 1 q).put HUB_SEC_STORE1.WORKING 0 q
        let s := s.modHub (fun h => { h with stores := h.stores.filter (fun x => x.store != q) })
        s.replyEnds r dkCommit 0 m.tag.toNat w
      else s.putWork w

/-- Runs a frame unless its tag has been torn down (R302). -/
def State.unlessTorn (s : State) (m : DrainMsg) (f : State → State) : State :=
  if s.torn m.tag.toNat then s.discardTorn m.tag.toNat else f s

/-- A DRAIN frame arrives on a link as a command of its own (R246, R302). -/
def State.drainRow (s : State) (l : Lnk) (m : DrainMsg) (f : State → State) : State := s.started l (·.unlessTorn m f)

/-- BEGIN. -/
def execBegin (l : Lnk) (m : DrainMsg) (s : State) : Host.Outcome State Fault Refusal :=
  .next (s.drainRow l m (·.storeBegin (linkRegion l) m))

/-- DATA. -/
def execData (l : Lnk) (m : DrainMsg) (s : State) : Host.Outcome State Fault Refusal :=
  .next (s.drainRow l m (·.storeData m))

/-- END_FRAME. -/
def execEndFrame (l : Lnk) (m : DrainMsg) (s : State) : Host.Outcome State Fault Refusal :=
  .next (s.drainRow l m (·.storeEnd (linkRegion l) m))

/-- COMMIT. -/
def execCommit (l : Lnk) (m : DrainMsg) (s : State) : Host.Outcome State Fault Refusal :=
  .next (s.drainRow l m (·.drainCommit m))

/-- REJECT. -/
def execReject (l : Lnk) (m : DrainMsg) (s : State) : Host.Outcome State Fault Refusal :=
  .next (s.drainRow l m (·.drainReject m))

end Sys2Proof.Machine
end

