-- ==== Sys2Proof/Machine/Drain.lean ====
section
/-!
DEFINITION. SE_DRAIN (R215, R222, R230, R309, R310, R312, R315, R317, R323).
-/
namespace Sys2Proof.Machine

/-- PARAM of SE_DRAIN (Table 9.6). -/
def drPair (c : Cmd) : Nat := bitsAt c.w4 0 6
def drTarget (c : Cmd) : Nat := bitsAt c.w4 9 4
def drParity (c : Cmd) : Bool := flag c.w4 13
def drDirty (c : Cmd) : Bool := flag c.w4 14

/-- A register field of the drained pair. -/
def Ctx.pairGet (x : Ctx) (f : Fld) : Nat := x.s.get f x.stack (drPair x.c)
/-- The buffer that the command reads (R215). -/
def Ctx.drBuf (x : Ctx) : Nat := if x.pairGet SE_BUF1.DRAIN_PEND = 0 then x.pairGet SE_BUF1.CUR else x.pairGet SE_BUF1.DRAIN_BUF
/-- First 64 KiB granule of that buffer. -/
def Ctx.drBase (x : Ctx) : Nat := x.s.bufBase x.stack (drPair x.c) x.drBuf
/-- Whether the command is the first, or the final one of its drain. -/
def Ctx.drFirst (x : Ctx) : Bool := x.pairGet SE_BUF1.DRAIN_PEND == 0
def Ctx.drFinal (x : Ctx) : Bool := decide (x.pairGet SE_BUF0.GRANULES ≤ x.c.w5 + x.c.w6)

/-- Whether a step is a securing step of a partition (R309). -/
def State.securing (s : State) (p step : Nat) : Bool :=
  let now := s.get HUB_SEC_CTRL.AT_STEP p
  let old := kget s.hub.secOld p (2 ^ 32)
  let a := if now ≤ step then now else old % 2 ^ 32
  let i := if now ≤ step then s.get HUB_SEC_CTRL.INTERVAL p else old / 2 ^ 32
  decide (a ≤ step) && (step - a) % i == 0

/-- Whether the drain sends its generation (R310). -/
def Ctx.drSends (x : Ctx) : Bool :=
  x.s.securing x.p (x.pairGet SE_BUF1.STEP) && decide (x.pairGet SE_SEC1.SEC_STEP < x.pairGet SE_BUF1.STEP)

/-- Whether an entry of the securing table names a parity group: no mirror partner (log entry 27). -/
def State.tgtParity (s : State) (r t : Nat) : Bool := s.get RGN_SEC_TGT.ADDR r t == 0xFFFF

/-- The holders of a target's generations: the partner, or the group in rank order. -/
def State.holders (s : State) (r t : Nat) : List Nat :=
  if s.tgtParity r t then s.pgrp (s.get RGN_SEC_TGT.PGRP r t) else [s.get RGN_SEC_TGT.ADDR r t]

/-- First byte of granule i of the buffer, and of the secured copy (R315). -/
def Ctx.drKey (x : Ctx) (i : Nat) : Nat := (x.drBase + i) * 65536
def Ctx.secKey (x : Ctx) (i : Nat) : Nat := stackBase x.stack + (x.pairGet SE_SEC0.SEC_BASE + i) * 65536

/-- DA range of the granules: all of them for the digests of a sending final command. -/
def Ctx.drRange (x : Ctx) : Nat × Nat :=
  if x.drSends && x.drFinal then (x.drKey 0, x.drKey (x.pairGet SE_BUF0.GRANULES))
  else (x.drKey x.c.w5, x.drKey (x.c.w5 + x.c.w6))

/-- DA ranges read: none by a drain that sends nothing (R310). -/
def drainRanges (x : Ctx) : List (Nat × Nat) × List (Nat × Nat) := (if x.drSends then [x.drRange] else [], [])

/-- Checks of SE_DRAIN (R215, R230, R233, R317). -/
def drainCodes (x : Ctx) : List Nat :=
  let tag := x.s.get PROC_PART_CFG.JOB_TAG x.p
  let t := drTarget x.c
  let next := if x.drFirst then 0 else x.pairGet SE_BUF1.DRAIN_NEXT
  let st := x.s.get RGN_SEC_TGT.STATE x.r t
  let g := x.pairGet SE_BUF0.GRANULES
  let rs := [x.drRange] ++ (if drParity x.c then [(x.secKey 0, x.secKey g)] else [])
  bad (rsvSet x.c.w4 0x7FFF || x.c.w7 != 0 || 2 ^ 20 ≤ x.c.w5 || x.c.w6 == 0 || 65536 < x.c.w6 || g < x.c.w5 + x.c.w6 ||
    x.c.w5 != next) 0x0C ++
  bad (!(st == 1 || st == 2) || drParity x.c != x.s.tgtParity x.r t) 0x0C ++
  bad (g != 0 && !rs.all (fun a => inStack x.stack a.1 a.2)) 6 ++
  bad (g != 0 && !rs.all (fun a => x.s.ownsRange true tag a.1 a.2)) 7

/-- Bytes of granule i of the buffer, and its difference from the secured copy. -/
def Ctx.drBytes (x : Ctx) (i : Nat) : List Byte := (List.range 65536).map (fun b => x.rd (x.drKey i + b))
def Ctx.drDelta (x : Ctx) (i : Nat) : List Byte :=
  xorBytes (x.drBytes i) ((List.range 65536).map (fun b => x.rd (x.secKey i + b)))

/-- Whether the form is the full one (R312, R315). -/
def Ctx.drFullForm (x : Ctx) : Bool :=
  let valid := x.pairGet SE_SEC0.SEC_VALID == 1
  if drParity x.c then !(drDirty x.c && valid)
  else !(drDirty x.c && valid && x.pairGet SE_SEC1.SEC_STEP + 1 == x.pairGet SE_BUF1.STEP)

/-- Granules that the command sends, with their bytes. -/
def Ctx.drGranules (x : Ctx) : List (Nat × List Byte) :=
  let is := (List.range x.c.w6).map (· + x.c.w5)
  if x.drFullForm then is.map (fun i => (i, x.drBytes i))
  else if drParity x.c then (is.map (fun i => (i, x.drDelta i))).filter (fun g => g.2.any (· != 0))
  else (is.filter (fun i => x.s.dirty.contains (x.drBase + i))).map (fun i => (i, x.drBytes i))

/-- One CRC-64 for each MiB of the whole buffer (R322, R323). -/
def Ctx.drDigests (x : Ctx) : List Nat :=
  let n := x.pairGet SE_BUF0.GRANULES
  (List.range ((n + 15) / 16)).map (fun t =>
    crc64 ((List.range (min 16 (n - 16 * t) * 65536)).map (fun b => x.rd (x.drKey (16 * t) + b))))

/-- A frame on its way: destination, kind, frame. -/
abbrev Frame := Nat × Nat × DrainMsg

/-- Frames of a run of bytes of one place: 224 bytes each (R316). -/
def placeFrames (s : State) (dest kind tag q flags place step : Nat) (bs : List Byte) : List Frame :=
  let ps := chunk 224 bs
  (List.range ps.length).map (fun i =>
    (dest, kind, s.drainMsg tag q flags 0 place (224 * i) step (ps.getD i [])))

/-- Frames of digests from a tile on, 28 in each. -/
def digestFrames (s : State) (dest tag q flags tile step : Nat) (ds : List Nat) : List Frame :=
  let ps := chunk 224 (ds.flatMap (toLe 8))
  (List.range ps.length).map (fun i =>
    (dest, dkDigest, s.drainMsg tag q flags 0 (tile + 28 * i) 0 step (ps.getD i [])))

/-- Index in `drainSent`. -/
def Ctx.sentIx (x : Ctx) (holder : Nat) : Nat := 8 * (64 * x.stack + drPair x.c) + holder

/-- Everything one sending command sends, and the granules it sends to each holder, by place in the list of holders. -/
def Ctx.drFrames (x : Ctx) : List Frame × List Nat :=
  let s := x.s
  let t := drTarget x.c
  let tag := s.get PROC_PART_CFG.JOB_TAG x.p
  let q := s.get RGN_SEC_TGT.STORE x.r t
  let hs := s.holders x.r t
  let parity := drParity x.c
  let rank := if parity then (hs.findIdx? (· == s.addr)).getD 0 else 0
  let base := rank + flagBit x.drFullForm 5
  let place := x.pairGet SE_SEC0.PLACE
  let step := x.pairGet SE_BUF1.STEP
  let old := if x.pairGet SE_SEC0.SEC_VALID = 1 then x.pairGet SE_SEC1.SEC_STEP else 0
  let gs := x.drGranules
  let holderP (k : Nat) : Nat := k % 8
  let holderQ (k : Nat) : Nat := (k + 1) % 8
  let begins := if x.drFirst then hs.map (fun a =>
      (a, dkBegin, s.drainMsg tag q base 0 place 0 step (toLe 4 (x.pairGet SE_BUF0.GRANULES) ++ toLe 4 old))) else []
  let data := gs.flatMap (fun g =>
    let k := place + g.1
    if parity then
      placeFrames s (hs.getD (holderP k) 0) dkData tag q (base + 8) k step g.2 ++
      placeFrames s (hs.getD (holderQ k) 0) dkData tag q (base + 16) k step g.2
    else placeFrames s (hs.getD 0 0) dkData tag q base k step g.2)
  let counts := (List.range hs.length).map (fun h =>
    (gs.filter (fun g => !parity || holderP (place + g.1) == h || holderQ (place + g.1) == h)).length)
  let ds := if x.drFinal then x.drDigests else []
  let takes (h : Nat) : Bool := !parity || h == (rank + 1) % 8 || h == (rank + 2) % 8
  let ends := if x.drFinal then (List.range hs.length).flatMap (fun h =>
      let before := if x.drFirst then 0 else kget s.hub.drainSent (x.sentIx h) 0
      (if takes h then digestFrames s (hs.getD h 0) tag q base (place / 16) step ds else []) ++
      [(hs.getD h 0, dkEnd, s.drainMsg tag q base 0 place 0 step
        (toLe 4 (before + counts.getD h 0) ++ toLe 4 (if takes h then ds.length else 0)))]) else []
  (begins ++ data ++ ends, counts)

/-- Effect of SE_DRAIN at its commit (R215, R222, R312, R315). -/
def drainEffect (x : Ctx) : Effect :=
  let k := x.stack
  let p := drPair x.c
  let last := x.drSends && x.drFinal
  { posts := [.field SE_BUF1.DRAIN_NEXT k p 0 (x.c.w5 + x.c.w6), .clean (x.drBase + x.c.w5) (x.drBase + x.c.w5 + x.c.w6)] ++
      (if x.drFinal then [.field SE_BUF1.DRAIN_PEND k p 0 0] else []) ++
      (if last && drParity x.c then
        ((List.range (x.pairGet SE_BUF0.GRANULES)).filter (fun i => (x.drDelta i).any (· != 0))).map (fun i =>
          .bytes (x.secKey i) (x.drBytes i))
       else []) ++
      (if last then [.field SE_SEC1.SEC_STEP k p 0 (x.pairGet SE_BUF1.STEP), .field SE_SEC0.SEC_VALID k p 0 1] else [])
    work := if last then .drain (x.s.holders x.r (drTarget x.c)) else if x.drSends then .drain [] else .none }

/-- Sends a frame on a link of the region, or hands it to the module's own store. -/
def State.sendFrame (s : State) (r : Rgn) (l : Lnk) (f : Frame) : State :=
  if f.1 = s.addr then
    if f.2.1 = dkBegin then s.storeBegin r f.2.2
    else if f.2.1 = dkData then s.storeData f.2.2
    else if f.2.1 = dkDigest then s.storeDigest f.2.2
    else s.storeEnd r f.2.2
  else s.enqueueFlit l (s.drainFlit f.1 f.2.1 f.2.2)

/-- What an issued SE_DRAIN does at once: DRAIN_PEND, DRAIN_BUF, the frames (R215, R230). -/
def State.startDrain (s : State) (r : Rgn) (x : Ctx) : State :=
  let k := x.stack
  let p := drPair x.c
  let s := if x.drFirst then (s.put SE_BUF1.DRAIN_PEND 1 k p).put SE_BUF1.DRAIN_BUF x.drBuf k p else s
  let s := s.modHub (fun h =>
    let n := kget h.drainedTo (64 * k + p) 0
    { h with drainedTo := kset h.drainedTo (64 * k + p) (n ||| 2 ^ drTarget x.c) })
  if x.drSends then
    let fs := x.drFrames
    let l : Lnk := ⟨8 * r.val + bitsAt x.c.w4 6 3 % 8, by omega⟩
    let s := (List.range fs.2.length).foldl (fun s h => s.modHub (fun u =>
      let n := if x.drFirst then 0 else kget u.drainSent (x.sentIx h) 0
      { u with drainSent := kset u.drainSent (x.sentIx h) (n + fs.2.getD h 0) })) s
    fs.1.foldl (fun s f => s.sendFrame r l f) s
  else s

/-- Commits a command at once when it is the oldest of its engine (R116). -/
def State.commitNow (s : State) (r : Rgn) (e ticket : Nat) : State :=
  match headOf s.regions[r].cmds e with
  | some h => if h.ticket = ticket then s.commit r e else s
  | none => s

/-- SE_DRAIN: one that sends nothing commits on issue (R310). -/
def execSeDrain (k : Stk) (x : EngCheck) (s : State) : Host.Outcome State Fault Refusal :=
  let r := stackRegion k
  let t := (s.issue r (seEng k) 0x74 (seReady k) drainRanges drainCodes drainEffect).checkStack k (seEng k) s.ticket x
  .next (match t.issuedEntry r (seEng k) s.ticket, t.partOf r with
    | some e, some p =>
      let x : Ctx := { s := s, r := r, p := p, e := e, ds := [] }
      let t := if e.failed then t else t.startDrain r x
      if x.drSends then t else t.commitNow r (seEng k) s.ticket
    | _, _ => t)

end Sys2Proof.Machine
end

