-- ==== Sys2Proof/Machine/Restore.lean ====
section
/-!
DEFINITION. Restoring a pair (R324): RESTORE_REQ at a holder, RESTORE_DATA and digests at the restoring module. Log
entry 28 says how a restore starts and what its frames leave open.
-/
namespace Sys2Proof.Machine

/-- A pair that a frame of a restore names: stack, pair, target entry. -/
def State.restorePair (s : State) (src store place : Nat) : Option (Nat × Nat × Nat) :=
  (List.range 24).findSome? (fun k => (List.range 64).findSome? (fun p =>
    let first := s.get SE_SEC0.PLACE k p
    if s.get SE_SEC0.CLASS k p != 0 && decide (first ≤ place) && decide (place < first + s.get SE_BUF0.GRANULES k p) then
      ((List.range 16).find? (fun t =>
        s.get RGN_SEC_TGT.STORE (k / 6) t == store && (s.holders (k / 6) t).contains src)).map (fun t => (k, p, t))
    else none))

/-- First byte of granule i of the CUR buffer of a pair, and of its secured copy. -/
def State.curKey (s : State) (k p i : Nat) : Nat := (s.bufBase k p (s.get SE_BUF1.CUR k p) + i) * 65536
def State.secCopyKey (s : State) (k p i : Nat) : Nat := stackBase k + (s.get SE_SEC0.SEC_BASE k p + i) * 65536

/-- A restore is over (R324): STEP holds the generation, DRAIN_PEND is clear, and a parity pair has its secured copy. -/
def State.restored (s : State) (x : Restore) : State :=
  let k := x.stack
  let p := x.pair
  let s := (s.put SE_BUF1.STEP x.step k p).put SE_BUF1.DRAIN_PEND 0 k p
  let s := s.modHub (fun h => { h with restores := h.restores.filter (fun y => !(y.stack == k && y.pair == p)) })
  if s.tgtParity (k / 6) x.target || 2 ≤ s.get SE_SEC0.CLASS k p then
    (s.copyRun (s.curKey k p 0) (s.secCopyKey k p 0) (65536 * s.get SE_BUF0.GRANULES k p)).put SE_SEC1.SEC_STEP x.step k p
  else s

/-- Sends the bytes and the digests of a run of places of this module that a holder was asked for: a stripe of the
store, the committed slot of a mirror, or the secured copy of a pair. -/
def State.serveRestore (s : State) (r : Rgn) (m : DrainMsg) : State :=
  let q := m.store.toNat
  let place := m.place.toNat
  let n := leAt m.data 0 4
  let step := m.step.toNat
  let dest := m.src.toNat
  let kind := s.get HUB_SEC_STORE0.KIND q
  let parity := kind == 2
  let rank := if parity then (s.rankIn (s.get HUB_SEC_STORE0.PGRP q) s.addr).getD 0 else 0
  let held := s.bit HUB_SEC_STORE1.VALID q && s.get HUB_SEC_STORE1.STEP q == step
  let asked := (List.range n).map (· + place)
  let frames : List Frame :=
    if !s.storeTakes q dest then []
    else if !parity then
      if held then asked.flatMap (fun k => placeFrames s dest dkRestoreData 0 q 0 k step
        (s.bytes (s.placeKey q (s.committed q) k false) 65536)) else []
    else if drP m || drQ m then
      if held then (asked.filter (fun k => (if drP m then k else k + 1) % 8 == rank)).flatMap (fun k =>
        placeFrames s dest dkRestoreData 0 q (rank + flagBit (drP m) 3 + flagBit (drQ m) 4) k step
          (s.bytes (s.placeKey q (s.committed q) k (drQ m)) 65536)) else []
    else asked.flatMap (fun k =>
      match s.restorePair s.addr q k with
      | some (a, p, _) =>
        if s.get SE_SEC1.SEC_STEP a p == step then
          placeFrames s dest dkRestoreData 0 q rank k step (s.bytes (s.secCopyKey a p (k - s.get SE_SEC0.PLACE a p)) 65536)
        else []
      | none => placeFrames s dest dkRestoreData 0 q rank k step (List.replicate 65536 0))
  let which := (rank + 8 - drRank m + 7) % 8
  let tiles := (n + 15) / 16
  let ds := if held && s.storeTakes q dest && (!parity || decide (which < 2)) then
      digestFrames s dest 0 q rank (place / 16) step ((List.range tiles).map (fun t =>
        s.num (s.digestKey q (s.committed q) (if parity then which else 0) (place / 16 + t)) 8))
    else []
  (frames ++ ds).foldl (fun s f => s.send r (s.drainFlit f.1 f.2.1 f.2.2)) s

/-- The running restore of a pair, or a new one. -/
def State.restoreOf (s : State) (k p t step : Nat) : Restore :=
  (s.hub.restores.find? (fun x => x.stack == k && x.pair == p && x.step == step)).getD
    { stack := k, pair := p, target := t, step := step, got := [], digests := [], second := [], done := [], own := false }

/-- Records a restore. -/
def State.putRestore (s : State) (x : Restore) : State :=
  s.modHub (fun h => { h with
    restores := h.restores.filter (fun y => !(y.stack == x.stack && y.pair == x.pair)) ++ [x] })

/-- RESTORE_REQ (R324): a holder sends the generation. A request of the module's own Icholt restores a surviving member's
parity pair from its own secured copy, and the two holders of its digests are asked for them. -/
def State.restoreReq (s : State) (r : Rgn) (m : DrainMsg) : State :=
  if m.src.toNat = s.addr then
    match s.restorePair s.addr m.store.toNat m.place.toNat with
    | some (k, p, t) =>
      let r : Rgn := ⟨k / 6 % 4, Nat.mod_lt _ (by omega)⟩
      if s.tgtParity r t && s.get SE_SEC1.SEC_STEP k p == m.step.toNat && !s.regionLoaded r &&
          s.get SE_BUF1.STEP k p != m.step.toNat then
        let n := s.get SE_BUF0.GRANULES k p
        let hs := s.holders r t
        let rank := (hs.findIdx? (· == s.addr)).getD 0
        let s := s.copyRun (s.secCopyKey k p 0) (s.curKey k p 0) (65536 * n)
        let s := s.putRestore { s.restoreOf k p t m.step.toNat with own := true }
        [1, 2].foldl (fun s i => s.send r (s.drainFlit (hs.getD ((rank + i) % 8) 0) dkRestoreReq
          (s.drainMsg 0 m.store.toNat (rank + 8) 0 (s.get SE_SEC0.PLACE k p) 0 m.step.toNat (toLe 4 n)))) s
      else s
    | none => s
  else s.serveRestore r m

/-- Whether a stripe is rebuilt from Q: the lost member held its P, or the other syndrome was asked for (R324). -/
def useQ (lost place : Nat) (second : Bool) : Bool := (place % 8 == lost) != second

/-- Contributors that a granule needs: the mirror (10), or the syndrome (8 P, 9 Q) and the other members' ranks. -/
def contributors (parity : Bool) (lost place : Nat) (second : Bool) : List Nat :=
  if parity then (if useQ lost place second then 9 else 8) :: (List.range 8).filter (· != lost) else [10]

/-- Key of a contribution in `got`. -/
def gotIx (place c : Nat) : Nat := 16 * place + c

/-- The tile of a pair that holds a place: tiles count from the pair's first place (R322). -/
def tileOf (first place : Nat) : Nat := first / 16 + (place - first) / 16

/-- Where a tile of a restore comes from (R324): the entry, and whether the stripes come from their other syndrome. The
other source of a pair secured both ways is the group of the region's paired parity entry. -/
def State.sourceOf (s : State) (x : Restore) (tile : Nat) : Nat × Bool :=
  let r := x.stack / 6
  if !x.second.contains tile then (x.target, false)
  else if s.tgtParity r x.target then (x.target, true)
  else if s.get SE_SEC0.CLASS x.stack x.pair = 3 then
    (((List.range 16).find? (fun t => s.tgtParity r t && s.get RGN_SEC_TGT.STATE r t == 1)).getD x.target, false)
  else (x.target, false)

/-- Whether every contribution to a granule has come; a member's own copy is whole. -/
def Restore.whole (x : Restore) (parity : Bool) (lost : Nat) (second : Bool) (place : Nat) : Bool :=
  x.own || (contributors parity lost place second).all (fun c => kget x.got (gotIx place c) 0 == 65536)

/-- Asks the source of a tile for it (R324): the stripes with the members' copies, or the partner. -/
def State.askOther (s : State) (x : Restore) (tile first n : Nat) : State :=
  let r : Rgn := ⟨x.stack / 6 % 4, Nat.mod_lt _ (by omega)⟩
  let place := first + 16 * (tile - first / 16)
  let count := min (first + n) (place + 16) - place
  let t := (s.sourceOf x tile).1
  let q := s.get RGN_SEC_TGT.STORE r t
  let hs := s.holders r t
  let req (a flags : Nat) (s : State) : State :=
    s.send r (s.drainFlit a dkRestoreReq (s.drainMsg 0 q flags 0 place 0 x.step (toLe 4 count)))
  if s.tgtParity r t then
    let lost := (hs.findIdx? (· == s.addr)).getD 0
    (List.range 8).foldl (fun s j =>
      if j = lost then s
      else req (hs.getD j 0) lost (req (hs.getD j 0) (lost + 16) (req (hs.getD j 0) (lost + 8) s))) s
  else req (hs.getD 0 0) 0 s

/-- Checks a tile once its granules and its digest have come (R324): a mismatch takes the tile from the other source, a
second one, or one with no other source, fails the restore. -/
def State.checkTile (s : State) (x : Restore) (tile : Nat) : State :=
  let k := x.stack
  let p := x.pair
  let src := s.sourceOf x tile
  let parity := s.tgtParity (k / 6) src.1
  let lost := ((s.holders (k / 6) src.1).findIdx? (· == s.addr)).getD 0
  let first := s.get SE_SEC0.PLACE k p
  let n := s.get SE_BUF0.GRANULES k p
  let places := (List.range n).filterMap (fun i => if tileOf first (first + i) = tile then some (first + i) else none)
  let d := kget x.digests tile (2 ^ 64)
  if d = 2 ^ 64 || x.done.contains tile || !places.all (x.whole parity lost src.2) then s.putRestore x
  else if crc64 (places.flatMap (fun q => s.bytes (s.curKey k p (q - first)) 65536)) = d then
    let x := { x with done := addOnce x.done tile }
    if x.done.length = (n + 15) / 16 then s.restored x else s.putRestore x
  else
    let s := s.bump HUB_SEC_ERR.DIGEST_MISMATCH 1
    let other := !x.own && (!parity || places.all (fun q => q % 8 != lost && (q + 1) % 8 != lost))
    if x.second.contains tile || !other then
      (s.bump HUB_SEC_ERR.RESTORE_FAIL 1).modHub (fun h => { h with
        restores := h.restores.filter (fun y => !(y.stack == k && y.pair == p)) })
    else
      let s := s.bump HUB_SEC_ERR.OTHER_SOURCE 1
      let x := { x with second := addOnce x.second tile, got := x.got.filter (fun g => !places.contains (g.1 / 16)) }
      (s.putRestore x).askOther x tile first n

/-- RESTORE_DATA (R324): bytes of a granule, or one contribution to it, go into the CUR buffer; a whole tile is checked. A
pair that already holds the generation is skipped. -/
def State.restoreData (s : State) (m : DrainMsg) : State :=
  let place := m.place.toNat
  match s.restorePair m.src.toNat m.store.toNat place with
  | none => s
  | some (k, p, t) =>
    let r : Rgn := ⟨k / 6 % 4, Nat.mod_lt _ (by omega)⟩
    let x := s.restoreOf k p t m.step.toNat
    let src := s.sourceOf x (tileOf (s.get SE_SEC0.PLACE k p) place)
    if s.regionLoaded r || s.get SE_BUF1.STEP k p == m.step.toNat || 65536 < m.offset.toNat + m.count.toNat || x.own ||
        t != src.1 then s
    else
      let parity := s.tgtParity r t
      let hs := s.holders r t
      let lost := (hs.findIdx? (· == s.addr)).getD 0
      let first := s.get SE_SEC0.PLACE k p
      let second := src.2
      let q := useQ lost place second
      let c := if !parity then 10 else if drP m then 8 else if drQ m then 9 else (hs.findIdx? (· == m.src.toNat)).getD 0
      if !(contributors parity lost place second).contains c then s
      else
        let key := s.curKey k p (place - s.get SE_SEC0.PLACE k p)
        let fresh := !x.got.any (fun g => g.1 / 16 == place)
        let s := if fresh then s.zeroFill key (key + 65536) else s
        let bs := if parity && q && c < 8 then (drData m).map (gfScale c) else drData m
        let o := key + m.offset.toNat
        let s := s.store o (if parity then xorBytes (s.bytes o bs.length) bs else bs)
        let x := { x with got := kset x.got (gotIx place c) (kget x.got (gotIx place c) 0 + m.count.toNat) }
        let s := if parity && q && x.whole parity lost second place then
            s.store key ((s.bytes key 65536).map (gfScale (255 - lost)))
          else s
        s.checkTile x (tileOf first place)

/-- DIGEST: for a restore in progress the digests of its tiles, else for a store (R323, R324). -/
def State.digestFrame (s : State) (m : DrainMsg) : State :=
  match s.hub.restores.find? (fun x =>
    x.step == m.step.toNat && s.get RGN_SEC_TGT.STORE (x.stack / 6) x.target == m.store.toNat &&
    (s.holders (x.stack / 6) x.target).contains m.src.toNat) with
  | some x =>
    let n := m.count.toNat / 8
    (List.range n).foldl (fun s i =>
      match s.hub.restores.find? (fun y => y.stack == x.stack && y.pair == x.pair) with
      | some y => s.checkTile { y with digests := kset y.digests (m.place.toNat + i) (leAt m.data (8 * i) 8) } (m.place.toNat + i)
      | none => s) s
  | none => s.storeDigest m

/-- RESTORE_REQ. -/
def execRestoreReq (l : Lnk) (m : DrainMsg) (s : State) : Host.Outcome State Fault Refusal :=
  .next (s.drainRow l m (·.restoreReq (linkRegion l) m))

/-- RESTORE_DATA. -/
def execRestoreData (l : Lnk) (m : DrainMsg) (s : State) : Host.Outcome State Fault Refusal :=
  .next (s.drainRow l m (·.restoreData m))

/-- DIGEST_FRAME. -/
def execDigestFrame (l : Lnk) (m : DrainMsg) (s : State) : Host.Outcome State Fault Refusal :=
  .next (s.drainRow l m (·.digestFrame m))

end Sys2Proof.Machine
end

