-- ==== Sys2Proof/Machine/Secure.lean ====
section
/-!
DEFINITION. Pairing (R320), failed positions and grafts (R325, R326), hardening-off (R328, R330-R332), the interval and
the recommended method (R318, R319).
-/
namespace Sys2Proof.Machine

/-- Status codes of Table 13.2 that a PAIR_ACK carries. -/
def stOk : Nat := 0
def stSameFeed : Nat := 1
def stNoStore : Nat := 2
def stTooSmall : Nat := 3

/-- Whether the two slots of a store lie in Icholt-owned granules of one stack (R333). -/
def State.storeFits (s : State) (q : Nat) : Bool :=
  let lo := s.slotKey q 0
  let hi := s.slotKey q 2
  lo < hi && decide (lo / 2 ^ 36 = (hi - 1) / 2 ^ 36) && decide (hi ≤ stackBase 24) &&
  (ownPoints lo hi).all (fun a => s.get HUB_OWN.KIND (a / 2 ^ 30) == 2)

/-- What a receiver of a PAIR answers (R320). -/
def State.pairStatus (s : State) (q feed : Nat) (parity : Bool) : Nat :=
  if feed = s.get HUB_FAB.FEED_ID then stSameFeed
  else if s.get HUB_SEC_STORE0.KIND q ≠ (if parity then 2 else 1) then stNoStore
  else if !s.storeFits q then stTooSmall
  else stOk

/-- The end of a pairing (R320): RESULT and STATE of the entry, PAIR clears, a refusal counts. -/
def State.pairDone (s : State) (r t result : Nat) : State :=
  let weak := result == 2 && s.bit RGN_SEC_TGT.OVERRIDE r t && !s.tgtParity r t
  let s := (s.put RGN_SEC_TGT.RESULT result r t).put RGN_SEC_TGT.PAIR 0 r t
  let s := s.put RGN_SEC_TGT.STATE (if result = 1 then 1 else if weak then 2 else 3) r t
  let s := s.modHub (fun h => { h with pairings := h.pairings.filter (fun p => !(p.region == r && p.entry == t)) })
  if result = 1 || weak then s else s.bump HUB_SEC_ERR.PAIR_REFUSED 1

/-- PAIR_REQUEST (R320): PAIR with the FEED_ID goes to the partner, or to every other member of the group; SEC_VALID of
every pair drained to the entry clears. After a graft Icholt gives it for every entry that names the lost module (R327). -/
def State.pairRequest (s : State) (r : Rgn) (t : Nat) : State :=
  let parity := s.tgtParity r t
  let hs := (s.holders r t).filter (fun a => !(parity && a == s.addr))
  let s := s.put RGN_SEC_TGT.PAIR 1 r t
  let s := (List.range 6).foldl (fun s i => (List.range 64).foldl (fun s p =>
    let k := 6 * r.val + i
    if bitsAt (kget s.hub.drainedTo (64 * k + p) 0) t 1 = 1 then s.put SE_SEC0.SEC_VALID 0 k p else s) s) s
  let s := s.modHub (fun h => { h with
    pairings := h.pairings.filter (fun p => !(p.region == r.val && p.entry == t)) ++
      [{ region := r.val, entry := t, bells := 0, answers := [] }] })
  let rank := if parity then (s.rankIn (s.get RGN_SEC_TGT.PGRP r t) s.addr).getD 0 else 0
  hs.foldl (fun s a => s.send r (s.drainFlit a dkPair
    (s.drainMsg 0 (s.get RGN_SEC_TGT.STORE r t) (rank + flagBit parity 3) 0 0 0 0
      [BitVec.ofNat 8 (s.get HUB_FAB.FEED_ID)]))) s
def execPairRequest (r : Rgn) (t : Fin 16) (s : State) : Host.Outcome State Fault Refusal := .next (s.pairRequest r t.val)

/-- PAIR (R320): feed and store are checked and PAIR_ACK answers. -/
def State.pair (s : State) (l : Lnk) (m : DrainMsg) : State :=
  let st := s.pairStatus m.store.toNat (leAt m.data 0 1) (drP m)
  s.send (linkRegion l) (s.drainFlit m.src.toNat dkPairAck
    (s.drainMsg m.tag.toNat m.store.toNat (flagBit (drP m) 3) st 0 0 0 [BitVec.ofNat 8 (s.get HUB_FAB.FEED_ID)]))
def execPair (l : Lnk) (m : DrainMsg) (s : State) : Host.Outcome State Fault Refusal :=
  .next (s.drainRow l m (·.pair l m))

/-- One answer to a pairing: a refusal ends it; the last answer ends it, refused when two members share a feed. -/
def State.pairAnswer (s : State) (x : Pairing) (src feed status : Nat) : State :=
  let r : Rgn := ⟨x.region % 4, Nat.mod_lt _ (by omega)⟩
  let parity := s.tgtParity r x.entry
  let hs := (s.holders r x.entry).filter (fun a => !(parity && a == s.addr))
  let x := { x with answers := x.answers.filter (fun a => a.1 != src) ++ [(src, feed, status)] }
  let s := s.modHub (fun h => { h with
    pairings := h.pairings.filter (fun p => !(p.region == x.region && p.entry == x.entry)) ++ [x] })
  let same := feed == s.get HUB_FAB.FEED_ID || x.answers.any (fun a => a.1 != src && a.2.1 == feed)
  if status = stSameFeed || same then s.pairDone r x.entry 2
  else if status = stNoStore then s.pairDone r x.entry 3
  else if status = stTooSmall then s.pairDone r x.entry 4
  else if hs.all (fun a => x.answers.any (fun y => y.1 == a)) then s.pairDone r x.entry 1
  else s

/-- PAIR_ACK (R320). -/
def State.pairAck (s : State) (m : DrainMsg) : State :=
  match s.hub.pairings.find? (fun x =>
    s.get RGN_SEC_TGT.STORE x.region x.entry == m.store.toNat && s.tgtParity x.region x.entry == drP m &&
    (s.holders x.region x.entry).contains m.src.toNat && !x.answers.any (fun a => a.1 == m.src.toNat)) with
  | some x => s.pairAnswer x m.src.toNat (leAt m.data 0 1) m.status.toNat
  | none => s
def execPairAck (l : Lnk) (m : DrainMsg) (s : State) : Host.Outcome State Fault Refusal :=
  .next (s.drainRow l m (·.pairAck m))

/-- PAIR_TIMEOUT (R320): no answer within 16 bells. -/
def State.pairTimeout (s : State) (r : Rgn) (t : Nat) : State :=
  if s.hub.pairings.any (fun x => x.region == r.val && x.entry == t && decide (16 ≤ x.bells)) then s.pairDone r t 5 else s
def execPairTimeout (r : Rgn) (t : Fin 16) (s : State) : Host.Outcome State Fault Refusal := .next (s.pairTimeout r t.val)

/-- Pairings count bells (R320). -/
def State.pairBell (s : State) : State :=
  s.modHub (fun h => { h with pairings := h.pairings.map (fun x => { x with bells := x.bells + 1 }) })

/-- POSITION_FAILED (R325): every trained link to the position has been down for two consecutive bells; Icholt sends
teardown notices for the jobs there and sets PH_MODE.RECOVERY (R342), which its own write clears. -/
def State.positionFailed (s : State) (addr : Nat) : State :=
  let ls := allLinks.filter (fun (l : Lnk) => s.bit LNK_PEER.VALID l && s.get LNK_PEER.ADDR l == addr)
  if !ls.isEmpty && ls.all (fun l => decide (2 ≤ s.links[l].downBells)) then
    let s := (s.put PH_MODE.RECOVERY 1).put PH_MODE.STRICT 1
    allRegions.foldl (fun s p =>
      if s.parts[p].members.contains addr && s.partState p != psEmpty then
        s.parts[p].members.foldl (fun s a =>
          s.emit (.icholt a (.teardownNotice (BitVec.ofNat 16 (s.get PROC_PART_CFG.JOB_TAG p))))) s
      else s) s
  else s
def execPositionFailed (addr : BitVec 16) (s : State) : Host.Outcome State Fault Refusal :=
  .next (s.positionFailed addr.toNat)

/-- GRAFT_GO (R326): GO counts only on a spare. -/
def State.graftGo (s : State) : State := if s.bit HUB_FAB.SPARE then s.put HUB_GRAFT.GO 1 else s
def execGraftGo (s : State) : Host.Outcome State Fault Refusal := .next s.graftGo

/-- Copies the active routing table of a region into the inactive one. -/
def State.copyRoutes (s : State) (r : Rgn) : State :=
  let a := s.get RGN_ROUTE_CTRL.ACTIVE r
  let mine (j : Nat) (x : Nat × Nat) : Bool :=
    (List.range 8).any (fun v => keyHome x.1 == (RGN_ROUTE.ENTRY v).home) && keyI x.1 == r.val && keyJ x.1 == j
  let moved := (s.regs.filter (mine a)).map (fun x => if a = 0 then (x.1 + 65536, x.2) else (x.1 - 65536, x.2))
  { s with regs := moved.foldl (fun (m : KMap) x => kset m x.1 x.2) (s.regs.filter (fun x => !mine (1 - a) x)) }

/-- GRAFT (R326): a spare takes the address and sets GO; a neighbour writes its inactive tables towards the spare and
sets SWITCH. -/
def State.graft (s : State) (addr : Nat) (spare : Bool) (via : Lnk) : State :=
  if spare then
    if s.bit HUB_FAB.SPARE then (s.put HUB_GRAFT.ADDR addr).graftGo else s
  else allRegions.foldl (fun s r =>
    let s := s.copyRoutes r
    let s := s.put (RGN_ROUTE.ENTRY (addr % 8)) (128 + via.val) r (1 - s.get RGN_ROUTE_CTRL.ACTIVE r) (addr / 8)
    s.put RGN_ROUTE_CTRL.SWITCH 1 r) s
def execGraft (addr : BitVec 16) (spare : Bool) (via : Lnk) (s : State) : Host.Outcome State Fault Refusal :=
  .next (s.graft addr.toNat spare via)

/-- HARDEN_REQ (R328): REQ is written only while STATE is not hardening. -/
def State.hardenReq (s : State) : State := if s.get HUB_HARDEN.STATE = 1 then s else s.put HUB_HARDEN.REQ 1
def execHardenReq (s : State) : Host.Outcome State Fault Refusal := .next s.hardenReq

/-- UNIT_ADMIT (R330, R331): after BELLS clean bells, or for a region by Icholt's comparison; in service at the next
bell. -/
def State.unitAdmit (s : State) : State :=
  if s.get HUB_HARDEN.STATE = 1 ∧ (s.get HUB_HARDEN.KIND = 2 ∨ s.get HUB_HARDEN.BELLS ≤ s.get HUB_HARDEN.CLEAN) then
    (s.put HUB_HARDEN.STATE 2).modHub (fun h => { h with admitted := true })
  else s
def execUnitAdmit (s : State) : Host.Outcome State Fault Refusal := .next s.unitAdmit

/-- HARDEN_RETRY (R332): one to three failed attempts and their wait over; a fourth leaves the unit out of service. -/
def State.hardenRetry (s : State) (kind region index : Nat) : State :=
  let a := s.attemptsOf (kind, region, index)
  if 1 ≤ a ∧ a < 4 ∧ s.retryDue (kind, region, index) = true ∧ s.get HUB_HARDEN.STATE ≠ 1 ∧ kind < 3 then
    (((s.put HUB_HARDEN.KIND kind).put HUB_HARDEN.REGION region).put HUB_HARDEN.INDEX index).put HUB_HARDEN.REQ 1
  else s
def execHardenRetry (kind : BitVec 2) (region : BitVec 2) (index : BitVec 5) (s : State) :
    Host.Outcome State Fault Refusal := .next (s.hardenRetry kind.toNat region.toNat index.toNat)

/-- The unit that HUB_HARDEN names. -/
def State.hardenUnit (s : State) : Nat × Nat × Nat :=
  (s.get HUB_HARDEN.KIND, s.get HUB_HARDEN.REGION, s.get HUB_HARDEN.INDEX)

/-- Hardening-off at a bell (R328, R330, R331): an admitted unit goes into service, the closing period counts when clean,
a requested unit starts; a region only in no partition. Waits for a retry grow shorter (R332). -/
def State.hardenBell (s : State) : State :=
  let u := s.hardenUnit
  let s := if s.hub.admitted then
      let s := (s.setUnit u.1 u.2.1 u.2.2 0).modHub (fun h => { h with admitted := false })
      if u.1 = 2 then s.modRegion ⟨u.2.1 % 4, Nat.mod_lt _ (by omega)⟩ (fun g => { g with isolated := false }) else s
    else s
  let s := if s.get HUB_HARDEN.STATE = 1 ∧ s.hub.compared ≠ 0 ∧ s.hub.mismatched = false then s.bump HUB_HARDEN.CLEAN 1 else s
  let s := s.modHub (fun h => { h with
    compared := 0, mismatched := false, retries := h.retries.map (fun x => (x.1, x.2 - 1)) })
  if s.bit HUB_HARDEN.REQ && s.get HUB_HARDEN.STATE != 1 then
    let s := s.put HUB_HARDEN.REQ 0
    if u.1 = 3 || (u.1 == 2 && (s.partOf ⟨u.2.1 % 4, Nat.mod_lt _ (by omega)⟩).isSome) then s
    else ((s.setUnit u.1 u.2.1 u.2.2 2).put HUB_HARDEN.STATE 1).put HUB_HARDEN.CLEAN 0
  else s

/-- INTERVAL of R319 from the measurements: max(1, min(K, round(sqrt(2C / lambda) / T))). -/
def intervalOf (k : Nat) (m : SecMeas) : Nat :=
  if m.securingSteps < 16 || m.meanStepNs = 0 then 1
  else
    let a := 8 * m.meanExcessNs * m.windowS * 1000000000 / (m.failed + 1)
    max 1 (min k ((isqrt a / m.meanStepNs + 1) / 2))

/-- The recommendation of R318 for a pair of G granules with the rates of its last flips: 1 mirror, 2 parity. -/
def recommend (granules interval : Nat) (rates : List (Nat × Nat)) : Nat :=
  let f := rates.foldl (fun a r => (a.1 * r.2 + r.1 * a.2, a.2 * r.2)) (0, 1)
  if 16384 ≤ granules ∧ interval * f.1 * 8 ≤ 3 * rates.length * f.2 then 2 else 1

/-- The recommendation of one pair at a securing step (R318). -/
def State.recommendPair (s : State) (interval k p : Nat) : State :=
  let rates := ((s.hub.rates.find? (fun x => x.1 == (k, p))).map (·.2)).getD []
  if !s.bit SE_BUF1.VALID k p || rates.isEmpty then s
  else
    let rec' := recommend (s.get SE_BUF0.GRANULES k p) interval rates
    let s := s.put SE_SEC0.REC rec' k p
    let run := if rec' = s.get SE_SEC0.CLASS k p then 0
      else ((s.hub.recRuns.find? (fun x => x.1 == (k, p))).map (·.2)).getD 0 + 1
    s.modHub (fun h => { h with
      recRuns := h.recRuns.filter (fun x => x.1 != (k, p)) ++ [((k, p), run)]
      reports := if run = 16 then h.reports ++ [(1, 64 * k + p)] else h.reports })

/-- Writes AT_STEP and INTERVAL: the values in force before stay for earlier steps (R309). -/
def State.setInterval (s : State) (p atStep interval : Nat) : State :=
  let old := s.get HUB_SEC_CTRL.AT_STEP p + 2 ^ 32 * s.get HUB_SEC_CTRL.INTERVAL p
  let s := s.modHub (fun h => { h with secOld := kset h.secOld p old })
  let s := s.put HUB_SEC_CTRL.AT_STEP atStep p
  if interval = 0 then s else s.put HUB_SEC_CTRL.INTERVAL interval p

/-- INTERVAL_UPDATE (R318, R319): a new value is agreed with the job's other modules and takes effect two steps ahead. -/
def State.intervalUpdate (s : State) (p : Prt) (m : SecMeas) : State :=
  let i := intervalOf (s.get HUB_SEC_CTRL.K p) m
  let s := (s.regionsOf p).foldl (fun s r => (List.range 6).foldl (fun s j => (List.range 64).foldl (fun s q =>
    s.recommendPair i (6 * r.val + j) q) s) s) s
  if i = s.get HUB_SEC_CTRL.INTERVAL p then s
  else
    let atStep := (s.regionsOf p).foldl (fun (a : Nat) (r : Rgn) => max a (s.get RGN_GEN_STEP.STEP r)) 0 + 2
    let s := s.setInterval p atStep i
    let tag := BitVec.ofNat 16 (s.get PROC_PART_CFG.JOB_TAG p)
    s.parts[p].members.foldl (fun s a => s.emit (.icholt a (.secAgree tag (BitVec.ofNat 32 atStep) (BitVec.ofNat 8 i)))) s
def execIntervalUpdate (p : Prt) (m : SecMeas) (s : State) : Host.Outcome State Fault Refusal := .next (s.intervalUpdate p m)

end Sys2Proof.Machine
end

