-- ==== Sys2Proof/Machine/Link.lean ====
section
/-!
DEFINITION. The link layer: training and reach (R243, R244), retry (R241, R242), width (R254, R255), the limits before
START (R246), and the swap of routing tables (R252). Log entry 29 lists what the chapter leaves open here.
-/
namespace Sys2Proof.Machine

/-- States of a link, LNK_STAT.STATE. -/
def lkDown : Nat := 0
def lkTraining : Nat := 1
def lkRollCall : Nat := 2
def lkUp : Nat := 3
def lkFailed : Nat := 4

/-- Whether roll call has completed on this module. -/
def State.complete (s : State) : Bool := s.get HUB_RC_STAT.STATE == 5

/-- Lanes set in a mask. -/
def laneCount (m : Nat) : Nat := bitsAt m 0 1 + bitsAt m 1 1 + bitsAt m 2 1 + bitsAt m 3 1
/-- The widest of 4, 2 or 1 lanes that a mask allows (R243). -/
def widthOf (m : Nat) : Nat := if laneCount m = 4 then 4 else if 2 ≤ laneCount m then 2 else laneCount m

/-- Counts what the checks of an arrived flit found (R236, R237, R256): a bad CRC, or codewords that could not be
corrected. -/
def State.countCheck (s : State) (l : Lnk) : FlitCheck → State
  | .good => s
  | .badCrc => s.bump LNK_ERR.CRC 1 l
  | .badWord codewords => s.bump LNK_ERR.UNCORR_CW codewords l

/-- What the checks of an arrived flit find, its own CRC among them (R237). -/
def checkOf (f : Flit) (v : FlitCheck) : FlitCheck := if v = .good ∧ f.crc ≠ flitCrc f.hdr f.payload then .badCrc else v

/-- The lanes that a link with these passing lanes uses (R243): all four, the lowest-numbered pair, or the lowest one. -/
def lanesFor (m : Nat) : Nat :=
  (((List.range 4).filter (fun i => bitsAt m i 1 == 1)).take (widthOf m)).foldl (fun a i => a + 2 ^ i) 0

/-- Credits of a link that comes up: LNK_CRED in units of 8 flits, split between the two classes (R239). -/
def State.freshCredits (s : State) (l : Lnk) : List Nat :=
  (List.range 14).map (fun i => 4 * s.get (LNK_CRED.CRED (i / 2)) l)

/-- An MGMT flit of Table 14.4 to a neighbour: kind, pigeonhole, and the bytes from byte 8 on. -/
def State.mgmtFlit (s : State) (dest kind ph : Nat) (body : List Byte) : Flit :=
  s.newFlit ftMgmt 6 true dest 0 ([BitVec.ofNat 8 kind, BitVec.ofNat 8 ph, 0, 0, 0, 0, 0, 0] ++ body)

/-- Sends a timing probe carrying this module's time (R244). -/
def State.sendProbe (s : State) (l : Lnk) : State :=
  s.enqueueFlit l (s.mgmtFlit 0xFFFF 1 0 (toLe 8 (s.now * 40 / 9)))

/-- LINK_TRAINING (R236, R243): the link comes up at the widest passing width and starts its timing probes; with no
passing lane, or another permutation than a reversal, it stays down. -/
def State.linkTraining (s : State) (l : Lnk) (passed polInv : Nat) (reversed permuted : Bool) : State :=
  if s.get LNK_STAT.STATE l ≠ lkDown ∧ s.get LNK_STAT.STATE l ≠ lkTraining then s
  else if permuted || widthOf passed == 0 then
    (((s.put LNK_STAT.STATE lkDown l).put LNK_STAT.LANES_OK (if permuted then 0 else passed) l).put LNK_STAT.WIDTH 0 l).modLink l
      (fun x => { x with lanes := 0 })
  else
    let s := (s.put LNK_STAT.STATE lkTraining l).put LNK_STAT.WIDTH (widthOf passed) l
    let s := (s.put LNK_STAT.LANES_OK passed l).put LNK_STAT.POL_INV polInv l
    let s := (s.put LNK_STAT.REVERSED (if reversed then 1 else 0) l).put LNK_PEER.VALID 0 l
    let s := s.modLink l (fun x => { x with
      txSeq := 0, rxSeq := 0, unacked := [], replays := 0, nakSent := false, credits := s.freshCredits l
      toReturn := List.replicate 14 0, lanes := lanesFor passed, probes := [], timing := 0, rcLast := none, ready := none, downBells := 0 })
    s.sendProbe l
def execLinkTraining (l : Lnk) (passed polInv : BitVec 4) (reversed permuted : Bool) (s : State) :
    Host.Outcome State Fault Refusal := .next (s.linkTraining l passed.toNat polInv.toNat reversed permuted)

/-- TRAINING_RETRY (R243, R255): a link that is down trains again unless its flight time was refused; a link below its
target width starts another attempt at its failed lanes once the wait after the last one is over, at most four in all
(R332). -/
def State.trainingRetry (s : State) (l : Lnk) : State :=
  let st := s.get LNK_STAT.STATE l
  if st = lkDown then
    if 5184 < s.get LNK_STAT.LATENCY l then s else s.put LNK_STAT.STATE lkTraining l
  else if (st = lkUp ∨ st = lkRollCall) ∧ s.get LNK_WIDTH.PHASE l = 0 ∧
      s.get LNK_STAT.WIDTH l < s.get LNK_WIDTH.TARGET l ∧ s.attemptsOf (3, l.val, 0) < 4 ∧
      s.retryDue (3, l.val, 0) = true then
    (s.put LNK_WIDTH.PHASE 1 l).put LNK_WIDTH.CLEAN 0 l
  else s
def execTrainingRetry (l : Lnk) (s : State) : Host.Outcome State Fault Refusal := .next (s.trainingRetry l)

/-- Whether a timing flit is accepted: before START at most 32 per training (R246). -/
def State.timingOk (s : State) (l : Lnk) : Bool := s.complete || decide (s.links[l].timing < 32)

/-- A timing flit arrives: it runs, or is dropped and counted. -/
def State.timingFlit (s : State) (l : Lnk) (f : State → State) : State :=
  if s.get LNK_STAT.STATE l = lkDown ∨ s.get LNK_STAT.STATE l = lkFailed then s
  else if s.timingOk l then f (s.modLink l (fun x => { x with timing := x.timing + 1 }))
  else s.bump LNK_RC.NONRC 1 l

/-- TIMING_PROBE (R244): the echo carries the sender's time and the residence. -/
def State.timingProbe (s : State) (l : Lnk) (time residence : Nat) : State :=
  s.timingFlit l (fun s => s.enqueueFlit l (s.mgmtFlit 0xFFFF 2 0 (toLe 8 time ++ toLe 4 residence)))
def execTimingProbe (l : Lnk) (time : Word64) (residence : Word32) (s : State) : Host.Outcome State Fault Refusal :=
  .next (s.timingProbe l time.toNat residence.toNat)

/-- Reach class of a latency in units of 0.125 ns: the flight time is the latency less 48 ns (Table 10.3a). -/
def reachOf (latency : Nat) : Nat :=
  if latency ≤ 384 + 40 then 0 else if latency ≤ 384 + 120 then 1 else if latency ≤ 384 + 4800 then 2 else 3

/-- PROBE_ECHO (R244): after 16 round trips the latency and the reach class are known; the link comes up, or is refused
and stays down. -/
def State.probeEcho (s : State) (l : Lnk) (time residence arrival : Nat) : State :=
  s.timingFlit l (fun s =>
    if s.get LNK_STAT.STATE l ≠ lkTraining then s
    else
      let s := s.modLink l (fun x => { x with probes := x.probes ++ [arrival - time - residence] })
      if s.links[l].probes.length < 16 then s.sendProbe l
      else
        let latency := ((s.links[l].probes.foldl (· + ·) 0) + 16) / 32
        let s := (s.put LNK_STAT.LATENCY (min latency (2 ^ 20 - 1)) l).put LNK_STAT.REACH (reachOf latency) l
        if reachOf latency = 3 then (s.put LNK_STAT.STATE lkDown l).put LNK_STAT.WIDTH 0 l
        else (s.put LNK_STAT.STATE (if s.complete then lkUp else lkRollCall) l).pump l false)

/-- Takes the flits that an ACK covers out of the retry buffer (R241). -/
def Link.ackTo (x : Link) (ack : Nat) : Link :=
  match x.unacked with
  | [] => x
  | f :: _ =>
    let n := (ack + 16384 - f.hdr.seq.toNat) % 16384
    if n = 0 ∨ x.unacked.length < n then x else { x with unacked := x.unacked.drop n, replays := 0 }

/-- The receiver of a flit learns the next SEQ that its peer expects, and sends what that lets pass (R241, R242). -/
def State.applyAck (s : State) (l : Lnk) (h : FlitHdr) : State := (s.modLink l (·.ackTo h.ack.toNat)).pump l false

/-- Applies the ACK and the credits of a header and sends what they let pass (R239, R241, R242). -/
def State.applyHeader (s : State) (l : Lnk) (h : FlitHdr) : State :=
  let i := 2 * h.cvc.toNat + if h.ccls then 1 else 0
  let s := s.modLink l (fun x =>
    let x := x.ackTo h.ack.toNat
    { x with credits := if i < 14 then x.credits.set i (x.credits.getD i 0 + h.cred.toNat) else x.credits })
  s.pump l false

/-- Replays the retry buffer in order (R241). -/
def State.replay (s : State) (l : Lnk) : State :=
  let s := s.bump LNK_ERR.REPLAYS 1 l
  let s := s.modLink l (fun x => { x with replays := x.replays + 1 })
  s.links[l].unacked.foldl (fun s f =>
    s.emit (.flit l (sealFlit { f with hdr := { f.hdr with ack := BitVec.ofNat 14 s.links[l].rxSeq } }))) s

/-- The copy on the returning lanes mismatches, or one of those lanes fails (R255): the attempt ends and counts. -/
def State.copyMismatch (s : State) (l : Lnk) : State :=
  let n := s.attemptsOf (3, l.val, 0) + 1
  let s := (s.bump LNK_ERR.HARDEN_FAIL 1 l).put LNK_WIDTH.PHASE 0 l
  (s.put LNK_WIDTH.CLEAN 0 l).modHub (·.attemptFailed (3, l.val, 0) n)

/-- Whether returning lanes of a link carry the copy (R255). -/
def State.hardening (s : State) (l : Lnk) : Bool := s.get LNK_WIDTH.PHASE l == 2 || s.get LNK_WIDTH.PHASE l == 3

/-- A lane fails (R254): when it is in use the link stops, re-establishes at the width the surviving lanes allow and
replays, or fails; its returning lanes harden off (R255). A lane that is not in use leaves LANES_OK, and ends a
hardening-off under way. -/
def State.laneFail (s : State) (l : Lnk) (surviving : Nat) : State :=
  let st := s.get LNK_STAT.STATE l
  let used := s.links[l].lanes
  let ok := s.get LNK_STAT.LANES_OK l &&& surviving
  if st = lkDown ∨ st = lkFailed ∨ surviving = 15 then s
  else if used &&& surviving = used then
    let s := s.put LNK_STAT.LANES_OK ok l
    if s.hardening l then s.copyMismatch l else s
  else
    let w := widthOf ok
    let old := s.get LNK_STAT.WIDTH l
    let s := (s.put LNK_STAT.LANES_OK ok l).put LNK_STAT.WIDTH w l
    let s := s.modLink l (fun x => { x with lanes := lanesFor ok })
    let s := if w < old then s.bump LNK_ERR.DEGRADES 1 l else s
    if w = 0 then (s.put LNK_STAT.STATE lkFailed l).put LNK_WIDTH.PHASE 0 l
    else
      let s := if w < s.get LNK_WIDTH.TARGET l then (s.put LNK_WIDTH.PHASE 1 l).put LNK_WIDTH.CLEAN 0 l else s
      if s.links[l].unacked.isEmpty then s else s.replay l
def execLaneFail (l : Lnk) (surviving : BitVec 4) (s : State) : Host.Outcome State Fault Refusal :=
  .next (s.laneFail l surviving.toNat)

/-- A replay, or, once the oldest SEQ has been replayed eight times without acceptance, what the failure of a lane in use
does (R242, R254); which lane is open. -/
def State.replayOrFail (s : State) (l : Lnk) : State :=
  if s.links[l].replays < 8 then s.replay l
  else
    let lanes := (List.range 4).filter (fun i => bitsAt s.links[l].lanes i 1 == 1)
    let i := lanes.getD ((Config.freeWord s.ticket).toNat % max 1 lanes.length) 0
    let s := (s.nextTicket).modLink l (fun x => { x with replays := 0 })
    s.laneFail l (15 - 2 ^ i)

/-- NAK (R237, R241): a bad one counts and is discarded; for a good one the flits before the named SEQ are acknowledged
and the rest replay in order. -/
def State.nak (s : State) (l : Lnk) (ack : Nat) (v : FlitCheck) : State :=
  if v ≠ .good then s.countCheck l v
  else
    let s := s.modLink l (·.ackTo ack)
    if s.links[l].unacked.isEmpty then s else s.replayOrFail l
def execNak (l : Lnk) (ack : BitVec 14) (v : FlitCheck) (s : State) : Host.Outcome State Fault Refusal :=
  .next (s.nak l ack.toNat v)

/-- REPLAY_TIMEOUT (R241): replay from the oldest unacknowledged flit. -/
def State.replayTimeout (s : State) (l : Lnk) : State :=
  if s.links[l].unacked.isEmpty then s else s.replayOrFail l
def execReplayTimeout (l : Lnk) (s : State) : Host.Outcome State Fault Refusal := .next (s.replayTimeout l)

/-- A flit without payload that carries ACK and, for IDLE, credits (R241, R242). -/
def State.bareFlit (s : State) (l : Lnk) (type : Nat) : State :=
  let f := s.newFlit type 0 true 0xFFFF 0 []
  let t := if type = ftIdle then s.links[l].returning f.hdr else (s.links[l], f.hdr)
  (s.modLink l (fun _ => t.1)).emit
    (.flit l (sealFlit { f with hdr := { t.2 with ack := BitVec.ofNat 14 s.links[l].rxSeq } }))

/-- IDLE (R242): after 256 ns with nothing to send. -/
def State.idle (s : State) (l : Lnk) : State :=
  let st := s.get LNK_STAT.STATE l
  if st = lkTraining ∨ st = lkRollCall ∨ st = lkUp then s.bareFlit l ftIdle else s
def execIdle (l : Lnk) (s : State) : Host.Outcome State Fault Refusal := .next (s.idle l)

/-- IDLE_FLIT (R237, R242): a bad one counts and is discarded. -/
def State.idleFlit (s : State) (l : Lnk) (h : FlitHdr) (v : FlitCheck) : State :=
  if v ≠ .good then s.countCheck l v else s.applyHeader l h
def execIdleFlit (l : Lnk) (h : FlitHdr) (v : FlitCheck) (s : State) : Host.Outcome State Fault Refusal :=
  .next (s.idleFlit l h v)

/-- The lanes in use after widening to w (R255): those in use and the lowest-numbered ones that return. -/
def widened (used w : Nat) : Nat :=
  let spare := (List.range 4).filter (fun i => bitsAt used i 1 == 0)
  used + (spare.take (w - laneCount used)).foldl (fun a i => a + 2 ^ i) 0

/-- LINK_WIDEN (R255): both ends widen at the bell after HARDEN_BELLS clean bells; the width only grows. -/
def State.linkWiden (s : State) (l : Lnk) : State :=
  if s.get LNK_WIDTH.PHASE l = 3 then
    let w := s.get LNK_WIDTH.TARGET l
    let s := (s.put LNK_WIDTH.PHASE 0 l).put LNK_WIDTH.CLEAN 0 l
    if w ≤ s.get LNK_STAT.WIDTH l then s
    else
      let m := widened s.links[l].lanes w
      let s := (s.put LNK_STAT.WIDTH w l).put LNK_STAT.LANES_OK (s.get LNK_STAT.LANES_OK l ||| m) l
      (s.modLink l (fun x => { x with lanes := m })).pump l false
  else s
def execLinkWiden (l : Lnk) (s : State) : Host.Outcome State Fault Refusal := .next (s.linkWiden l)

/-- What a bell does to a link: retrained lanes start hardening-off; a bell whose copy had neither a mismatch nor an
uncorrectable codeword is clean (R255); a bell down counts (R325), and waiting flits go with the hedges' new level
(R290). -/
def State.linkBell (s : State) (l : Lnk) (x : Sensors) : State :=
  let ph := s.get LNK_WIDTH.PHASE l
  let s := if s.hardening l && x.copyMismatch.contains l.val then s.copyMismatch l
    else if ph = 1 then s.put LNK_WIDTH.PHASE 2 l
    else if ph = 2 then
      if x.copyBad.contains l.val then s.put LNK_WIDTH.CLEAN 0 l
      else
        let n := s.get LNK_WIDTH.CLEAN l + 1
        let s := s.bump LNK_WIDTH.CLEAN 1 l
        if s.get LNK_WIDTH.HARDEN_BELLS l ≤ n then s.put LNK_WIDTH.PHASE 3 l else s
    else s
  let st := s.get LNK_STAT.STATE l
  let s := s.modLink l (fun x => { x with
    downBells := if st = lkDown ∨ st = lkFailed ∨ st = lkTraining then x.downBells + 1 else 0 })
  if s.links[l].waiting.isEmpty then s else s.pump l true

/-- SWITCH (R252). -/
def execSwitch (r : Rgn) (s : State) : Host.Outcome State Fault Refusal := .next (s.put RGN_ROUTE_CTRL.SWITCH 1 r)

/-- The swap of routing tables at a bell (R252). -/
def State.routeBell (s : State) : State :=
  allRegions.foldl (fun s (r : Rgn) =>
    if s.bit RGN_ROUTE_CTRL.SWITCH r then
      (s.put RGN_ROUTE_CTRL.ACTIVE (1 - s.get RGN_ROUTE_CTRL.ACTIVE r) r).put RGN_ROUTE_CTRL.SWITCH 0 r
    else s) s

end Sys2Proof.Machine
end

