-- ==== Sys2Proof/Machine/RollCall.lean ====
section
/-!
DEFINITION. Roll call (R246-R250): election, binding, path delays, aggregates, START, joins, the fabric of one. Log
entry 30 lists what the chapter leaves open here; the pacing of frames is time (log entry 24).
-/
namespace Sys2Proof.Machine

/-- Kinds of Table 10.4. -/
def rkHello : Nat := 1
def rkClaim : Nat := 2
def rkBind : Nat := 3
def rkProbe : Nat := 4
def rkReady : Nat := 5
def rkStart : Nat := 6

/-- Payload of a roll-call frame. -/
def rollBytes (kind : Nat) (m : RollMsg) : List Byte :=
  [BitVec.ofNat 8 kind, m.hops] ++ toLe 2 m.epoch.toNat ++ toLe 8 m.serial.toNat ++ toLe 8 m.best.toNat ++
  toLe 8 m.second.toNat ++ toLe 2 m.addr.toNat ++ [m.posId, m.flags, m.link, m.reach] ++ toLe 2 m.pathM.toNat ++
  toLe 2 m.pathD.toNat ++ toLe 4 m.count.toNat ++ toLe 2 m.fNs.toNat ++ toLe 2 m.lNs.toNat ++ toLe 2 m.periodUs.toNat

/-- A roll-call frame from a payload, with its kind. -/
def rollOf (b : List Byte) : Nat × RollMsg :=
  (leAt b 0 1,
   { hops := BitVec.ofNat 8 (leAt b 1 1), epoch := BitVec.ofNat 16 (leAt b 2 2), serial := BitVec.ofNat 64 (leAt b 4 8)
     best := BitVec.ofNat 64 (leAt b 12 8), second := BitVec.ofNat 64 (leAt b 20 8), addr := BitVec.ofNat 16 (leAt b 28 2)
     posId := BitVec.ofNat 8 (leAt b 30 1), flags := BitVec.ofNat 8 (leAt b 31 1), link := BitVec.ofNat 8 (leAt b 32 1)
     reach := BitVec.ofNat 8 (leAt b 33 1), pathM := BitVec.ofNat 16 (leAt b 34 2), pathD := BitVec.ofNat 16 (leAt b 36 2)
     count := BitVec.ofNat 32 (leAt b 38 4), fNs := BitVec.ofNat 16 (leAt b 42 2), lNs := BitVec.ofNat 16 (leAt b 44 2)
     periodUs := BitVec.ofNat 16 (leAt b 46 2) })

/-- The module's serial number. -/
def State.serial (s : State) : Nat := s.get HUB_SERIAL.SERIAL

/-- A frame of this module with what every kind carries. -/
def State.rollMsg (s : State) (hops pathM pathD count f l period : Nat) : RollMsg :=
  { hops := BitVec.ofNat 8 hops, epoch := s.hub.roll.lastEpoch, serial := BitVec.ofNat 64 s.serial
    best := s.hub.roll.best, second := s.hub.roll.second, addr := BitVec.ofNat 16 s.addr
    posId := BitVec.ofNat 8 (s.get HUB_FAB.POS_ID)
    flags := BitVec.ofNat 8 (s.get HUB_FAB.FEED_ID + 16 * s.get HUB_FAB.SPARE + if s.complete then 32 else 0)
    link := 0, reach := 0, pathM := BitVec.ofNat 16 pathM, pathD := BitVec.ofNat 16 pathD
    count := BitVec.ofNat 32 count, fNs := BitVec.ofNat 16 f, lNs := BitVec.ofNat 16 l
    periodUs := BitVec.ofNat 16 period }

/-- Whether a link carries roll call. -/
def State.rollLink (s : State) (l : Lnk) : Bool :=
  s.get LNK_STAT.STATE l == lkRollCall || s.get LNK_STAT.STATE l == lkUp

/-- Puts a frame on one link, with the link's index and reach. -/
def State.rollOn (s : State) (l : Lnk) (kind : Nat) (m : RollMsg) : State :=
  let m := { m with link := BitVec.ofNat 8 l.val, reach := BitVec.ofNat 8 (s.get LNK_STAT.REACH l) }
  s.enqueueFlit l (s.newFlit ftRollCall 6 true 0xFFFF 0 (rollBytes kind m))

/-- Updates the roll call. -/
def State.modRoll (s : State) (f : Roll → Roll) : State := s.modHub (fun h => { h with roll := f h.roll })

/-- A frame with the time it spends in this module before it leaves on a link, in units of 0.125 ns, added to the path
delay that its kind carries (R240, R246). -/
def stayed (kind : Nat) (m : RollMsg) (residence : List Nat) (l : Lnk) : RollMsg :=
  let d := BitVec.ofNat 16 ((residence.getD l 0 + 4) / 8)
  if kind = rkBind then { m with pathM := m.pathM + d }
  else if kind = rkProbe then { m with pathD := m.pathD + d }
  else m

/-- Announces a frame on every trained link but one, and remembers it for its repeats (R246). -/
def State.announce (s : State) (but : Option Lnk) (kind : Nat) (m : RollMsg) (residence : List Nat := []) : State :=
  let s := s.modRoll (fun x => { x with latest := x.latest.filter (fun y => y.1 != kind) ++ [(kind, m, residence)] })
  allLinks.foldl (fun s l => if s.rollLink l && but != some l then s.rollOn l kind (stayed kind m residence l) else s) s

/-- Roll call fails (R247): the module carries roll-call frames only. -/
def State.rollFail (s : State) (code : Nat) : State :=
  let s := (s.put HUB_RC_STAT.STATE 6).put HUB_RC_STAT.FAIL_CODE code
  allLinks.foldl (fun s (l : Lnk) => if s.get LNK_STAT.STATE l = lkUp then s.put LNK_STAT.STATE lkRollCall l else s) s

/-- The lowest serial numbers of two candidates and three heard ones; zero stands for none. -/
def lowSerials (xs : List Nat) : Nat × Nat :=
  let low (ys : List Nat) : Nat := ys.foldl (fun a y => if y = 0 then a else if a = 0 then y else min a y) 0
  let a := low xs
  (a, low (xs.filter (· != a)))

/-- Merges the serial numbers of a frame into BEST and SECOND; answers whether anything changed. -/
def State.mergeSerials (s : State) (m : RollMsg) : State × Bool :=
  let x := s.hub.roll
  let n := lowSerials [s.serial, x.best.toNat, x.second.toNat, m.best.toNat, m.second.toNat, m.serial.toNat]
  let changed := n.1 != x.best.toNat || n.2 != x.second.toNat
  (s.modRoll (fun x => { x with best := BitVec.ofNat 64 n.1, second := BitVec.ofNat 64 n.2, changed := changed }), changed)

/-- Latency of a link in whole ns (log entry 18). -/
def State.hopNs (s : State) (l : Lnk) : Nat := (s.get LNK_STAT.LATENCY l + 4) / 8

/-- R246: before START a link accepts at most one roll-call frame per 8 µs; others are dropped and counted. -/
def State.rollFrame (s : State) (l : Lnk) (f : State → State) : State :=
  if !s.rollLink l then s
  else
    let early := match s.links[l].rcLast with
      | some t => decide (s.now < t + 14400)
      | none => false
    if !s.complete && early then s.bump LNK_RC.DROPPED 1 l
    else f (s.modLink l (fun x => { x with rcLast := some s.now }))

/-- The module's own address (R248): none for a spare, the adopted one after a graft. -/
def State.positional (s : State) : Nat :=
  if s.bit HUB_FAB.SPARE || s.bit HUB_GRAFT.DONE then s.addr else s.get HUB_FAB.GROUP * 256 + s.get HUB_FAB.POS_ID

/-- READY of the module's subtree (Table 10.5): its own values with its children's; an unbound spare does not count. -/
def State.aggregate (s : State) : Nat × Nat × Nat × Nat :=
  let own := (1 - s.get HUB_FAB.SPARE, s.hub.roll.pathM.getD 0, s.hub.roll.pathD.getD 0, s.get HUB_RC_STAT.HOPS)
  allLinks.foldl (fun a l => match s.links[l].ready with
    | some (c, m, d, h) => (a.1 + c, max a.2.1 m, max a.2.2.1 d, max a.2.2.2 h)
    | none => a) own

/-- Sends READY to the parent once BIND and PROBE are both held. -/
def State.sendReady (s : State) : State :=
  match s.hub.roll.parent, s.hub.roll.pathM, s.hub.roll.pathD with
  | some p, some _, some _ =>
    let a := s.aggregate
    let m := s.rollMsg a.2.2.2 a.2.1 a.2.2.1 a.1 0 0 0
    let s := s.modRoll (fun x => { x with latest := x.latest.filter (fun y => y.1 != rkReady) ++ [(rkReady, m, [])] })
    let s := if s.get HUB_RC_STAT.STATE < 4 then s.put HUB_RC_STAT.STATE 4 else s
    s.rollOn ⟨p % 32, Nat.mod_lt _ (by omega)⟩ rkReady m
  | _, _, _ => s

/-- HELLO on a link; it is remembered for its repeats, which carry what the module then is. -/
def State.greet (s : State) (l : Lnk) : State :=
  let s := if s.hub.roll.best = 0 then s.modRoll (fun x => { x with best := BitVec.ofNat 64 s.serial }) else s
  let s := if s.get HUB_RC_STAT.STATE = 0 then s.put HUB_RC_STAT.STATE 1 else s
  let m := s.rollMsg 0 0 0 0 0 0 0
  let s := s.modRoll (fun x => { x with latest := x.latest.filter (fun y => y.1 != rkHello) ++ [(rkHello, m, [])] })
  s.rollOn l rkHello m

/-- Roll call begins anew (R48, R247, R250): nothing of the last one is left but its epoch, links that were up carry roll
call alone, HELLO goes out on every trained link. -/
def State.restartRoll (s : State) : State :=
  let s := ((s.put HUB_RC_STAT.STATE 0).put HUB_RC_STAT.FAIL_CODE 0).put HUB_BELL_STATUS.IS_DEPUTY 0
  let s := (s.put HUB_BELL_STATUS.IS_MASTER 0).modRoll (fun x => { Roll.reset with lastEpoch := x.lastEpoch })
  let s := allLinks.foldl (fun s (l : Lnk) => if s.get LNK_STAT.STATE l = lkUp then s.put LNK_STAT.STATE lkRollCall l else s)
    (s.modHub (fun h => { h with deputyAddr := 0xFFFF }))
  allLinks.foldl (fun s (l : Lnk) => if s.rollLink l then s.greet l else s) s

/-- A write of HUB_RC_CTRL (R247, R250): it starts a new roll call on a module whose roll call failed, and on a fabric of
one that gets another EXPECT. DESIGN CHOICE (log entry 30): this write stands for Icholt's start of a roll call after a
failure, for which the spec names no register. -/
def State.writeRollCtrl (s : State) (v : Nat) : State :=
  let t := (s.put HUB_RC_CTRL.EXPECT (HUB_RC_CTRL.EXPECT.ofWord v)).put HUB_RC_CTRL.STABLE_US (HUB_RC_CTRL.STABLE_US.ofWord v)
  let failed := s.get HUB_RC_STAT.STATE == 6
  let alone := s.complete && s.get HUB_RC_CTRL.EXPECT == 1
  if (failed || alone) && HUB_RC_CTRL.EXPECT.ofWord v != 1 then t.restartRoll else t

/-- PROBE_ECHO, and HELLO when the link comes up with it. -/
def State.echoAndGreet (s : State) (l : Lnk) (time residence arrival : Nat) : State :=
  let t := s.probeEcho l time residence arrival
  if !s.rollLink l && t.rollLink l then t.greet l else t
def execProbeEcho (l : Lnk) (time : Word64) (residence : Word32) (arrival : Word64) (s : State) :
    Host.Outcome State Fault Refusal := .next (s.echoAndGreet l time.toNat residence.toNat arrival.toNat)

/-- HELLO (R246, R247, R249): LNK_PEER fills; the module's own address at a neighbour fails roll call; a complete
neighbour is joined without an election; else CLAIM goes out on every link. -/
def State.hello (s : State) (l : Lnk) (m : RollMsg) : State :=
  s.rollFrame l (fun s =>
    let s := (s.put LNK_PEER_SERIAL.SERIAL m.serial.toNat l).put LNK_PEER.ADDR m.addr.toNat l
    let s := (s.put LNK_PEER.POS_ID m.posId.toNat l).put LNK_PEER.FEED_ID (m.flags.toNat % 16) l
    let s := (s.put LNK_PEER.LINK (m.link.toNat % 32) l).put LNK_PEER.SPARE (if m.flags.getLsbD 4 then 1 else 0) l
    let s := s.put LNK_PEER.VALID 1 l
    let s := if s.get HUB_RC_STAT.STATE = 0 then s.put HUB_RC_STAT.STATE 1 else s
    if s.addr ≠ 0xFFFF ∧ m.addr.toNat = s.addr then s.rollFail 4
    else if s.complete then s
    else if m.flags.getLsbD 5 then
      let s := s.modRoll (fun x => { x with
        parent := some l.val, pathM := some (s.hopNs l), pathD := some (s.hopNs l) })
      let s := if s.positional = 0xFFFF then s else s.put HUB_FAB.ADDR s.positional
      s.sendReady
    else
      let t := s.mergeSerials m
      let s := if t.1.get HUB_RC_STAT.STATE < 2 then t.1.put HUB_RC_STAT.STATE 2 else t.1
      s.announce none rkClaim (s.rollMsg 0 0 0 0 0 0 0))
def execHello (l : Lnk) (m : RollMsg) (s : State) : Host.Outcome State Fault Refusal := .next (s.hello l m)

/-- CLAIM: lower serials are taken over and announced on every other link. -/
def State.claim (s : State) (l : Lnk) (m : RollMsg) : State :=
  s.rollFrame l (fun s =>
    if s.complete then s
    else
      let t := s.mergeSerials m
      if t.2 then
        let s := if t.1.get HUB_RC_STAT.STATE < 2 then t.1.put HUB_RC_STAT.STATE 2 else t.1
        s.announce (some l) rkClaim (s.rollMsg 0 0 0 0 0 0 0)
      else t.1)
def execClaim (l : Lnk) (m : RollMsg) (s : State) : Host.Outcome State Fault Refusal := .next (s.claim l m)

/-- Binds the module's address (R248). -/
def State.bindAddr (s : State) : State := if s.positional = 0xFFFF then s else s.put HUB_FAB.ADDR s.positional

/-- Whether a BIND binds this module: the first one of an epoch, at a module that is not its master and not complete. A
module whose roll call failed takes none of that epoch (R32, R247). -/
def State.bindable (s : State) (m : RollMsg) : Bool :=
  let failed := s.get HUB_RC_STAT.STATE == 6
  !s.complete && (failed || !s.bit HUB_BELL_STATUS.IS_MASTER) &&
  ((!failed && s.hub.roll.parent.isNone) || s.hub.roll.lastEpoch != m.epoch)

/-- BIND: it keeps the master's SERIAL and ADDR on its way; the first one of an epoch binds, names the parent and is
forwarded; SECOND floods PROBE; over 32 hops roll call fails (R32, R247). -/
def State.bindFrame (s : State) (l : Lnk) (m : RollMsg) (residence : List Nat) : State :=
  s.rollFrame l (fun s =>
    if 32 < m.hops.toNat then
      if s.complete then s else (s.modRoll (fun x => { x with lastEpoch := m.epoch })).rollFail 1
    else if !s.bindable m then s
    else
      let d := m.pathM.toNat + s.hopNs l
      let held := s.hub.roll.probeEpoch == m.epoch && s.hub.roll.pathD.isSome
      let s := s.modRoll (fun x => { x with
        parent := some l.val, pathM := some d, lastEpoch := m.epoch, best := m.best, second := m.second
        pathD := if m.second.toNat = s.serial then some 0 else if held then x.pathD else none })
      let s := ((s.bindAddr.put HUB_RC_STAT.STATE 3).put HUB_RC_STAT.HOPS m.hops.toNat).put
        HUB_BELL_MASTER.MASTER_SERIAL m.best.toNat
      let s := (s.put HUB_BELL_STATUS.IS_MASTER 0).modHub (fun h => { h with
        masterAddr := m.addr.toNat, deputyAddr := if held then h.deputyAddr else 0xFFFF })
      let s := s.announce (some l) rkBind { m with hops := m.hops + 1, pathM := BitVec.ofNat 16 d } residence
      if m.second.toNat = s.serial then (s.announce none rkProbe (s.rollMsg 1 0 0 0 0 0 0)).sendReady else s.sendReady)
def execBind (l : Lnk) (m : RollMsg) (residence : List Nat) (s : State) : Host.Outcome State Fault Refusal :=
  .next (s.bindFrame l m residence)

/-- Whether a PROBE gives this module its path delay from the deputy: the first one of an epoch before START; in a complete
fabric without a deputy that of a new one (R47). -/
def State.probeable (s : State) (m : RollMsg) : Bool :=
  if s.complete then
    s.hub.deputyAddr == 0xFFFF && !s.bit HUB_BELL_STATUS.IS_DEPUTY && m.addr.toNat != s.hub.masterAddr &&
    s.get HUB_RC_CTRL.EXPECT != 1
  else s.hub.roll.pathD.isNone || s.hub.roll.probeEpoch != m.epoch

/-- PROBE: the first one gives the path delay from the deputy and is forwarded. -/
def State.probeFrame (s : State) (l : Lnk) (m : RollMsg) (residence : List Nat) : State :=
  s.rollFrame l (fun s =>
    if !s.probeable m then s
    else
      let d := m.pathD.toNat + s.hopNs l
      let s := (s.modRoll (fun x => { x with pathD := some d, probeEpoch := m.epoch, electing := 0 })).modHub (fun h =>
        { h with deputyAddr := m.addr.toNat })
      let s := s.announce (some l) rkProbe { m with hops := m.hops + 1, pathD := BitVec.ofNat 16 d } residence
      if s.complete then s else s.sendReady)
def execProbe (l : Lnk) (m : RollMsg) (residence : List Nat) (s : State) : Host.Outcome State Fault Refusal :=
  .next (s.probeFrame l m residence)

/-- F and L of R248 from the greatest path delays. -/
def fireDelay (m d : Nat) : Nat := m + 1000 + d
def leadOf (m d : Nat) : Nat := fireDelay m d + max m d + 1000

/-- START taken: HUB_BELL_TIMING is written, the module is complete and every link lifts R246. -/
def State.takeStart (s : State) (epoch f l : Nat) : State :=
  let s := (s.put HUB_BELL_TIMING.FIRE_DELAY_NS f).put HUB_BELL_TIMING.LEAD_NS l
  let s := ((s.put HUB_RC_STAT.STATE 5).put HUB_RC_STAT.EPOCH epoch).put HUB_RC_STAT.FAIL_CODE 0
  let s := if s.hub.roll.second.toNat = s.serial && !s.bit HUB_BELL_STATUS.IS_MASTER then s.put HUB_BELL_STATUS.IS_DEPUTY 1
    else s.put HUB_BELL_STATUS.IS_DEPUTY 0
  let s := s.modHub (fun h => { h with deputyPath := 8 * h.roll.pathM.getD 0, bellsLost := false, fresh := true })
  allLinks.foldl (fun s (l : Lnk) => if s.get LNK_STAT.STATE l = lkRollCall then (s.put LNK_STAT.STATE lkUp l).pump l false else s) s

/-- The master completes roll call: F and L, START on every link. -/
def State.startFabric (s : State) : State :=
  let a := s.aggregate
  let f := fireDelay a.2.1 a.2.2.1
  let l := leadOf a.2.1 a.2.2.1
  let s := s.announce none rkStart (s.rollMsg 0 0 0 0 f l (s.get HUB_BELL_PERIOD.PERIOD_US))
  s.takeStart s.hub.roll.lastEpoch.toNat f l

/-- A joiner's READY with the delays of the neighbour that it came through. -/
def State.throughMe (s : State) (l : Lnk) (m : RollMsg) : RollMsg :=
  if s.get LNK_PEER_SERIAL.SERIAL l = m.serial.toNat then
    { m with pathM := m.pathM + BitVec.ofNat 16 (s.hub.roll.pathM.getD 0)
             pathD := m.pathD + BitVec.ofNat 16 (s.hub.roll.pathD.getD 0) }
  else m

/-- A join (R249): the master answers with a routed START when the joiner's delays fit F and L, else with one without F,
which refuses. -/
def State.answerJoin (s : State) (r : Rgn) (m : RollMsg) : State :=
  let a := s.aggregate
  let pm := max a.2.1 m.pathM.toNat
  let pd := max a.2.2.1 m.pathD.toNat
  let f := s.get HUB_BELL_TIMING.FIRE_DELAY_NS
  let l := s.get HUB_BELL_TIMING.LEAD_NS
  let fits := fireDelay pm pd ≤ f && decide (f + max pm pd + 1000 ≤ l) && s.get HUB_RC_CTRL.EXPECT != 1
  s.send r (s.newFlit ftRollCall 6 true m.addr.toNat 0 (rollBytes rkStart
    (if fits then s.rollMsg 0 0 0 0 f l (s.get HUB_BELL_STATUS.CUR_PERIOD_US) else s.rollMsg 0 0 0 0 0 0 0)))

/-- A complete module that may become the deputy tells the master (R47, R249): READY with its delay from the master, which
R245 makes that of the other direction. -/
def State.offer (s : State) : State :=
  let d := s.hub.roll.pathM.getD 0
  s.send 0 (s.newFlit ftRollCall 6 true s.hub.masterAddr 0 (rollBytes rkReady (s.rollMsg 0 d d 1 0 0 0)))

/-- The master hears a candidate. -/
def State.candidate (s : State) (m : RollMsg) : State :=
  if s.hub.roll.electing = 0 then s
  else s.modRoll (fun x => { x with
    candidates := x.candidates.filter (fun c => c.1 != m.serial.toNat) ++ [(m.serial.toNat, m.addr.toNat, m.pathM.toNat)] })

/-- The candidate with the lowest serial number among those whose delays fit F (R47, R249). -/
def pickDeputy (f : Nat) (cs : List (Nat × Nat × Nat)) : Option (Nat × Nat × Nat) :=
  let far := cs.foldl (fun n c => max n c.2.2) 0
  (cs.filter (fun c => c.1 != 0 && decide (fireDelay far c.2.2 ≤ f))).foldl (fun a c =>
    match a with
    | none => some c
    | some b => if c.1 < b.1 then some c else some b) none

/-- The master names the new deputy with a routed START (R47, R249). -/
def State.nameDeputy (s : State) : State :=
  let f := s.get HUB_BELL_TIMING.FIRE_DELAY_NS
  match pickDeputy f s.hub.roll.candidates with
  | none => s
  | some c =>
    let s := s.modRoll (fun x => { x with second := BitVec.ofNat 64 c.1, candidates := [] })
    s.send 0 (s.newFlit ftRollCall 6 true c.2.1 0 (rollBytes rkStart
      (s.rollMsg 0 0 0 0 f (s.get HUB_BELL_TIMING.LEAD_NS) (s.get HUB_BELL_STATUS.CUR_PERIOD_US))))

/-- A module that the master names becomes the deputy and floods PROBE (R47). -/
def State.becomeDeputy (s : State) (m : RollMsg) : State :=
  if m.fNs != 0 && m.second.toNat == s.serial && s.hub.deputyAddr == 0xFFFF && !s.bit HUB_BELL_STATUS.IS_MASTER &&
      !s.bit HUB_BELL_STATUS.IS_DEPUTY then
    let s := (s.put HUB_BELL_STATUS.IS_DEPUTY 1).modRoll (fun x => { x with
      second := m.second, pathD := some 0, electing := 0 })
    let s := s.modHub (fun h => { h with deputyPath := 8 * h.roll.pathM.getD 0 })
    s.announce none rkProbe (s.rollMsg 1 0 0 0 0 0 0)
  else s

/-- The election of a new deputy at a bell (R47, R249): a substitute begins it; at each of the next bells every module but
the master offers itself; at the fifteenth the master names one. DESIGN CHOICE (log entry 30): the bells of the election
and how candidates reach the master; the rule asks only that it ends within 16 bells. -/
def State.electBell (s : State) (m : BellMsg) : State :=
  let own := m.masterSerial.toNat == s.serial
  if !s.complete || s.get HUB_RC_CTRL.EXPECT = 1 then s
  else if m.flags.getLsbD 2 then
    let s := s.modRoll (fun x => { x with
      best := m.masterSerial, second := 0, pathM := if own then some 0 else x.pathD, pathD := none, electing := 16
      candidates := [], latest := x.latest.filter (fun y => y.1 == rkHello) })
    if own then s else s.offer
  else if s.hub.roll.electing = 0 then s
  else
    let n := s.hub.roll.electing - 1
    let s := s.modRoll (fun x => { x with electing := n })
    if !s.bit HUB_BELL_STATUS.IS_MASTER then s.offer
    else if n = 1 then s.nameDeputy
    else s

/-- READY: a child's aggregate; a change goes on to the parent; at the master COUNT meets EXPECT, or exceeds it (R247). In
a complete fabric it asks to join, or, from a complete module, to be the deputy. -/
def State.readyFrame (s : State) (l : Lnk) (m : RollMsg) : State :=
  s.rollFrame l (fun s =>
    if s.complete then
      if s.bit HUB_BELL_STATUS.IS_MASTER then
        if m.flags.getLsbD 5 then s.candidate m else s.answerJoin (linkRegion l) (s.throughMe l m)
      else s.send (linkRegion l) (s.newFlit ftRollCall 6 true s.hub.masterAddr 0 (rollBytes rkReady (s.throughMe l m)))
    else
      let old := s.aggregate
      let s := s.modLink l (fun x => { x with
        ready := some (m.count.toNat, m.pathM.toNat, m.pathD.toNat, m.hops.toNat) })
      let new := s.aggregate
      if s.bit HUB_BELL_STATUS.IS_MASTER then
        let expect := s.get HUB_RC_CTRL.EXPECT
        if expect ≠ 0 ∧ expect < new.1 then s.rollFail 2
        else if expect ≠ 0 ∧ new.1 = expect then s.startFabric
        else s
      else if new = old then s
      else s.sendReady)
def execReady (l : Lnk) (m : RollMsg) (s : State) : Host.Outcome State Fault Refusal := .next (s.readyFrame l m)

/-- START: taken once per epoch and flooded on; one without F refuses a join (R249). A module whose roll call failed takes
none (R32, R247); a complete one may be named the deputy by it (R47). -/
def State.startFrame (s : State) (l : Lnk) (m : RollMsg) : State :=
  s.rollFrame l (fun s =>
    if s.complete then s.becomeDeputy m
    else if s.get HUB_RC_STAT.STATE = 6 then s
    else if m.fNs = 0 then s.rollFail 3
    else
      let s := (s.modRoll (fun x => { x with
        lastEpoch := m.epoch, best := m.best, second := m.second })).put HUB_BELL_MASTER.MASTER_SERIAL m.best.toNat
      let s := s.modHub (fun h => { h with masterAddr := m.addr.toNat })
      let s := s.announce (some l) rkStart m
      s.takeStart m.epoch.toNat m.fNs.toNat m.lNs.toNat)
def execStart (l : Lnk) (m : RollMsg) (s : State) : Host.Outcome State Fault Refusal := .next (s.startFrame l m)

/-- Takes the master's part: address, epoch, BIND on every link. -/
def State.master (s : State) : State :=
  let s := s.bindAddr
  let s := s.modRoll (fun x => { x with lastEpoch := x.lastEpoch + 1, pathM := some 0, parent := none })
  let s := ((s.put HUB_BELL_STATUS.IS_MASTER 1).put HUB_BELL_STATUS.IS_DEPUTY 0).put HUB_BELL_MASTER.MASTER_SERIAL s.serial
  let s := s.modHub (fun h => { h with masterAddr := s.addr })
  (s.put HUB_RC_STAT.STATE 3).put HUB_RC_STAT.HOPS 0

/-- BECOME_MASTER: BEST is the own serial and stable. -/
def State.becomeMaster (s : State) : State :=
  let st := s.get HUB_RC_STAT.STATE
  if (st = 1 ∨ st = 2) ∧ s.hub.roll.best.toNat = s.serial then
    let s := s.master
    s.announce none rkBind (s.rollMsg 1 0 0 0 0 0 0)
  else s
def execBecomeMaster (s : State) : Host.Outcome State Fault Refusal := .next s.becomeMaster

/-- QUIET_COMPLETION: with EXPECT 0. -/
def State.quietCompletion (s : State) : State :=
  if s.get HUB_RC_CTRL.EXPECT = 0 ∧ s.bit HUB_BELL_STATUS.IS_MASTER ∧
      (s.get HUB_RC_STAT.STATE = 3 ∨ s.get HUB_RC_STAT.STATE = 4) then s.startFabric
  else s
def execQuietCompletion (s : State) : Host.Outcome State Fault Refusal := .next s.quietCompletion

/-- FRAME_REPEAT: the latest frame of each kind goes out again on a link; HELLO with what the module now is, READY on the
parent's link alone. -/
def State.frameRepeat (s : State) (l : Lnk) : State :=
  if s.rollLink l then
    s.hub.roll.latest.foldl (fun s x =>
      if x.1 = rkHello then s.rollOn l rkHello (s.rollMsg 0 0 0 0 0 0 0)
      else if x.1 = rkReady && s.hub.roll.parent != some l.val then s
      else s.rollOn l x.1 (stayed x.1 x.2.1 x.2.2 l)) s
  else s
def execFrameRepeat (l : Lnk) (s : State) : Host.Outcome State Fault Refusal := .next (s.frameRepeat l)

/-- TIMEOUT (R247): START has not come. -/
def State.rollTimeout (s : State) : State :=
  let st := s.get HUB_RC_STAT.STATE
  if 1 ≤ st ∧ st ≤ 4 then s.rollFail 5 else s
def execTimeout (s : State) : Host.Outcome State Fault Refusal := .next s.rollTimeout

/-- FABRIC_OF_ONE (R250): EXPECT is 1 and no roll call has bound the module. -/
def State.fabricOfOne (s : State) : State :=
  let st := s.get HUB_RC_STAT.STATE
  if s.get HUB_RC_CTRL.EXPECT = 1 ∧ (st ≤ 2 ∨ st = 6) then
    let s := s.modRoll (fun x => { x with best := BitVec.ofNat 64 s.serial, second := 0, pathD := some 0 })
    s.master.takeStart (s.master.hub.roll.lastEpoch.toNat) (fireDelay 0 0) (leadOf 0 0)
  else s
def execFabricOfOne (s : State) : Host.Outcome State Fault Refusal := .next s.fabricOfOne

end Sys2Proof.Machine
end

