-- ==== Sys2Proof/Machine/Sched.lean ====
section
/-!
DEFINITION. The hop schedule of R264, R271-R273, and COLLECTIVE flits (Tables 11.1, 11.2). Log entry 16 says how this
model packs units into flits.
-/
namespace Sys2Proof.Machine

/-- The schedule of a group of P members: h, e and the number of hops (R264). -/
structure Sched where
  p : Nat
  h : Nat
  e : Nat
deriving DecidableEq, Repr

/-- The schedule depends only on P. -/
def Sched.of (p : Nat) : Sched := { p := p, h := Nat.log2 p, e := p - 2 ^ Nat.log2 p }
/-- One fold hop when P is no power of two. -/
def Sched.fold (c : Sched) : Nat := if c.e = 0 then 0 else 1
/-- Number of hops. -/
def Sched.hops (c : Sched) : Nat := c.h + c.fold
/-- Virtual rank of a rank; none for a rank that folds into its neighbour. -/
def Sched.virt (c : Sched) (r : Nat) : Option Nat :=
  if r < 2 * c.e then (if r % 2 = 0 then some (r / 2) else none) else some (r - c.e)
/-- Rank of a virtual rank. -/
def Sched.real (c : Sched) (v : Nat) : Nat := if v < c.e then 2 * v else v + c.e
/-- Virtual rank whose shard holds the shard of a rank. -/
def Sched.owner (c : Sched) (r : Nat) : Nat := if r < 2 * c.e then r / 2 else r - c.e

/-- What a rank does with a value of a shard of virtual rank u at a level. -/
inductive Hop where
  | send (rank hop : Nat)
  | wait
  | halve
  | final
deriving DecidableEq, Repr

/-- The next move of a reduction (R264). -/
def Sched.next (c : Sched) (r u level : Nat) : Hop :=
  match c.virt r with
  | none => .send (r - 1) 1
  | some v =>
    if level = c.hops then .final
    else if level < c.fold then (if r < 2 * c.e then .wait else .halve)
    else
      let bit := c.h - (level + 1 - c.fold)
      if u / 2 ^ bit = v / 2 ^ bit then .wait else .send (c.real (v ^^^ 2 ^ bit)) (level + 1)

/-- The virtual ranks to which v passes on what comes from u: the doubling hops after the one that brought it. -/
def Sched.doubling (c : Sched) (u v : Nat) : List Nat :=
  let lo := if u ^^^ v = 0 then 0 else Nat.log2 (u ^^^ v) + 1
  ((List.range c.h).filter (fun b => lo ≤ b)).map (fun b => c.real (v ^^^ 2 ^ b))

/-- The ranks to which a member of a gather passes on a part of a rank's shard (R272). -/
def Sched.spread (c : Sched) (r owner : Nat) : List Nat :=
  match c.virt r with
  | none => if owner = r then [r - 1] else []
  | some v => c.doubling (c.owner owner) v ++ (if v < c.e && owner != 2 * v + 1 then [2 * v + 1] else [])

/-- The ranks to which a member of a reduction passes on an element at its last level: the delivery of R264, and with
ALL the doubling phase (R271). -/
def Sched.passOn (c : Sched) (r owner : Nat) (all : Bool) : List Nat :=
  match c.virt r with
  | none => []
  | some v =>
    (if all then c.doubling (c.owner owner) v else []) ++
    (if v < c.e && (all || owner == 2 * v + 1) then [2 * v + 1] else [])

/-- Rank whose shard holds an element. -/
def shardOf (shards : List (Nat × Nat)) (i : Nat) : Nat :=
  (shards.findIdx? (fun x => decide (x.1 ≤ i) && decide (i < x.1 + x.2))).getD 0

/-- Header fields of a COLLECTIVE payload (Table 11.1). -/
structure CollHdr where
  op : Nat
  group : Nat
  hop : Nat
  desc : Nat
  count : Nat
  tlink : Nat
  fmt : Nat
  bucket : Nat
  offset : Nat
  rank : Nat
deriving DecidableEq, Repr

/-- OP codes. -/
def opReduce : Nat := 1
def opMax : Nat := 2
def opGather : Nat := 3
def opGatherHier : Nat := 4
def opA2aCount : Nat := 5
def opA2aRows : Nat := 6
def opAddFwd : Nat := 7
def opSend : Nat := 8
def opDone : Nat := 9

/-- The header of a payload. -/
def collHdr (f : Flit) : CollHdr :=
  { op := leAt f.payload 0 1, group := leAt f.payload 1 1, hop := leAt f.payload 2 1 % 32, desc := leAt f.payload 2 1 / 32
    count := leAt f.payload 3 1, tlink := leAt f.payload 4 1 % 32, fmt := leAt f.payload 5 1
    bucket := leAt f.payload 6 2, offset := leAt f.payload 8 6, rank := leAt f.payload 14 2 % 4096 }

/-- Whether a payload has a reserved OP or a reserved header bit set (R261). -/
def collReserved (f : Flit) : Bool :=
  leAt f.payload 0 1 == 0 || decide (9 < leAt f.payload 0 1) || leAt f.payload 4 1 / 32 != 0 ||
  leAt f.payload 14 2 / 4096 != 0

/-- The bytes of a header. -/
def CollHdr.bytes (h : CollHdr) : List Byte :=
  [BitVec.ofNat 8 h.op, BitVec.ofNat 8 h.group, BitVec.ofNat 8 (h.hop + 32 * h.desc), BitVec.ofNat 8 h.count,
   BitVec.ofNat 8 h.tlink, BitVec.ofNat 8 h.fmt] ++ toLe 2 h.bucket ++ toLe 6 h.offset ++ toLe 2 h.rank

/-- Blocks in a block-structured flit of elements of some bits (Table 11.2). -/
def blocksPerFlit (bits : Nat) : Nat := 48 / bits

/-- Bytes 16-239 of a block-structured flit: element bytes, scales from byte 208, trailer from byte 224. -/
def blockBody (elems scales : List Byte) (total : Nat) (rec' : Option (Nat × Nat)) : List Byte :=
  padTo 192 elems ++ padTo 16 scales ++ toLe 6 total ++
  (match rec' with
   | some (a, e) => toLe 2 a ++ toLe 6 e ++ [1, 0]
   | none => List.replicate 10 0)

/-- The trailer of a block-structured flit: TOTAL, and the poison record when valid. -/
def trailerOf (f : Flit) : Nat × Option (Nat × Nat) :=
  (leAt f.payload 224 6,
   if leAt f.payload 238 1 % 2 = 1 then some (leAt f.payload 230 2, leAt f.payload 232 6) else none)

/-- Codes of n elements of some bits from a byte on. -/
def codesAt (f : Flit) (byte bits n : Nat) : List Nat :=
  let v := leAt f.payload byte ((n * bits + 7) / 8)
  (List.range n).map (fun i => bitsAt v (i * bits) bits)

/-- An integer element of a wire format from its code, and back. -/
def codeInt (fmt v : Nat) : Int := if isWire fmt then signed (fmtBits fmt) v else v
def intCode (fmt : Nat) (i : Int) : Nat := (i % 2 ^ fmtBits fmt).toNat

/-- The lesser of two poison records: lower element index, then lower rank (R269). -/
def leastRec (ranks : List Nat) : Option (Nat × Nat) → Option (Nat × Nat) → Option (Nat × Nat)
  | none, b => b
  | a, none => a
  | some a, some b =>
    let rk (x : Nat) : Nat := (ranks.findIdx? (· == x)).getD ranks.length
    if a.2 < b.2 || (a.2 == b.2 && decide (rk a.1 ≤ rk b.1)) then some a else some b

/-- The units of a group flit: blocks, or single elements. -/
def unitsOf (f : Flit) (unit total : Nat) : List (Nat × UVal) :=
  let h := collHdr f
  let bits := fmtBits h.fmt
  if unit = 32 then
    let rec' := (trailerOf f).2
    (List.range (min h.count (blocksPerFlit bits))).map (fun i =>
      let b := h.offset / 32 + i
      let sc := leAt f.payload (208 + i) 1
      (b, { scale := sc, data := (codesAt f (16 + 4 * bits * i) bits (min 32 (total - 32 * b))).map (codeInt h.fmt)
            poison := if sc = 0xFF then rec' else none }))
  else
    let n := h.count * 8 / bits
    (List.range n).map (fun i =>
      (h.offset + i, { scale := 0, data := [((codesAt f 16 bits n).getD i 0 : Nat)], poison := none }))

/-- Whether unit i of a flit's layout has bytes in a word of its payload (R260, Tables 11.1 and 11.2): element bytes, or the
scale byte of a block. With a word of the header, or of the trailer of blocks, nothing in the flit is known to be right:
every unit counts (log entry 16). -/
def wordMeets (w unit bits i : Nat) : Bool :=
  decide (w < 2) ||
  (if unit = 32 then
    decide (28 ≤ w) || (208 + i) / 8 == w ||
      (decide (16 + 4 * bits * i < 8 * w + 8) && decide (8 * w < 16 + 4 * bits * (i + 1)))
   else decide (128 + bits * i < 64 * w + 64) && decide (64 * w < 128 + bits * (i + 1)))

/-- A unit on its way: rank, hop, unit, value. -/
abbrev Item := Nat × Nat × Nat × UVal

/-- Cuts contiguous units into runs of at most n. -/
def unitRuns (n : Nat) : List (Nat × UVal) → List (List (Nat × UVal))
  | [] => []
  | a :: t => match unitRuns n t with
    | [] => [[a]]
    | r :: rs => match r with
      | [] => [a] :: rs
      | b :: _ => if b.1 = a.1 + 1 ∧ r.length < n then (a :: r) :: rs else [a] :: r :: rs

/-- Places without repeats. -/
def distinct (xs : List (Nat × Nat)) : List (Nat × Nat) := xs.foldl (fun a x => if a.contains x then a else a ++ [x]) []

/-- Payloads of the units of one destination and hop. -/
def unitPayloads (h : CollHdr) (unit total : Nat) (ranks : List Nat) (us : List (Nat × UVal)) : List (List Byte) :=
  let bits := fmtBits h.fmt
  let cap := if unit = 32 then blocksPerFlit bits else 224 * 8 / bits
  (unitRuns cap us).map (fun r =>
    let first := ((r.head?).map (·.1)).getD 0
    if unit = 32 then
      let elems := r.flatMap (fun u => padTo (4 * bits) (packCodes bits (u.2.data.map (intCode h.fmt))))
      let rec' := r.foldl (fun a u => leastRec ranks a u.2.poison) none
      { h with count := r.length, offset := 32 * first }.bytes ++
        blockBody elems (r.map (fun u => BitVec.ofNat 8 u.2.scale)) (if isWire h.fmt then total else 0) rec'
    else
      let elems := packCodes bits (r.flatMap (fun u => u.2.data.map (fun i => i.toNat)))
      { h with count := elems.length, offset := first }.bytes ++ elems)

end Sys2Proof.Machine
end

