-- ==== Sys2Proof/Machine/CollCheck.lean ====
section
/-!
DEFINITION. Link-collective commands: their PARAM words (Table 11.6), their tables (R263), the refusals of Table 11.4
and the limits of Table 11.5.
-/
namespace Sys2Proof.Machine

/-- PARAM fields of Table 11.6. -/
def lcVc (c : Cmd) : Nat := bitsAt c.w4 0 3
def lcGroup (c : Cmd) : Nat := bitsAt c.w4 3 8
def lcTlink (c : Cmd) : Nat := bitsAt c.w4 11 5
def lcBucket (c : Cmd) : Nat := bitsAt c.w4 16 16
def lcMax (c : Cmd) : Bool := c.op == 0x80 && flag c.w5 0
def lcSum (c : Cmd) : Bool := c.op == 0x80 && !flag c.w5 0
def lcWide (c : Cmd) : Bool := flag c.w5 1
def lcHead (c : Cmd) : Nat := bitsAt c.w5 2 3
def lcAll (c : Cmd) : Bool := flag c.w5 5
def lcFirst (c : Cmd) : Bool := flag c.w5 6
def lcBase (c : Cmd) : Nat := c.w6 + bitsAt c.w7 0 11 * 2 ^ 32
def lcNode (c : Cmd) : Nat := bitsAt c.w5 0 5
def lcAddFirst (c : Cmd) : Bool := flag c.w5 0
def lcKv (c : Cmd) : Bool := flag c.w5 1
def lcPfmt (c : Cmd) : Nat := if flag c.w5 2 then fmtBF16 else fmtFP32
def lcDescs (c : Cmd) : Nat := bitsAt c.w5 3 3
def lcPeer (c : Cmd) : Nat := bitsAt c.w6 0 16
/-- The wire format of a reduction. -/
def lcWire (c : Cmd) : Nat := if lcMax c then fmtFP32 else if lcWide c then fmtWire16 else fmtWire8

/-- Whether a command is a message of R275, R276 rather than a group collective. -/
def lcMessage (c : Cmd) : Bool := decide (0x84 ≤ c.op)

/-- Engine index of a link in its region. -/
def lcEng (l : Lnk) : Nat := 45 + l.val % 8

/-- The link of an entry of a region. -/
def lcLink (r : Rgn) (e : Nat) : Lnk := ⟨8 * r.val + (e - 45) % 8, by omega⟩

/-- Whether the target of a reduce-scatter lies in a stack. -/
def Ctx.stackTarget (x : Ctx) : Bool := x.c.op == 0x80 && spaceOf (x.d 2 0).base == .stack

/-- DA ranges: a stack target brings its bitmap (R268, R271). -/
def collRanges (x : Ctx) : List (Nat × Nat) × List (Nat × Nat) :=
  (x.ranges false, x.ranges true ++ if x.stackTarget then descRanges x.rd (x.d 2 1) else [])

/-- The member table: fabric addresses by rank (R263). -/
def membersOf (rd : Reader) (d : Desc) : List Nat :=
  (List.range d.count).map (fun r => (idAt rd d r % 65536).toNat)

/-- The shard table: START and LENGTH by rank. -/
def shardsOf (rd : Reader) (d : Desc) : List (Int × Int) :=
  (List.range (d.size 1)).map (fun r => (idAt rd d (2 * r), idAt rd d (2 * r + 1)))

/-- The member table and the own rank of a command. -/
def Ctx.memberTable (x : Ctx) : Desc := if x.c.op = 0x83 then x.d 1 0 else x.d 1 1
def Ctx.members (x : Ctx) : List Nat := membersOf x.rd x.memberTable
def Ctx.rank (x : Ctx) : Nat := (x.members.findIdx? (· == x.s.addr)).getD 0

/-- Shards as natural numbers, once checked. -/
def Ctx.shards (x : Ctx) : List (Nat × Nat) := (shardsOf x.rd (x.d 1 0)).map (fun a => (a.1.toNat, a.2.toNat))
/-- Index of the own shard: the rank, or the node of R273. -/
def Ctx.shardIx (x : Ctx) : Nat := if x.c.op = 0x82 then x.rank / lcNode x.c else x.rank
/-- Elements of the bucket and of the own shard. -/
def Ctx.bucketLen (x : Ctx) : Nat := x.shards.foldl (fun a b => a + b.2) 0
def Ctx.ownShard (x : Ctx) : Nat × Nat := x.shards.getD x.shardIx (0, 0)

/-- Whether shards tile the bucket from an element on, every START a multiple of 32 (R263). -/
def shardsTile : Int → List (Int × Int) → Bool
  | _, [] => true
  | p, a :: t => a.1 == p && a.1 % 32 == 0 && decide (0 ≤ a.2) && shardsTile (p + a.2) t

/-- Whether the member table breaks R263. -/
def Ctx.badMembers (x : Ctx) : Bool :=
  let d := x.memberTable
  d.format != fmtINT32 || d.rank != 1 || decide (4096 < d.count) || x.members.contains 0xFFFF ||
  (x.members.filter (· == x.s.addr)).length != 1

/-- Whether the shard table breaks R263 or R273. -/
def Ctx.badShards (x : Ctx) : Bool :=
  let d := x.d 1 0
  let p := x.memberTable.count
  d.format != fmtINT32 || d.rank != 2 || d.size 0 != 2 || decide (4096 < d.size 1) ||
  (if x.c.op = 0x82 then lcNode x.c == 0 || p % lcNode x.c != 0 || d.size 1 * lcNode x.c != p else d.size 1 != p) ||
  !shardsTile 0 (shardsOf x.rd d)

/-- Whether a size differs from the elements due; a shard of no elements takes any descriptor (log entry 16). -/
def sizeOff (d : Desc) (n : Nat) : Bool := n != 0 && d.count != n

/-- The D2 formats of a gather (Table 11.3). -/
def gatherPairs (a : Nat) : List Nat :=
  if [0x04, 0x05, 0x84, 0x85, 0x86, 0x87, 0x88, 0x89].contains a then [a, fmtBF16, fmtFP16, fmtFP32]
  else if a = fmtBF16 ∨ a = fmtFP16 then [a, fmtFP32]
  else if a = fmtFP32 then [fmtFP32] else []

/-- Reserved PARAM bits, VC, and TLINK of a group collective. -/
def lcParamCodes (x : Ctx) : List Nat :=
  let c := x.c
  let m5 : Nat := match c.op with
    | 0x80 => 0x7F | 0x82 => 0x1F | 0x84 => 0x3F | 0x85 => 0x38 | 0x86 => 0x38 | _ => 0
  let m6 : Nat := if c.op = 0x80 then 2 ^ 32 - 1 else if lcMessage c then 0xFFFF else 0
  bad (4 < lcVc c || rsvSet c.w5 m5 || rsvSet c.w6 m6 || rsvSet c.w7 (if c.op = 0x80 then 0x7FF else 0) ||
    (!lcMessage c && lcTlink c != linkOf x.r x.e.eng)) 0x0C

/-- Checks of LC_REDUCE_SCATTER. -/
def reduceCodes (x : Ctx) : List Nat :=
  let c := x.c
  let a := x.d 0 0
  let y := x.d 2 0
  let b := x.d 2 1
  let stack := x.stackTarget
  let n := x.bucketLen
  let due := if lcAll c then n else x.ownShard.2
  let k := y.base / 2 ^ 36
  lcParamCodes x ++
  bad ((stack && (lcAll c || lcMax c)) || (lcMax c && lcHead c != 0)) 0x0C ++
  (if x.badMembers || x.badShards then [0x0B] else
    bad (a.count != n && n != 0 || sizeOff y due || 2 ^ 43 < lcBase c + n ||
      (if lcMax c then 524288 else if lcWide c then 1048576 else 2097152) / (if lcAll c then 2 else 1) < n) 0x0B) ++
  (if lcMax c then bad (a.format != fmtFP32 || y.format != fmtFP32) 5
   else
    bad (!([fmtFP32, fmtBF16, fmtFP16].contains a.format) || (x.d 0 1).format != fmtFP32 ||
      (if stack then y.format != fmtFP32 || b.format != fmtMask
       else !([fmtFP32, fmtBF16, fmtFP16, lcWire c].contains y.format))) 5) ++
  (if stack then
    x.operandCodes (outp 2 1) ++
    bad ((descRanges x.rd y ++ descRanges x.rd b).any (fun w => !inStack k w.1 w.2)) 6 ++
    bad (b.count != (y.count + 31) / 32) 0x0B
   else [])

/-- Checks of LC_GATHER and LC_GATHER_HIER. -/
def gatherCodes (x : Ctx) : List Nat :=
  let a := x.d 0 0
  let y := x.d 2 0
  let n := x.bucketLen
  lcParamCodes x ++
  bad (x.c.op == 0x82 && (lcNode x.c == 0 || 16 < lcNode x.c)) 0x0C ++
  (if x.badMembers || x.badShards then [0x0B] else
    bad (sizeOff a x.ownShard.2 || sizeOff y n ||
      2097152 < (n * a.bits + 7) / 8 + (if isScaled a.format then (n + 31) / 32 else 0)) 0x0B) ++
  bad (!(gatherPairs a.format).contains y.format || (isScaled a.format && a.blk != 2)) 5

/-- Rows of a tensor of rows: SIZE1 as written, so that a descriptor of rank 1 holds none; row k is dimension-0 run k of
dimension 1 (log entry 16). -/
def rowsOf (d : Desc) : Nat := d.rawSize 1
/-- Element bytes and scale bytes of a row: one scale for each of its blocks, each element's own where the blocks lie along
dimension 1 (log entry 16). -/
def rowElems (d : Desc) : Nat := (d.size 0 * d.bits + 7) / 8
def rowScales (d : Desc) : Nat := if !hasScale d.format then 0 else if d.dir then d.size 0 else d.lineBlocks
def rowBytes (d : Desc) : Nat := rowElems d + rowScales d

/-- Checks of LC_ALL_TO_ALL (R274): the same format is the same code, and for scaled rows the same BLK and DIR, so that their
scales have places (log entry 16). -/
def allToAllCodes (x : Ctx) : List Nat :=
  let a := x.d 0 0
  let y := x.d 2 0
  let counts := x.d 0 1
  let ns := (List.range counts.count).map (idAt x.rd counts)
  lcParamCodes x ++
  (if x.badMembers then [0x0B] else
    bad (counts.count != x.memberTable.count || (x.d 2 1).count != x.memberTable.count || a.size 0 != y.size 0 || ns.any (fun n => decide (n < 0)) ||
      ns.foldl (fun p q => p + q) 0 != (rowsOf a : Int)) 0x0B) ++
  bad (a.format != y.format || counts.format != fmtINT32 || (x.d 2 1).format != fmtINT32 ||
    (isScaled a.format && (a.blk != y.blk || a.dir != y.dir))) 5

/-- Checks of the messages (R275, R276). -/
def messageCodes (x : Ctx) : List Nat :=
  let c := x.c
  let n := lcDescs c
  lcParamCodes x ++ bad (n == 0 || 4 < n) 0x0C ++
  (if c.op = 0x84 then
    let p := lcPfmt c
    bad (n != if lcKv c then 4 else 2) 0x0C ++
    bad ([0, 1].any (fun k => !([fmtFP32, fmtBF16].contains (x.d 0 k).format) ||
      (!lcAddFirst c && (x.d 0 (2 + k)).format != p))) 5 ++
    bad (!lcAddFirst c && [0, 1].any (fun k => (x.d 0 k).count != (x.d 0 (2 + k)).count)) 0x0B
   else [])

end Sys2Proof.Machine
end

