-- ==== Sys2Proof/Machine/CollGroup.lean ====
section
/-!
DEFINITION. Reductions and gathers in the links: base scale (R265), quantization, hop sums and draws (R266), poison
(R269), the moves of each unit through the schedule (R264, R271-R273), and the delivered target (R268).
-/
namespace Sys2Proof.Machine

/-- S0 and whether it was clamped (R265). -/
def baseScale (m : Num) (hops head : Nat) (wide : Bool) : Nat × Bool :=
  let q : Nat := if wide then 32767 else 127
  if m.isZero then (0, false)
  else if !m.isFinite then (0xFE - hops, true)
  else match (List.range (0xFF - hops)).find? (fun (k : Nat) => (m.scale head).le (.fin false q ((k : Int) - 127))) with
    | some k => (k, false)
    | none => (0xFE - hops, true)

/-- Half of a hop sum, rounded stochastically (R266, R78). -/
def halfRound (t : Int) (u : Nat) : Int :=
  let m : Int := roundTo (.sr u) t.natAbs (-1) 0
  if t < 0 then -m else m

/-- The draw of element i at hop j (R266); hop 0 is the quantization of a rank. -/
def Ctx.hopDraw (x : Ctx) (j i : Nat) : Nat :=
  let d := x.d 0 0
  if j = 0 then draw x.e.seed 0 ((d.stream + x.rank) % 65536) x.e.step d.tensorId (lcBase x.c + i)
  else draw x.e.seed 0 d.stream x.e.step d.tensorId (j * 2 ^ 43 + lcBase x.c + i)

/-- One block of the contribution quantized: its value and its saturations (R266, R269). -/
def Ctx.quantize (x : Ctx) (s0 b : Nat) : UVal × Nat :=
  let d := x.d 0 0
  let n := min 32 (d.count - 32 * b)
  let vs := (List.range n).map (fun k => readElem x.rd d (32 * b + k))
  match vs.findIdx? (fun v => !v.isFinite) with
  | some k => ({ scale := 0xFF, data := List.replicate n 0, poison := some (x.s.addr, lcBase x.c + 32 * b + k) }, 0)
  | none =>
    let qs := (List.range n).map (fun k =>
      encodeNum (lcWire x.c) (.sr (x.hopDraw 0 (32 * b + k))) ((vs.getD k .zero).scale (127 - (s0 : Int))))
    ({ scale := s0, data := qs.map (fun q => codeInt (lcWire x.c) q.1), poison := none },
     (qs.filter (·.2)).length)

/-- The units of the own contribution: blocks of wire values or magnitudes, the base scale, SAT, SCALE_CLAMP. -/
def Ctx.contribution (x : Ctx) : List (Nat × UVal) × Nat × Nat × Nat :=
  let n := x.bucketLen
  let d := x.d 0 0
  if lcMax x.c then
    ((List.range n).map (fun i =>
      (i, { scale := 0, data := [((encodeNum fmtFP32 .rne (readElem x.rd d i).abs).1 : Nat)], poison := none })), 0, 0, 0)
  else
    let s0 := baseScale (readElem x.rd (x.d 0 1) 0) (Sched.of x.members.length).hops (lcHead x.c) (lcWide x.c)
    let bs := (List.range ((n + 31) / 32)).map (fun b => (b, x.quantize s0.1 b))
    (bs.map (fun b => (b.1, b.2.1)), s0.1, bs.foldl (fun a b => a + b.2.2) 0, if s0.2 then 1 else 0)

/-- Blocks of sub-slice t of a node's shard of n elements (R273). -/
def subSlice (n m t : Nat) : Nat × Nat := (t * ((n + 31) / 32) / m, (t + 1) * ((n + 31) / 32) / m)

/-- The sub-slice that holds block b of a shard of n elements. -/
def sliceOf (n m b : Nat) : Nat :=
  ((List.range m).find? (fun t => decide ((subSlice n m t).1 ≤ b) && decide (b < (subSlice n m t).2))).getD 0

/-- The scale byte of elements that lie in blocks of these scales: the one they share; the spec states none where they
differ (log entry 16). -/
def Ctx.commonScale (x : Ctx) (scales : List Nat) (n : Nat) : Nat :=
  let a := scales.headD 0
  if scales.all (· == a) then a else (Config.freeByte x.e.ticket n).toNat

/-- The units that a gathering member brings: its shard, or its sub-slice of the node's shard. A block of scale 0xFF is
poisoned by this member (R65, R269, R270). -/
def Ctx.gatherUnits (x : Ctx) : List (Nat × UVal) :=
  let d := x.d 0 0
  let sh := x.ownShard
  let m := lcNode x.c
  let mine (i : Nat) : Bool := x.c.op != 0x82 || sliceOf sh.2 m (i / 32) == x.rank % m
  let bits := d.bits
  if isScaled d.format then
    ((List.range ((sh.2 + 31) / 32)).filter (fun b => mine (32 * b))).map (fun b =>
      let ns := (List.range (min 32 (sh.2 - 32 * b))).map (fun k => 32 * b + k)
      let sc := x.commonScale (ns.map (fun n => readScale x.rd d (d.blockOf n))) (sh.1 / 32 + b)
      (sh.1 / 32 + b,
       { scale := sc, data := ns.map (fun n => (readCode x.rd d n % 2 ^ bits : Nat))
         poison := if sc = 0xFF then some (x.s.addr, sh.1 + 32 * b) else none }))
  else
    ((List.range sh.2).filter mine).map (fun i =>
      (sh.1 + i, { scale := 0, data := [(readCode x.rd d i : Nat)], poison := none }))

/-- Where a member passes on a unit at its last level: (rank, HOP). -/
def Coll.onward (c : Coll) (cmd : Cmd) (u : Nat) : List (Nat × Nat) :=
  let i := u * c.unit
  let g := shardOf c.shards i
  if cmd.op = 0x80 then ((Sched.of c.ranks.length).passOn c.own g (lcAll cmd)).map (fun k => (k, 31))
  else
    let hopOf (sch : Sched) (r : Nat) : Nat := if (sch.virt r).isNone then 1 else 31
    if cmd.op = 0x81 then
      let sch := Sched.of c.ranks.length
      (sch.spread c.own g).map (fun k => (k, hopOf sch c.own))
    else
      let m := c.node
      let sh := c.shards.getD g (0, 0)
      let t := sliceOf sh.2 m ((i - sh.1) / 32)
      let own := (c.own / m, c.own % m)
      let inNode := Sched.of m
      let across := Sched.of (c.ranks.length / m)
      (if t = own.2 then (across.spread own.1 g).map (fun k => (k * m + own.2, hopOf across own.1)) else []) ++
      (inNode.spread own.2 t).map (fun k => (own.1 * m + k, hopOf inNode own.2))

/-- Whether the target is due a unit. -/
def Coll.due (c : Coll) (cmd : Cmd) (u : Nat) : Bool :=
  cmd.op != 0x80 || lcAll cmd || shardOf c.shards (u * c.unit) == c.own

/-- A unit reaches its last level: kept when due, passed on. -/
def Coll.deliver (c : Coll) (cmd : Cmd) (u : Nat) (v : UVal) : Coll × List Item :=
  ({ c with final := if c.due cmd u && !c.final.any (·.1 == u) then c.final ++ [(u, v)] else c.final },
   (c.onward cmd u).map (fun k => (k.1, k.2, u, v)))

/-- A value halved at a fold hop without a partner (R264, R266). -/
def Ctx.halve (x : Ctx) (u : Nat) (v : UVal) : UVal :=
  if lcMax x.c || v.scale = 0xFF then v
  else { v with
    scale := v.scale + 1
    data := (List.range v.data.length).map (fun k => halfRound (v.data.getD k 0) (x.hopDraw 1 (32 * u + k))) }

/-- The value of hop j from two operands (R266, R269, R271). -/
def Ctx.combine (x : Ctx) (ranks : List Nat) (j u : Nat) (a b : UVal) : UVal :=
  if lcMax x.c then
    { scale := 0, poison := none
      data := (List.range a.data.length).map (fun k =>
        ((encodeNum fmtFP32 .rne (Num.max (decodeNum fmtFP32 (a.data.getD k 0).toNat).abs
          (decodeNum fmtFP32 (b.data.getD k 0).toNat).abs)).1 : Nat)) }
  else if a.scale = 0xFF ∨ b.scale = 0xFF then
    { scale := 0xFF, data := a.data.map (fun _ => 0), poison := leastRec ranks a.poison b.poison }
  else
    { scale := a.scale + 1, poison := none
      data := (List.range a.data.length).map (fun k =>
        halfRound (a.data.getD k 0 + b.data.getD k 0) (x.hopDraw j (32 * u + k))) }

/-- Moves one held unit as far as it goes without a partner. -/
def Coll.moveOne (c : Coll) (x : Ctx) : Nat → Nat × Nat × UVal → Coll × List Item
  | 0, h => ({ c with held := c.held ++ [h] }, [])
  | n + 1, (u, level, v) =>
    if x.c.op != 0x80 then c.deliver x.c u v
    else
      let sch := Sched.of c.ranks.length
      match sch.next c.own (sch.owner (shardOf c.shards (u * c.unit))) level with
      | .send r hop => (c, [(r, hop, u, v)])
      | .wait => ({ c with held := c.held ++ [(u, level, v)] }, [])
      | .halve => c.moveOne x n (u, 1, x.halve u v)
      | .final => c.deliver x.c u v

/-- Moves several held units. -/
def Coll.moveAll (c : Coll) (x : Ctx) : List (Nat × Nat × UVal) → Coll × List Item
  | [] => (c, [])
  | h :: t =>
    let a := c.moveOne x 2 h
    let b := a.1.moveAll x t
    (b.1, a.2 ++ b.2)

/-- Moves everything held. -/
def Coll.settle (c : Coll) (x : Ctx) : Coll × List Item := ({ c with held := [] } : Coll).moveAll x c.held

/-- Units of the whole bucket. -/
def Coll.units (c : Coll) : List Nat := List.range ((c.total + c.unit - 1) / c.unit)

/-- Whether a group target holds every unit it is due and nothing is left to send (R277). -/
def Coll.complete (c : Coll) (cmd : Cmd) : Bool :=
  c.held.isEmpty && (c.units.filter (c.due cmd)).all (fun u => c.final.any (·.1 == u))

/-- The OP of a group collective's flits. -/
def lcOp (c : Cmd) : Nat :=
  match c.op with
  | 0x80 => if lcMax c then opMax else opReduce
  | 0x81 => opGather
  | 0x82 => opGatherHier
  | 0x83 => opA2aRows
  | 0x84 => opAddFwd
  | _ => opSend

/-- Scale that the blocks of a flit must have (R265); none for a HOP outside the schedule. -/
def Coll.scaleDue (c : Coll) (hop : Nat) : Option Nat :=
  let n := (Sched.of c.ranks.length).hops
  if hop = 31 then some (c.base + n) else if 1 ≤ hop ∧ hop ≤ n then some (c.base + hop - 1) else none

/-- Whether a group flit is a mismatch (R278). -/
def Coll.flitOff (c : Coll) (cmd : Cmd) (f : Flit) : Bool :=
  lcSum cmd &&
  ((trailerOf f).1 != c.total ||
   (unitsOf f c.unit c.total).any (fun u => u.2.scale != 0xFF && c.scaleDue (collHdr f).hop != some u.2.scale))

/-- What the slot of a flit that arrived for a link shows (R260). -/
def State.stageCheck (s : State) (l : Lnk) (f : Flit) : StageCheck :=
  ((s.links[l].stageBad.find? (fun b => b.1 == f)).map (·.2)).getD .good

/-- The word of a flit's slot that is uncorrectable while the flit is parked. -/
def flitWord : StageCheck → Option Nat
  | .flit w => some w.val
  | _ => none

/-- The word of the slot of the partial sum that a flit forms that is uncorrectable. -/
def sumWord : StageCheck → Option Nat
  | .sum w => some w.val
  | _ => none

/-- The units a group flit carries. -/
def Coll.arriving (c : Coll) (f : Flit) : List (Nat × UVal) := unitsOf f c.unit c.total

/-- Whether a group flit can be used now: a hop sum needs its own operand (R267). -/
def Coll.canTake (c : Coll) (cmd : Cmd) (f : Flit) : Bool :=
  let hop := (collHdr f).hop
  cmd.op != 0x80 || hop == 31 || c.flitOff cmd f ||
  (hop != 0 && (c.arriving f).all (fun u => c.held.any (fun h => h.1 == u.1 && h.2.1 + 1 == hop)))

/-- A unit that an uncorrectable staging word meets (R260): a block is poisoned with this module as contributor; a value that
stands in no block is open. -/
def Coll.spoil (c : Coll) (x : Ctx) (u : Nat × UVal) : Nat × UVal :=
  if c.unit = 1 then
    (u.1, { u.2 with data := [((Config.freeWord (x.s.ticket + u.1)).toNat % 2 ^ (x.d 0 0).bits : Nat)] })
  else
    (u.1, { scale := 0xFF, data := u.2.data.map (fun _ => 0)
            poison := leastRec c.ranks u.2.poison (some (x.s.addr, (if lcSum x.c then lcBase x.c else 0) + u.1 * c.unit)) })

/-- The units of a flit that a word of its slot meets, by their places in the flit. -/
def Coll.hitUnits (c : Coll) (f : Flit) (w : Nat) : List Nat :=
  let us := c.arriving f
  (List.range us.length).filterMap (fun i =>
    if wordMeets w c.unit (fmtBits (collHdr f).fmt) i then (us[i]?).map (·.1) else none)

/-- The units of a flit as staging gives them back. -/
def Coll.staged (c : Coll) (x : Ctx) (f : Flit) : List (Nat × UVal) :=
  match flitWord (x.s.stageCheck (lcLink x.r x.e.eng) f) with
  | some w => let hit := c.hitUnits f w
              (c.arriving f).map (fun u => if hit.contains u.1 then c.spoil x u else u)
  | none => c.arriving f

/-- The partial sums that a flit formed and that an uncorrectable word of their slot meets (R260): still held after the
flit's hop. -/
def Coll.sumsHit (c : Coll) (x : Ctx) (f : Flit) : List Nat :=
  match sumWord (x.s.stageCheck (lcLink x.r x.e.eng) f) with
  | some w => (c.hitUnits f w).filter (fun u => c.held.any (fun h => h.1 == u && h.2.1 == (collHdr f).hop))
  | none => []

/-- The partial sums as staging gives them back: those hit are poisoned and the command is to fail (R260). -/
def Coll.spoilSums (c : Coll) (x : Ctx) (hit : List Nat) : Coll :=
  if hit.isEmpty then c
  else { c with uncorr := true, held := c.held.map (fun h => if hit.contains h.1 then (h.1, h.2.1, (c.spoil x (h.1, h.2.2)).2) else h) }

/-- Uses a group flit: the collective after it, what it sends, blocks summed. -/
def Coll.take (c : Coll) (x : Ctx) (f : Flit) : Coll × List Item × Nat :=
  let hop := (collHdr f).hop
  let us := c.staged x f
  if c.flitOff x.c f then ({ c with mismatch := true }, [], 0)
  else if x.c.op != 0x80 || hop == 31 then
    let r := us.foldl (fun (a : Coll × List Item) u => let d := a.1.deliver x.c u.1 u.2; (d.1, a.2 ++ d.2)) (c, [])
    (r.1, r.2, 0)
  else
    let held := c.held.map (fun h =>
      match if h.2.1 + 1 = hop then us.find? (fun u => u.1 == h.1) else none with
      | some u => (h.1, hop, x.combine c.ranks hop h.1 h.2.2 u.2)
      | none => h)
    let r := ({ c with held := held } : Coll).settle x
    (r.1, r.2, if lcSum x.c then us.length else 0)

/-- The payloads that carry items, with the ranks they go to. -/
def Coll.payloads (c : Coll) (cmd : Cmd) (fmt : Nat) (items : List Item) : List (Nat × List Byte) :=
  (distinct (items.map (fun i => (i.1, i.2.1)))).flatMap (fun k =>
    let us := items.filterMap (fun i => if i.1 = k.1 ∧ i.2.1 = k.2 then some (i.2.2.1, i.2.2.2) else none)
    let h : CollHdr := { op := lcOp cmd, group := lcGroup cmd, hop := k.2, desc := 0, count := 0
                         tlink := lcTlink cmd, fmt := fmt, bucket := lcBucket cmd, offset := 0, rank := c.own }
    (unitPayloads h c.unit c.total c.ranks us).map (fun p => (k.1, p)))

/-- The delivered unit that holds element i of the bucket, and its place in it. -/
def Coll.at (c : Coll) (i : Nat) : UVal × Nat :=
  (((c.final.find? (fun u => u.1 == i / c.unit)).map (·.2)).getD { scale := 0, data := [], poison := none }, i % c.unit)

/-- The value delivered for element i of a reduction (R268, R269, R271). -/
def Coll.value (c : Coll) (cmd : Cmd) (i : Nat) : Num :=
  let u := c.at i
  if lcMax cmd then decodeNum fmtFP32 (u.1.data.getD u.2 0).toNat
  else if u.1.scale = 0xFF then .nan
  else (numOfInt (u.1.data.getD u.2 0)).scale ((c.base + (Sched.of c.ranks.length).hops : Nat) - 127 : Int)

/-- What delivered poison leaves at the commit, of a reduction or a gather (R269, R270). -/
def Coll.poisonPosts (c : Coll) (x : Ctx) : List Post :=
  let ps := c.final.filter (fun u => c.unit == 32 && u.2.scale == 0xFF)
  if ps.isEmpty then []
  else .poisonVote (lcGroup x.c) ::
    (match ps.foldl (fun a u => leastRec c.ranks a u.2.poison) none with
     | some (addr, elem) => [.poisonRec (linkOf x.r x.e.eng) (lcGroup x.c) (lcBucket x.c) addr elem]
     | none => [])

/-- The target of a reduction (R268): converted into SRAM, or accumulated into a stack. -/
def Coll.reducePosts (c : Coll) (x : Ctx) : List Post :=
  let start := if lcAll x.c then 0 else (c.shards.getD c.own (0, 0)).1
  let n := if lcAll x.c then c.total else (c.shards.getD c.own (0, 0)).2
  let y := x.d 2 0
  c.poisonPosts x ++
  (if n = 0 then []
   else if x.stackTarget then
    let rd := (x.s.modRegion x.r (fun g => { g with cmds := g.cmds.filter (fun e => e.ticket != x.e.ticket) })).reader true
    let b := x.d 2 1
    let k := y.base / 2 ^ 36
    let a := accumulate n (lcFirst x.c)
      (fun i => let v := c.value x.c (start + i); if v.isNan then .zero else v)
      (fun j => (c.at (start + 32 * j)).1.scale == 0xFF) (fun i => readElem rd y i) (fun j => !(readElem rd b j).isZero)
    x.form y a.t ++ x.form b (fun j => Acc32.of (if a.bit j then .one else .zero)) ++
    [.count SE_POISON.MARKED k 0 0 a.marked, .live SE_CNT.ACC_ELEMENTS k 0 0 n]
   else x.form y (fun i => Acc32.of (c.value x.c (start + i))))

/-- The target of a gather (R272): the same bits, or widened. -/
def Coll.gatherPosts (c : Coll) (x : Ctx) : List Post :=
  let a := x.d 0 0
  let y := x.d 2 0
  let code (i : Nat) : Nat := let u := c.at i; (u.1.data.getD u.2 0).toNat
  let scale (i : Nat) : Nat := (c.at i).1.scale
  c.poisonPosts x ++
  if c.total = 0 then []
  else if y.format = a.format then
    x.out y (formCopy x.place x.key y code (fun b => x.commonScale ((y.members b).map scale) (2 ^ 44 + b)))
  else x.form y (fun i => Acc32.of (if isScaled a.format then decodeScaled a.format (scale i) (code i)
    else decodeNum a.format (code i)))

/-- The collective that a group command holds at issue, and what its quantization counts there (R265, R266). -/
def Ctx.groupColl (x : Ctx) : Coll × List Post :=
  let red := x.c.op == 0x80
  let k := if red then x.contribution else (x.gatherUnits, 0, 0, 0)
  let l := linkOf x.r x.e.eng
  ({ ranks := x.members, own := x.rank, node := lcNode x.c, shards := x.shards, total := x.bucketLen
     unit := if (red && !lcMax x.c) || isScaled (x.d 0 0).format then 32 else 1
     base := k.2.1, held := k.1.map (fun u => (u.1, 0, u.2)), final := [], counts := [], rows := [], dones := []
     message := [], closed := false, mismatch := false, uncorr := false },
   [.count LNK_COLL_ERR.SAT l 0 0 k.2.2.1, .count RGN_NUM_CNT.SAT x.r 0 0 k.2.2.1,
    .count LNK_COLL_ERR.SCALE_CLAMP l 0 0 k.2.2.2])

end Sys2Proof.Machine
end

