-- ==== Sys2Proof/Machine/Coll.lean ====
section
/-!
DEFINITION. The link-collective commands and the arrival of COLLECTIVE flits: matching and staging (R258, R259, R261),
expert exchange (R274), messages and add-and-forward (R275, R276), completion (R277, R278).
-/
namespace Sys2Proof.Machine

/-- The collective of an entry. -/
def Entry.coll? (e : Entry) : Option Coll := match e.work with | .coll c => some c | _ => none

/-- The fabric address of the peer of a message (R275). -/
def State.lcPeerOf (s : State) (l : Lnk) (c : Cmd) : Nat := if lcPeer c = 0xFFFF then s.get LNK_PEER.ADDR l else lcPeer c

/-- A COLLECTIVE flit of this module for a command. -/
def State.collFlit (s : State) (vc dest tag : Nat) (last : Bool) (payload : List Byte) : Flit :=
  s.newFlit ftCollective vc last dest tag payload

/-- The DONE that answers a flit: for a message it goes to the SLINK of the flit, with this link in its own (R275);
for rows it carries the own rank. -/
def State.doneFlit (s : State) (f : Flit) (tlink rank : Nat) : Flit :=
  let h := collHdr f
  s.collFlit f.hdr.vc.toNat f.hdr.src.toNat f.hdr.tag.toNat true
    (CollHdr.bytes { op := opDone, group := h.group, hop := 0, desc := 0, count := 0, tlink := tlink, fmt := 0
                     bucket := h.bucket, offset := 0, rank := rank })

/-- Bytes that a tensor brings to a message: its elements packed in logical order, and its scales. -/
def rawOf (rd : Reader) (d : Desc) : List Byte × List Byte :=
  (packCodes d.bits ((List.range d.count).map (readCode rd d)),
   if hasScale d.format then (List.range d.blocks).map (fun b => rd (d.scaleBase + b)) else [])

/-- Payloads of one descriptor of a message, or of a stream of rows: raw bytes in logical order, the scales behind the
elements (R261, R275). -/
def partPayloads (h : CollHdr) (elems scales : List Byte) : List (List Byte) :=
  let ps := chunk 224 (elems ++ scales)
  (List.range ps.length).map (fun i => { h with count := (ps.getD i []).length, offset := 224 * i }.bytes ++ ps.getD i [])

/-- A sum of add-and-forward: the partial first, one rounding to FP32 and one into PFMT (R276). -/
def addForward (pfmt : Nat) (partial? : Option Num) (own : Num) : OutElem :=
  let v : Acc32 := match partial? with
    | some p => Acc32.round (p.add own)
    | none => Acc32.of own
  let r := encodeNum pfmt .rne v.val
  { code := r.1, sat := v.val.isFinite && (v.sat || r.2), cls := v.val.cls, zero := false, lost := false }

/-- The descriptors of a message as (format, element bytes, scale bytes), with what the sums of an LC_ADD_FWD leave at its
commit: saturations, non-finite sums, and for each descriptor of sums its first non-finite element (R74, R76, R276). -/
def Ctx.messageParts (x : Ctx) : List (Nat × List Byte × List Byte) × List Post :=
  let plain (d : Desc) : Nat × List Byte × List Byte := (d.format, rawOf x.rd d)
  if x.c.op = 0x84 then
    let sums := [0, 1].map (fun k => (List.range (x.d 0 k).count).map (fun n =>
      addForward (lcPfmt x.c) (if lcAddFirst x.c then none else some (readElem x.rd (x.d 0 (2 + k)) n))
        (readElem x.rd (x.d 0 k) n)))
    let es := sums.flatMap id
    (sums.map (fun v => (lcPfmt x.c, packCodes (fmtBits (lcPfmt x.c)) (v.map (·.code)), ([] : List Byte))) ++
      (if lcKv x.c then [plain (x.d 1 0), plain (x.d 1 1)] else []),
     [.count RGN_NUM_CNT.SAT x.r 0 0 (es.filter (·.sat)).length,
      .count RGN_NUM_CNT.NONFINITE x.r 0 0 (es.filter (·.cls.isSome)).length] ++
     (List.range 2).flatMap (fun k => match firstNonfinite 0 (sums.getD k []) with
      | some (n, c) => [.nonfinite { elem := n, engine := x.e.eng, tensorId := (x.d 0 k).tensorId, cls := c, ord := x.e.ord }]
      | none => []))
  else ((List.range (lcDescs x.c)).map (fun k => plain (x.d 0 k)), [])

/-- The payloads of a message. -/
def Ctx.messagePayloads (x : Ctx) : List (List Byte) :=
  let ps := x.messageParts.1
  (List.range ps.length).flatMap (fun k =>
    let p := ps.getD k (0, [], [])
    partPayloads { op := lcOp x.c, group := lcGroup x.c, hop := 0, desc := k, count := 0, tlink := lcTlink x.c
                   fmt := p.1, bucket := lcBucket x.c, offset := 0, rank := linkOf x.r x.e.eng }
      p.2.1 p.2.2)

/-- A collective with nothing in it. -/
def Coll.empty : Coll :=
  { ranks := [], own := 0, node := 1, shards := [], total := 0, unit := 1, base := 0, held := [], final := []
    counts := [], rows := [], dones := [], message := [], closed := false, mismatch := false, uncorr := false }

/-- Rows for each rank of an exchange: send counts, and the row bytes in sending order (R274). -/
def Ctx.sendCounts (x : Ctx) : List Nat :=
  (List.range (x.d 0 1).count).map (fun r => (idAt x.rd (x.d 0 1) r).toNat)
def Ctx.rowRun (x : Ctx) (row : Nat) : List Byte :=
  let d := x.d 0 0
  packCodes d.bits ((List.range (d.size 0)).map (fun k => readCode x.rd d (d.linear k row 0))) ++
  (List.range (rowScales d)).map (fun b =>
    x.rd (d.scaleBase + d.blockOf (d.linear (if d.dir then b else b * d.block) row 0)))
def Ctx.rowsTo (x : Ctx) (r : Nat) : List Byte :=
  let ns := x.sendCounts
  let first := (ns.take r).foldl (· + ·) 0
  ((List.range (ns.getD r 0)).flatMap (fun k => x.rowRun (first + k)))

/-- What a link-collective command forms at issue. -/
def collEffect (x : Ctx) : Effect :=
  let c := x.c
  if c.op ≤ 0x82 then
    { posts := [], work := .coll x.groupColl.1 }
  else if c.op = 0x83 then
    let own := x.rank
    { posts := []
      work := .coll { Coll.empty with
        ranks := x.members, own := own, counts := [(own, x.sendCounts.getD own 0)], rows := [(own, x.rowsTo own)] } }
  else if c.op = 0x86 then
    { posts := [], work := .coll { Coll.empty with message := (List.range (lcDescs c)).map (fun k => (k, [], [])) } }
  else
    let p := x.messageParts
    { posts := p.2, work := .coll Coll.empty }

/-- The value listed for a rank. -/
def rankGet {α : Type} : List (Nat × α) → Nat → Option α
  | [], _ => none
  | (k, v) :: t, r => if k = r then some v else rankGet t r

/-- Whether the rows of a source have all been accepted (R274). -/
def Coll.rowsDone (c : Coll) (bytesPerRow r : Nat) : Bool :=
  match rankGet c.counts r with
  | some n => ((rankGet c.rows r).getD []).length == n * bytesPerRow
  | none => false

/-- Whether an exchange has everything it waits for (R274, R277). -/
def Coll.exchanged (c : Coll) (bytesPerRow : Nat) : Bool :=
  (List.range c.ranks.length).all (fun r => c.rowsDone bytesPerRow r && (r == c.own || c.dones.contains r))

/-- The targets of an exchange (R274): rows by source up to the capacity, placed counts, dropped rows. -/
def Coll.exchangePosts (c : Coll) (x : Ctx) : List Post :=
  let y := x.d 2 0
  let cap := rowsOf y
  let ns := (List.range c.ranks.length).map (fun r => (rankGet c.counts r).getD 0)
  let firstOf (r : Nat) : Nat := (ns.take r).foldl (· + ·) 0
  let placed (r : Nat) : Nat := min (ns.getD r 0) (cap - firstOf r)
  let all := (List.range c.ranks.length).flatMap (fun r => (rankGet c.rows r).getD [])
  let total := firstOf c.ranks.length
  let n := min total cap
  let rb := rowBytes y
  let row (k : Nat) : List Byte := (all.drop (k * rb)).take rb
  let cut : Desc := { y with sizes := [y.size 0, n, 0, 0, 0] }
  let scaleOf (e : Nat) : Nat :=
    let i := e % y.size 0
    leAt (row (e / y.size 0)) (rowElems y + if y.dir then i else i / y.block) 1
  (if n = 0 then []
   else x.out y (formCopy x.place x.key cut (fun e =>
      bitsAt (ofLe ((row (e / y.size 0)).take (rowElems y))) (e % y.size 0 * y.bits) y.bits)
      (fun b => x.commonScale ((cut.members b).map scaleOf) (2 ^ 44 + b)))) ++
  x.out (x.d 2 1) (formCopy x.place x.key (x.d 2 1) (fun r => placed r) (fun _ => 0)) ++
  [.count LNK_COLL_ERR.A2A_DROP (linkOf x.r x.e.eng) 0 0 ((total - n + 255) / 256)]

/-- The targets of a received message (R275). -/
def Coll.messagePosts (c : Coll) (x : Ctx) : List Post :=
  c.message.flatMap (fun p =>
    let y := x.d 2 p.1
    let v := ofLe p.2.1
    x.out y (formCopy x.place x.key y (fun n => bitsAt v (n * y.bits) y.bits) (fun b => leAt p.2.2 b 1)))

/-- What a finished command leaves at its commit. -/
def Coll.donePosts (c : Coll) (x : Ctx) : List Post :=
  match x.c.op with
  | 0x80 => c.reducePosts x
  | 0x81 => c.gatherPosts x
  | 0x82 => c.gatherPosts x
  | 0x83 => c.exchangePosts x
  | 0x86 => c.messagePosts x
  | _ => []

/-- Poisoned words that a finished delivery reads in its stack target: the values it accumulates onto, and their bitmap
(R223, R231, R268). -/
def Ctx.badTarget (x : Ctx) : List Nat :=
  if x.stackTarget && !lcFirst x.c then x.badIn (descRanges x.rd (x.d 2 0) ++ descRanges x.rd (x.d 2 1)) else []

/-- Stores an entry with its collective; when it is finished its effect is formed, or it is failed, its poison reported all
the same: after an uncorrectable word of staging or of the stack target (R231, R260), after a mismatch (R277, R278). -/
def State.putColl (s : State) (r : Rgn) (p : Prt) (e : Entry) (c : Coll) (finished : Bool) : State :=
  let c := { c with closed := c.closed || finished }
  let e := { e with work := .coll c }
  let x := e.ctx s r p
  let bad := if c.closed && !e.failed then x.badTarget else []
  let s := s.meetBad bad
  let e := if !c.closed || e.failed then e
    else if c.uncorr || c.mismatch || !bad.isEmpty then { e with failed := true, posts := e.posts ++ c.poisonPosts x }
    else { e with posts := e.posts ++ c.donePosts x }
  s.setCmds r (replaceEntry (fun y => y.eng == e.eng && y.ord == e.ord && y.issued) e s.regions[r].cmds)

/-- Sends payloads of a group command to ranks. -/
def State.sendRanks (s : State) (r : Rgn) (x : Ctx) (c : Coll) (ps : List (Nat × Bool × List Byte)) : State :=
  let tag := s.tagOf r
  s.sendAll r (ps.map (fun p => s.collFlit (lcVc x.c) (c.ranks.getD p.1 0) tag p.2.1 p.2.2))

/-- Whether an issued command consumes a flit: OP, GROUP, BUCKET and the peer of a message agree (R258, R275). -/
def State.collMatches (s : State) (l : Lnk) (f : Flit) (e : Entry) : Bool :=
  let h := collHdr f
  let src := f.hdr.src.toNat
  match e.coll? with
  | none => false
  | some c =>
    e.issued && e.eng == lcEng l && !c.closed && !e.failed && lcGroup e.cmd == h.group && lcBucket e.cmd == h.bucket &&
    (match e.cmd.op with
     | 0x80 => h.op == if lcMax e.cmd then opMax else opReduce
     | 0x81 => h.op == opGather
     | 0x82 => h.op == opGatherHier
     | 0x83 => h.op == opA2aCount || h.op == opA2aRows || (h.op == opDone && c.ranks.contains src)
     | 0x86 => (h.op == opSend || h.op == opAddFwd) && s.lcPeerOf l e.cmd == src
     | _ => h.op == opDone && s.lcPeerOf l e.cmd == src)

/-- Whether the matched command can use a flit now: a hop sum waits for its own operand (R267), rows for the counts of
every lower rank (R274). -/
def Coll.usable (c : Coll) (cmd : Cmd) (f : Flit) : Bool :=
  let h := collHdr f
  if cmd.op ≤ 0x82 then c.canTake cmd f
  else if h.op = opA2aRows then (List.range (h.rank + 1)).all (fun r => (rankGet c.counts r).isSome)
  else true

/-- Adds bytes to the rows of a source. -/
def addRows : List (Nat × List Byte) → Nat → List Byte → List (Nat × List Byte)
  | [], r, bs => [(r, bs)]
  | (k, v) :: t, r, bs => if k = r then (k, v ++ bs) :: t else (k, v) :: addRows t r bs

/-- Uses a flit of an exchange (R274). -/
def State.takeExchange (s : State) (r : Rgn) (p : Prt) (e : Entry) (c : Coll) (f : Flit) : State :=
  let h := collHdr f
  let x := e.ctx s r p
  let rb := rowBytes (x.d 2 0)
  let src := (c.ranks.findIdx? (· == f.hdr.src.toNat)).getD h.rank
  if h.op = opDone then
    let c := { c with dones := addOnce c.dones src }
    s.putColl r p e c (c.exchanged rb)
  else
    let before := c.rowsDone rb src
    let c := if h.op = opA2aCount then { c with counts := c.counts ++ [(src, leAt f.payload 16 4)] }
      else { c with rows := addRows c.rows src ((f.payload.drop 16).take (min 224 h.count)) }
    let s := if !before && c.rowsDone rb src then s.send r (s.doneFlit f h.tlink c.own) else s
    s.putColl r p e c (c.exchanged rb)

/-- The bytes still missing of a descriptor of a message. -/
def Ctx.partNeed (x : Ctx) (k : Nat) : Nat × Nat :=
  let y := x.d 2 k
  ((y.count * y.bits + 7) / 8, if hasScale y.format then y.blocks else 0)

/-- Adds a message flit to a part: none when it does not fit (R275, R278). -/
def Ctx.addPart (x : Ctx) (f : Flit) (k : Nat) (q : List Byte × List Byte) : Option (List Byte × List Byte) :=
  let h := collHdr f
  let need := x.partNeed k
  let n := min h.count 224
  let got := q.1.length + q.2.length
  if h.fmt != (x.d 2 k).format || h.offset != got || need.1 + need.2 < got + n || n = 0 then none
  else
    let bs := q.1 ++ q.2 ++ (f.payload.drop 16).take n
    some (bs.take need.1, bs.drop need.1)

/-- Uses a flit of a message (R275). -/
def State.takeMessage (s : State) (r : Rgn) (p : Prt) (l : Lnk) (e : Entry) (c : Coll) (f : Flit) : State :=
  let x := e.ctx s r p
  let k := (collHdr f).desc
  let old := (c.message.find? (fun (m : Nat × List Byte × List Byte) => m.1 == k)).map (·.2)
  let new := match old with | some q => x.addPart f k q | none => none
  let c := match new with
    | some q => { c with message := c.message.map (fun (m : Nat × List Byte × List Byte) => if m.1 = k then (k, q) else m) }
    | none => { c with mismatch := true }
  let full := c.message.all (fun (m : Nat × List Byte × List Byte) => m.2.1.length == (x.partNeed m.1).1 && m.2.2.length == (x.partNeed m.1).2)
  let short := f.hdr.last && !full
  let s := if new.isNone || short then s.bump LNK_COLL_ERR.MISMATCH 1 l else s
  s.putColl r p e { c with mismatch := c.mismatch || short } f.hdr.last

/-- Uses a flit of a reduction or a gather: a mismatch counts, summed blocks count, and a word of the slot of its sums may
turn out uncorrectable. -/
def State.takeGroup (s : State) (r : Rgn) (p : Prt) (l : Lnk) (e : Entry) (c : Coll) (f : Flit) : State :=
  let x := e.ctx s r p
  let off := c.flitOff e.cmd f
  let t := c.take x f
  let s := if off then s.bump LNK_COLL_ERR.MISMATCH 1 l else s
  let s := if t.2.2 = 0 then s else s.liveAdd LNK_COLL_CNT.BLOCKS t.2.2 l
  let hit := t.1.sumsHit x f
  let s := if hit.isEmpty then s else s.bump LNK_COLL_ERR.STAGE_UNCORR 1 l
  let c' := t.1.spoilSums x hit
  let s := s.putColl r p e c' (c'.complete e.cmd)
  s.sendRanks r x c' ((c'.payloads e.cmd (collHdr f).fmt t.2.1).map (fun q => (q.1, false, q.2)))

/-- A used flit frees its slot, and what was bad in it is gone: an uncorrectable word of it counts (R260). Open values of
the flit are not drawn again. -/
def State.freeBad (s : State) (l : Lnk) (f : Flit) : State :=
  match s.links[l].stageBad.find? (fun b => b.1 == f) with
  | some b =>
    let s := if (flitWord b.2).isSome then s.bump LNK_COLL_ERR.STAGE_UNCORR 1 l else s
    ({ s with ticket := s.ticket + 2 ^ 40 }).modLink l (fun x => { x with stageBad := x.stageBad.erase b })
  | none => s

/-- Uses a flit if an issued command of the link can: none when it stays. -/
def State.tryTake (s : State) (l : Lnk) (f : Flit) : Option State :=
  let r := linkRegion l
  match s.partOf r, s.regions[r].cmds.find? (s.collMatches l f) with
  | some p, some e =>
    match e.coll? with
    | some c =>
      let c := { c with uncorr := c.uncorr || (flitWord (s.stageCheck l f)).isSome }
      if !c.usable e.cmd f then none
      else if e.cmd.op ≤ 0x82 then some ((s.takeGroup r p l e c f).freeBad l f)
      else if e.cmd.op = 0x83 then some ((s.takeExchange r p e c f).freeBad l f)
      else if e.cmd.op = 0x86 then some ((s.takeMessage r p l e c f).freeBad l f)
      else some ((s.putColl r p e c true).freeBad l f)
    | none => none
  | _, _ => none

/-- Uses a flit that holds no slot: only while the partial sums that it forms have theirs (R257, R259). -/
def State.takeDirect (s : State) (l : Lnk) (f : Flit) : Option State :=
  match s.tryTake l f with
  | some s' => if s'.stageUsed l ≤ 16384 then some s' else none
  | none => none

/-- The first of some flits that a command can use, with the place it had. -/
def State.firstUse (take : Flit → Option State) : Nat → List Flit → Option (Nat × State)
  | _, [] => none
  | i, f :: t => match take f with
    | some s' => some (i, s')
    | none => firstUse take (i + 1) t

/-- Answers a message whose last flit has been accepted (R275); a message of this module finds its sender at once. -/
def State.answerLast (s : State) (l : Lnk) (f : Flit) : State :=
  let h := collHdr f
  if f.hdr.last && (h.op == opSend || h.op == opAddFwd) then
    if f.hdr.src.toNat == s.addr then
      (s.tryTake ⟨h.rank % 32, Nat.mod_lt _ (by omega)⟩ (s.doneFlit f (h.rank % 32) l.val)).getD s
    else s.send (linkRegion l) (s.doneFlit f (h.rank % 32) l.val)
  else s

/-- Uses staged flits as long as a command can, and fills freed slots from the flits that wait for one (R258, R259). -/
def State.rescan (s : State) (l : Lnk) : Nat → State
  | 0 => s
  | n + 1 =>
    let x := s.links[l]
    match State.firstUse (s.tryTake l) 0 x.stage with
    | some (i, s') => ((s'.modLink l (fun y => { y with stage := y.stage.eraseIdx i })).stageLevel l).rescan l n
    | none =>
      match State.firstUse (s.takeDirect l) 0 (x.backlog.map (·.2)) with
      | some (i, s') =>
        let b := x.backlog.getD i (0, s.newFlit 0 0 false 0 0 [])
        (((s'.modLink l (fun y => { y with backlog := y.backlog.eraseIdx i })).returnCredit b.1).answerLast l b.2).rescan l n
      | none =>
        match x.backlog with
        | [] => s
        | b :: t =>
          if s.stageUsed l < 16384 then
            let s := s.modLink l (fun y => { y with backlog := t, stage := y.stage ++ [b.2] })
            (((s.stageLevel l).returnCredit b.1).answerLast l b.2).rescan l n
          else s

/-- Enough turns for every flit held. -/
def State.rescanAll (s : State) (l : Lnk) : State :=
  s.rescan l (2 * (s.links[l].stage.length + s.links[l].backlog.length) + 1)

/-- The link interface that a COLLECTIVE flit goes to: its TLINK (R258). -/
def tlinkOf (f : Flit) : Lnk := ⟨(collHdr f).tlink % 32, Nat.mod_lt _ (by omega)⟩

/-- Notes what the slot of a flit will show (R260). -/
def State.noteStage (s : State) (f : Flit) (y : StageCheck) : State :=
  if y = .good then s else s.modLink (tlinkOf f) (fun x => { x with stageBad := x.stageBad ++ [(f, y)] })

/-- A word of a parked flit can be bad only once the flit is parked: a flit used on arrival keeps the check of its sums. -/
def onArrival : StageCheck → StageCheck
  | .flit _ => .good
  | y => y

/-- A COLLECTIVE flit for this module, with the receive buffer it occupies, 512 for none; the buffer is free once the
flit is used, staged or discarded (R258, R259, R261, R302). It does not overtake flits that wait for a slot. -/
def State.collective (s : State) (buffer : Nat) (f : Flit) (y : StageCheck := .good) : State :=
  let l := tlinkOf f
  if s.torn f.hdr.tag.toNat then (s.discardTorn f.hdr.tag.toNat).returnCredit buffer
  else
    let s := if s.links[l].backlog.isEmpty then s else s.rescanAll l
    match (s.noteStage f (onArrival y)).takeDirect l f with
    | some s' => (((s'.returnCredit buffer).answerLast l f).rescanAll l).stageLevel l
    | none =>
      let s := s.noteStage f y
      if s.links[l].backlog.isEmpty && decide (s.stageUsed l < 16384) then
        (((s.modLink l (fun x => { x with stage := x.stage ++ [f] })).stageLevel l).returnCredit buffer).answerLast l f
      else s.modLink l (fun x => { x with backlog := x.backlog ++ [(buffer, f)] })

/-- A COLLECTIVE flit that came in on a link: refused with BAD_TYPE when R261 says so. -/
def State.collArrive (s : State) (l : Lnk) (f : Flit) (buffer : Nat := 512) (y : StageCheck := .good) : State :=
  if collReserved f then (s.refuseFlit (some l) (linkRegion l) f 6 0).returnCredit buffer else s.collective buffer f y

/-- The starting flits of a command: contribution, counts and rows, or the message. -/
def State.startColl (s : State) (r : Rgn) (p : Prt) (l : Lnk) (e : Entry) (c : Coll) : State :=
  let x := e.ctx s r p
  let tag := s.tagOf r
  if e.cmd.op ≤ 0x82 then
    let t := c.settle x
    let fmt := if e.cmd.op = 0x80 then lcWire e.cmd else (x.d 0 0).format
    let s := s.putColl r p e t.1 (t.1.complete e.cmd)
    s.sendRanks r x t.1 ((t.1.payloads e.cmd fmt t.2).map (fun q => (q.1, false, q.2)))
  else if e.cmd.op = 0x83 then
    let s := s.putColl r p e c (c.exchanged (rowBytes (x.d 2 0)))
    let h (op : Nat) : CollHdr := { op := op, group := lcGroup e.cmd, hop := 0, desc := 0, count := 4
                                    tlink := lcTlink e.cmd, fmt := fmtINT32, bucket := lcBucket e.cmd, offset := 0, rank := c.own }
    let others := (List.range c.ranks.length).filter (· != c.own)
    let s := s.sendRanks r x c (others.map (fun k => (k, true, (h opA2aCount).bytes ++ toLe 4 (x.sendCounts.getD k 0))))
    s.sendRanks r x c (others.flatMap (fun k =>
      let ps := partPayloads { h opA2aRows with fmt := (x.d 0 0).format } (x.rowsTo k) []
      (List.range ps.length).map (fun i => (k, i + 1 == ps.length, ps.getD i []))))
  else if e.cmd.op = 0x86 then s
  else
    let ps := x.messagePayloads
    let dest := s.lcPeerOf l e.cmd
    let fs := (List.range ps.length).map (fun i =>
      s.collFlit (lcVc e.cmd) dest tag (i + 1 == ps.length) (ps.getD i []))
    if dest = s.addr then fs.foldl (fun s f => s.collective 512 f) s else s.sendAll r fs

/-- What the quantization of a contribution counts, as it happens (R265, R266). -/
def State.countQuantized (s : State) (r : Rgn) (p : Prt) (e : Entry) : State :=
  if e.cmd.op = 0x80 then s.postAll r (e.ctx s r p).groupColl.2 else s

/-- Issue of a link-collective command: it sends what it can and takes the flits that wait for it. -/
def State.issueColl (s : State) (l : Lnk) (op : Nat) (codes : Ctx → List Nat) (y : EngCheck) : State :=
  let r := linkRegion l
  let e := lcEng l
  let t := (s.issue r e op (lcReady r e) collRanges codes collEffect).checkBlock r e s.ticket y
  match t.issuedEntry r e s.ticket, t.partOf r with
  | some en, some p =>
    match en.coll? with
    | some c => if en.failed then t else ((((t.countQuantized r p en).startColl r p l en c).rescanAll l).stageLevel l)
    | none => t
  | _, _ => t

/-- LC_REDUCE_SCATTER. -/
def execLcReduceScatter (l : Lnk) (x : EngCheck) (s : State) : Host.Outcome State Fault Refusal := .next (s.issueColl l 0x80 reduceCodes x)
/-- LC_GATHER. -/
def execLcGather (l : Lnk) (x : EngCheck) (s : State) : Host.Outcome State Fault Refusal := .next (s.issueColl l 0x81 gatherCodes x)
/-- LC_GATHER_HIER. -/
def execLcGatherHier (l : Lnk) (x : EngCheck) (s : State) : Host.Outcome State Fault Refusal := .next (s.issueColl l 0x82 gatherCodes x)
/-- LC_ALL_TO_ALL. -/
def execLcAllToAll (l : Lnk) (x : EngCheck) (s : State) : Host.Outcome State Fault Refusal := .next (s.issueColl l 0x83 allToAllCodes x)
/-- LC_ADD_FWD. -/
def execLcAddFwd (l : Lnk) (x : EngCheck) (s : State) : Host.Outcome State Fault Refusal := .next (s.issueColl l 0x84 messageCodes x)
/-- LC_SEND. -/
def execLcSend (l : Lnk) (x : EngCheck) (s : State) : Host.Outcome State Fault Refusal := .next (s.issueColl l 0x85 messageCodes x)
/-- LC_RECV. -/
def execLcRecv (l : Lnk) (x : EngCheck) (s : State) : Host.Outcome State Fault Refusal := .next (s.issueColl l 0x86 messageCodes x)
/-- COLLECTIVE: a flit of any OP for this module arrives, and its staging slot, or that of the sums it forms, may show an
uncorrectable word (R260). -/
def execCollective (l : Lnk) (f : Flit) (y : StageCheck) (s : State) : Host.Outcome State Fault Refusal :=
  .next (s.started l (fun s => s.collArrive l f 512 y))
/-- DONE: a flit of OP DONE arrives; another OP is not this event (log entry 5). -/
def execDone (l : Lnk) (f : Flit) (s : State) : Host.Outcome State Fault Refusal :=
  .next (s.started l (fun s => if (collHdr f).op = opDone then s.collArrive l f else s))

end Sys2Proof.Machine
end

