-- ==== Sys2Proof/Machine/Seq.lean ====
section
/-!
DEFINITION. The scalar instructions of the region sequencer (R121-R123, Tables 5.2-5.5): the effect of each row on the
scalar registers, the slot and the pending patches. A row acts only while the sequencer runs; DISPATCH fetches,
decodes and steps past it (log entry 17).
-/
namespace Sys2Proof.Machine

/-- Whether a region's sequencer runs (R115). -/
def State.seqRuns (s : State) (r : Rgn) : Bool := s.regionRuns r && s.seqState r == sqRunning

/-- Scalar register n; sq0 reads as zero (R121). -/
def State.sq (s : State) (r : Rgn) (n : BitVec 5) : Word64 :=
  if n = 0 then 0 else BitVec.ofNat 64 (s.get RGN_SEQ_SQ.VALUE r n.toNat)

/-- Writes scalar register n; a write to sq0 is discarded (R121). -/
def State.setSq (s : State) (r : Rgn) (n : BitVec 5) (v : Word64) : State :=
  if n = 0 then s else s.put RGN_SEQ_SQ.VALUE v.toNat r n.toNat

/-- Slot being handled. -/
def State.slot (s : State) (r : Rgn) : Nat := s.get RGN_SEQ_STAT.SLOT r

/-- SCALAR_FAULT at the slot being handled, ordinal 0 (Table 5.9, R141). -/
def State.scalarFault (s : State) (r : Rgn) : State := s.regionFault r 0x10 63 (s.slot r) 0

/-- DA of the region's timetable. -/
def State.ttBase (s : State) (r : Rgn) : Nat := sramBase r + s.get RGN_SEQ_TT.TT_OFFSET r * 256

/-- The header in SRAM (Table 5.1). -/
def State.header (s : State) (r : Rgn) : Header := decodeHeader (s.num (s.ttBase r) 256)

/-- SLOTS of the header. -/
def State.slots (s : State) (r : Rgn) : Nat := s.num (s.ttBase r + 4) 4

/-- Runs an instruction that writes RD when the fields that must be zero are zero. -/
def State.writeRd (s : State) (r : Rgn) (ok : Bool) (rd : BitVec 5) (v : Word64) : State :=
  if !s.seqRuns r then s else if ok then s.setSq r rd v else s.scalarFault r

/-- A taken branch: the target is the slot of the branch plus OFFSET, and a target outside the timetable is a fault
(R122). Answers whether it was taken. -/
def State.branch (s : State) (r : Rgn) (off : BitVec 16) : State × Bool :=
  let t : Int := (s.slot r : Int) + off.toInt
  if 0 ≤ t ∧ t < s.slots r then
    ((s.put RGN_SEQ_STAT.SLOT t.toNat r).modRegion r (fun g => { g with pos := 0 }), true)
  else (s.scalarFault r, true)

/-- A branch under a condition, when the fields that must be zero are zero. -/
def State.branchIf (s : State) (r : Rgn) (ok taken : Bool) (off : BitVec 16) : State × Bool :=
  if !s.seqRuns r then (s, false)
  else if !ok then (s.scalarFault r, true)
  else if taken then s.branch r off else (s, false)

/-- NOP: no effect; every field zero. -/
def doNop (r : Rgn) (rd rs : BitVec 5) (imm : BitVec 16) (s : State) : State :=
  if s.seqRuns r && !(rd == 0 && rs == 0 && imm == 0) then s.scalarFault r else s
def execNop (r : Rgn) (rd rs : BitVec 5) (imm : BitVec 16) (s : State) : Host.Outcome State Fault Refusal :=
  .next (doNop r rd rs imm s)

/-- LI: RD := IMM sign-extended. -/
def doLi (r : Rgn) (rd _rs : BitVec 5) (imm : BitVec 16) (s : State) : State :=
  s.writeRd r true rd (imm.signExtend 64)
def execLi (r : Rgn) (rd rs : BitVec 5) (imm : BitVec 16) (s : State) : Host.Outcome State Fault Refusal :=
  .next (doLi r rd rs imm s)

/-- LIH: RD := (RD << 16) or IMM; RS zero. -/
def doLih (r : Rgn) (rd rs : BitVec 5) (imm : BitVec 16) (s : State) : State :=
  s.writeRd r (rs == 0) rd (s.sq r rd <<< 16 ||| imm.zeroExtend 64)
def execLih (r : Rgn) (rd rs : BitVec 5) (imm : BitVec 16) (s : State) : Host.Outcome State Fault Refusal :=
  .next (doLih r rd rs imm s)

/-- ADDI: RD := RS + IMM sign-extended. -/
def doAddi (r : Rgn) (rd rs : BitVec 5) (imm : BitVec 16) (s : State) : State :=
  s.writeRd r true rd (s.sq r rs + imm.signExtend 64)
def execAddi (r : Rgn) (rd rs : BitVec 5) (imm : BitVec 16) (s : State) : Host.Outcome State Fault Refusal :=
  .next (doAddi r rd rs imm s)

/-- SHLI: RD := RS << IMM[5:0]. -/
def doShli (r : Rgn) (rd rs : BitVec 5) (imm : BitVec 16) (s : State) : State :=
  s.writeRd r true rd (s.sq r rs <<< (imm.toNat % 64))
def execShli (r : Rgn) (rd rs : BitVec 5) (imm : BitVec 16) (s : State) : Host.Outcome State Fault Refusal :=
  .next (doShli r rd rs imm s)

/-- SHRI: RD := RS >> IMM[5:0], logical. -/
def doShri (r : Rgn) (rd rs : BitVec 5) (imm : BitVec 16) (s : State) : State :=
  s.writeRd r true rd (s.sq r rs >>> (imm.toNat % 64))
def execShri (r : Rgn) (rd rs : BitVec 5) (imm : BitVec 16) (s : State) : Host.Outcome State Fault Refusal :=
  .next (doShri r rd rs imm s)

/-- ADD: RD := RS + RT. -/
def doAdd (r : Rgn) (rd rs rt : BitVec 5) (low : BitVec 11) (s : State) : State :=
  s.writeRd r (low == 0) rd (s.sq r rs + s.sq r rt)
def execAdd (r : Rgn) (rd rs rt : BitVec 5) (low : BitVec 11) (s : State) : Host.Outcome State Fault Refusal :=
  .next (doAdd r rd rs rt low s)

/-- SUB: RD := RS - RT. -/
def doSub (r : Rgn) (rd rs rt : BitVec 5) (low : BitVec 11) (s : State) : State :=
  s.writeRd r (low == 0) rd (s.sq r rs - s.sq r rt)
def execSub (r : Rgn) (rd rs rt : BitVec 5) (low : BitVec 11) (s : State) : Host.Outcome State Fault Refusal :=
  .next (doSub r rd rs rt low s)

/-- MUL: RD := low 64 bits of RS x RT. -/
def doMul (r : Rgn) (rd rs rt : BitVec 5) (low : BitVec 11) (s : State) : State :=
  s.writeRd r (low == 0) rd (s.sq r rs * s.sq r rt)
def execMul (r : Rgn) (rd rs rt : BitVec 5) (low : BitVec 11) (s : State) : Host.Outcome State Fault Refusal :=
  .next (doMul r rd rs rt low s)

/-- AND: RD := RS and RT. -/
def doAnd (r : Rgn) (rd rs rt : BitVec 5) (low : BitVec 11) (s : State) : State :=
  s.writeRd r (low == 0) rd (s.sq r rs &&& s.sq r rt)
def execAnd (r : Rgn) (rd rs rt : BitVec 5) (low : BitVec 11) (s : State) : Host.Outcome State Fault Refusal :=
  .next (doAnd r rd rs rt low s)

/-- OR: RD := RS or RT. -/
def doOr (r : Rgn) (rd rs rt : BitVec 5) (low : BitVec 11) (s : State) : State :=
  s.writeRd r (low == 0) rd (s.sq r rs ||| s.sq r rt)
def execOr (r : Rgn) (rd rs rt : BitVec 5) (low : BitVec 11) (s : State) : Host.Outcome State Fault Refusal :=
  .next (doOr r rd rs rt low s)

/-- XOR: RD := RS xor RT. -/
def doXor (r : Rgn) (rd rs rt : BitVec 5) (low : BitVec 11) (s : State) : State :=
  s.writeRd r (low == 0) rd (s.sq r rs ^^^ s.sq r rt)
def execXor (r : Rgn) (rd rs rt : BitVec 5) (low : BitVec 11) (s : State) : Host.Outcome State Fault Refusal :=
  .next (doXor r rd rs rt low s)

/-- SLT: RD := 1 if RS < RT as signed values, else 0. -/
def doSlt (r : Rgn) (rd rs rt : BitVec 5) (low : BitVec 11) (s : State) : State :=
  s.writeRd r (low == 0) rd (if (s.sq r rs).slt (s.sq r rt) then 1 else 0)
def execSlt (r : Rgn) (rd rs rt : BitVec 5) (low : BitVec 11) (s : State) : Host.Outcome State Fault Refusal :=
  .next (doSlt r rd rs rt low s)

/-- BEQ: branch if RS = RT. -/
def doBeq (r : Rgn) (rs rt : BitVec 5) (off : BitVec 16) (s : State) : State × Bool :=
  s.branchIf r true (s.sq r rs == s.sq r rt) off
def execBeq (r : Rgn) (rs rt : BitVec 5) (off : BitVec 16) (s : State) : Host.Outcome State Fault Refusal :=
  .next (doBeq r rs rt off s).1

/-- BNE: branch if RS differs from RT. -/
def doBne (r : Rgn) (rs rt : BitVec 5) (off : BitVec 16) (s : State) : State × Bool :=
  s.branchIf r true (s.sq r rs != s.sq r rt) off
def execBne (r : Rgn) (rs rt : BitVec 5) (off : BitVec 16) (s : State) : Host.Outcome State Fault Refusal :=
  .next (doBne r rs rt off s).1

/-- BLT: branch if RS < RT, signed. -/
def doBlt (r : Rgn) (rs rt : BitVec 5) (off : BitVec 16) (s : State) : State × Bool :=
  s.branchIf r true ((s.sq r rs).slt (s.sq r rt)) off
def execBlt (r : Rgn) (rs rt : BitVec 5) (off : BitVec 16) (s : State) : Host.Outcome State Fault Refusal :=
  .next (doBlt r rs rt off s).1

/-- LOOP: RS := RS - 1; branch if RS is not zero; RT zero. -/
def doLoop (r : Rgn) (rs rt : BitVec 5) (off : BitVec 16) (s : State) : State × Bool :=
  if !s.seqRuns r then (s, false)
  else if rt != 0 then (s.scalarFault r, true)
  else
    let s := s.setSq r rs (s.sq r rs - 1)
    s.branchIf r true (s.sq r rs != 0) off
def execLoop (r : Rgn) (rs rt : BitVec 5) (off : BitVec 16) (s : State) : Host.Outcome State Fault Refusal :=
  .next (doLoop r rs rt off s).1

/-- JMP: branch always; RS and RT zero. -/
def doJmp (r : Rgn) (rs rt : BitVec 5) (off : BitVec 16) (s : State) : State × Bool :=
  s.branchIf r (rs == 0 && rt == 0) true off
def execJmp (r : Rgn) (rs rt : BitVec 5) (off : BitVec 16) (s : State) : Host.Outcome State Fault Refusal :=
  .next (doJmp r rs rt off s).1

/-- BFLAG: branch if the flag is set; a reserved flag is a fault (Table 5.4). -/
def doBflag (r : Rgn) (flag : BitVec 10) (off : BitVec 16) (s : State) : State × Bool :=
  s.branchIf r (s.branchFlag r flag.toNat).isSome (s.branchFlag r flag.toNat == some true) off
def execBflag (r : Rgn) (flag : BitVec 10) (off : BitVec 16) (s : State) : Host.Outcome State Fault Refusal :=
  .next (doBflag r flag off s).1

/-- BNFLAG: branch if the flag is clear. -/
def doBnflag (r : Rgn) (flag : BitVec 10) (off : BitVec 16) (s : State) : State × Bool :=
  s.branchIf r (s.branchFlag r flag.toNat).isSome (s.branchFlag r flag.toNat == some false) off
def execBnflag (r : Rgn) (flag : BitVec 10) (off : BitVec 16) (s : State) : Host.Outcome State Fault Refusal :=
  .next (doBnflag r flag off s).1

/-- CMDW: patch word IMM[2:0] of the next command with RS[31:0], or RS[63:32] when IMM[3] is 1; RD zero (R123). -/
def doCmdw (r : Rgn) (rd rs : BitVec 5) (imm : BitVec 16) (s : State) : State :=
  if !s.seqRuns r then s
  else if rd != 0 then s.scalarFault r
  else
    let v := if imm.getLsbD 3 then (s.sq r rs).extractLsb' 32 32 else (s.sq r rs).extractLsb' 0 32
    s.modRegion r (fun g => { g with patches := g.patches ++ [(imm.toNat % 8, v)] })
def execCmdw (r : Rgn) (rd rs : BitVec 5) (imm : BitVec 16) (s : State) : Host.Outcome State Fault Refusal :=
  .next (doCmdw r rd rs imm s)

/-- RDTOK: RD := value of token IMM[7:0]; RS zero. -/
def doRdtok (r : Rgn) (rd rs : BitVec 5) (imm : BitVec 16) (s : State) : State :=
  s.writeRd r (rs == 0) rd (BitVec.ofNat 64 (s.tok r (imm.toNat % 256)))
def execRdtok (r : Rgn) (rd rs : BitVec 5) (imm : BitVec 16) (s : State) : Host.Outcome State Fault Refusal :=
  .next (doRdtok r rd rs imm s)

/-- Bell partition of a module partition (PROC_PART_MAP). -/
def State.bellPart (s : State) (p : Prt) : Nat :=
  match p.val with
  | 0 => s.get PROC_PART_MAP.BP0
  | 1 => s.get PROC_PART_MAP.BP1
  | 2 => s.get PROC_PART_MAP.BP2
  | _ => s.get PROC_PART_MAP.BP3

/-- A status item (Table 5.5); none for a reserved one. -/
def State.statItem (s : State) (r : Rgn) (n : Nat) : Option Nat :=
  match n with
  | 0 => some s.period
  | 1 => some (s.get RGN_GEN_STEP.STEP r)
  | 2 => some ((s.partOf r).elim 0 (fun p => s.get PROC_PART_BLOCK.BLOCKS p))
  | 3 => some r.val
  | 4 => some (s.get HUB_FAB.ADDR)
  | 5 => some ((s.partOf r).elim 0 s.bellPart)
  | _ => none

/-- RDSTAT: RD := status item IMM[3:0]; a reserved item is a fault. -/
def doRdstat (r : Rgn) (rd _rs : BitVec 5) (imm : BitVec 16) (s : State) : State :=
  s.writeRd r (s.statItem r (imm.toNat % 16)).isSome rd
    (BitVec.ofNat 64 ((s.statItem r (imm.toNat % 16)).getD 0))
def execRdstat (r : Rgn) (rd rs : BitVec 5) (imm : BitVec 16) (s : State) : Host.Outcome State Fault Refusal :=
  .next (doRdstat r rd rs imm s)

end Sys2Proof.Machine
end

