-- ==== Sys2Proof/Machine/Serve.lean ====
section
/-!
DEFINITION. Serving partitions: arming a batch, milestones and the check at each sample point (R304-R307).
-/
namespace Sys2Proof.Machine

/-- Entry LAST of the batch. -/
def State.serveLast (s : State) (p : Prt) : Nat := s.get PROC_SERVE_CTRL.LAST p

/-- Lowest entry not reached, up to LAST + 1. -/
def lowestUnreached (v : BitVec 64) : Nat → Nat → Nat
  | 0, k => k
  | n + 1, k => if v.getLsbD k then lowestUnreached v n (k + 1) else k

/-- The lowest unreached entry up to LAST with a milestone number. -/
def State.milestoneEntry (s : State) (p : Prt) (m : Nat) : Option Nat :=
  (List.range (s.serveLast p + 1)).find? (fun k =>
    !s.parts[p].reached.getLsbD k && s.get PROC_SERVE_MS.MILESTONE p k == m)

/-- A milestone that commits in a region of the partition (R305): entry k and every earlier one are reached in this
period. A number that matches nothing counts in UNKNOWN. -/
def State.reachMilestone (s : State) (p : Prt) (m : Nat) : State :=
  match s.milestoneEntry p m with
  | none => s.bump PROC_SERVE_SLIP.UNKNOWN 1 p
  | some k =>
    let b : Nat := (s.period + 2 ^ 48 - s.get PROC_SERVE_STAT.START p) % 2 ^ 48
    let s := s.modPart p (fun x => { x with
      reached := x.reached ||| (BitVec.ofNat 64 (2 ^ (k + 1) - 1)), slipRec := (b : Int) - s.get PROC_SERVE_MS.PLAN p k
      lastReach := if k = s.serveLast p then b else x.lastReach })
    s.put PROC_SERVE_STAT.NEXT (lowestUnreached s.parts[p].reached 64 0) p

/-- The check of an active batch at a sample point (R306). -/
def State.serveSample (s : State) (p : Prt) : State :=
  if !s.bit PROC_SERVE_STAT.ACTIVE p || s.parts[p].endActive then s
  else
    let last := s.serveLast p
    let b : Nat := (s.period + 2 ^ 48 - s.get PROC_SERVE_STAT.START p) % 2 ^ 48
    if s.parts[p].reached.getLsbD last then
      let s := (s.put PROC_SERVE_STAT.DONE 1 p).put PROC_SERVE_STAT.MET 1 p
      let s := s.put PROC_SERVE_SLIP.DONE_BELL s.parts[p].lastReach p
      s.modPart p (fun x => { x with endActive := true })
    else
      let j := lowestUnreached s.parts[p].reached 64 0
      let plan := s.get PROC_SERVE_MS.PLAN p j
      let rec1 := s.parts[p].slipRec
      let slip : Int := if plan ≤ b then max rec1 ((b : Int) + 1 - plan) else rec1
      let s := s.put PROC_SERVE_SLIP.SLIP (slip % 65536).toNat p
      let s := if (s.get PROC_SERVE_CTRL.DEADLINE p : Int) < s.get PROC_SERVE_MS.PLAN p last + slip then
          (s.put PROC_SERVE_STAT.FALLBACK 1 p).modPart p (fun x => { x with raiseFallback := true })
        else s
      if b = s.get PROC_SERVE_CTRL.DEADLINE p then
        (s.put PROC_SERVE_STAT.MISSED 1 p).modPart p (fun x => { x with endActive := true })
      else s

/-- Sets flag 257 of every region of a partition. -/
def State.setFallback (s : State) (p : Prt) (v : Nat) : State :=
  (s.regionsOf p).foldl (fun s (r : Rgn) => s.put RGN_SEQ_STAT.FALLBACK v r) s

/-- What a bell does to a batch: ACTIVE clears, flag 257 sets (R306), and an armed batch starts at this bell with its
START and a clear record (R304). -/
def State.serveBell (s : State) (p : Prt) : State :=
  let s := if s.parts[p].endActive then
      (s.put PROC_SERVE_STAT.ACTIVE 0 p).modPart p (fun x => { x with endActive := false })
    else s
  let s := if s.parts[p].raiseFallback then
      (s.setFallback p 1).modPart p (fun x => { x with raiseFallback := false })
    else s
  if s.bit PROC_SERVE_CTRL.ARM p && !s.bit PROC_SERVE_STAT.ACTIVE p then
    let s := (s.put PROC_SERVE_CTRL.ARM 0 p).put PROC_SERVE_STAT.START s.period p
    let s := (s.put PROC_SERVE_STAT.ACTIVE 1 p).put PROC_SERVE_STAT.DONE 0 p
    let s := (s.put PROC_SERVE_STAT.MET 0 p).put PROC_SERVE_STAT.MISSED 0 p
    let s := (s.put PROC_SERVE_STAT.FALLBACK 0 p).put PROC_SERVE_STAT.NEXT 0 p
    let s := (s.put PROC_SERVE_SLIP.SLIP 0 p).put PROC_SERVE_SLIP.DONE_BELL 0 p
    let s := s.modPart p (fun x => { x with reached := 0, slipRec := 0, lastReach := 0 })
    s.setFallback p 0
  else s

/-- ARM: the host arms a batch for the next bell; ignored while one is active (R304). -/
def State.armBatch (s : State) (p : Prt) : State :=
  if s.bit PROC_SERVE_STAT.ACTIVE p then s else s.put PROC_SERVE_CTRL.ARM 1 p

/-- ARM: the host sets ARM. -/
def execArm (p : Prt) (s : State) : Host.Outcome State Fault Refusal := .next (s.armBatch p)

end Sys2Proof.Machine
end

