-- ==== Sys2Proof/Machine/SeqCmd.lean ====
section
/-!
DEFINITION. The sequencer: GO (R112), dispatch (R113, R115-R119, R123, R133) and the sequencer commands of families
0x9, 0xA and 0xB (R126, R127, R131, Table 5.7).
-/
namespace Sys2Proof.Machine

/-- Whether a header passes R112 for region r's SRAM. -/
def headerOk (s : State) (r : Rgn) (h : Header) : Bool :=
  h.version == 1 && decide (1 ≤ h.slots) && decide (h.slots ≤ 8388600) && decide (h.entry < h.slots) &&
  h.reservedZero && decide (s.ttBase r + 256 + 32 * h.slots ≤ sramBase r + 0x10000000) &&
  (h.planCount == 0 || inSram r h.planBase (h.planBase + 64 * h.planCount))

/-- Setting GO (R112): a bad header clears GO and faults with BAD_TIMETABLE, a good one arms the sequencer for the next
bell that is not a hold. GO counts only with a job loaded and the sequencer idle or ended (log entry 5). -/
def State.go (s : State) (r : Rgn) : State :=
  match s.partOf r with
  | none => s
  | some p =>
    if (s.partState p == psLoaded || s.partState p == psRunning) &&
        (s.seqState r == sqIdle || s.seqState r == sqEnded) then
      if headerOk s r (s.header r) then s.put RGN_SEQ_CTRL.GO 1 r
      else (s.put RGN_SEQ_CTRL.GO 0 r).regionFault r 0x12 63 0 0
    else s

/-- GO. -/
def execGo (r : Rgn) (s : State) : Host.Outcome State Fault Refusal := .next (s.go r)

/-- Counts a command in dispatch order (R118, R141). -/
def State.counted (s : State) (r : Rgn) : State :=
  (s.liveAdd RGN_SEQ_CNT.DISPATCHED 1 r).modRegion r (fun g => { g with
    ordinal := g.ordinal + 1, patches := [], prev := none })

/-- Whether waits on the token of a command count as on a link (R133): family 0x8, or a copy with an operand, elements or
scales, in the peer or host window. -/
def State.linkSignal (s : State) (r : Rgn) (c : Cmd) : Bool :=
  let away (da : Nat) : Bool := spaceOf da == .peer || spaceOf da == .host
  c.op / 16 == 8 || (c.op / 16 == 6 && c.named.any (fun i =>
    away (s.desc r i).base || (hasScale (s.desc r i).format && away (s.desc r i).scaleBase)))

/-- Notes, for the token that a dispatched command will signal, whether waits on it count as on a link (R133). -/
def State.noteSignaller (s : State) (r : Rgn) (c : Cmd) : State :=
  if c.sigAdd = 0 then s else s.put RGN_TOK.LINK (if s.linkSignal r c then 1 else 0) r c.sigToken.toNat

/-- A sequencer command (R127): refused on the lowest code when the sequencer reaches it (R139), before its waits are met
(DESIGN CHOICE, log entry 55: the spec does not say which comes first); stalled until its waits are satisfied, no ready
engine command comes first (R132) and it is ready; then it runs, commits and signals. Answers whether it ran. -/
def State.seqCommand (s : State) (r : Rgn) (c : Cmd) (op : Nat) (codes : List Nat) (ready : Bool)
    (eff : State → Option State) : State × Bool :=
  if !s.seqRuns r || c.op != op then (s, false)
  else
    let slot := s.slot r
    let ord := s.regions[r].ordinal
    match lowest (wordCodes c ++ bad (c.eng != 63) 2 ++ codes) with
    | some code => (s.regionFault r code c.eng slot ord, false)
    | none =>
      if !s.waitsMet r c || s.outranked r 53 c || !ready then (s, false)
      else
        let s := ((s.consume r c).counted r).noteSignaller r c
        let s := s.modRegion r (fun g => { g with lastUse := s.now - s.hub.firedAt })
        match eff s with
        | none => (s.regionFault r 0x11 63 slot ord, false)
        | some s => (s.signal r c slot ord, true)

/-- The 64 bytes of a plan entry. -/
def State.planEntry (s : State) (r : Rgn) (k : Nat) : List Byte := s.bytes ((s.header r).planBase + 64 * k) 64

/-- Whether a plan entry keeps R114: nothing for VC 7, and no link over 256. -/
def planOk (b : List Byte) : Bool :=
  (List.range 8).all (fun l =>
    leAt b (8 * l + 7) 1 == 0 && decide (((List.range 7).foldl (fun a v => a + leAt b (8 * l + v) 1) 0) ≤ 256))

/-- BELL_WAIT: ends the block; the sequencer waits for a bell under R49 and then applies the plan entry. -/
def doBellWait (r : Rgn) (c : Cmd) (s : State) : State × Bool :=
  let k := c.param % 65536
  let codes := bad (c.sigAdd != 0) 1 ++ bad (c.param / 65536 != 0) 0x0C ++
    (if k = 0xFFFF then [] else bad ((s.header r).planCount ≤ k || !planOk (s.planEntry r k)) 0x0D)
  s.seqCommand r c 0x90 codes true (fun t =>
    some ((t.setSeq r sqWait).modRegion r (fun g => { g with
      planNext := if k = 0xFFFF then none else some (s.planEntry r k) })))
def execBellWait (r : Rgn) (c : Cmd) (s : State) : Host.Outcome State Fault Refusal := .next (doBellWait r c s).1

/-- SET_STEP: sets the step register (R119). -/
def doSetStep (r : Rgn) (c : Cmd) (s : State) : State × Bool :=
  s.seqCommand r c 0x91 (bad (c.param / 2 ^ 32 != 0) 0x0C) true (fun s => some (s.put RGN_GEN_STEP.STEP c.w4 r))
def execSetStep (r : Rgn) (c : Cmd) (s : State) : Host.Outcome State Fault Refusal := .next (doSetStep r c s).1

/-- CLEAR_POISON: clears the flag of GROUP, or all 256. -/
def doClearPoison (r : Rgn) (c : Cmd) (s : State) : State × Bool :=
  s.seqCommand r c 0x92 (bad (c.param / 2 ^ 9 != 0) 0x0C) true (fun s =>
    some (if flag c.w4 8 then s.clearPoisonAll r else s.clearPoisonFlag r (c.w4 % 256)))
def execClearPoison (r : Rgn) (c : Cmd) (s : State) : Host.Outcome State Fault Refusal :=
  .next (doClearPoison r c s).1

/-- END: ends the timetable; the region counts as complete from then on. -/
def doEnd (r : Rgn) (c : Cmd) (s : State) : State × Bool :=
  s.seqCommand r c 0x93 (bad (c.param != 0) 0x0C) true (fun s => some (s.setSeq r sqEnded))
def execEndCmd (r : Rgn) (c : Cmd) (s : State) : Host.Outcome State Fault Refusal := .next (doEnd r c s).1

/-- TOK_SET: sets a token. -/
def doTokSet (r : Rgn) (c : Cmd) (s : State) : State × Bool :=
  s.seqCommand r c 0xA0 (bad (bitsAt c.w4 8 8 != 0 || c.param / 2 ^ 32 != 0) 0x0C) true (fun s =>
    some (s.put RGN_TOK.VALUE (bitsAt c.w4 16 16) r (c.w4 % 256)))
def execTokSet (r : Rgn) (c : Cmd) (s : State) : Host.Outcome State Fault Refusal := .next (doTokSet r c s).1

/-- TOK_REMOTE: adds ADD to a token of another region of the partition; an overflow faults this region (R131). Table 5.7
gives no code for the command's own region, which is inside the partition: the addition is made there (DESIGN CHOICE, log
entry 55). -/
def doTokRemote (r : Rgn) (c : Cmd) (s : State) : State × Bool :=
  let q : Rgn := ⟨bitsAt c.w4 8 2, Nat.mod_lt _ (by omega)⟩
  let add := bitsAt c.w4 12 4
  let codes := bad (s.partOf q != s.partOf r || (s.partOf r).isNone) 9 ++
    bad (add == 0 || bitsAt c.w4 10 2 != 0 || c.param / 2 ^ 16 != 0) 0x0C
  s.seqCommand r c 0xA1 codes true (fun s => s.addTok q (c.w4 % 256) add)
def execTokRemote (r : Rgn) (c : Cmd) (s : State) : Host.Outcome State Fault Refusal := .next (doTokRemote r c s).1

/-- FENCE: completes once every command dispatched before it has committed. -/
def doFence (r : Rgn) (c : Cmd) (s : State) : State × Bool :=
  s.seqCommand r c 0xA2 (bad (c.param != 0) 0x0C) s.regions[r].cmds.isEmpty some
def execFence (r : Rgn) (c : Cmd) (s : State) : Host.Outcome State Fault Refusal := .next (doFence r c s).1

/-- PHASE: sets the accounting phase (R53). -/
def doPhase (r : Rgn) (c : Cmd) (s : State) : State × Bool :=
  s.seqCommand r c 0xB0 (bad (5 < c.param) 0x0C) true (fun s =>
    some (s.modRegion r (fun g => { g with phase := c.param })))
def execPhase (r : Rgn) (c : Cmd) (s : State) : Host.Outcome State Fault Refusal := .next (doPhase r c s).1

/-- MILESTONE: reports a milestone number to the proctor (R305). -/
def doMilestone (r : Rgn) (c : Cmd) (s : State) : State × Bool :=
  s.seqCommand r c 0xB1 (bad (c.param / 2 ^ 16 != 0) 0x0C) true (fun s =>
    some ((s.partOf r).elim s (fun p => s.reachMilestone p (c.param % 65536))))
def execMilestone (r : Rgn) (c : Cmd) (s : State) : Host.Outcome State Fault Refusal := .next (doMilestone r c s).1

/-- Steps to the next slot in program order; past the last one is a fault (R122). -/
def State.advance (s : State) (r : Rgn) : State :=
  if s.slot r + 1 < s.slots r then
    (s.put RGN_SEQ_STAT.SLOT (s.slot r + 1) r).modRegion r (fun g => { g with pos := 0 })
  else s.scalarFault r

/-- Runs a scalar instruction; answers whether the rest of the slot is skipped. -/
def runScalar (i : Instr) (s : State) : State × Bool :=
  match i with
  | .nop r a b m => (doNop r a b m s, false)
  | .li r a b m => (doLi r a b m s, false)
  | .lih r a b m => (doLih r a b m s, false)
  | .addi r a b m => (doAddi r a b m s, false)
  | .shli r a b m => (doShli r a b m s, false)
  | .shri r a b m => (doShri r a b m s, false)
  | .add r a b t l => (doAdd r a b t l s, false)
  | .sub r a b t l => (doSub r a b t l s, false)
  | .mul r a b t l => (doMul r a b t l s, false)
  | .and r a b t l => (doAnd r a b t l s, false)
  | .or r a b t l => (doOr r a b t l s, false)
  | .xor r a b t l => (doXor r a b t l s, false)
  | .slt r a b t l => (doSlt r a b t l s, false)
  | .beq r a b o => doBeq r a b o s
  | .bne r a b o => doBne r a b o s
  | .blt r a b o => doBlt r a b o s
  | .loop r a b o => doLoop r a b o s
  | .jmp r a b o => doJmp r a b o s
  | .bflag r f o => doBflag r f o s
  | .bnflag r f o => doBnflag r f o s
  | .cmdw r a b m => (doCmdw r a b m s, false)
  | .rdtok r a b m => (doRdtok r a b m s, false)
  | .rdstat r a b m => (doRdstat r a b m s, false)
  | _ => (s, false)

/-- One scalar instruction of the slot being handled (R113). A bad scalar slot, like a reserved slot kind, has no issue
ordinal; what RGN_SEQ_ERR records for it is the ordinal the next command would have (DESIGN CHOICE, log entry 55). -/
def State.dispatchScalar (s : State) (r : Rgn) (v : Nat) : State :=
  let n := bitsAt v 8 3
  if n = 0 ∨ bitsAt v 11 21 ≠ 0 then s.regionFault r 1 63 (s.slot r) s.regions[r].ordinal
  else
    let pos := s.regions[r].pos
    match decodeScalar r (BitVec.ofNat 32 (bitsAt v (32 + 32 * pos) 32)) with
    | none => s.scalarFault r
    | some i =>
      let t := runScalar i s
      if t.2 || !t.1.seqRuns r then t.1
      else if pos + 1 < n then t.1.modRegion r (fun g => { g with pos := pos + 1 })
      else t.1.advance r

/-- A command word with the pending patches applied in order (R123). -/
def patched (v : Nat) (ps : List (Nat × Word32)) : Nat :=
  ps.foldl (fun v x => v - bitsAt v (32 * x.1) 32 * 2 ^ (32 * x.1) + x.2.toNat * 2 ^ (32 * x.1)) v

/-- Runs a sequencer command. -/
def runSeq (r : Rgn) (c : Cmd) (s : State) : State × Bool :=
  match c.op with
  | 0x90 => doBellWait r c s
  | 0x91 => doSetStep r c s
  | 0x92 => doClearPoison r c s
  | 0x93 => doEnd r c s
  | 0xA0 => doTokSet r c s
  | 0xA1 => doTokRemote r c s
  | 0xA2 => doFence r c s
  | 0xB0 => doPhase r c s
  | _ => doMilestone r c s

/-- Places an engine command into its engine's queue with its step, seed and block count (R116, R119, R187). -/
def State.enqueue (s : State) (r : Rgn) (p : Prt) (c : Cmd) : State :=
  let en : Entry :=
    { cmd := c, slot := s.slot r, ord := s.regions[r].ordinal, step := s.get RGN_GEN_STEP.STEP r
      seed := s.get HUB_JOB_SEED.SEED p, beta := s.get PROC_PART_BLOCK.BLOCKS p, issued := false, consumed := false
      ticket := 0, descs := [], ins := [], outs := [], posts := [], work := .none, needs := [], failed := false
      cause := 6, twin := if c.shadow then s.regions[r].prev else none }
  let s := s.noteSignaller r c
  ((s.modRegion r (fun g => { g with cmds := g.cmds ++ [en] })).counted r).modRegion r (fun g => { g with prev := some c })

/-- The 32 bytes of the slot being handled as a number. -/
def State.slotWord (s : State) (r : Rgn) : Nat := s.num (s.ttBase r + 256 + 32 * s.slot r) 32

/-- Dispatches up to n more engine commands (R115). A command goes to the queue of the engine it names, which refuses it
at issue if that engine does not execute it; an index that names no engine is refused here (DEDUCED, log entry 36). -/
def State.dispatchEngines (s : State) (r : Rgn) (p : Prt) : Nat → State
  | 0 => s
  | n + 1 =>
    let v := s.slotWord r
    if !s.seqRuns r || (engineRange (v % 256)).isNone then s
    else
      let c := decodeCmd (patched v s.regions[r].patches)
      match engineRange c.op with
      | none => s.regionFault r 1 63 (s.slot r) s.regions[r].ordinal
      | some _ =>
        if 0x90 ≤ c.op then s
        else if 52 < c.eng then
          s.regionFault r (if (wordCodes c).contains 1 then 1 else 2) c.eng (s.slot r) s.regions[r].ordinal
        else if 32 ≤ (s.regions[r].cmds.filter (fun e => e.eng == c.eng)).length then s.liveAdd RGN_SEQ_CNT.QFULL 1 r
        else ((s.enqueue r p c).advance r).dispatchEngines r p n

/-- One region cycle of the sequencer (R115): a scalar instruction, a sequencer command, or one to four engine
commands. -/
def State.dispatch (s : State) (r : Rgn) : State :=
  match s.partOf r with
  | none => s
  | some p =>
    if !s.seqRuns r then s
    else
      let v := s.slotWord r
      if v % 256 = 1 then s.dispatchScalar r v
      else if (engineRange (v % 256)).isNone then s.regionFault r 1 63 (s.slot r) s.regions[r].ordinal
      else
        let c := decodeCmd (patched v s.regions[r].patches)
        if 0x90 ≤ c.op ∧ (engineRange c.op).isSome then
          let t := runSeq r c s
          if t.2 && t.1.seqRuns r then t.1.advance r else t.1
        else s.dispatchEngines r p 4

/-- DISPATCH. -/
def execDispatch (r : Rgn) (s : State) : Host.Outcome State Fault Refusal := .next (s.dispatch r)

end Sys2Proof.Machine
end

