-- ==== Sys2Proof/Machine/Partition.lean ====
section
/-!
DEFINITION. Partitions: loading a job (R285), pre-emption and resume (R293-R298), context teardown (R299-R303), debug
lock (R288), isolation of a region (R19).
-/
namespace Sys2Proof.Machine

/-- Whether a tag owns the 64 KiB granules [lo, hi) of a stack (R213). -/
def State.ownsGranules (s : State) (tag lo hi : Nat) : Bool := s.ownsRange true tag (lo * 65536) (hi * 65536)

/-- Job load of one pair of a stack engine (R213). -/
def State.loadPair (s : State) (tag k p : Nat) : State :=
  let s := (s.put SE_BUF1.DRAIN_PEND 0 k p).put SE_BUF1.DRAIN_NEXT 0 k p
  let a := s.bufBase k p 0
  let b := s.bufBase k p 1
  let n := s.get SE_BUF0.GRANULES k p
  if s.bit SE_BUF1.VALID k p && s.ownsGranules tag a (a + n) && s.ownsGranules tag b (b + n) then s
  else (s.put SE_BUF1.CUR 0 k p).put SE_BUF1.STEP 0 k p

/-- The pairs of a stack that have any entry listed: all others already hold zeros. -/
def State.listedPairs (s : State) (k : Nat) : List Nat :=
  (List.range 64).filter (fun p => s.bit SE_BUF1.VALID k p || s.bit SE_BUF1.CUR k p || s.bit SE_BUF1.DRAIN_PEND k p ||
    s.get SE_BUF1.DRAIN_NEXT k p != 0 || s.get SE_BUF1.STEP k p != 0)

/-- Job load of one region: every item marked cleared at job load (R45, R121, R129, R141, R152, R213). -/
def State.loadRegion (s : State) (tag : Nat) (r : Rgn) : State :=
  let s := s.setSeq r sqIdle
  let s := (s.put RGN_SEQ_STAT.HOLD_FLAG 0 r).put RGN_SEQ_STAT.FALLBACK 0 r
  let s := (((s.put RGN_SEQ_ERR.CODE 0 r).put RGN_SEQ_ERR.ENGINE 0 r).put RGN_SEQ_ERR.MORE 0 r).put RGN_SEQ_ERR.SLOT 0 r
  let s := (s.put RGN_SEQ_ERR.ORDINAL 0 r).put RGN_GEN_STEP.STEP 0 r
  let s := ((s.clearAt RGN_SEQ_SQ.VALUE r).clearAt RGN_TOK.VALUE r).clearAt RGN_TOK.LINK r
  let s := s.clearPoisonAll r
  let s := s.modRegion r (fun g => { g with pos := 0, patches := [], ordinal := 0, nf := none, planNext := none,
                                            cmds := [], shadows := [], twins := [], prev := none, late := false })
  let s := { s with mem := s.mem.zero (accBase r 0 0) (accBase r 16 0) }
  (List.range 6).foldl (fun s i => (s.listedPairs (6 * r.val + i)).foldl (fun s p => s.loadPair tag (6 * r.val + i) p) s) s

/-- LOAD (R285): ignored while STATE is not empty or JOB_TAG is 0. -/
def State.load (s : State) (p : Prt) : State :=
  let tag := s.get PROC_PART_CFG.JOB_TAG p
  if s.partState p == psEmpty && tag != 0 then
    let s := (s.regionsOf p).foldl (fun s r => s.loadRegion tag r) s
    let s := (s.put PROC_PART_BLOCK.BLOCKS 0 p).put PROC_PART_CFG.LOAD 0 p
    let s := s.modPart p (fun x => { x with late := false })
    let s := s.modHub (fun h => { h with tornTags := h.tornTags.filter (fun x => x % 65536 != tag) })
    s.put PROC_PART_CFG.STATE psLoaded p
  else s
def execLoad (p : Prt) (s : State) : Host.Outcome State Fault Refusal := .next (s.load p)

/-- DBG_LOCK (R288): set only while STATE is loaded or running. -/
def State.dbgLock (s : State) (p : Prt) : State :=
  if s.partState p == psLoaded || s.partState p == psRunning then s.put PROC_PART_CFG.DBG_LOCK 1 p else s
def execDbgLock (p : Prt) (s : State) : Host.Outcome State Fault Refusal := .next (s.dbgLock p)

/-- TEARDOWN (R299): cause 7. -/
def State.procTeardown (s : State) (p : Prt) : State := (s.put PROC_PART_CFG.TEARDOWN 0 p).beginTeardown p 7
def execProcPartTeardown (p : Prt) (s : State) : Host.Outcome State Fault Refusal := .next (s.procTeardown p)

/-- Whether the save granule of a region is Icholt-owned and in the region's own stacks (R293). -/
def State.saveGranuleOk (s : State) (p : Prt) (r : Rgn) : Bool :=
  let g := s.get (PROC_SAVE.GRANULE r.val) p
  s.get HUB_OWN.KIND g == 2 && g / 64 / 6 == r.val && decide (g < 1536)

/-- The stop of a pre-emption (R294). -/
def State.stopPart (s : State) (p : Prt) : State :=
  let s := (s.put PROC_PREEMPT.REQ 0 p).put PROC_PART_CFG.STATE psSaving p
  (s.regionsOf p).foldl (fun s r =>
    let q := s.seqState r
    ((s.modRegion r (fun g => { g with savedSeq := q })).setSeq r sqPreempted).killAll r) s

/-- REQ of PROC_PREEMPT (R293): refused, noted for the bell AT, or applied at the write. -/
def State.preemptReq (s : State) (p : Prt) : State :=
  let atBell := s.get PROC_PREEMPT.MODE p == 0
  if s.partState p != psRunning || !(s.regionsOf p).all (s.saveGranuleOk p) ||
      (atBell && s.get PROC_PREEMPT.AT p ≤ s.period) then
    (s.put PROC_PREEMPT.REFUSED 1 p).put PROC_PREEMPT.REQ 0 p
  else if atBell then s.put PROC_PREEMPT.REQ 1 p else s.stopPart p
def execProcPreemptReq (p : Prt) (s : State) : Host.Outcome State Fault Refusal := .next (s.preemptReq p)

/-- Fields of a save image indexed by the region, and by the stack (R295). -/
def imageRegionFields : List Fld :=
  [RGN_DESC.WORD, RGN_SEQ_SQ.VALUE, RGN_SEQ_STAT.SLOT, RGN_SEQ_STAT.HOLD_FLAG, RGN_SEQ_STAT.FALLBACK,
   RGN_GEN_STEP.STEP, RGN_SEQ_TT.TT_OFFSET, RGN_TOK.VALUE, RGN_TOK.LINK, SU_ROPE_CTRL.STYLE, SU_ROPE_CTRL.ROT_PAIRS,
   SU_ROPE_FREQ.FREQ, RGN_SEC_TGT.ADDR, RGN_SEC_TGT.STORE, RGN_SEC_TGT.PGRP, RGN_SEC_TGT.OVERRIDE, RGN_SEC_TGT.PAIR,
   RGN_SEC_TGT.STATE, RGN_SEC_TGT.RESULT]
def imageStackFields : List Fld :=
  [SE_BUF0.BASE, SE_BUF0.GRANULES, SE_BUF0.DELTA, SE_BUF1.CUR, SE_BUF1.DRAIN_PEND, SE_BUF1.DRAIN_BUF, SE_BUF1.VALID,
   SE_BUF1.DRAIN_NEXT, SE_BUF1.STEP, SE_BUF2.DIRTY, SE_SEC0.SEC_BASE, SE_SEC0.PLACE, SE_SEC0.SEC_VALID, SE_SEC0.CLASS,
   SE_SEC0.REC, SE_SEC1.SEC_STEP, SE_SCHED.W_UPD, SE_SCHED.W_ACC, SE_SCHED.W_SCAT, SE_SCHED.W_DRAIN, SE_SCHED.W_EXT]
def imagePartFields : List Fld := [HUB_SEC_CTRL.AT_STEP, HUB_SEC_CTRL.INTERVAL, HUB_SEC_CTRL.K]

/-- Whether a register key belongs to the save image of region r of partition p; the partition's own fields are in the
image of its lowest region (R295). -/
def imageKey (p r : Nat) (lowest : Bool) (k : Nat) : Bool :=
  ((imageRegionFields.map Fld.home).contains (keyHome k) && keyI k == r) ||
  ((imageStackFields.map Fld.home).contains (keyHome k) && keyI k / 6 == r) ||
  (lowest && (imagePartFields.map Fld.home).contains (keyHome k) && keyI k == p)

/-- Whether a region is the lowest of its partition. -/
def State.isLowest (s : State) (p : Prt) (r : Rgn) : Bool := (s.regionsOf p).head? == some r

/-- The save image of a region (R295). -/
def State.imageOf (s : State) (p : Prt) (r : Rgn) : Image :=
  { region := r.val, sram := s.mem.slice (sramBase r) (sramBase r + 0x10000000)
    acc := s.mem.slice (accBase r 0 0) (accBase r 16 0)
    regs := s.regs.filter (fun x => imageKey p r (s.isLowest p r) x.1), seq := s.regions[r] }

/-- SAVE_COMPLETE (R295): once nothing is left uncommitted; the granule holds the image in a form the spec does not
give, so its bytes are undefined (log entry 14). -/
def State.saveComplete (s : State) (p : Prt) : State :=
  if s.partState p == psSaving && (s.regionsOf p).all (fun r => s.regions[r].cmds.all (fun e => !e.issued)) then
    let rs := s.regionsOf p
    let mask := s.get PROC_PART_CFG.REGIONS p
    let images := rs.map (fun r => s.imageOf p r)
    let s := s.modPart p (fun x => { x with image := images, savedRegions := mask, restored := false })
    let s := rs.foldl (fun s r => s.setCmds r []) s
    let s := s.undefineAll (rs.map (fun r =>
      { lo := s.get (PROC_SAVE.GRANULE r.val) p * 2 ^ 30, hi := (s.get (PROC_SAVE.GRANULE r.val) p + 1) * 2 ^ 30 }))
    let s := (s.put PROC_PART_CFG.STATE psEmpty p).put PROC_PART_CFG.SAVED 1 p
    let tag := s.get PROC_PART_CFG.JOB_TAG p
    (s.put PROC_PART_CFG.SAVED_TAG tag p).bump PROC_TEAR_CNT.PREEMPTS 1 p
  else s
def execSaveComplete (p : Prt) (s : State) : Host.Outcome State Fault Refusal := .next (s.saveComplete p)

/-- RESUME (R297). -/
def State.resume (s : State) (p : Prt) : State :=
  if !s.bit PROC_PART_CFG.SAVED p || s.partState p != psEmpty ||
      s.get PROC_PART_CFG.REGIONS p != s.parts[p].savedRegions || s.get PROC_PREEMPT.AT p ≤ s.period then
    (s.put PROC_PREEMPT.REFUSED 1 p).put PROC_PREEMPT.RESUME 0 p
  else
    let s := (s.put PROC_PREEMPT.RESUME 0 p).put PROC_PART_CFG.STATE psRestoring p
    let tag := s.get PROC_PART_CFG.SAVED_TAG p
    let s := s.put PROC_PART_CFG.JOB_TAG tag p
    let s := s.modPart p (fun x => { x with resuming := true, restored := false, late := false })
    (s.regionsOf p).foldl (fun s r => s.setSeq r sqPreempted) s
def execProcPreemptResume (p : Prt) (s : State) : Host.Outcome State Fault Refusal := .next (s.resume p)

/-- Writes the image of one region back (R297). Isolation, pacing and clock stretch are the region's own, not the
job's. -/
def State.restoreRegion (s : State) (p : Prt) (im : Image) : State :=
  let r : Rgn := ⟨im.region % 4, Nat.mod_lt _ (by omega)⟩
  let low := s.isLowest p r
  let mem := (s.mem.restore im.sram (sramBase r) (sramBase r + 0x10000000)).restore im.acc (accBase r 0 0) (accBase r 16 0)
  let s := { s with
    mem := mem
    regs := im.regs.foldl (fun (m : KMap) (x : Nat × Nat) => kset m x.1 x.2)
      (s.regs.filter (fun x => !imageKey p r low x.1)) }
  s.modRegion r (fun g => { im.seq with
    isolated := g.isolated, dipStretch := g.dipStretch, thermStretch := g.thermStretch, pacedMatrix := g.pacedMatrix,
    pacedAll := g.pacedAll })

/-- RESTORE_COMPLETE (R297). -/
def State.restoreComplete (s : State) (p : Prt) : State :=
  if s.partState p == psRestoring && !s.parts[p].restored then
    let s := s.parts[p].image.foldl (fun s im => s.restoreRegion p im) s
    let s := s.modPart p (fun x => { x with restored := true, image := [] })
    s.put PROC_PART_CFG.SAVED 0 p
  else s
def execRestoreComplete (p : Prt) (s : State) : Host.Outcome State Fault Refusal := .next (s.restoreComplete p)

/-- PREEMPT_TIMEOUT (R298): commands that cannot be killed are still uncommitted; the save becomes a teardown. -/
def State.preemptTimeout (s : State) (p : Prt) : State :=
  if s.partState p == psSaving && (s.regionsOf p).any (fun r => s.regions[r].cmds.any (·.issued)) then
    s.beginTeardown p 6
  else s
def execPreemptTimeout (p : Prt) (s : State) : Host.Outcome State Fault Refusal := .next (s.preemptTimeout p)

/-- CONTEXT_TEARDOWN with a cause of Table 12.3. -/
def State.contextTeardown (s : State) (p : Prt) (cause : Nat) : State :=
  if 1 ≤ cause ∧ cause ≤ 8 then s.beginTeardown p cause else s
def execContextTeardown (p : Prt) (cause : BitVec 4) (s : State) : Host.Outcome State Fault Refusal :=
  .next (s.contextTeardown p cause.toNat)

/-- TEARDOWN_END (R300). -/
def execTeardownEnd (p : Prt) (s : State) : Host.Outcome State Fault Refusal := .next (s.endTeardown p)

/-- REGION_ISOLATION (R19): the sequencer stops, the six stacks leave service and the job is torn down with CAUSE 5. -/
def State.isolateRegion (s : State) (r : Rgn) : State :=
  let s := s.modRegion r (fun g => { g with isolated := true })
  let s := (List.range 6).foldl (fun s i => s.put SE_STAT.STATE 1 (6 * r.val + i)) s
  match s.partOf r with
  | some p => s.beginTeardown p 5
  | none => s
def execRegionIsolation (r : Rgn) (s : State) : Host.Outcome State Fault Refusal := .next (s.isolateRegion r)

/-- TEARDOWN_NOTICE (R303): the partition with the tag is torn down with CAUSE 8; a tag that matches none changes
nothing. -/
def State.teardownNotice (s : State) (tag : Nat) : State :=
  match allRegions.find? (fun p => s.partState p != psEmpty && s.get PROC_PART_CFG.JOB_TAG p == tag) with
  | some p => s.beginTeardown p 8
  | none => s
def execTeardownNotice (tag : BitVec 16) (s : State) : Host.Outcome State Fault Refusal :=
  .next (s.teardownNotice tag.toNat)

end Sys2Proof.Machine
end

