-- ==== Sys2Proof/Machine/Reset.lean ====
section
/-!
DEFINITION. Resets and power: the reset types of Table 15.3 (R9, R365, R366, R371), the first second (R353, R367), the
standby supply (R357), dormancy and wake (R368-R370).
-/
namespace Sys2Proof.Machine

/-- Homes of the fields that keep their value across a warm reset (R9, R361, R365). -/
def warmHomes : List Nat := (regRows.flatMap (·.fields)).filterMap (fun f => if f.warm then some f.home else none)

/-- Homes of the fields of a die that keep their value across a region reset (R9, R157, R365). -/
def regionHomes : List Nat := (regRows.flatMap (·.fields)).filterMap (fun f => if f.region then some f.home else none)

/-- Offset of the register of a key, its indices at zero. -/
def keyBase (k : Nat) : Nat := keyHome k / 64

/-- Whether a register lies on the compute die, the links or the stack engines of region r (Table 15.3). -/
def onDie (r : Nat) (k : Nat) : Bool :=
  let b := keyBase k
  let i := keyI k
  (decide (0x1000000 ≤ b) && decide (b < 0x2000000) && i == r) ||
  (decide (0x8000000 ≤ b) && decide (b < 0xC000000) && i / 6 == r) || (decide (0xC000000 ≤ b) && i / 8 == r)

/-- The clock stretch of a region follows the rails in a dip (R362). -/
def State.followRails (s : State) : State :=
  allRegions.foldl (fun s (r : Rgn) => s.modRegion r (fun g => { g with
    dipStretch := s.hub.dipRails.contains r.val || s.hub.dipRails.contains 4 })) s

/-- SU_STAT of a region shows the states that its matrix engines kept (R157, R179). -/
def State.followEngines (s : State) (r : Rgn) : State :=
  (List.range 8).foldl (fun s k => s.put SU_STAT.STATE (s.pairState r k) r k) s

/-- A stack after its engine's reset: repairs survive (R232). -/
def Stack.afterReset (x : Stack) : Stack := { Stack.reset with sparesUsed := x.sparesUsed, soft := x.soft }

/-- One compute die with its links and stack engines at their reset state: stack contents stay, SRAM and accumulators
are undefined, the fields of the given homes stay (R9, R365). -/
def State.resetDie (s : State) (kept : List Nat) (r : Rgn) : State :=
  let lo := stackBase (6 * r.val) / 65536
  let hi := stackBase (6 * r.val + 6) / 65536
  let keep (k : Nat) : Bool := !onDie r.val k || kept.contains (keyHome k)
  let s := { s with
    regs := s.regs.filter (fun x => keep x.1), live := s.live.filter (fun x => !onDie r.val x.1)
    dirty := s.dirty.filter (fun g => decide (g < lo) || decide (hi ≤ g)) }
  let s := s.modRegion r (fun _ => Region.reset)
  let s := { s with
    links := Vector.ofFn (fun l : Lnk => if l.val / 8 = r.val then Link.reset else s.links[l])
    stks := Vector.ofFn (fun k : Stk => if k.val / 6 = r.val then s.stks[k].afterReset else s.stks[k]) }
  (s.undefineAll [{ lo := sramBase r, hi := sramBase r + 0x10000000 }, { lo := accBase r 0 0, hi := accBase r 16 0 }]).followRails.followEngines r

/-- What outlasts every reset: flash, OTP, pins, standby power (R365, R374, R375). -/
def Hub.lasting (h : Hub) : Hub :=
  { Hub.reset with
    slotA := h.slotA, slotB := h.slotB, keys := h.keys, svnFloor := h.svnFloor, repairs := h.repairs, spiHub := h.spiHub
    straps := h.straps, powered := h.powered, bladesOk := h.bladesOk, perst := h.perst }

/-- A cold or a module reset (R9, R365): everything at its reset value, memory undefined, flash and OTP kept. -/
def State.resetAll (s : State) (last : Nat) : State :=
  let en := s.get HUB_PWR_STATE.PWR_EN
  let t := { State.reset with
    pending := s.pending, out := s.out, ticket := s.ticket + 1, hub := s.hub.lasting
    mem := { cells := [], layers := [{ lo := 0, hi := memEnd, free := some s.ticket }] } }
  ((t.put HUB_RESET.LAST last).put HUB_IMG.SVN_FLOOR t.hub.svnFloor).put HUB_PWR_STATE.PWR_EN en

/-- COLD_RESET: standby power is applied. -/
def State.coldReset (s : State) : State := (s.modHub (fun h => { h with powered := true })).resetAll 0
def execColdReset (s : State) : Host.Outcome State Fault Refusal := .next s.coldReset

/-- MODULE_RESET: by register (2), 48 V below its reset level (3) or a hub trip (4). -/
def State.moduleReset (s : State) (cause : Nat) : State := if 2 ≤ cause ∧ cause ≤ 4 then s.resetAll cause else s
def execModuleReset (cause : BitVec 4) (s : State) : Host.Outcome State Fault Refusal := .next (s.moduleReset cause.toNat)

/-- WARM_RESET (R365): PCIE_PERST_N is asserted. Stack contents, ownership, PWR_CAP, the fields marked kept and the
failed attempts of units (R332) stay; a dormant module stays dormant (R369). -/
def State.warmReset (s : State) : State :=
  let en := s.get HUB_PWR_STATE.PWR_EN
  let st := s.get HUB_PWR_STATE.STATE
  let floor := s.hub.svnFloor
  let main := s.hub.mainPower
  let h := s.hub
  let s := allRegions.foldl (fun s r => s.resetDie warmHomes r) s
  let s := { s with
    now := 0, live := [], watchId := [], parts := Vector.replicate 4 Part.reset
    regs := s.regs.filter (fun x => warmHomes.contains (keyHome x.1))
    hub := { s.hub.lasting with
      mainPower := main, strapsDue := false, perst := false, cap := h.cap, untrained := h.untrained, worn := h.worn
      attempts := h.attempts, retries := h.retries } }
  let s := allRegions.foldl (fun s r => s.followEngines r) s
  let s := ((s.put HUB_RESET.LAST 1).put HUB_IMG.SVN_FLOOR floor).put HUB_PWR_STATE.PWR_EN en
  if st = 2 ∨ st = 3 then s.put HUB_PWR_STATE.STATE st else s
def execWarmReset (s : State) : Host.Outcome State Fault Refusal := .next s.warmReset

/-- REGION_RESET (R365, R366): the job is torn down, the die resets and the region counts as isolated. -/
def State.regionReset (s : State) (r : Rgn) : State :=
  let s := s.isolateRegion r
  let s := s.resetDie regionHomes r
  let s := s.modRegion r (fun g => { g with isolated := true })
  (List.range 6).foldl (fun s i => s.put SE_STAT.STATE 1 (6 * r.val + i)) s
def execRegionReset (r : Rgn) (s : State) : Host.Outcome State Fault Refusal := .next (s.regionReset r)

/-- A refused control-space access counts (R6, R371). -/
def State.badAccess (s : State) : State := s.bump HUB_BAD_ACCESS_CNT.COUNT

/-- HUB_RESET with MODULE set: only the PF, only with the key (R371). -/
def execHubResetModule (a : Actor) (key : Byte) (s : State) : Host.Outcome State Fault Refusal :=
  .next (if a = .pf ∧ key = 0x5A then s.moduleReset 2 else s.badAccess)

/-- HUB_RESET with REGION set: only Icholt, only with the key (R371). -/
def execHubResetRegion (a : Actor) (key : Byte) (sel : Rgn) (s : State) : Host.Outcome State Fault Refusal :=
  .next (if a = .icholt ∧ key = 0x5A then s.regionReset sel else s.badAccess)

/-- Whether the body, key and signature of a slot hold against OTP (R353), the marker aside. -/
def Hub.headerValid (h : Hub) (x : SlotHdr) : Bool :=
  x.magic == 0x4F4C4A31 && x.bodyCrcOk && x.hdrCrcOk && x.keyOk && h.keys.contains x.keyIdx.toNat && x.sigOk &&
  decide (h.svnFloor ≤ x.svn.toNat)

/-- Whether a slot is valid (R353). -/
def Hub.slotValid (h : Hub) (x : Slot) : Bool :=
  match x.hdr with
  | some y => x.marker && h.headerValid y
  | none => false

/-- SEQ of a slot. -/
def Slot.seq (x : Slot) : Nat := match x.hdr with | some y => y.seq.toNat | none => 0

/-- The slot that the boot ROM runs: the valid one with the higher SEQ (R353). -/
def Hub.bootSlot (h : Hub) : Option Nat :=
  let a := h.slotValid h.slotA
  let b := h.slotValid h.slotB
  if a && b then some (if h.slotA.seq < h.slotB.seq then 1 else 0)
  else if a then some 0 else if b then some 1 else none

/-- Main power sequences in once an image runs, PWR_EN is high and both blades are good (R367, R377). -/
def State.sequenceIn (s : State) : State :=
  if s.hub.booted && s.bit HUB_PWR_STATE.PWR_EN && s.hub.bladesOk then s.modHub (fun h => { h with mainPower := true }) else s

/-- BOOT_ROM (R353, R367): waits for the SPI bus (R375); without a valid slot the hub stays with strict pigeonholes. -/
def State.bootRom (s : State) : State :=
  if s.hub.booted || !s.hub.powered || !s.hub.spiHub then s
  else match s.hub.bootSlot with
    | none => s
    | some k =>
      let seq := if k = 0 then s.hub.slotA.seq else s.hub.slotB.seq
      let s := ((s.put HUB_IMG.SLOT k).put HUB_IMG.SEQ seq).put HUB_IMG.STATE 0
      let s := s.modHub (fun h => { h with booted := true })
      if s.get HUB_PWR_STATE.STATE = 3 then s else s.sequenceIn
def execBootRom (s : State) : Host.Outcome State Fault Refusal := .next s.bootRom

/-- Leaving dormancy (R370). -/
def State.doWake (s : State) : State :=
  if s.hub.bladesOk then
    let s := (s.put HUB_PWR_STATE.STATE 1).put HUB_PWR_STATE.WAKE 0
    s.modHub (fun h => { h with mainPower := true, wakePending := false })
  else s

/-- A wake: at once when dormant, after entry when entering (R370). -/
def State.requestWake (s : State) : State :=
  let st := s.get HUB_PWR_STATE.STATE
  if st = 3 then s.doWake else if st = 2 then s.modHub (fun h => { h with wakePending := true }) else s

/-- PWR_EN rises, or the blades come within limits under it; voltages in units of 10 mV (R367, R370, R377). -/
def State.pwrEnAssert (s : State) (a b : Nat) : State :=
  let ok := decide (4400 ≤ a) && decide (a ≤ 5600) && decide (4400 ≤ b) && decide (b ≤ 5600)
  let rising := !s.bit HUB_PWR_STATE.PWR_EN
  let s := (s.put HUB_PWR_STATE.PWR_EN 1).modHub (fun h => { h with bladesOk := ok })
  if rising && 2 ≤ s.get HUB_PWR_STATE.STATE then s.requestWake
  else if s.get HUB_PWR_STATE.STATE < 2 then s.sequenceIn else s
def execPwrEnAssert (a b : BitVec 16) (s : State) : Host.Outcome State Fault Refusal := .next (s.pwrEnAssert a.toNat b.toNat)

/-- PWR_EN falls (R368): every job is torn down with CAUSE 7 and dormancy begins. -/
def State.pwrEnDeassert (s : State) : State :=
  let s := s.put HUB_PWR_STATE.PWR_EN 0
  if s.hub.mainPower && s.get HUB_PWR_STATE.STATE < 2 then
    (allRegions.foldl (fun s p => s.beginTeardown p 7) s).put HUB_PWR_STATE.STATE 2
  else s
def execPwrEnDeassert (s : State) : Host.Outcome State Fault Refusal := .next s.pwrEnDeassert

/-- STACK_TRAINING (R157, R232, R367): after a cold or a module reset the recorded row repairs become permanent; column
maps are rewritten from the record, failed stacks leave service, the module is active. -/
def State.stackTraining (s : State) (failed : Nat) : State :=
  if !s.hub.mainPower || s.get HUB_PWR_STATE.STATE != 0 then s
  else
    let untrained := s.hub.untrained
    let s := s.hub.repairs.foldl (fun s x =>
      if h : x.1 < 24 then
        let k : Stk := ⟨x.1, h⟩
        if !untrained then s
        else
          let s := s.modStack k (fun y => { y with sparesUsed := kset y.sparesUsed x.2.1 (kget y.sparesUsed x.2.1 0 + 1) })
          (s.put SE_REPAIR.SPARES_LEFT (4 - s.stks[k].sparesUsed.foldl (fun m b => max m b.2) 0) k).bump SE_REPAIR.HARD 1 k
      else
        let r := (x.1 - 24) / 16
        let e := (x.1 - 24) % 16
        if s.bit (ME_COL_MAP.VALID x.2.1) r e then s
        else ((s.put (ME_COL_MAP.COL x.2.1) x.2.2 r e).put (ME_COL_MAP.VALID x.2.1) 1 r e).countSpares r e) s
    let s := (List.range 24).foldl (fun s k =>
      if bitsAt failed k 1 = 1 then s.put SE_STAT.STATE 1 k else s) s
    (s.put HUB_PWR_STATE.STATE 1).modHub (fun h => { h with untrained := false })
def execStackTraining (failed : BitVec 24) (s : State) : Host.Outcome State Fault Refusal :=
  .next (s.stackTraining failed.toNat)

/-- Pending soft repairs become permanent and count (R232, R368). -/
def State.hardenRepairs (s : State) : State :=
  let n (k : Nat) : Nat := if h : k < 24 then s.stks[(⟨k, h⟩ : Stk)].soft.length else 0
  let t := (List.range 24).foldl (fun t k => t.bump SE_REPAIR.HARD (n k) k) s
  { t with stks := Vector.ofFn (fun k : Stk => { t.stks[k] with soft := [] }) }

/-- DORMANCY_ENTERED (R368): soft repairs are permanent, dies, links and stack engines are off; the module leaves its
fabric, and a wake asked for meanwhile takes effect. -/
def State.dormancyEntered (s : State) : State :=
  if s.get HUB_PWR_STATE.STATE = 2 ∧ allRegions.all (fun p => s.partState p == psEmpty) then
    let s := (allRegions.foldl (fun s r => s.resetDie warmHomes r) s).hardenRepairs
    let s := ((s.put HUB_PWR_STATE.STATE 3).put HUB_RC_STAT.STATE 0).put HUB_BELL_STATUS.IS_MASTER 0
    let s := (s.put HUB_BELL_STATUS.IS_DEPUTY 0).put HUB_BELL_STATUS.SYNCED 0
    let s := s.modHub (fun h => { h with mainPower := false, bellsLost := true, roll := Roll.reset })
    if s.hub.wakePending then s.doWake else s
  else s
def execDormancyEntered (s : State) : Host.Outcome State Fault Refusal := .next s.dormancyEntered

/-- WAKE: set by the PF while PWR_EN is asserted (R370, R371). -/
def State.wake (s : State) (a : Actor) : State :=
  if a = .pf ∧ s.bit HUB_PWR_STATE.PWR_EN ∧ 2 ≤ s.get HUB_PWR_STATE.STATE then (s.put HUB_PWR_STATE.WAKE 1).requestWake else s
def execWake (a : Actor) (s : State) : Host.Outcome State Fault Refusal := .next (s.wake a)

/-- STANDBY_POWER_LOSS (R357): all power is gone; only flash and OTP stay. -/
def State.standbyLoss (s : State) : State :=
  (s.resetAll 0).modHub (fun h => { h with powered := false, bladesOk := false })
def execStandbyPowerLoss (s : State) : Host.Outcome State Fault Refusal := .next s.standbyLoss

/-- PCIE_PERST_N_RELEASE (R367): PCIe may train. -/
def execPciePerstNRelease (s : State) : Host.Outcome State Fault Refusal :=
  .next (s.modHub (fun h => { h with perst := true }))

end Sys2Proof.Machine
end

