-- ==== Sys2Proof/Machine/Power.lean ====
section
/-!
DEFINITION. The power arbiter: allotments and pacing (R358-R361), supply dips (R362, R363), temperature (R364). Log
entry 33 lists what the chapter leaves open here.
-/
namespace Sys2Proof.Machine

/-- n / d in whole units: which neighbour an inexact quotient rounds to is open (log entry 33). -/
def openQuot (t n d : Nat) : Nat := n / d + if n % d ≠ 0 ∧ Config.freeBit t then 1 else 0

/-- The consumer that a die's temperature cuts (R364). -/
def consumerOf (d : Nat) : Nat := if d < 4 then d else if d < 28 then 4 + (d - 4) / 6 else 9

/-- Cut of a consumer: the largest of its dies' cuts, in per cent. -/
def State.consumerCut (s : State) (c : Nat) : Nat :=
  (List.range 29).foldl (fun m d => if consumerOf d = c then max m (s.get PWR_THERM.CUT_PCT d) else m) 0

/-- The cut of a die after a bell that read t degrees (R364). -/
def nextCut (cut t : Nat) : Nat := if 100 ≤ t then min 50 (cut + 5) else if t < 98 then cut - 5 else cut

/-- One die at a bell (R364). -/
def State.dieBell (s : State) (d t : Nat) : State :=
  let cut := nextCut (s.get PWR_THERM.CUT_PCT d) t
  let s := (s.put PWR_THERM.TEMP_C t d).put PWR_THERM.MAX_C (max t (s.get PWR_THERM.MAX_C d)) d
  let s := s.put PWR_THERM.CUT_PCT cut d
  let s := if cut ≠ 0 then s.bump PWR_THERM.THROTTLE_BELLS 1 d else s
  if h : d < 4 then
    s.modRegion ⟨d, h⟩ (fun g => { g with
      thermStretch := if 105 ≤ t then true else if t < 103 then false else g.thermStretch })
  else s

/-- The THROTTLE bits and HUB_HOT. -/
def State.throttleBits (s : State) (hubTemp : Nat) : State :=
  let v := (List.range 4).foldl (fun v d => v + if s.get PWR_THERM.CUT_PCT d ≠ 0 then 2 ^ d else 0) 0
  (s.put PWR_STAT.THROTTLE v).put PWR_STAT.HUB_HOT (if 100 ≤ hubTemp then 1 else 0)

/-- What the regions share: the cap less the loss and the first ten-per-cent allotments (R358). -/
def restWatts (x : Sensors) (cap : Nat) (firsts : List Nat) : Nat := cap - x.lossW - firsts.foldl (· + ·) 0

/-- Cuts the stack, link and hub allotments so that together they stay within what is left when the regions get
nothing (R21). How the cut is shared out is open, so each share is a free value up to its R358 value (log entry 33). -/
def cutFirsts (t : Nat) : Nat → List Nat → List Nat
  | _, [] => []
  | rest, w :: ws =>
    let v := min w ((Config.freeWord t).toNat % (rest + 1))
    v :: cutFirsts (t + 1) (rest - v) ws

/-- Mean draw plus 10 % for stack groups, links and hub (R358); less only where matrix issue alone cannot close the gap
to the cap (R21). -/
def State.firstAllots (s : State) (x : Sensors) : List Nat :=
  let ws := (List.range 6).map (fun i => openQuot (s.ticket + i) (x.draws.getD (4 + i) 0 * 11) 10)
  if ws.foldl (· + ·) 0 ≤ s.hub.cap - x.lossW then ws else cutFirsts (s.ticket + 30) (s.hub.cap - x.lossW) ws

/-- The allotments of R358 in W by consumer. With regions that drew nothing the proportions are open. -/
def State.r358 (s : State) (x : Sensors) : List Nat :=
  let d (c : Nat) : Nat := x.draws.getD c 0
  let firsts := s.firstAllots x
  let rest := restWatts x s.hub.cap firsts
  let sum := d 0 + d 1 + d 2 + d 3
  (List.range 4).map (fun r =>
    if sum = 0 then (Config.freeWord (s.ticket + 6 + r)).toNat % (rest + 1) else openQuot (s.ticket + 6 + r) (rest * d r) sum) ++
  firsts

/-- The reduced allotment of a consumer under a dip, if one is in force. -/
def State.dipWatts (s : State) (c : Nat) : Option Nat := (s.hub.dips.find? (fun x => x.1 == c)).map (·.2.2)

/-- The lower of an allotment and the dip's (R363). -/
def State.underDip (s : State) (c w : Nat) : Nat := match s.dipWatts c with | some v => min v w | none => w

/-- The allotments of a bell: R358, less the thermal cuts, and no more than a dip leaves (R362-R364). -/
def State.allotBell (s : State) (x : Sensors) : State :=
  let base := s.r358 x
  let w := (List.range 10).map (fun c =>
    s.underDip c (openQuot (s.ticket + 10 + c) (base.getD c 0 * (100 - s.consumerCut c)) 100))
  let s := { s with ticket := s.ticket + 40 }
  let s := (List.range 10).foldl (fun s c =>
    (s.put PWR_ALLOT.ALLOT_W (w.getD c 0) c).put PWR_ALLOT.DRAW_W (x.draws.getD c 0) c) s
  s.modHub (fun h => { h with allot := w })

/-- The power arbiter at a bell, after the latch: temperatures, the cap asked for, measured draws, allotments (R358,
R361, R362, R364). -/
def State.powerBell (s : State) (x : Sensors) : State :=
  let s := (List.range 29).foldl (fun s d => s.dieBell d (min 255 (x.temps.getD d 0))) s
  let s := s.throttleBits (x.temps.getD 28 0)
  let s := s.modHub (fun h => { h with cap := s.get PWR_CAP.CAP_W })
  let s := (s.put PWR_STAT.MEAN_W (min 65535 (x.draws.foldl (· + ·) x.lossW))).put PWR_STAT.PEAK_W (min 65535 x.peakW)
  let s := s.modHub (fun h => { h with
    dips := (h.dips.map (fun y => (y.1, y.2.1 - 1, y.2.2))).filter (fun y => y.2.1 != 0) })
  s.allotBell x

/-- A write to PWR_CAP: a value outside 1,500-2,800 is ignored; another is in force from the next bell on (R361). -/
def State.writeCap (s : State) (v : Nat) : State :=
  if 1500 ≤ v ∧ v ≤ 2800 then s.put PWR_CAP.CAP_W v else s

/-- Pacing lifts with the sub-interval (R360). -/
def State.unpace (s : State) : State :=
  (allRegions.foldl (fun s (r : Rgn) => s.modRegion r (fun g => { g with pacedMatrix := false, pacedAll := false })) s).modHub
    (fun h => { h with paced := [] })

/-- SUB_INTERVAL: a new sub-interval with its allotments; energy left unspent goes to the regions in proportion to
their draws of the closed period (R358). -/
def State.subInterval (s : State) (energy : List Nat) : State :=
  let unspent := (List.range 10).foldl (fun a c => a + (s.hub.allot.getD c 0 - energy.getD c 0)) 0
  let d (c : Nat) : Nat := s.get PWR_ALLOT.DRAW_W c
  let sum := d 0 + d 1 + d 2 + d 3
  let w := (List.range 10).map (fun c =>
    s.underDip c (s.get PWR_ALLOT.ALLOT_W c) +
    (if c < 4 then
      if sum = 0 then (Config.freeWord (s.ticket + c)).toNat % (unspent + 1) else openQuot (s.ticket + c) (unspent * d c) sum
    else 0))
  let s := { s with ticket := s.ticket + 4 }
  (s.modHub (fun h => { h with allot := w })).unpace
def execSubInterval (energy : List Nat) (s : State) : Host.Outcome State Fault Refusal := .next (s.subInterval energy)

/-- ALLOTMENT_REACHED (R360): a region's matrix issue is paced first, all its issue at 5 % more; the hub never. -/
def State.allotmentReached (s : State) (c : Nat) (plus5 : Bool) : State :=
  if h : c < 4 then
    let r : Rgn := ⟨c, h⟩
    let s := if s.regions[r].pacedMatrix then s else s.liveAdd PWR_ALLOT.PACED 1 c
    s.modRegion r (fun g => { g with pacedMatrix := true, pacedAll := g.pacedAll || plus5 })
  else if c < 9 ∧ !s.hub.paced.contains c then
    (s.liveAdd PWR_ALLOT.PACED 1 c).modHub (fun h => { h with paced := h.paced ++ [c] })
  else s
def execAllotmentReached (c : Fin 10) (plus5 : Bool) (s : State) : Host.Outcome State Fault Refusal :=
  .next (s.allotmentReached c.val plus5)

/-- Warning and reset levels of a rail: mV for the cores, 10 mV for the 48 V input (Table 15.1). -/
def warnLevel (k : Nat) : Nat := if k < 4 then 690 else 4200
def resetLevel (k : Nat) : Nat := if k < 4 then 620 else 3800

/-- The consumers that a dip on a rail reduces (Table 15.2). -/
def dipConsumers (k : Nat) : List Nat := if k < 4 then [k, 4 + k] else List.range 9

/-- One consumer's reduction: 60 % of the allotment of the last bell, for this period and the next; a further dip
keeps the reduction and extends it (R362, R363). -/
def State.dipReduce (s : State) (c : Nat) : State :=
  let w := (s.dipWatts c).getD (openQuot (s.ticket + c) (s.get PWR_ALLOT.ALLOT_W c * 60) 100)
  s.modHub (fun h => { h with
    dips := h.dips.filter (fun x => x.1 != c) ++ [(c, 2, w)], allot := h.allot.set c (min w (h.allot.getD c 0)) })

/-- MIN holds the lowest voltage captured (R362). -/
def State.captureMin (s : State) (k level : Nat) : State :=
  let v := if s.bit PWR_DROOP.VALID k then min level (s.get PWR_DROOP.MIN k) else level
  (s.put PWR_DROOP.MIN v k).put PWR_DROOP.VALID 1 k

/-- DIP: a rail stands at a level below its warning (R362), or crosses its reset level (R357). -/
def State.dip (s : State) (k level : Nat) : State :=
  if warnLevel k ≤ level then s
  else
    let fresh := !s.hub.dipRails.contains k
    let s := s.captureMin k level
    let s := if fresh then
        let s := (s.bump PWR_DROOP.EVENTS 1 k).modHub (fun h => { h with dipRails := h.dipRails ++ [k] })
        let s := (dipConsumers k).foldl (fun s c => s.dipReduce c) s.followRails
        { s with ticket := s.ticket + 10 }
      else s
    if level < resetLevel k then
      let s := (s.modHub (fun h => { h with
        dipRails := h.dipRails.filter (· != k), dips := h.dips.filter (fun x => !(dipConsumers k).contains x.1) })).followRails
      if h : k < 4 then s.regionReset ⟨k, h⟩ else s.moduleReset 3
    else s
def execDip (k : Fin 5) (level : BitVec 16) (s : State) : Host.Outcome State Fault Refusal := .next (s.dip k.val level.toNat)

/-- DIP_RECOVERY: the clock returns (R357, R362); the allotments stay reduced to their bell. -/
def State.dipRecovery (s : State) (k : Nat) : State :=
  (s.modHub (fun h => { h with dipRails := h.dipRails.filter (· != k) })).followRails
def execDipRecovery (k : Fin 5) (s : State) : Host.Outcome State Fault Refusal := .next (s.dipRecovery k.val)

/-- THERMAL_TRIP at 110 degrees (R364). -/
def State.thermalTrip (s : State) (d : Nat) : State :=
  let s := s.bump PWR_THERM.TRIPS 1 d
  if h : d < 4 then s.regionReset ⟨d, h⟩
  else if d < 28 then s.regionReset ⟨(d - 4) / 6 % 4, Nat.mod_lt _ (by omega)⟩
  else s.moduleReset 4
def execThermalTrip (d : Fin 29) (s : State) : Host.Outcome State Fault Refusal := .next (s.thermalTrip d.val)

end Sys2Proof.Machine
end

