-- ==== Sys2Proof/Machine/Pigeon.lean ====
section
/-!
DEFINITION. The pigeonholes: assembly and posts (R340-R343), dormant domains (R344), fabric posts (R346). Inbound
pigeonhole n has the number n here, outbound pigeonhole n the number 16 + n, as in PH_CFG.
-/
namespace Sys2Proof.Machine

/-- SRC of a poster: 0 PF, 1-4 VF, 6 Icholt; JTAG posts nothing. -/
def actorSrc : Actor → Nat
  | .pf => 0
  | .vf p => p.val + 1
  | .icholt => 6
  | .jtag => 7

/-- Number of the pigeonhole that an actor posts to as n: hosts post inbound, Icholt outbound. -/
def postSide (src n : Nat) : Nat := if src = 6 then 16 + n else n

/-- Fields of a pigeonhole by its number. -/
def phWord (i : Nat) : Fld := if i < 16 then PH_IN.WORD else PH_OUT.WORD
def phFull (i : Nat) : Fld := if i < 16 then PH_IN_STAT.FULL else PH_OUT_STAT.FULL
def phCollide (i : Nat) : Fld := if i < 16 then PH_IN_STAT.COLLIDE else PH_OUT_STAT.COLLIDE
def phReject (i : Nat) : Fld := if i < 16 then PH_IN_STAT.REJECT else PH_OUT_STAT.REJECT
def phPosts (i : Nat) : Fld := if i < 16 then PH_IN_STAT.POSTS else PH_OUT_STAT.POSTS
def phSrc (i : Nat) : Fld := if i < 16 then PH_IN_STAT.SRC else PH_OUT_STAT.SRC
def phSrcAddr (i : Nat) : Fld := if i < 16 then PH_IN_STAT.SRC_ADDR else PH_OUT_STAT.SRC_ADDR

/-- PH_MODE.STRICT is the OR of the three modes (R342). -/
def State.syncStrict (s : State) : State :=
  s.put PH_MODE.STRICT (if s.bit PH_MODE.STARTUP || s.bit PH_MODE.TEST || s.bit PH_MODE.RECOVERY then 1 else 0)

/-- Whether the module is dormant. -/
def State.dormant (s : State) : Bool := s.get HUB_PWR_STATE.STATE == 3

/-- Whether the domain of a pigeonhole is dormant (R344). -/
def State.phDormant (s : State) (i : Nat) : Bool :=
  let d := s.get PH_CFG.DOMAIN i
  if d = 0 then false
  else s.dormant || allRegions.any (fun (r : Rgn) => bitsAt (s.get PROC_PART_CFG.REGIONS (d - 1)) r.val 1 == 1 && s.regions[r].isolated)

/-- Whether an actor may reach a pigeonhole: the function that FUNC names, or Icholt (R340). -/
def State.phReach (s : State) (src i : Nat) : Bool := src == 6 || s.get PH_CFG.FUNC i == src

/-- A message enters a pigeonhole in one step (R340, R341). -/
def State.phEnter (s : State) (i src addr : Nat) (msg : List Nat) : State :=
  let s := (List.range 8).foldl (fun s j => s.put (phWord i) (msg.getD j 0) (i % 16) j) s
  let s := (s.put (phFull i) 1 (i % 16)).put (phPosts i) (s.get (phPosts i) (i % 16) + 1) (i % 16)
  let s := s.put (phSrc i) src (i % 16)
  if src = 5 then s.put (phSrcAddr i) addr (i % 16) else s

/-- A post (R341, R342): answers whether it was accepted. -/
def State.phPut (s : State) (i src addr : Nat) (msg : List Nat) : State × Bool :=
  if !s.bit (phFull i) (i % 16) then (s.phEnter i src addr msg, true)
  else if s.bit PH_MODE.STRICT then (s.bump (phReject i) 1 (i % 16), false)
  else ((s.put (phCollide i) 1 (i % 16)).phEnter i src addr msg, true)

/-- A post discarded for a dormant domain: its PH_TOUT bit is due at the second bell (R344). -/
def State.phDiscard (s : State) (i : Nat) : State :=
  s.modHub (fun h => { h with phTouts := if h.phTouts.contains (i, 2) then h.phTouts else h.phTouts ++ [(i, 2)] })

/-- The assembly buffer of a requester for a pigeonhole; another number drops the earlier words (R340). -/
def State.asmFor (s : State) (src n : Nat) : Asm :=
  match s.hub.asm.find? (fun x => x.1 == src) with
  | some x => if x.2.ph = n then x.2 else { ph := n, words := List.replicate 7 0 }
  | none => { ph := n, words := List.replicate 7 0 }

/-- Replaces or clears the assembly buffer of a requester. -/
def State.setAsm (s : State) (src : Nat) (a : Option Asm) : State :=
  s.modHub (fun h => { h with asm := h.asm.filter (fun x => x.1 != src) ++ (match a with | some b => [(src, b)] | none => []) })

/-- ASSEMBLY_WRITE (R340, R344). -/
def State.assemblyWrite (s : State) (a : Actor) (n word : Nat) (v : Word64) : State :=
  let i := postSide (actorSrc a) n
  if a = .jtag || !s.phReach (actorSrc a) i then s.badAccess
  else if s.phDormant i && actorSrc a != 6 then s.phDiscard i
  else
    let b := s.asmFor (actorSrc a) n
    s.setAsm (actorSrc a) (some { b with words := b.words.set word v })
def execAssemblyWrite (a : Actor) (n : Fin 16) (word : Fin 7) (v : Word64) (s : State) : Host.Outcome State Fault Refusal :=
  .next (s.assemblyWrite a n.val word.val v)

/-- A rejected host post is reported through AER (R58, R342): UR status, the header of the first one, and the message
that the host's mask and severity settings enable. The settings lie in the configuration space of the PCIe
specification, so which message leaves, if any, is a free value (log entry 54). -/
def State.reportUr (s : State) (fn n : Nat) : State :=
  let kind := (Config.freeWord s.ticket).toNat % 4
  let s := s.nextTicket.modHub (fun h => { h with aer := if h.aer.any (fun x => x.1 == fn) then h.aer else h.aer ++ [(fn, n)] })
  if kind = 0 then s else s.emit (.aer fn kind)

/-- POST (R340-R342, R344): a rejected host post is an Unsupported Request. -/
def State.phPost (s : State) (a : Actor) (n : Nat) (v : Word64) : State :=
  let i := postSide (actorSrc a) n
  if a = .jtag || !s.phReach (actorSrc a) i then s.badAccess
  else
    let b := s.asmFor (actorSrc a) n
    let s := s.setAsm (actorSrc a) none
    if s.phDormant i then s.phDiscard i
    else
      let t := s.phPut i (actorSrc a) 0 (b.words.map BitVec.toNat ++ [v.toNat])
      if !t.2 && actorSrc a < 5 then t.1.reportUr (actorSrc a) n else t.1
def execPost (a : Actor) (n : Fin 16) (v : Word64) (s : State) : Host.Outcome State Fault Refusal := .next (s.phPost a n.val v)

/-- PH_TIMEOUT (R344): once the second bell has come. -/
def State.phTimeout (s : State) (i : Nat) : State :=
  if s.hub.phTouts.any (fun x => x.1 == i && x.2 == 0) then
    let s := s.modHub (fun h => { h with phTouts := h.phTouts.filter (fun x => !(x.1 == i && x.2 == 0)) })
    let f : Fld := if i < 16 then PH_TOUT.IN else PH_TOUT.OUT
    s.put f (s.get f ||| 2 ^ (i % 16))
  else s
def execPhTimeout (i : Fin 32) (s : State) : Host.Outcome State Fault Refusal := .next (s.phTimeout i.val)

/-- STATUS of the fabric post takes its first answer (R346). -/
def State.fpostAnswer (s : State) (status : Nat) : State :=
  if s.get PH_FSEND.STATUS = 1 then s.put PH_FSEND.STATUS status else s

/-- A fabric post reaches pigeonhole n (R344, R346): the code of the error frame that refuses it, or none. -/
def State.phTake (s : State) (n src : Nat) (f : Flit) : State × Option Nat :=
  if 16 ≤ n || s.get PH_CFG.FUNC n != 5 then (s, some 3)
  else if s.phDormant n then (s, some 5)
  else
    let t := s.phPut n 5 src ((List.range 8).map (fun j => leAt f.payload (16 + 8 * j) 8))
    (t.1, if t.2 then none else some 4)

/-- What PH_FSEND.STATUS records for an error frame (R346): REJECTED, DORMANT or another error. -/
def fpostStatus (code : Nat) : Nat := if code = 4 then 3 else if code = 5 then 4 else 5

/-- FABRIC_POST (R346): the message of PH_FDATA leaves for DEST, or is delivered here when DEST is the module's own address
(R251); GO is ignored while one is pending. -/
def State.fabricPost (s : State) : State :=
  if s.get PH_FSEND.STATUS = 1 then s
  else
    let words := (List.range 8).flatMap (fun j => toLe 8 (s.get PH_FDATA.WORD j))
    let f := s.mgmtFlit (s.get PH_FSEND.DEST) 0x10 (s.get PH_FSEND.PH) (List.replicate 8 0 ++ words)
    let s := ((s.put PH_FSEND.GO 0).put PH_FSEND.STATUS 1).modHub (fun h => { h with fpostBells := 2 })
    if s.get PH_FSEND.DEST = s.addr then
      let t := s.phTake (s.get PH_FSEND.PH) s.addr f
      t.1.fpostAnswer (match t.2 with | none => 2 | some code => fpostStatus code)
    else match s.forward 0 f with
    | (t, none) => t
    | (t, some _) => t.fpostAnswer 5
def execFabricPost (s : State) : Host.Outcome State Fault Refusal := .next s.fabricPost

/-- A PH_POST flit arrives (R344, R346): posted and acknowledged, or answered with an error frame whose DETAIL is the
pigeonhole number. -/
def State.phPostIn (s : State) (l : Lnk) (f : Flit) : State :=
  let n := leAt f.payload 1 1
  let src := f.hdr.src.toNat
  match s.phTake n src f with
  | (t, none) => t.send (linkRegion l) (t.mgmtFlit src 0x11 n [])
  | (t, some code) => t.refuseFlit (some l) (linkRegion l) f code n

/-- PH_POST. -/
def execPhPost (l : Lnk) (src : BitVec 16) (n : BitVec 8) (msg : List Byte) (s : State) : Host.Outcome State Fault Refusal :=
  let f := s.mgmtFlit s.addr 0x10 n.toNat (List.replicate 8 0 ++ msg)
  .next (s.started l (·.phPostIn l { f with hdr := { f.hdr with src := src } }))

/-- PH_ACK (R346). -/
def State.phAck (s : State) (n : Nat) : State := if s.get PH_FSEND.PH = n then s.fpostAnswer 2 else s
def execPhAck (l : Lnk) (n : BitVec 8) (s : State) : Host.Outcome State Fault Refusal :=
  .next (s.started l (·.phAck n.toNat))

/-- FABRIC_POST_TIMEOUT (R346): no answer within 2 bells. -/
def State.fabricPostTimeout (s : State) : State := if s.hub.fpostBells = 0 then s.fpostAnswer 6 else s
def execFabricPostTimeout (s : State) : Host.Outcome State Fault Refusal := .next s.fabricPostTimeout

/-- Bells and local ticks count the pigeonhole and fabric-post timeouts down (R344, R345). -/
def State.phBell (s : State) : State :=
  s.modHub (fun h => { h with phTouts := h.phTouts.map (fun x => (x.1, x.2 - 1)), fpostBells := h.fpostBells - 1 })

end Sys2Proof.Machine
end

