-- ==== Sys2Proof/Machine/HostSide.lean ====
section
/-!
DEFINITION. The host side beside the pigeonholes: CXL.mem (R107, R290, R338), the mailbox (R339), function-level reset
(R336), the status mirror (R350, R351), management (R352), image slots (R353-R355). Log entries 19 and 21.
-/
namespace Sys2Proof.Machine

/-- Whether every granule of the stack DAs [lo, hi) is the host's and not being changed (R107, R110, R338). -/
def State.hostOwns (s : State) (lo hi : Nat) : Bool :=
  decide (hi ≤ 0x18000000000) && (ownPoints lo hi).all (fun a =>
    let g := s.ownEntry false a
    s.get HUB_OWN.KIND g == 1 && !s.changing g)

/-- Whether any byte of the DAs [lo, lo + n) lies in a word that reads uncorrectable. -/
def State.lineBad (s : State) (lo n : Nat) : Bool :=
  (List.range n).any (fun i => s.badWords.contains (s.phys (lo + i) / 8))

/-- A request that does not wait: served, or refused and counted (R107, R338, R369). -/
def State.cxlServe (s : State) (q : Nat × Nat × Option (List Byte)) : State :=
  let lo := q.1
  let n := q.2.1
  if s.dormant || !s.hostOwns lo (lo + n) then
    let s := s.bump HUB_CXL_DENY_CNT.COUNT
    match q.2.2 with
    | none => (s.emit (.cxlData ((List.range n).map (fun i => Config.freeByte s.ticket i)) true)).nextTicket
    | some _ => s
  else match q.2.2 with
    | none => s.emit (.cxlData ((List.range n).flatMap (fun i => s.bytes (s.phys (lo + i)) 1)) (s.lineBad lo n))
    | some bs => s.store (s.phys lo) bs

/-- The hedge of owner 4 that regulates a request (R289): none for a refused one. -/
def State.cxlHedge (s : State) (q : Nat × Nat × Option (List Byte)) : Option Nat :=
  let i := 64 + q.1 / 0x6000000000
  if s.dormant || !s.hostOwns q.1 (q.1 + q.2.1) || kget s.hub.hedgeOn i 0 = 0 then none else some i

/-- Serves what the hedges let pass, in order within each class; answers what waits (R290). -/
def State.cxlPump (s : State) (blocked : List Nat) : List (Nat × Nat × Option (List Byte)) →
    State × List (Nat × Nat × Option (List Byte))
  | [] => (s, [])
  | q :: t =>
    match s.cxlHedge q with
    | none => (s.cxlServe q).cxlPump blocked t
    | some h =>
      if blocked.contains h || kget s.hub.hedge h 0 == 0 then
        let u := (s.liveAdd PROC_HEDGE_CNT.WAITS 1 4 (h % 16)).cxlPump (h :: blocked) t
        (u.1, q :: u.2)
      else
        let s := s.modHub (fun u => { u with hedge := kput u.hedge h 0 (kget u.hedge h 0 - 1) })
        ((s.liveAdd PROC_HEDGE_CNT.USED 1 4 (h % 16)).cxlServe q).cxlPump blocked t

/-- Cuts a CXL.mem access into its 256-byte lines (Table 12.1). -/
def cxlLines (dpa n : Nat) (data : Option (List Byte)) : List (Nat × Nat × Option (List Byte)) :=
  let count := if n = 0 then 0 else (dpa + n - 1) / 256 - dpa / 256 + 1
  (List.range count).map (fun k =>
    let lo := max dpa ((dpa / 256 + k) * 256)
    let hi := min (dpa + n) ((dpa / 256 + k + 1) * 256)
    (lo, hi - lo, data.map (fun bs => (bs.drop (lo - dpa)).take (hi - lo))))

/-- A CXL.mem access: behind the requests of its class that wait. -/
def State.cxlAccess (s : State) (qs : List (Nat × Nat × Option (List Byte))) : State :=
  let behind := s.hub.cxl.map (fun q => 64 + q.1 / 0x6000000000)
  let t := s.cxlPump behind qs
  t.1.modHub (fun h => { h with cxl := h.cxl ++ t.2 })

/-- Waiting requests at a bell, after the hedges are refilled. -/
def State.cxlBell (s : State) : State :=
  let t := s.cxlPump [] s.hub.cxl
  t.1.modHub (fun h => { h with cxl := t.2 })

/-- CXL_MEM_READ. -/
def execCxlMemRead (dpa : Word64) (n : Nat) (s : State) : Host.Outcome State Fault Refusal :=
  .next (s.cxlAccess (cxlLines dpa.toNat n none))

/-- CXL_MEM_WRITE. -/
def execCxlMemWrite (dpa : Word64) (bytes : List Byte) (s : State) : Host.Outcome State Fault Refusal :=
  .next (s.cxlAccess (cxlLines dpa.toNat bytes.length (some bytes)))

/-- Bytes of an answer that the spec does not give (log entry 21). -/
def openReply (op n : Nat) : List Byte := (List.range n).map (fun i => Config.replyByte op i)

/-- An answer of the primary mailbox. -/
def State.mailbox (s : State) (code : Nat) (bytes : List Byte) : Host.Outcome State Fault Refusal :=
  .next (s.emit (.mailbox code bytes))

/-- Identify Memory Device (R338, R339): 1,536 GiB, all volatile, in units of 256 MiB. -/
def execIdentifyMemoryDevice (s : State) : Host.Outcome State Fault Refusal :=
  s.mailbox 0 (openReply 1 16 ++ toLe 8 6144 ++ toLe 8 6144 ++ toLe 8 0 ++ openReply 2 27)

/-- Get Partition Info (R338, R339). -/
def execGetPartitionInfo (s : State) : Host.Outcome State Fault Refusal :=
  s.mailbox 0 (toLe 8 6144 ++ toLe 8 0 ++ toLe 8 0 ++ toLe 8 0)

/-- Get Health Info (R339): its contents are open and may differ at every call. -/
def execGetHealthInfo (s : State) : Host.Outcome State Fault Refusal :=
  (s.nextTicket).mailbox 0 ((List.range 18).map (fun i => Config.freeByte s.ticket i))

/-- Get Event Records (R339): the addresses of the records held. -/
def execGetEventRecords (s : State) : Host.Outcome State Fault Refusal :=
  s.mailbox 0 (s.hub.events.flatMap (fun a => toLe 8 a.toNat))

/-- Clear Event Records (R339). -/
def execClearEventRecords (s : State) : Host.Outcome State Fault Refusal :=
  (s.modHub (fun h => { h with events := [] })).mailbox 0 []

/-- Get Supported Logs (R339). -/
def execGetSupportedLogs (s : State) : Host.Outcome State Fault Refusal := s.mailbox 0 (openReply 3 28)

/-- Get Log (R339). -/
def execGetLog (id : Word64) (s : State) : Host.Outcome State Fault Refusal :=
  s.mailbox 0 (openReply (16 + id.toNat) 64)

/-- The poisoned words in host-owned granules (R231, R339). -/
def State.poisonList (s : State) : List Nat :=
  (s.badWords.filter (fun w => s.get HUB_OWN.KIND (w / 2 ^ 27) == 1)).map (fun w => s.daOf (w * 8))

/-- Get Poison List (R339). -/
def execGetPoisonList (s : State) : Host.Outcome State Fault Refusal :=
  s.mailbox 0 (s.poisonList.flatMap (fun a => toLe 8 a))

/-- The device's time in ns: zero until it is set (log entry 21). -/
def State.timeNow (s : State) : Nat :=
  match s.hub.stampAt with
  | some t => s.hub.timestamp.toNat + (s.now - t) * 5 / 9
  | none => 0

/-- Get Timestamp (R339). -/
def execGetTimestamp (s : State) : Host.Outcome State Fault Refusal := s.mailbox 0 (toLe 8 s.timeNow)

/-- Set Timestamp (R339). -/
def execSetTimestamp (t : Word64) (s : State) : Host.Outcome State Fault Refusal :=
  (s.modHub (fun h => { h with timestamp := t, stampAt := some s.now })).mailbox 0 []

/-- Any other mailbox command returns Unsupported (R339). -/
def execUnsupportedMailboxCommand (_ : BitVec 16) (s : State) : Host.Outcome State Fault Refusal := s.mailbox 3 []

/-- FLR (R336): function 0 the PF, p + 1 the VF of partition p. -/
def State.flr (s : State) (f : Nat) : State :=
  let s := if h : 1 ≤ f ∧ f ≤ 4 then s.beginTeardown ⟨f - 1, by omega⟩ 7 else s
  let s := (List.range 32).foldl (fun s i =>
    if s.get PH_CFG.FUNC i = f then (s.put (phFull i) 0 (i % 16)).put (phCollide i) 0 (i % 16) else s) s
  s.put HUB_MIRROR.EN 0 f
def execFlr (f : Fin 5) (s : State) : Host.Outcome State Fault Refusal := .next (s.flr f.val)

/-- The word of the register at an offset; zero where there is none. -/
def State.readWord (s : State) (off : Nat) : Nat :=
  match findReg off with
  | some (row, i, j, k) => s.word row i j k
  | none => 0

/-- The engines of the eight idle families of Table 14.6: first and one past the last. -/
def idleFamilies : List (Nat × Nat) := [(0, 16), (16, 24), (24, 28), (28, 30), (30, 31), (31, 39), (39, 45), (45, 53)]

/-- The block of a partition in a mirror page (Table 14.6). -/
def State.mirrorPart (s : State) (p : Prt) : List Byte :=
  let step := match (s.regionsOf p).head? with | some r => s.get RGN_GEN_STEP.STEP r | none => 0
  [s.readWord (0x40200 + 8 * p.val), s.readWord (0x40010 + 8 * p.val), s.readWord (0x40030 + 8 * p.val), step,
   s.readWord (0x41008 + 0x200 * p.val), s.get PROC_SERVE_CTRL.BATCH_ID p, s.readWord (0x41010 + 0x200 * p.val),
   s.readWord (0x40260 + 8 * p.val)].flatMap (fun v => toLe 8 v)

/-- The block of a region in a mirror page (Table 14.6). -/
def State.mirrorRegion (s : State) (r : Rgn) : List Byte :=
  (List.range 6).flatMap (fun ph => toLe 4 (s.get RGN_PHASE_CNT.CYCLES r ph)) ++
  idleFamilies.flatMap (fun (f : Nat × Nat) => (List.range 7).flatMap (fun w =>
    toLe 4 (min (2 ^ 32 - 1) ((List.range (f.2 - f.1)).foldl (fun a e => a + s.get RGN_IDLE.CYCLES r (f.1 + e) w) 0)))) ++
  toLe 8 (s.seqState r + 256 * s.get RGN_SEQ_ERR.CODE r)

/-- Pigeonholes of a function's page that hold a bit: all for the PF, its own for a VF. -/
def State.mirrorBits (s : State) (f : Nat) (is : List Nat) (b : Nat → Bool) : Nat :=
  is.foldl (fun v i => v + if (f == 0 || s.get PH_CFG.FUNC i == f) && b i then 2 ^ (i % 16) else 0) 0

/-- Bytes 8 to 0x7F7 and 0x800 to 0xFFF of the page of function f (Table 14.6, R351). -/
def State.mirrorBody (s : State) (f : Nat) : List Byte × List Byte :=
  let pf := f == 0
  let part (p : Rgn) : Bool := pf || p.val + 1 == f
  let region (r : Rgn) : Bool := pf || (match s.partOf r with | some p => p.val + 1 == f | none => false)
  let inb := List.range 16
  let outb := (List.range 16).map (· + 16)
  let w10 := if pf then s.get HUB_RC_STAT.STATE + 2 ^ 8 * s.get HUB_RC_STAT.FAIL_CODE + 2 ^ 16 * s.get PH_MODE.STRICT +
    2 ^ 17 * s.get HUB_IMG.SLOT + 2 ^ 32 * s.get HUB_IMG.SEQ else 0
  let w18 := s.mirrorBits f inb (fun i => s.bit PH_IN_STAT.FULL i) +
    2 ^ 16 * s.mirrorBits f outb (fun i => s.bit PH_OUT_STAT.FULL (i % 16)) +
    2 ^ 32 * s.mirrorBits f inb (fun i => s.bit PH_IN_STAT.COLLIDE i) +
    2 ^ 48 * s.mirrorBits f outb (fun i => s.bit PH_OUT_STAT.COLLIDE (i % 16))
  let w20 := s.mirrorBits f inb (fun i => bitsAt (s.get PH_TOUT.IN) i 1 == 1) +
    2 ^ 16 * s.mirrorBits f outb (fun i => bitsAt (s.get PH_TOUT.OUT) (i % 16) 1 == 1) +
    2 ^ 32 * s.mirrorBits f inb (fun i => s.bit PH_IN_STAT.REJECT i)
  let hottest := (List.range 29).foldl (fun m d => max m (s.get PWR_THERM.TEMP_C d)) 0
  let cut := (List.range 29).any (fun d => s.get PWR_THERM.CUT_PCT d != 0)
  let droops := (List.range 5).foldl (fun a k => a + s.get PWR_DROOP.EVENTS k) 0
  let w28 := if pf then s.get PWR_STAT.MEAN_W + 2 ^ 16 * s.get PWR_CAP.CAP_W + 2 ^ 32 * hottest +
    (if cut then 2 ^ 40 else 0) + 2 ^ 48 * min 65535 droops else 0
  let zeros (n : Nat) : List Byte := List.replicate n 0
  (toLe 8 (s.readWord 0x10008) ++ toLe 8 w10 ++ toLe 8 w18 ++ toLe 8 w20 ++ toLe 8 w28 ++ zeros 16 ++
   allRegions.flatMap (fun (p : Rgn) => if part p then s.mirrorPart p else zeros 64) ++
   allRegions.flatMap (fun (r : Rgn) => if region r then s.mirrorRegion r else zeros 256) ++
   allRegions.flatMap (fun (r : Rgn) =>
     if region r then toLe 8 (s.readWord (0x1020008 + 0x1000000 * r.val)) ++ toLe 8 (s.readWord (0x1020010 + 0x1000000 * r.val))
     else zeros 16) ++
   allLinks.map (fun (l : Lnk) => if region (linkRegion l) then
     BitVec.ofNat 8 (s.get LNK_STAT.STATE l + 8 * s.get LNK_STAT.WIDTH l + 64 * s.get LNK_STAT.REACH l) else 0) ++
   zeros 8 ++ zeros 0x58 ++
   (if pf then (List.range 192).map (fun b => BitVec.ofNat 8 ((List.range 8).foldl (fun v i =>
      v + if s.get HUB_OWN.KIND (8 * b + i) = 1 then 2 ^ i else 0) 0)) else zeros 192) ++ zeros (0x7F8 - 0x6C0),
   if pf then (List.range 64).flatMap (fun i =>
     toLe 8 (s.get STAT_SLOT_CNT.ELEMENTS i 0) ++ toLe 8 (s.get STAT_SLOT_CNT.ZEROS i 1) ++ toLe 4 (s.get STAT_SLOT_CNT.SAT i 2) ++
     toLe 4 (s.get STAT_SLOT_CNT.NAN i 2) ++ toLe 4 (s.get STAT_SLOT_CNT.INF i 3) ++ zeros 4) else zeros 2048)

/-- Writes the mirror pages: SEQ_START first, SEQ_END last (R350). The model writes a page at once, so none is skipped. -/
def State.mirror (s : State) (seq : Nat) : State :=
  (List.range 5).foldl (fun s f =>
    if s.bit HUB_MIRROR.EN f then
      let a := 4096 * s.get HUB_MIRROR.ADDR f
      let b := s.mirrorBody f
      (((s.emit (.hostWrite f a (toLe 8 seq))).emit (.hostWrite f (a + 8) b.1)).emit (.hostWrite f (a + 0x800) b.2)).emit
        (.hostWrite f (a + 0x7F8) (toLe 8 seq))
    else s) s

/-- MCTP_REQUEST (R352): answered over I3C while standby power is present; the contents are open (log entry 21). -/
def State.mctp (s : State) (q : MctpReq) : State :=
  if s.hub.powered then
    let kind : Byte := match q with | .control _ => 0 | .pldmBase _ => 1 | .pldmSensor _ => 1 | .spdm _ => 5
    (s.emit (.mctp (kind :: (List.range 16).map (fun i => Config.freeByte s.ticket i)))).nextTicket
  else s
def execMctpRequest (q : MctpReq) (s : State) : Host.Outcome State Fault Refusal := .next (s.mctp q)

/-- Slot k of the flash, and the state with another content in it. -/
def Hub.slot (h : Hub) (k : Nat) : Slot := if k = 0 then h.slotA else h.slotB
def Hub.setSlot (h : Hub) (k : Nat) (x : Slot) : Hub := if k = 0 then { h with slotA := x } else { h with slotB := x }

/-- The slot that is not active. -/
def State.inactive (s : State) : Nat := 1 - s.get HUB_IMG.SLOT

/-- PLDM_UPDATE (R354, R375): the inactive slot gets the image with the next SEQ and no marker. -/
def State.pldmUpdate (s : State) (x : SlotHdr) : State :=
  if !s.hub.powered || !s.hub.spiHub || s.get HUB_IMG.SEQ = 0xFFFFFFFF || 67088384 < x.length.toNat then s
  else
    let y : SlotHdr := { x with seq := BitVec.ofNat 32 (s.get HUB_IMG.SEQ + 1) }
    s.modHub (fun h => h.setSlot s.inactive { hdr := some y, marker := false })
def execPldmUpdate (x : SlotHdr) (s : State) : Host.Outcome State Fault Refusal := .next (s.pldmUpdate x)

/-- ACTIVATE_FIRMWARE (R355): the new slot is verified, its marker aside; the switch, or the end of a failed check,
comes at the next bell. Refused as busy while the baseboard holds the flash (R375) or a switch is under way. -/
def State.activate (s : State) : State :=
  if !s.hub.booted || !s.hub.spiHub || s.get HUB_IMG.STATE ≠ 0 then s
  else
    let ok := match (s.hub.slot s.inactive).hdr with | some x => s.hub.headerValid x | none => false
    (s.put HUB_IMG.STATE 2).modHub (fun h => { h with switchPending := ok, revertPending := !ok })
def execActivateFirmware (s : State) : Host.Outcome State Fault Refusal := .next s.activate

/-- The image switch at a bell: the new image runs on trial, the old one comes back, or the trial goes on (R355). -/
def State.imageBell (s : State) : State :=
  if s.hub.revertPending then
    let trial := s.get HUB_IMG.STATE == 1
    let new := if trial then s.get HUB_IMG.SLOT else s.inactive
    let s := if trial then
        (s.put HUB_IMG.SLOT (1 - new)).put HUB_IMG.SEQ (s.hub.slot (1 - new)).seq
      else s
    let s := (s.put HUB_IMG.STATE 0).put HUB_IMG.TRIAL_FAIL 1
    s.modHub (fun h => { h.setSlot new { hdr := none, marker := (h.slot new).marker } with
      revertPending := false, switchPending := false, trialBells := 0 })
  else if s.hub.switchPending then
    let new := s.inactive
    let s := ((s.put HUB_IMG.SLOT new).put HUB_IMG.SEQ (s.hub.slot new).seq).put HUB_IMG.STATE 1
    s.modHub (fun h => { h with switchPending := false, trialBells := 0 })
  else if s.get HUB_IMG.STATE = 1 then s.modHub (fun h => { h with trialBells := h.trialBells + 1 })
  else s

/-- TRIAL_COMMIT (R355): 64 bells into the trial; marker and SVN floor are written. -/
def State.trialCommit (s : State) : State :=
  if s.get HUB_IMG.STATE = 1 ∧ 64 ≤ s.hub.trialBells ∧ s.hub.revertPending = false ∧ s.hub.spiHub then
    let k := s.get HUB_IMG.SLOT
    let x := s.hub.slot k
    let svn := match x.hdr with | some y => y.svn.toNat | none => 0
    let floor := max s.hub.svnFloor svn
    let s := s.modHub (fun h => { h.setSlot k { x with marker := true } with svnFloor := floor, trialBells := 0 })
    (s.put HUB_IMG.SVN_FLOOR floor).put HUB_IMG.STATE 0
  else s
def execTrialCommit (s : State) : Host.Outcome State Fault Refusal := .next s.trialCommit

/-- TRIAL_FAIL (R355): a fault of the new image; the old one comes back at the next bell. -/
def State.trialFail (s : State) : State :=
  if s.get HUB_IMG.STATE = 1 then s.modHub (fun h => { h with revertPending := true }) else s
def execTrialFail (s : State) : Host.Outcome State Fault Refusal := .next s.trialFail

end Sys2Proof.Machine
end

