-- ==== Sys2Proof/Machine/Own.lean ====
section
/-!
DEFINITION. Ownership of the 1,536 granules of the stacks (R107-R110).
-/
namespace Sys2Proof.Machine

/-- The entries that read alike with entry g: the unit of an interleaved region, or g alone (R108). -/
def State.ownUnit (s : State) (g : Nat) : List Nat :=
  let r := g / 384
  if s.bit HUB_STK_MODE.INTLV r then (List.range 6).map (fun i => 64 * (6 * r + i) + g % 64) else [g]

/-- OWN_REQ: sets REQ of the unit (R108, R109). -/
def State.ownReq (s : State) (g : Nat) : State :=
  (s.ownUnit g).foldl (fun s e => s.put HUB_OWN.REQ 1 e) s
def execOwnReq (g : Fin 1536) (s : State) : Host.Outcome State Fault Refusal := .next (s.ownReq g.val)

/-- HOST_OK: only a write from the physical function sets it (R109). -/
def State.hostOk (s : State) (a : Actor) (g : Nat) : State :=
  if a = .pf then (s.ownUnit g).foldl (fun s e => s.put HUB_OWN.HOST_OK 1 e) s else s
def execHostOk (a : Actor) (g : Fin 1536) (s : State) : Host.Outcome State Fault Refusal := .next (s.hostOk a g.val)

/-- Whether the fill of a granule has ended with those of its unit (R108). -/
def State.unitFilled (s : State) (g : Nat) : Bool :=
  s.hub.fills.all (fun f => f.filled || !(s.ownUnit g).contains f.granule)

/-- ZERO_FILL_COMPLETE: the granule reads zero; FILLING clears once the whole unit is filled; the new owner waits for the
next bell (R108, R110). -/
def State.fillComplete (s : State) (g : Nat) : State :=
  if s.hub.fills.any (fun f => f.granule == g && !f.filled) then
    let s := s.zeroFill (g * 2 ^ 30) ((g + 1) * 2 ^ 30)
    let s := s.modHub (fun h => { h with
      fills := h.fills.map (fun f => if f.granule = g then { f with filled := true } else f) })
    if s.unitFilled g then (s.ownUnit g).foldl (fun s e => s.put HUB_OWN.FILLING 0 e) s else s
  else s
def execZeroFillComplete (g : Fin 1536) (s : State) : Host.Outcome State Fault Refusal := .next (s.fillComplete g.val)

/-- Whether an uncommitted command of a tag has an extent in a granule (R109). -/
def State.usesGranule (s : State) (tag g : Nat) : Bool :=
  let x : Extent := { lo := g * 2 ^ 30, hi := (g + 1) * 2 ^ 30 }
  allRegions.any (fun r => s.tagOf r == tag && s.regions[r].cmds.any (fun e =>
    e.consumed && (e.ins ++ e.outs).any (fun y => y.overlaps x)))

/-- Whether a requested change takes effect at this bell (R109). -/
def State.ownReady (s : State) (g : Nat) : Bool :=
  let kind := s.get HUB_OWN.KIND g
  s.bit HUB_OWN.REQ g && !s.changing g &&
  (s.bit HUB_OWN.HOST_OK g || !(kind == 1 || s.get HUB_OWN.NEXT_KIND g == 1)) &&
  !(kind == 3 && s.usesGranule (s.get HUB_OWN.TAG g) g)

/-- Gives a granule to its new owner. -/
def State.setOwner (s : State) (g kind tag : Nat) : State :=
  (s.put HUB_OWN.KIND kind g).put HUB_OWN.TAG (if kind = 3 then tag else 0) g

/-- A change takes effect (R109, R110): with a fill first when the new owner differs, or when a release asks for
ERASE; a release to nobody without ERASE fills nothing. -/
def State.applyOwn (s : State) (g : Nat) : State :=
  let kind := s.get HUB_OWN.NEXT_KIND g
  let tag := if kind = 3 then s.get HUB_OWN.NEXT_TAG g else 0
  let differs := kind != s.get HUB_OWN.KIND g || tag != s.get HUB_OWN.TAG g
  let fill := if kind = 0 then s.bit HUB_OWN.ERASE g else differs
  let s := (s.put HUB_OWN.REQ 0 g).put HUB_OWN.HOST_OK 0 g
  if fill then
    (s.put HUB_OWN.FILLING 1 g).modHub (fun h =>
      { h with fills := h.fills ++ [{ granule := g, kind := kind, tag := tag, filled := false }] })
  else s.setOwner g kind tag

/-- Granules with REQ set. -/
def State.reqGranules (s : State) : List Nat :=
  s.regs.filterMap (fun x => if keyHome x.1 = HUB_OWN.REQ.home then some (keyI x.1) else none)

/-- CXL.mem requests for a granule that its hedge still holds complete before the granule leaves the host (R109). -/
def State.completeCxl (s : State) (g : Nat) : State :=
  let hit (q : Nat × Nat × Option (List Byte)) : Bool := (s.ownUnit g).contains (s.ownEntry false q.1)
  ((s.hub.cxl.filter hit).foldl (fun s q => s.cxlServe q) s).modHub (fun h => { h with cxl := h.cxl.filter (fun q => !hit q) })

/-- Ownership at a bell (R108-R110): requests whose conditions hold take effect, all entries of a unit together; granules
that are filled get their new owner, a unit together, and are under R109 again from the next bell on. -/
def State.ownBell (s : State) : State :=
  let done := s.hub.fills.filter (fun f => s.unitFilled f.granule)
  let s := s.reqGranules.foldl (fun s g =>
    if (s.ownUnit g).all (fun e => s.ownReady e) then
      let s := if s.get HUB_OWN.KIND g = 1 then s.completeCxl g else s
      (s.ownUnit g).foldl (fun s e => s.applyOwn e) s
    else s) s
  let s := done.foldl (fun s f => s.setOwner f.granule f.kind f.tag) s
  s.modHub (fun h => { h with fills := h.fills.filter (fun f => !done.contains f) })

end Sys2Proof.Machine
end

