-- ==== Sys2Proof/Machine/Requests.lean ====
section
/-!
DEFINITION. Requests to Icholt through the pigeonholes (R347) and the job package (R348, R349). Log entry 20 says how a
package reaches the model and what the chapter leaves open.
-/
namespace Sys2Proof.Machine

/-- STATUS of a reply. -/
def rpOk : Nat := 0
def rpRefused : Nat := 1
def rpBusy : Nat := 2
def rpBad : Nat := 3
def rpNotPermitted : Nat := 4

/-- The message of an inbound pigeonhole. -/
def State.message (s : State) (n : Nat) : List Byte := (List.range 8).flatMap (fun j => toLe 8 (s.get PH_IN.WORD n j))

/-- The reply in the outbound pigeonhole of the same number: OP and SEQ echoed, STATUS, body from byte 8 (R347). -/
def State.reply (s : State) (n op seq status : Nat) (body : List Byte) : State :=
  let m := padTo 64 (toLe 2 op ++ toLe 2 seq ++ toLe 2 status ++ [0, 0] ++ body)
  if s.phDormant (16 + n) then s.phDiscard (16 + n)
  else (s.phPut (16 + n) 6 0 ((List.range 8).map (fun j => leAt m (8 * j) 8))).1

/-- Icholt takes a request with an OP out of an inbound pigeonhole and answers it; a request that a VF may not make is
not permitted (Table 14.5, R347). -/
def State.request (s : State) (n op : Nat) (pfOnly : Bool) (f : State → List Byte → State × Nat × List Byte) : State :=
  let m := s.message n
  if !s.hub.booted || !s.bit PH_IN_STAT.FULL n || leAt m 0 2 != op then s
  else
    let src := s.get PH_IN_STAT.SRC n
    let s := s.put PH_IN_STAT.FULL 0 n
    let t := if 4 < src || (pfOnly && src != 0) then (s, rpNotPermitted, []) else f s m
    t.1.reply n op (leAt m 2 2) t.2.1 t.2.2

/-- A request about the partition in byte `at`: a VF names its own, the PF one of four. -/
def State.partRequest (s : State) (n op start : Nat) (f : State → List Byte → Prt → State × Nat × List Byte) : State :=
  let src := s.get PH_IN_STAT.SRC n
  s.request n op false (fun s m =>
    let v := leAt m start 1
    if src ≠ 0 ∧ v ≠ src - 1 then (s, rpNotPermitted, [])
    else if h : v < 4 then f s m ⟨v, h⟩ else (s, rpBad, []))

/-- PREEMPT (R293). -/
def State.reqPreempt (s : State) (n : Nat) : State :=
  s.partRequest n 2 8 (fun s m p =>
    if 1 < leAt m 9 1 then (s, rpBad, [])
    else
      let s := (s.put PROC_PREEMPT.MODE (leAt m 9 1) p).put PROC_PREEMPT.AT (leAt m 10 6) p
      let t := s.preemptReq p
      let taken := t.bit PROC_PREEMPT.REQ p || t.partState p == psSaving && s.partState p != psSaving
      (t, if taken then rpOk else rpRefused, [BitVec.ofNat 8 p.val, BitVec.ofNat 8 (t.get PROC_PART_CFG.SAVED p)]))
def execPreempt (n : Fin 16) (s : State) : Host.Outcome State Fault Refusal := .next (s.reqPreempt n.val)

/-- Whether REGIONS of a partition may be written (R283). -/
def State.regionsFree (s : State) (p : Prt) (mask : Nat) : Bool :=
  s.partState p == psEmpty && allRegions.all (fun (q : Rgn) =>
    q == p || (s.get PROC_PART_CFG.REGIONS q &&& mask) == 0)

/-- A write of REGIONS (R283). -/
def State.writeRegions (s : State) (p : Prt) (mask : Nat) : State :=
  if s.regionsFree p mask then s.put PROC_PART_CFG.REGIONS mask p else s

/-- A write of HUB_JOB_SEED (R87, R288). -/
def State.writeSeed (s : State) (p : Prt) (v : Nat) : State :=
  if s.partState p == psEmpty && !s.bit PROC_PART_CFG.DBG_LOCK p then s.put HUB_JOB_SEED.SEED v p else s

/-- The PROC_PART_MAP field of a partition. -/
def mapField (p : Prt) : Fld :=
  if p = 0 then PROC_PART_MAP.BP0 else if p = 1 then PROC_PART_MAP.BP1 else if p = 2 then PROC_PART_MAP.BP2 else PROC_PART_MAP.BP3

/-- RESUME (R297). -/
def State.reqResume (s : State) (n : Nat) : State :=
  s.partRequest n 3 8 (fun s m p =>
    let s := (s.writeRegions p (leAt m 9 1 % 16)).writeSeed p (leAt m 16 8)
    let s := s.put PROC_PREEMPT.AT (leAt m 10 6) p
    let was := s.partState p
    let t := s.resume p
    (t, if was == psEmpty && t.partState p == psRestoring then rpOk else rpRefused, [BitVec.ofNat 8 p.val]))
def execResume (n : Fin 16) (s : State) : Host.Outcome State Fault Refusal := .next (s.reqResume n.val)

/-- Icholt writes the request fields of a granule and sets REQ; entries of a unit read alike (R108, R109). -/
def State.askOwn (s : State) (g kind tag : Nat) (erase : Bool) : State :=
  let s := (s.ownUnit g).foldl (fun s e =>
    ((s.put HUB_OWN.NEXT_KIND kind e).put HUB_OWN.NEXT_TAG tag e).put HUB_OWN.ERASE (if erase then 1 else 0) e) s
  s.ownReq g

/-- Whether Icholt assigns a granule no more: a row of its unit found no spare (R108, R232). -/
def State.isWorn (s : State) (g : Nat) : Bool := (s.ownUnit g).any (fun e => s.hub.worn.contains e)

/-- The granules of a tag. -/
def State.granulesOf (s : State) (tag : Nat) : List Nat :=
  (List.range 1536).filter (fun g => s.get HUB_OWN.KIND g == 3 && s.get HUB_OWN.TAG g == tag)

/-- TEARDOWN (R299, R347): CAUSE 7; with ERASE every granule of the tag is released. -/
def State.reqTeardown (s : State) (n : Nat) : State :=
  s.partRequest n 4 8 (fun s m p =>
    if s.partState p == psEmpty then (s, rpRefused, [BitVec.ofNat 8 p.val])
    else
      let tag := s.get PROC_PART_CFG.JOB_TAG p
      let t := s.procTeardown p
      let t := if leAt m 9 1 % 2 = 1 then (s.granulesOf tag).foldl (fun t g => t.askOwn g 0 0 true) t else t
      (t, rpOk, [BitVec.ofNat 8 p.val, 0] ++ toLe 6 (t.get PROC_TEAR_STAT.PERIOD p)))
def execTeardown (n : Fin 16) (s : State) : Host.Outcome State Fault Refusal := .next (s.reqTeardown n.val)

/-- LEND and RECLAIM: a run of granules whose present owners allow the move; REFUSED when Icholt assigns one of them no
more (R232; the status is a DESIGN CHOICE, log entry 20); BUSY while a change of one is pending. -/
def State.moveGranules (s : State) (m : List Byte) (kind tag : Nat) (erase : Bool) (may : State → Nat → Bool) :
    State × Nat × List Byte :=
  let first := leAt m 8 2
  let count := leAt m 10 2
  let gs := (List.range count).map (first + ·)
  let body (b : Byte) : List Byte := toLe 2 first ++ toLe 2 count ++ [b]
  if count = 0 ∨ 1536 < first + count ∨ !gs.all (fun g => may s g) then (s, rpBad, body 0)
  else if kind ≠ 0 ∧ gs.any s.isWorn then (s, rpRefused, body 0)
  else if gs.any (fun g => s.changing g || s.bit HUB_OWN.REQ g) then (s, rpBusy, body 0)
  else (gs.foldl (fun s g => s.askOwn g kind tag erase) s, rpOk, body 1)

/-- LEND (R109, R347). -/
def State.reqLend (s : State) (n : Nat) : State :=
  s.request n 5 true (fun s m =>
    s.moveGranules m 1 0 false (fun s g =>
      let k := s.get HUB_OWN.KIND g
      k == 0 || k == 2 || (leAt m 12 1 % 2 == 1 && k == 3 && s.get HUB_OWN.TAG g == leAt m 14 2)))
def execLend (n : Fin 16) (s : State) : Host.Outcome State Fault Refusal := .next (s.reqLend n.val)

/-- RECLAIM (R109, R347). -/
def State.reqReclaim (s : State) (n : Nat) : State :=
  s.request n 6 true (fun s m =>
    let kind := leAt m 12 1
    if kind ≠ 0 ∧ kind ≠ 3 then (s, rpBad, toLe 2 (leAt m 8 2) ++ toLe 2 (leAt m 10 2) ++ [0])
    else s.moveGranules m kind (if kind = 3 then leAt m 14 2 else 0) (leAt m 13 1 % 2 == 1)
      (fun s g => s.get HUB_OWN.KIND g == 1))
def execReclaim (n : Fin 16) (s : State) : Host.Outcome State Fault Refusal := .next (s.reqReclaim n.val)

/-- SET_K (R319, R347). -/
def State.reqSetK (s : State) (n : Nat) : State :=
  s.partRequest n 7 8 (fun s m p =>
    let k := leAt m 9 1
    if k = 0 then (s, rpBad, [])
    else
      let s := s.put HUB_SEC_CTRL.K k p
      (s, rpOk, [BitVec.ofNat 8 p.val, BitVec.ofNat 8 k, BitVec.ofNat 8 (s.get HUB_SEC_CTRL.INTERVAL p)]))
def execSetK (n : Fin 16) (s : State) : Host.Outcome State Fault Refusal := .next (s.reqSetK n.val)

/-- DORMANT (R368): BUSY while a partition is not empty or a granule is host-owned, or the module is not active. -/
def State.reqDormant (s : State) (n : Nat) : State :=
  s.request n 8 true (fun s _ =>
    if allRegions.any (fun p => s.partState p != psEmpty) || s.regs.any (fun x => keyHome x.1 == HUB_OWN.KIND.home && x.2 == 1) ||
        s.get HUB_PWR_STATE.STATE != 1 then (s, rpBusy, [])
    else (s.put HUB_PWR_STATE.STATE 2, rpOk, []))
def execDormant (n : Fin 16) (s : State) : Host.Outcome State Fault Refusal := .next (s.reqDormant n.val)

/-- CRC-32C of a list of bytes. -/
def crc32c (bs : List Byte) : Nat :=
  (bs.foldl (fun c b => crcBitsR 0x82F63B78 8 (c ^^^ b.toNat)) 0xFFFFFFFF) ^^^ 0xFFFFFFFF

/-- Whether the header of a package checks (R349): MAGIC, VERSION, LENGTH, CRC, and the directory as Table 14.5b has it. -/
def packageOk (pkg : List Byte) (len : Nat) : Bool :=
  leAt pkg 0 4 == 0x4A504B31 && leAt pkg 4 2 == 1 && leAt pkg 8 4 == len && pkg.length == len &&
  leAt pkg 12 4 == crc32c (pkg.take 12 ++ [0, 0, 0, 0] ++ pkg.drop 16) && decide (1 ≤ leAt pkg 6 2) && decide (leAt pkg 6 2 ≤ 15)

/-- A build: its region set, first section and number of sections (Table 14.5c). -/
def builds (pkg : List Byte) : List (Nat × Nat × Nat) :=
  (List.range (leAt pkg 6 2)).map (fun k =>
    (leAt pkg (256 + 32 * k) 1 % 16, leAt pkg (258 + 32 * k) 2, leAt pkg (260 + 32 * k) 2))

/-- Regions of a mask, ascending. -/
def regionsIn (mask : Nat) : List Rgn := allRegions.filter (fun (r : Rgn) => bitsAt mask r.val 1 == 1)

/-- Whether a region set is free: in service, and in no partition with a job or a saved context (R292). -/
def State.setFree (s : State) (mask : Nat) : Bool :=
  mask != 0 && (regionsIn mask).all (fun (r : Rgn) => !s.regions[r].isolated && !s.regionLoaded r)

/-- Granules of a tag in the stacks of a region set (R292). -/
def State.affinity (s : State) (mask tag : Nat) : Nat :=
  ((regionsIn mask).map (fun (r : Rgn) => ((List.range 384).filter (fun j =>
    s.get HUB_OWN.KIND (384 * r.val + j) == 3 && s.get HUB_OWN.TAG (384 * r.val + j) == tag)).length)).foldl (· + ·) 0

/-- Lowest region of a mask. -/
def lowestRegion (mask : Nat) : Nat := match (regionsIn mask).head? with | some r => r.val | none => 4

/-- The build that a request places (R292, R349). -/
def State.chooseBuild (s : State) (bs : List (Nat × Nat × Nat)) (mask tag : Nat) : Option (Nat × Nat × Nat) :=
  let free := bs.filter (fun b => s.setFree b.1)
  if mask ≠ 0 then free.find? (fun b => b.1 == mask)
  else free.foldl (fun (best : Option (Nat × Nat × Nat)) (b : Nat × Nat × Nat) =>
    match best with
    | none => some b
    | some c =>
      let x := s.affinity b.1 tag
      let y := s.affinity c.1 tag
      if y < x ∨ (x = y ∧ lowestRegion b.1 < lowestRegion c.1) then some b else some c) none

/-- A section entry (Table 14.5d): kind, region position, offset, length, target. -/
def sectionAt (pkg : List Byte) (k : Nat) : Nat × Nat × Nat × Nat × Nat :=
  let o := leAt pkg 28 4 + 32 * k
  (leAt pkg o 1, leAt pkg (o + 1) 1, leAt pkg (o + 4) 4, leAt pkg (o + 8) 4, leAt pkg (o + 12) 8)

/-- Data of a section. -/
def sectionData (pkg : List Byte) (x : Nat × Nat × Nat × Nat × Nat) : List Byte := (pkg.drop x.2.2.1).take x.2.2.2.1

/-- Whether a section passes its own checks (R348). -/
def sectionOk (pkg : List Byte) (nregions k : Nat) : Bool :=
  let x := sectionAt pkg k
  let d := sectionData pkg x
  let len := x.2.2.2.1
  let target := x.2.2.2.2
  let recs := chunk 16 d
  decide (k < leAt pkg 26 2) && decide (x.2.1 < nregions) && decide (x.2.2.1 + len ≤ pkg.length) &&
  (match x.1 with
   | 1 => target % 256 == 0 && decide (target + len ≤ 0x10000000) && decide (256 ≤ len)
   | 2 => len % 64 == 0 && decide (target + len / 64 ≤ 4096)
   | 3 => decide (target + len ≤ 0x10000000)
   | 4 => len == 1028
   | 5 => len % 16 == 0 && recs.all (fun c => decide (leAt c 0 1 < 6) && decide (leAt c 1 1 < 64))
   | 6 => len % 2 == 0 && (chunk 2 d).all (fun c => decide (leAt c 0 2 < 1536))
   | 7 => len % 16 == 0 && recs.all (fun c =>
       (leAt c 0 1 == 0 && decide (leAt c 1 1 < 16)) ||
       (leAt c 0 1 == 1 && decide (leAt c 1 1 < 6) && decide (leAt c 2 1 < 64)))
   | _ => false)

/-- Puts the bits of a register image into fields. -/
def State.putBits (s : State) (fs : List Fld) (v i j k : Nat) : State :=
  fs.foldl (fun s f => s.put f (bitsAt v f.lsb f.width) i j k) s

/-- Writes a section into its region (R348, R349); claims are made apart. -/
def State.writeSection (s : State) (pkg : List Byte) (regs : List Rgn) (k : Nat) : State :=
  let x := sectionAt pkg k
  let d := sectionData pkg x
  let r : Rgn := regs.getD x.2.1 0
  let target := x.2.2.2.2
  match x.1 with
  | 1 => (s.store (sramBase r + target) d).put RGN_SEQ_TT.TT_OFFSET (target / 256) r
  | 2 => (List.range (d.length / 8)).foldl (fun s w => s.put RGN_DESC.WORD (leAt d (8 * w) 8) r (target + w / 8) (w % 8)) s
  | 3 => s.store (sramBase r + target) d
  | 4 =>
    let s := s.putBits [SU_ROPE_CTRL.STYLE, SU_ROPE_CTRL.ROT_PAIRS] (leAt d 0 4) r 0 0
    (List.range 128).foldl (fun s t => s.put SU_ROPE_FREQ.FREQ (leAt d (4 + 8 * t) 8) r t) s
  | 5 => (chunk 16 d).foldl (fun s c =>
      let stack := 6 * r.val + leAt c 0 1
      (s.putBits [SE_BUF0.BASE, SE_BUF0.GRANULES, SE_BUF0.DELTA] (leAt c 8 8) stack (leAt c 1 1) 0).put
        SE_BUF1.VALID 1 stack (leAt c 1 1)) s
  | 7 => (chunk 16 d).foldl (fun s c =>
      if leAt c 0 1 = 0 then
        s.putBits [RGN_SEC_TGT.ADDR, RGN_SEC_TGT.STORE, RGN_SEC_TGT.PGRP, RGN_SEC_TGT.OVERRIDE] (leAt c 8 8) r (leAt c 1 1) 0
      else
        s.putBits [SE_SEC0.SEC_BASE, SE_SEC0.PLACE, SE_SEC0.CLASS] (leAt c 8 8) (6 * r.val + leAt c 1 1) (leAt c 2 1) 0) s
  | _ => s

/-- Granules that the sections of a build claim. -/
def claimsOf (pkg : List Byte) (ks : List Nat) : List Nat :=
  ks.flatMap (fun k =>
    let x := sectionAt pkg k
    if x.1 = 6 then (chunk 2 (sectionData pkg x)).map (fun c => leAt c 0 2) else [])

/-- The tag of a job: as asked, or one that Icholt assigns and no partition uses (log entry 20). -/
def State.assignTag (s : State) (asked : Nat) : Nat :=
  if asked ≠ 0 then asked
  else
    let base := (Config.freeWord s.ticket).toNat
    let used (t : Nat) : Bool := allRegions.any (fun p =>
      (s.partState p != psEmpty && s.get PROC_PART_CFG.JOB_TAG p == t) ||
      (s.bit PROC_PART_CFG.SAVED p && s.get PROC_PART_CFG.SAVED_TAG p == t))
    (((List.range 9).map (fun i => (base + i) % 65535 + 1)).find? (fun t => !used t)).getD 1

/-- Steps 4 and 5 of R349: configuration, sections, LOAD, DBG_LOCK, GO. -/
def State.placeJob (s : State) (m pkg : List Byte) (p : Prt) (plan : List (BitVec 16)) (mask tag : Nat) (ks : List Nat) :
    State :=
  let s := allRegions.foldl (fun s (q : Rgn) =>
    if q = p then s else s.put PROC_PART_CFG.REGIONS (s.get PROC_PART_CFG.REGIONS q &&& (15 - mask)) q) s
  let s := (s.put PROC_PART_CFG.REGIONS mask p).put PROC_PART_CFG.JOB_TAG tag p
  let s := s.put PROC_PART_CFG.MULTI (if plan.isEmpty then 0 else 1) p
  let s := s.modPart p (fun x => { x with members := plan.map (·.toNat) })
  let s := (s.put HUB_JOB_SEED.SEED (leAt m 24 8) p).put (mapField p) (leAt m 32 1) 0
  let s := ks.foldl (fun s k => s.writeSection pkg (regionsIn mask) k) s
  let s := s.load p
  let flags := leAt m 33 1
  let s := if flags % 2 = 1 then s.dbgLock p else s
  if flags / 2 % 2 = 1 then (regionsIn mask).foldl (fun s r => s.go r) s else s

/-- LOAD_JOB (R347-R349): `pkg` is what the host window returned for the package, `plan` the other modules that the
job's plan names. Claims come before the checks of the other sections; a section that fails them releases the claims. -/
def State.reqLoadJob (s : State) (n : Nat) (pkg : List Byte) (plan : List (BitVec 16)) : State :=
  s.partRequest n 1 20 (fun s m p =>
    let body (tag mask idx : Nat) : List Byte :=
      toLe 2 tag ++ [BitVec.ofNat 8 p.val, BitVec.ofNat 8 mask] ++ toLe 4 idx
    let none' : Nat := 0xFFFFFFFF
    let da := leAt m 8 8
    let len := leAt m 16 4
    if da % 4096 ≠ 0 ∨ da < 0x400000000000 ∨ 0x800000000000 < da + len ∨ 63 < leAt m 32 1 ∨ !packageOk pkg len then
      (s, rpBad, body (s.get PROC_PART_CFG.JOB_TAG p) 0 none')
    else if s.partState p != psEmpty then (s, rpBusy, body (s.get PROC_PART_CFG.JOB_TAG p) 0 none')
    else
      let tag := s.assignTag (leAt m 22 2)
      match s.chooseBuild (builds pkg) (leAt m 21 1 % 16) tag with
      | none => (s.nextTicket, rpRefused, body (s.get PROC_PART_CFG.JOB_TAG p) 0 none')
      | some b =>
        let ks := (List.range b.2.2).map (b.2.1 + ·)
        let good (k : Nat) : Bool := sectionOk pkg (regionsIn b.1).length k
        let gs := claimsOf pkg (ks.filter good)
        let own (g : Nat) : Nat := s.get HUB_OWN.KIND g
        if gs.any (fun g => s.changing g || (own g == 0 && s.isWorn g) || !(own g == 0 || (own g == 3 && s.get HUB_OWN.TAG g == tag))) then
          (s.nextTicket, rpRefused, body (s.get PROC_PART_CFG.JOB_TAG p) 0 none')
        else
          match ks.find? (fun k => !good k) with
          | some k =>
            (s.nextTicket, if Config.freeBit s.ticket then rpRefused else rpBad, body (s.get PROC_PART_CFG.JOB_TAG p) 0 k)
          | none =>
            let t := (gs.filter (fun g => own g == 0)).foldl (fun s g => s.askOwn g 3 tag false) s.nextTicket
            (t.placeJob m pkg p plan b.1 tag ks, rpOk, body tag b.1 none'))
def execLoadJob (n : Fin 16) (pkg : List Byte) (plan : List (BitVec 16)) (s : State) : Host.Outcome State Fault Refusal :=
  .next (s.reqLoadJob n.val pkg plan)

end Sys2Proof.Machine
end

