-- ==== Sys2Proof/Machine/RegAccess.lean ====
section
/-!
DEFINITION. Accesses to the control space: what an access finds (R6, R7), who reaches what (R287, R288, R340, R344,
R369), and the conditions that the chapters put on the writes of single registers.
-/
namespace Sys2Proof.Machine

/-- Whether a virtual function reaches a register (R287, R340). Its partition empty, only its pigeonholes. -/
def State.vfReach (s : State) (p : Prt) (base i : Nat) : Bool :=
  let mine (r : Nat) : Bool := bitsAt (s.get PROC_PART_CFG.REGIONS p) r 1 == 1
  let ph := s.get PH_CFG.FUNC (if base = 0x30400 ∨ base = 0x30880 then 16 + i else i) == p.val + 1
  if base = 0x30000 ∨ base = 0x30400 ∨ base = 0x30800 ∨ base = 0x30880 ∨ base = 0x30900 then ph
  else if s.partState p == psEmpty then false
  else if 0x1000000 ≤ base ∧ base < 0x2000000 then mine i
  else if 0x8000000 ≤ base ∧ base < 0xC000000 then mine (i / 6)
  else if 0xC000000 ≤ base then mine (i / 8)
  else if base = 0x40100 then mine i
  else if 0x40010 ≤ base ∧ base < 0x42000 then i == p.val
  else base == 0x500 && i == p.val + 1

/-- The number of the pigeonhole that a register belongs to, its words or its status. -/
def pigeonOf (base i : Nat) : Option Nat :=
  if base = 0x30000 ∨ base = 0x30800 then some i else if base = 0x30400 ∨ base = 0x30880 then some (16 + i) else none

/-- Whether an actor reaches a register. -/
def State.reaches (s : State) (a : Actor) (base i : Nat) : Bool :=
  match a with
  | .icholt => true
  | .jtag => true
  | .pf => match pigeonOf base i with | some n => s.get PH_CFG.FUNC n == 0 | none => true
  | .vf p => s.vfReach p base i

/-- Whether the block of an offset is powered down (R369). -/
def State.poweredDown (s : State) (off : Nat) : Bool := s.dormant && decide (0x1000000 ≤ off)

/-- Whether a region's partition is under debug lock (R288). -/
def State.regionLocked (s : State) (i : Nat) : Bool :=
  if h : i < 4 then (match s.partOf ⟨i, h⟩ with | some p => s.bit PROC_PART_CFG.DBG_LOCK p | none => false) else false

/-- Whether the debug lock hides a register from a reader (R288). -/
def State.lockHides (s : State) (a : Actor) (base i : Nat) : Bool :=
  (base == 0x1400000 || base == 0x1000100 || base == 0x1030000) &&
  (match a with | .vf _ => false | _ => true) && s.regionLocked i

/-- Clears the RC fields of a register that was read (R7). -/
def State.clearRc (s : State) (row : RegRow) (i j k : Nat) : State :=
  row.fields.foldl (fun s f => if f.acc = .rc then s.put f 0 i j k else s) s

/-- What a read finds. -/
inductive Found where
  | abort
  | bad
  | reg (row : RegRow) (i j k : Nat)
deriving DecidableEq, Repr

/-- The register that an access of an actor finds: of its own width and aligned (R6), within reach, its domain powered
(R344, R369). DESIGN CHOICE (log entry 42): an entry that a chapter reserves inside the array of a register and that
reads zero (PROC_HEDGE and PROC_HEDGE_CNT for classes 12-15 and for owner 4 from class 4 up, RGN_IDLE with w = 7) counts
as an entry of that register, so an access to it draws no count in HUB_BAD_ACCESS_CNT. -/
def State.find (s : State) (a : Actor) (off width : Nat) : Found :=
  match findReg off with
    | none => .bad
    | some (row, i, j, k) =>
      if s.poweredDown off then .abort
      else if row.bytes * 8 ≠ width ∨ !s.reaches a row.base i then .bad
      else match pigeonOf row.base i with
        | some n => if s.phDormant n then .abort else .reg row i j k
        | none => .reg row i j k

/-- A read of the control space (R6, R7, R287, R288, R344, R369). -/
def State.readReg (s : State) (a : Actor) (off width : Nat) : State :=
  match s.find a off width with
  | .abort => s.emit (.completerAbort a)
  | .bad => (s.badAccess).emit (.value a 0)
  | .reg row i j k =>
    if s.lockHides a row.base i then (s.badAccess).emit (.value a 0)
    else (s.clearRc row i j k).emit (.value a (BitVec.ofNat 64 (s.word row i j k)))
def execReadClear (a : Actor) (offset : Word32) (width : BitVec 8) (s : State) : Host.Outcome State Fault Refusal :=
  .next (s.readReg a offset.toNat width.toNat)

/-- A written word under the access codes of Table 0.2; `skip` names fields whose own rule ignores the write. -/
def State.writeFields (s : State) (fs : List Fld) (v i j k : Nat) (skip : Fld → Bool) : State :=
  fs.foldl (fun s f =>
    let b := bitsAt v f.lsb f.width
    if skip f then s
    else match f.acc with
      | .rw => s.put f b i j k
      | .w1c => s.put f (s.get f i j k &&& (f.max - b)) i j k
      | .w1s => s.put f (s.get f i j k ||| b) i j k
      | _ => s) s

/-- Whether a region of an index has a job loaded. -/
def State.loadedAt (s : State) (i : Nat) : Bool := if h : i < 4 then s.regionLoaded ⟨i, h⟩ else false

/-- Whether HUB_BELL_PERIOD takes a value (R52). -/
def State.periodOk (s : State) (v : Nat) : Bool :=
  let p := HUB_BELL_PERIOD.PERIOD_US.ofWord v
  decide (16 ≤ p) && decide (p ≤ 4096) && decide (2 * s.get HUB_BELL_TIMING.LEAD_NS ≤ p * 1000)

/-- A write of HUB_BELL_PERIOD (R52): refused values count; an accepted one goes to the master's Icholt. -/
def State.writePeriod (s : State) (v : Nat) : State :=
  let p := HUB_BELL_PERIOD.PERIOD_US.ofWord v
  if !s.periodOk v then s.bump HUB_BELL_ERR.REFUSED
  else
    let s := s.put HUB_BELL_PERIOD.PERIOD_US p
    if s.complete && !s.bit HUB_BELL_STATUS.IS_MASTER then
      s.emit (.icholt s.hub.masterAddr (.periodChange (BitVec.ofNat 16 s.addr) (BitVec.ofNat 32 p)))
    else s

/-- HUB_BELL_PERIOD_WRITE: a virtual function does not reach the register (R287). -/
def State.periodWrite (s : State) (a : Actor) (v : Nat) : State :=
  match a with | .vf _ => s.badAccess | _ => s.writePeriod v
def execHubBellPeriodWrite (a : Actor) (v : Word32) (s : State) : Host.Outcome State Fault Refusal :=
  .next (s.periodWrite a v.toNat)

/-- A write of HUB_OWN (R108, R109): all entries of a unit read alike. -/
def State.writeOwn (s : State) (a : Actor) (v g : Nat) : State :=
  let s := (s.ownUnit g).foldl (fun s e =>
    s.writeFields [HUB_OWN.NEXT_KIND, HUB_OWN.NEXT_TAG, HUB_OWN.ERASE] v e 0 0 (fun _ => false)) s
  let s := if HUB_OWN.REQ.ofWord v = 1 then s.ownReq g else s
  if HUB_OWN.HOST_OK.ofWord v = 1 then s.hostOk a g else s

/-- A write of HUB_RESET (R371). -/
def State.writeReset (s : State) (a : Actor) (v : Nat) : State :=
  let m := HUB_RESET.MODULE.ofWord v == 1
  let g := HUB_RESET.REGION.ofWord v == 1
  if HUB_RESET.KEY.ofWord v ≠ 0x5A ∨ (m && a != .pf) ∨ (g && a != .icholt) then s.badAccess
  else if m then s.moduleReset 2
  else if g then s.regionReset ⟨HUB_RESET.REGION_SEL.ofWord v % 4, Nat.mod_lt _ (by omega)⟩
  else s

/-- A write of PROC_PART_CFG (R283, R285, R288, R299): fields first, then what its set bits ask for. -/
def State.writePartCfg (s : State) (a : Actor) (v : Nat) (p : Prt) : State :=
  let s := if a = .icholt then s.writeRegions p (PROC_PART_CFG.REGIONS.ofWord v) else s
  let s := if s.partState p == psEmpty then
      (s.put PROC_PART_CFG.JOB_TAG (PROC_PART_CFG.JOB_TAG.ofWord v) p).put PROC_PART_CFG.MULTI (PROC_PART_CFG.MULTI.ofWord v) p
    else s
  let s := if PROC_PART_CFG.LOAD.ofWord v = 1 then s.load p else s
  let s := if PROC_PART_CFG.DBG_LOCK.ofWord v = 1 then s.dbgLock p else s
  if PROC_PART_CFG.TEARDOWN.ofWord v = 1 then s.procTeardown p else s

/-- A write of PROC_PREEMPT (R293, R297). -/
def State.writePreempt (s : State) (v : Nat) (p : Prt) : State :=
  let s := s.writeFields [PROC_PREEMPT.AT, PROC_PREEMPT.MODE, PROC_PREEMPT.REFUSED] v p.val 0 0 (fun _ => false)
  let s := if PROC_PREEMPT.REQ.ofWord v = 1 then s.preemptReq p else s
  if PROC_PREEMPT.RESUME.ofWord v = 1 then s.resume p else s

/-- A write of PROC_HEDGE (R290): reserved entries ignore it; another applies at the next bell. -/
def State.writeHedge (s : State) (v o c : Nat) : State :=
  if 12 ≤ c ∨ (o = 4 ∧ 4 ≤ c) then s
  else
    let s := (s.put PROC_HEDGE.RATE (PROC_HEDGE.RATE.ofWord v) o c).put PROC_HEDGE.EN (PROC_HEDGE.EN.ofWord v) o c
    s.modHub (fun h => { h with hedgeNew := addOnce h.hedgeNew (16 * o + c) })

/-- A write of PROC_SERVE_CTRL (R304). -/
def State.writeServe (s : State) (v : Nat) (p : Prt) : State :=
  let active := s.bit PROC_SERVE_STAT.ACTIVE p
  let s := s.put PROC_SERVE_CTRL.BATCH_ID (PROC_SERVE_CTRL.BATCH_ID.ofWord v) p
  let s := if active then s else
    (s.put PROC_SERVE_CTRL.DEADLINE (PROC_SERVE_CTRL.DEADLINE.ofWord v) p).put PROC_SERVE_CTRL.LAST (PROC_SERVE_CTRL.LAST.ofWord v) p
  if PROC_SERVE_CTRL.ARM.ofWord v = 1 then s.armBatch p else s

/-- A write of HUB_SEC_CTRL (R309). -/
def State.writeSecCtrl (s : State) (v p : Nat) : State :=
  let a := HUB_SEC_CTRL.AT_STEP.ofWord v
  let i := HUB_SEC_CTRL.INTERVAL.ofWord v
  let s := s.put HUB_SEC_CTRL.K (HUB_SEC_CTRL.K.ofWord v) p
  if a = s.get HUB_SEC_CTRL.AT_STEP p ∧ (i = 0 ∨ i = s.get HUB_SEC_CTRL.INTERVAL p) then s else s.setInterval p a i

/-- A write of HUB_HARDEN (R328): none while a unit hardens. -/
def State.writeHarden (s : State) (v : Nat) : State :=
  if s.get HUB_HARDEN.STATE = 1 then s
  else
    let s := s.writeFields [HUB_HARDEN.KIND, HUB_HARDEN.REGION, HUB_HARDEN.INDEX, HUB_HARDEN.BELLS] v 0 0 0
      (fun f => f == HUB_HARDEN.BELLS && decide (f.ofWord v < 8))
    if HUB_HARDEN.REQ.ofWord v = 1 then s.hardenReq else s

/-- A write of ME_COL_MAP (R157). -/
def State.writeColMap (s : State) (a : Actor) (row : RegRow) (v i e : Nat) : State :=
  let busy := if h : i < 4 then s.regions[(⟨i, h⟩ : Rgn)].cmds.any (fun c => c.issued && c.cmd.eng == e) else true
  if a = .icholt ∧ !busy then (s.writeFields row.fields v i e 0 (fun _ => false)).countSpares i e else s

/-- A write of LNK_CRED (R239). -/
def State.writeCred (s : State) (row : RegRow) (v l : Nat) : State :=
  let sum := row.fields.foldl (fun (n : Nat) (f : Fld) => n + f.ofWord v) 0
  if s.get LNK_STAT.STATE l = 0 ∧ sum ≤ 256 then s.writeFields row.fields v l 0 0 (fun _ => false) else s

/-- A write of a pigeonhole's status (R341): only the receiver clears FULL. -/
def State.writePhStat (s : State) (a : Actor) (v n : Nat) : State :=
  let receiver := if n < 16 then a == .icholt else s.get PH_CFG.FUNC n == actorSrc a
  let s := if receiver && bitsAt v 0 1 == 1 then s.put (phFull n) 0 (n % 16) else s
  if bitsAt v 1 1 = 1 then s.put (phCollide n) 0 (n % 16) else s

/-- A write of PH_FSEND (R346). -/
def State.writeFsend (s : State) (v : Nat) : State :=
  let s := (s.put PH_FSEND.DEST (PH_FSEND.DEST.ofWord v)).put PH_FSEND.PH (PH_FSEND.PH.ofWord v)
  if PH_FSEND.GO.ofWord v = 1 then s.fabricPost else s

/-- A write of the words of a pigeonhole: the sender assembles and posts, another writer changes nothing (R340). -/
def State.writePhWord (s : State) (a : Actor) (v n word : Nat) : State :=
  if (n < 16) == (actorSrc a < 5) then
    if word = 7 then s.phPost a (n % 16) (BitVec.ofNat 64 v) else s.assemblyWrite a (n % 16) word (BitVec.ofNat 64 v)
  else s

/-- A write of a register of the hub and the proctor. -/
def State.writeHub (s : State) (a : Actor) (row : RegRow) (v i j k : Nat) : State :=
  let p : Prt := ⟨i % 4, Nat.mod_lt _ (by omega)⟩
  let plain (s : State) (skip : Fld → Bool) : State := s.writeFields row.fields v i j k skip
  match row.base with
  | 0x10000 => s.writePeriod v
  | 0x200 => s.writeSeed p v
  | 0x410 => s.writeRollCtrl v
  | 0x300 =>
    if (List.range 384).any (fun g => s.get HUB_OWN.KIND (384 * i + g) % 2 == 1) then s else plain s (fun _ => false)
  | 0x2000 => s.writeOwn a v i
  | 0x5000 => s.writeSecCtrl v i
  | 0x5048 =>
    let s := s.put HUB_GRAFT.ADDR (HUB_GRAFT.ADDR.ofWord v)
    if HUB_GRAFT.GO.ofWord v = 1 then s.graftGo else s
  | 0x5050 => s.writeHarden v
  | 0x500 => plain s (fun f => f == HUB_MIRROR.EN && a == .icholt)
  | 0x700 => s.writeReset a v
  | 0x20010 => if HUB_PWR_STATE.WAKE.ofWord v = 1 then s.wake a else s
  | 0x20000 => s.writeCap (PWR_CAP.CAP_W.ofWord v)
  | 0x40000 => allRegions.foldl (fun s (q : Rgn) =>
      if s.partState q == psEmpty && !s.bit PROC_PART_CFG.DBG_LOCK q then s.put (mapField q) ((mapField q).ofWord v) 0 else s) s
  | 0x40008 => plain s (fun f => f.ofWord v == 0)
  | 0x40200 => s.writePartCfg a v p
  | 0x40220 => s.writePreempt v p
  | 0x40400 => s.writeHedge v i j
  | 0x41000 => s.writeServe v p
  | 0x41100 => if s.bit PROC_SERVE_STAT.ACTIVE i then s else plain s (fun _ => false)
  | 0x30000 => s.writePhWord a v i j
  | 0x30400 => s.writePhWord a v (16 + i) j
  | 0x30800 => s.writePhStat a v i
  | 0x30880 => s.writePhStat a v (16 + i)
  | 0x30900 => if a = .icholt then plain s (fun _ => false) else s
  | 0x30980 => (plain s (fun _ => false)).syncStrict
  | 0x30A40 => s.writeFsend v
  | _ => plain s (fun _ => false)

/-- A write of a register of a compute die, a stack engine or a link. -/
def State.writeDie (s : State) (a : Actor) (row : RegRow) (v i j k : Nat) : State :=
  let r : Rgn := ⟨i % 4, Nat.mod_lt _ (by omega)⟩
  let plain (s : State) (skip : Fld → Bool) : State := s.writeFields row.fields v i j k skip
  match row.base with
  | 0x1400000 => if s.loadedAt i || s.regionLocked i then s else plain s (fun _ => false)
  | 0x1000000 => if s.loadedAt i || s.regionLocked i || a != .icholt then s else plain s (fun _ => false)
  | 0x1000008 => if RGN_SEQ_CTRL.GO.ofWord v = 1 then s.go r else s
  | 0x10C0000 => if s.get RGN_ROUTE_CTRL.ACTIVE i = j then s
    else s.writeFields row.fields (v &&& 0xBFBFBFBFBFBFBFBF) i j k (fun _ => false)
  | 0x10A0000 =>
    let s := plain s (fun f => f == RGN_SEC_TGT.PAIR)
    if RGN_SEC_TGT.PAIR.ofWord v = 1 then s.pairRequest r j else s
  | 0x1040008 => s.writeColMap a row v i j
  | 0x1050200 => if s.loadedAt i || a != .icholt then s else plain s (fun _ => false)
  | 0x1050400 => if s.loadedAt i || a != .icholt then s else plain s (fun _ => false)
  | 0x8000008 => plain s (fun f => f.ofWord v == 0)
  | 0x8000038 => plain s (fun f => f == SE_SCRUB.HOURS && (f.ofWord v == 0 || decide (24 < f.ofWord v)))
  | 0xC000018 => s.writeCred row v i
  | 0xC000030 => plain s (fun f => f == LNK_WIDTH.HARDEN_BELLS && decide (f.ofWord v < 8))
  | _ => plain s (fun _ => false)

/-- A host write to a pigeonhole of a dormant domain is discarded with its timeout (R344). -/
def State.abortedWrite (s : State) (a : Actor) (off : Nat) : State :=
  match findReg off with
  | some (row, i, _, _) =>
    match pigeonOf row.base i with
    | some n => if (row.base = 0x30000 ∧ actorSrc a < 5) ∨ (row.base = 0x30400 ∧ a = .icholt) then s.phDiscard n else s
    | none => s
  | none => s

/-- A write of the control space (R6, R7, R287, R288, R340, R344, R369). -/
def State.writeReg (s : State) (a : Actor) (off width v : Nat) : State :=
  match s.find a off width with
  | .abort => s.abortedWrite a off
  | .bad => s.badAccess
  | .reg row i j k => if row.base < 0x1000000 then s.writeHub a row v i j k else s.writeDie a row v i j k
def execRegisterWrite (a : Actor) (offset : Word32) (width : BitVec 8) (v : Word64) (s : State) :
    Host.Outcome State Fault Refusal := .next (s.writeReg a offset.toNat width.toNat v.toNat)

/-- STRAP_SAMPLE (R374): once after a cold or a module reset. -/
def State.strapSample (s : State) (pos : Byte) (feed : BitVec 4) : State :=
  if s.hub.strapsDue then
    let s := (s.put HUB_FAB.POS_ID pos.toNat).put HUB_FAB.FEED_ID feed.toNat
    s.modHub (fun h => { h with straps := (pos, feed), strapsDue := false })
  else s
def execStrapSample (pos : Byte) (feed : BitVec 4) (s : State) : Host.Outcome State Fault Refusal :=
  .next (s.strapSample pos feed)

/-- SPI_OWN_N falls: the hub releases the flash bus (R375). -/
def execSpiOwnNFall (s : State) : Host.Outcome State Fault Refusal := .next (s.modHub (fun h => { h with spiHub := false }))

/-- SPI_OWN_N rises: the hub has the flash bus again (R375). -/
def execSpiOwnNRise (s : State) : Host.Outcome State Fault Refusal := .next (s.modHub (fun h => { h with spiHub := true }))

/-- Whether the TAP executes the test and scan instructions (R376). -/
def State.tapOpen (s : State) : Bool := s.bit PH_MODE.TEST && allRegions.all (fun p => s.partState p == psEmpty)

/-- What a scan of SRAM shows: the eight bytes at a DA; zero under debug lock (R288); elsewhere open (log entry 22). -/
def State.scanSram (s : State) (a : Nat) : State :=
  let r := (a - 0x200000000000) / 0x10000000
  if h : 0x200000000000 ≤ a ∧ r < 4 then
    let locked := match s.partOf ⟨r, h.2⟩ with | some p => s.bit PROC_PART_CFG.DBG_LOCK p | none => false
    s.emit (.tap (if locked then 0 else BitVec.ofNat 64 (s.num a 8)))
  else (s.emit (.tap (Config.freeWord s.ticket))).nextTicket

/-- What a scan of a register shows: its value; zero under debug lock, which counts (R288). -/
def State.scanReg (s : State) (off : Nat) : State :=
  match findReg off with
  | some (row, i, j, k) =>
    if s.lockHides .jtag row.base i then (s.badAccess).emit (.tap 0) else s.emit (.tap (BitVec.ofNat 64 (s.word row i j k)))
  | none => (s.emit (.tap (Config.freeWord s.ticket))).nextTicket

/-- JTAG_INSTRUCTION (R376). -/
def State.jtag (s : State) (i : JtagInstr) : State :=
  let run (s : State) : State := s.modHub (fun h => { h with jtag := i })
  let bypass (s : State) : State := s.modHub (fun h => { h with jtag := .bypass })
  match i with
  | .bypass => run s
  | .idcode => ((run s).emit (.tap (Config.freeWord 0))).nextTicket
  | .samplePreload => run s
  | .extest => if s.tapOpen then run s else bypass s
  | .extestPulse => if s.tapOpen then run s else bypass s
  | .extestTrain => if s.tapOpen then run s else bypass s
  | .scanSram a => if s.tapOpen then (run s).scanSram a.toNat else bypass s
  | .scanReg o => if s.tapOpen then (run s).scanReg o.toNat else bypass s
def execJtagInstruction (i : JtagInstr) (s : State) : Host.Outcome State Fault Refusal := .next (s.jtag i)

end Sys2Proof.Machine
end

