-- ==== Sys2Proof/Machine/Bell.lean ====
section
/-!
DEFINITION. The bell and the proctor: bell and report frames (R31-R35, R37-R39, R240), the fire time and what happens at
it (R40-R49, R51, R55), sample point and warnings (R36, R44), loss of bells and of the master (R46-R48), local ticks
(R345). Log entries 15, 18 and 34.
-/
namespace Sys2Proof.Machine

/-- Whether a link is trained. -/
def State.trained (s : State) (l : Lnk) : Bool := s.rollLink l

/-- F in units of 0.125 ns. -/
def State.fireDelay8 (s : State) : Nat := 8 * s.get HUB_BELL_TIMING.FIRE_DELAY_NS

/-- The payload of a bell frame: the 68 bytes of Table 2.1, reserved bits and the rest of the payload zero. -/
def bellBytes (m : BellMsg) : List Byte :=
  toLe 6 m.periodNum.toNat ++ toLe 2 (m.flags.toNat % 16) ++ toLe 8 m.lateVec.toNat ++ toLe 32 m.poisonVote.toNat ++
  toLe 2 (m.periodUs.toNat % 8192) ++ toLe 2 0 ++ toLe 2 m.masterAddr.toNat ++ toLe 2 m.fireDelay.toNat ++
  toLe 8 m.masterSerial.toNat ++ toLe 4 m.pathDelay.toNat ++ toLe 172 0

/-- The bell message in the payload of a VC-7 frame (Table 2.1): the reserved bits of FLAGS are kept, since R35 looks at
them, all others are ignored. -/
def bellOf (p : List Byte) : BellMsg :=
  { periodNum := BitVec.ofNat 48 (leAt p 0 6), flags := BitVec.ofNat 16 (leAt p 6 2)
    lateVec := BitVec.ofNat 64 (leAt p 8 8), poisonVote := BitVec.ofNat 256 (leAt p 16 32)
    periodUs := BitVec.ofNat 16 (leAt p 48 2 % 8192), masterAddr := BitVec.ofNat 16 (leAt p 52 2)
    fireDelay := BitVec.ofNat 16 (leAt p 54 2), masterSerial := BitVec.ofNat 64 (leAt p 56 8)
    pathDelay := BitVec.ofNat 32 (leAt p 64 4) }

/-- The payload of a report frame: the 64 bytes of Table 2.2, the rest of the payload zero. -/
def reportBytes (m : ReportMsg) : List Byte :=
  toLe 6 m.periodNum.toNat ++ toLe 2 (m.flags.toNat % 2) ++ toLe 8 m.lateVec.toNat ++ toLe 32 m.poisonVote.toNat ++
  toLe 192 0

/-- The report in the payload of a VC-7 frame and the destination of its header (Table 2.2); reserved bits are ignored. -/
def reportOf (dest : BitVec 16) (p : List Byte) : ReportMsg :=
  { dest := dest, periodNum := BitVec.ofNat 48 (leAt p 0 6), flags := BitVec.ofNat 16 (leAt p 6 2 % 2)
    lateVec := BitVec.ofNat 64 (leAt p 8 8), poisonVote := BitVec.ofNat 256 (leAt p 16 32) }

/-- A hop sends every VC-7 frame twice, unsequenced, with the ACK of its link (R240, R242). -/
def State.sendVc7 (s : State) (l : Lnk) (h : FlitHdr) (payload : List Byte) : State :=
  let f := sealFlit {
    hdr := { h with seq := 0, ack := BitVec.ofNat 14 s.links[l].rxSeq, cvc := 0, cred := 0, ccls := false }, payload := payload }
  (s.emit (.flit l f)).emit (.flit l f)

/-- A bell frame leaves on every trained link but one; the hop's residence until its departure on that link and the
latency of the link are added (R31, R240). -/
def State.floodBell (s : State) (but : Option Lnk) (m : BellMsg) (residence : List Nat) : State :=
  allLinks.foldl (fun s (l : Lnk) =>
    if s.trained l && but != some l then
      s.sendVc7 l (s.newFlit ftBell 7 true 0xFFFF 0 []).hdr (bellBytes { m with
        pathDelay := m.pathDelay + BitVec.ofNat 32 (residence.getD l 0 + s.get LNK_STAT.LATENCY l) })
    else s) s

/-- Whether a period number is new: above the current one, or any right after START (R31, R34, R46). -/
def State.newPeriod (s : State) (n : Nat) : Bool :=
  s.hub.pendingBell.isNone && (s.hub.fresh || decide (s.period < n))

/-- The first valid frame of a period is forwarded and held for its fire time (R31, R33, R240). -/
def State.takeBell (s : State) (l : Lnk) (m : BellMsg) (residence : List Nat) : State :=
  let s := s.floodBell (some l) m residence
  let s := (s.put HUB_BELL_TIMING.PATH_DELAY_NS ((m.pathDelay.toNat + 4) / 8)).put HUB_BELL_TIMING.ARRIVAL_LINK l
  let s := if m.masterSerial.toNat ≠ s.serial then s.put HUB_BELL_STATUS.IS_MASTER 0 else s
  s.modHub (fun h => { h with
    pendingBell := some m, deputyPath := if m.flags.getLsbD 2 then h.deputyPath else m.pathDelay.toNat })

/-- The two copies of a BELL or REPORT flit arrive: a bad one counts with the link, and the frame is lost when both are
bad (R240, R256). The ACK and the credits of a good one count; before START it is dropped and counted (R246); one on another channel than
VC 7 is answered BAD_TYPE (R237); else it runs. Another TYPE is not this event (log entry 5). -/
def State.vc7Frame (s : State) (l : Lnk) (type : Nat) (f : Flit) (v1 v2 : FlitCheck) (run : State → State) : State :=
  if !s.trained l || f.hdr.type.toNat != type then s
  else
    let s := (s.countCheck l (checkOf f v1)).countCheck l (checkOf f v2)
    if checkOf f v1 ≠ .good ∧ checkOf f v2 ≠ .good then s.bump LNK_RC.VC7_LOST 1 l
    else
      let s := s.applyHeader l f.hdr
      if !s.complete then s.bump LNK_RC.NONRC 1 l
      else if f.hdr.vc ≠ 7 then s.refuseFlit (some l) (linkRegion l) f 6 0
      else run s

/-- The bell message of this module (Table 2.1): number, substitution, period length, path delay. -/
def State.ownBellMsg (s : State) (n : Nat) (subst : Bool) (us path : Nat) : BellMsg :=
  let late := s.hub.repLate
  let change := subst || (s.hub.prevMaster != 0 && s.hub.prevMaster.toNat != s.serial)
  let longer := !subst && s.get HUB_BELL_STATUS.CUR_PERIOD_US != 0 && us != s.get HUB_BELL_STATUS.CUR_PERIOD_US
  { periodNum := BitVec.ofNat 48 n
    flags := BitVec.ofNat 16 (flagBit (late != 0) 0 + flagBit change 1 + flagBit subst 2 + flagBit longer 3)
    lateVec := late, poisonVote := s.hub.repPoison, periodUs := BitVec.ofNat 16 us
    masterAddr := BitVec.ofNat 16 s.addr, fireDelay := BitVec.ofNat 16 (s.get HUB_BELL_TIMING.FIRE_DELAY_NS)
    masterSerial := BitVec.ofNat 64 s.serial, pathDelay := BitVec.ofNat 32 path }

/-- This module sends a bell and holds it for its own fire time (R31, R39). -/
def State.sendBell (s : State) (m : BellMsg) : State :=
  (s.floodBell none m []).modHub (fun h => { h with pendingBell := some m, sent := true })

/-- BELL_SEND: the master sends the bell that ends the period, at its next fire time less F (R39, R52). -/
def State.bellSend (s : State) : State :=
  if s.complete && s.bit HUB_BELL_STATUS.IS_MASTER && !s.hub.fresh && s.hub.pendingBell.isNone then
    s.sendBell (s.ownBellMsg (s.period + 1) false (s.get HUB_BELL_PERIOD.PERIOD_US) 0)
  else s
def execBellSend (s : State) : Host.Outcome State Fault Refusal := .next s.bellSend

/-- BELL_ZERO: the master sends bell 0 at START + 2 x F (Table 10.5). -/
def State.bellZero (s : State) : State :=
  if s.complete && s.bit HUB_BELL_STATUS.IS_MASTER && s.hub.fresh && s.hub.pendingBell.isNone then
    s.sendBell (s.ownBellMsg 0 false (s.get HUB_BELL_PERIOD.PERIOD_US) 0)
  else s
def execBellZero (s : State) : Host.Outcome State Fault Refusal := .next s.bellZero

/-- SUBSTITUTE_BELL (R46, R47): no valid frame by the deadline; the deputy sends the bell and is the master from now on.
DESIGN CHOICE (log entry 34): a deputy that has fired no bell yet, so that CUR_PERIOD_US is 0, sends its HUB_BELL_PERIOD
as the length, and number 0 while no bell has fired since START. -/
def State.substituteBell (s : State) (elapsed : Nat) : State :=
  if s.complete && s.bit HUB_BELL_STATUS.IS_DEPUTY && s.hub.pendingBell.isNone then
    let cur := s.get HUB_BELL_STATUS.CUR_PERIOD_US
    let us := if cur = 0 then s.get HUB_BELL_PERIOD.PERIOD_US else cur
    let s := s.put HUB_BELL_PERIOD.PERIOD_US us
    let s := s.sendBell (s.ownBellMsg (if s.hub.fresh then 0 else s.period + 1) true us elapsed)
    let s := (s.put HUB_BELL_STATUS.IS_MASTER 1).put HUB_BELL_STATUS.IS_DEPUTY 0
    s.modHub (fun h => { h with deputyAddr := 0xFFFF })
  else s
def execSubstituteBell (elapsed : BitVec 32) (s : State) : Host.Outcome State Fault Refusal :=
  .next (s.substituteBell elapsed.toNat)

/-- The vectors of a report join those of the period at the master or the deputy; one after the send time counts (R39). -/
def State.takeReport (s : State) (m : ReportMsg) : State :=
  if s.hub.sent || s.hub.pendingBell.isSome || m.periodNum.toNat ≠ s.period then s.bump HUB_BELL_ERR.LATE_REPORT
  else s.modHub (fun h => { h with repLate := h.repLate ||| m.lateVec, repPoison := h.repPoison ||| m.poisonVote })

/-- Sends a report frame with a header towards its destination; reports of one period to one destination merge (R37). -/
def State.passReport (s : State) (r : Rgn) (h : FlitHdr) (m : ReportMsg) : State :=
  let old := s.hub.forwarded.find? (fun x => x.1 == m.dest && x.2.1 == m.periodNum)
  let late := m.lateVec ||| (match old with | some x => x.2.2.1 | none => 0)
  let poison := m.poisonVote ||| (match old with | some x => x.2.2.2 | none => 0)
  let s := s.modHub (fun h => { h with
    forwarded := h.forwarded.filter (fun x => !(x.1 == m.dest && x.2.1 == m.periodNum)) ++ [(m.dest, m.periodNum, late, poison)] })
  match s.routeOf r m.dest.toNat with
  | some (l, up) =>
    if s.trained l then
      s.sendVc7 l { h with cls := h.cls || up } (reportBytes { m with
        lateVec := late, poisonVote := poison, flags := if late = 0 then 0 else 1 })
    else s
  | none => s

/-- REPORT (R37, R39, R240). -/
def State.report (s : State) (l : Lnk) (f : Flit) (v1 v2 : FlitCheck) : State :=
  s.vc7Frame l ftReport f v1 v2 (fun s =>
    let m := reportOf f.hdr.dest f.payload
    if m.dest.toNat = s.addr then
      if s.bit HUB_BELL_STATUS.IS_MASTER || s.bit HUB_BELL_STATUS.IS_DEPUTY then s.takeReport m else s
    else s.passReport (linkRegion l) f.hdr m)
def execReport (l : Lnk) (f : Flit) (v1 v2 : FlitCheck) (s : State) : Host.Outcome State Fault Refusal :=
  .next (s.report l f v1 v2)

/-- This module's report goes to the master and to the deputy; to itself without a frame (R37). -/
def State.sendReports (s : State) (late : BitVec 64) (poison : BitVec 256) : State :=
  let m (dest : Nat) : ReportMsg :=
    { dest := BitVec.ofNat 16 dest, periodNum := BitVec.ofNat 48 s.period, flags := if late = 0 then 0 else 1
      lateVec := late, poisonVote := poison }
  let sendTo (s : State) (dest : Nat) : State :=
    if dest = 0xFFFF then s else s.passReport 0 (s.newFlit ftReport 7 true dest 0 []).hdr (m dest)
  let s := if s.bit HUB_BELL_STATUS.IS_MASTER || s.bit HUB_BELL_STATUS.IS_DEPUTY then s.takeReport (m s.addr) else s
  let s := if s.bit HUB_BELL_STATUS.IS_MASTER then s else sendTo s s.hub.masterAddr
  if s.bit HUB_BELL_STATUS.IS_DEPUTY then s else sendTo s s.hub.deputyAddr

/-- Whether a region is complete (R36, R127): at its bell wait with every command committed, or ended. -/
def State.regionComplete (s : State) (r : Rgn) : Bool :=
  s.seqState r == sqEnded || (s.seqState r == sqWait && s.regions[r].cmds.isEmpty)

/-- Whether a partition whose restore runs on past the bell AT (R296, R297). -/
def State.restoreLate (s : State) (p : Prt) : Bool :=
  s.partState p == psRestoring && decide (s.get PROC_PREEMPT.AT p ≤ s.period)

/-- The commit window in region cycles: period less L. -/
def State.windowCycles (s : State) : Nat :=
  (s.get HUB_BELL_STATUS.CUR_PERIOD_US * 1000 - s.get HUB_BELL_TIMING.LEAD_NS) * 9 / 5

/-- One region at the sample point: LATE_CNT and LAST_USE. -/
def State.sampleRegion (s : State) (r : Rgn) : State :=
  if !s.regionComplete r then
    ((s.bump PROC_REGION_STAT.LATE_CNT 1 r).put PROC_REGION_STAT.LAST_USE 0xFFFF r).modRegion r (fun g => { g with late := true })
  else
    let s := s.modRegion r (fun g => { g with late := false })
    let use := s.regions[r].lastUse
    if use = 0 then s
    else (s.put PROC_REGION_STAT.LAST_USE (min 0xFFFE (openQuot s.ticket (use * 65536) (max 1 s.windowCycles))) r).nextTicket

/-- One partition at the sample point (R36, R296, R297): a running one, one torn down, one whose restore is overdue. -/
def State.samplePart (s : State) (p : Prt) : State :=
  let st := s.partState p
  let late := (st == psRunning || st == psTearing) && (s.regionsOf p).any (fun r => !s.regionComplete r)
  let overdue := s.restoreLate p
  let s := if st == psRunning then (s.regionsOf p).foldl (fun s r => s.sampleRegion r) s else s
  let s := s.modPart p (fun x => { x with late := late || overdue })
  s.serveSample p

/-- SAMPLE_POINT (R36-R38, R306). -/
def State.samplePoint (s : State) : State :=
  if !s.hub.fired then s
  else
    let s := allRegions.foldl (fun s p => s.samplePart p) s
    let late : BitVec 64 := allRegions.foldl (fun (v : BitVec 64) (p : Prt) =>
      if s.parts[p].late then v ||| BitVec.ofNat 64 (2 ^ s.bellPart p) else v) 0
    let poison := s.hub.poisonRecv
    let s := s.modHub (fun h => { h with poisonRecv := 0 })
    if (late == 0 && poison == 0) || !s.complete then s else s.sendReports late poison
def execSamplePoint (s : State) : Host.Outcome State Fault Refusal := .next s.samplePoint

/-- Whether the last command of a region's block has committed (R44): nothing is left to dispatch and nothing is
uncommitted. A region that has run END is complete at a sample point (R127) and can still be uncommitted here. -/
def State.blockCommitted (s : State) (r : Rgn) : Bool :=
  (s.seqState r == sqEnded || s.seqState r == sqWait) && s.regions[r].cmds.isEmpty

/-- OVERRUN_WARNING (R44): at 92 % of the commit window a command of a region's block has not committed. -/
def State.overrunWarning (s : State) : State :=
  if !s.hub.fired then s
  else allRegions.foldl (fun s (p : Prt) =>
    if s.partState p == psRunning then
      (s.regionsOf p).foldl (fun s r => if s.blockCommitted r then s else s.bump PROC_REGION_STAT.WARN_CNT 1 r) s
    else s) s
def execOverrunWarning (s : State) : Host.Outcome State Fault Refusal := .next s.overrunWarning

/-- STALL (R42): the run of holds has reached the limit. -/
def State.stall (s : State) (p : Prt) : State :=
  if s.get PROC_HOLD_LIMIT.LIMIT ≤ s.get PROC_PART_STAT.CONSEC p ∧ s.bit PROC_PART_STAT.HELD p then
    (s.put PROC_PART_STAT.STALL 1 p).beginTeardown p 3
  else s
def execStall (p : Prt) (s : State) : Host.Outcome State Fault Refusal := .next (s.stall p)

/-- The latch of a bell (R55, R86): none before the first bell has closed a period (R345). -/
def State.latchBell (s : State) : State :=
  let closing := s.period
  let s := if s.hub.fired then
      let s := s.latch
      let s := allRegions.foldl (fun s (r : Rgn) => s.put RGN_ACCT_SEQ.PERIOD_NUM closing r) s
      s.put STAT_SEQ.PERIOD_NUM closing
    else { s with live := [] }
  { s with watchId := (s.regs.filter (fun x => keyHome x.1 == STAT_SLOT_ID.EN.home && x.2 == 1)).map (fun x =>
      (keyI x.1, s.get STAT_SLOT_ID.TENSOR_ID (keyI x.1) + 1)) }

/-- The registers that a bell sets (R34, R52, R56). -/
def State.bellRegs (s : State) (m : BellMsg) : State :=
  let s := (s.put HUB_BELL_STATUS.PERIOD_NUM m.periodNum.toNat).put HUB_BELL_STATUS.CUR_PERIOD_US (m.periodUs.toNat % 8192)
  let s := s.put HUB_BELL_STATUS.SYNCED (if s.fireDelay8 < m.pathDelay.toNat then 0 else 1)
  let s := s.put HUB_BELL_MASTER.MASTER_SERIAL m.masterSerial.toNat
  let s := if m.flags.getLsbD 1 && m.masterSerial.toNat != s.serial then s.bump HUB_BELL_ERR.MASTER_CHANGE else s
  s.modHub (fun h => { h with
    pendingBell := none, fired := true, fresh := false, bellsLost := false, firedAt := s.now, sent := false
    repLate := 0, repPoison := 0, forwarded := [], prevMaster := m.masterSerial, masterAddr := m.masterAddr.toNat
    deputyAddr := if m.flags.getLsbD 2 then 0xFFFF else h.deputyAddr })

/-- Hedges at a bell (R290): written entries come into force with LEVEL at RATE, the others are refilled. -/
def State.hedgeBell (s : State) : State :=
  let rate (i : Nat) : Nat := s.get PROC_HEDGE.RATE (i / 16) (i % 16)
  let new := s.hub.hedgeNew
  let old := (s.hub.hedgeOn.filter (fun x => x.2 != 0 && !new.contains x.1)).map (·.1)
  s.modHub (fun h =>
    let on := new.foldl (fun (m : KMap) i => kput m i 0 (s.get PROC_HEDGE.EN (i / 16) (i % 16))) h.hedgeOn
    let level := old.foldl (fun (m : KMap) i => kput m i 0 (min (kget m i 0 + rate i) (2 * rate i))) h.hedge
    { h with hedgeOn := on, hedge := new.foldl (fun (m : KMap) i => kput m i 0 (rate i)) level, hedgeNew := [] })

/-- Weights of the stack engines in force (R234). -/
def State.schedBell (s : State) : State :=
  { s with stks := Vector.ofFn (fun k : Stk => { s.stks[k] with
      sched := [s.get SE_SCHED.W_UPD k, s.get SE_SCHED.W_ACC k, s.get SE_SCHED.W_SCAT k, s.get SE_SCHED.W_DRAIN k,
                s.get SE_SCHED.W_EXT k] }) }

/-- Icholt records new soft repairs and column repairs in the OTP record of 4,096 entries (R157, R232): one without a
place is reported. -/
def State.recordRepairs (s : State) : State :=
  let soft := (List.range 24).flatMap (fun k => if h : k < 24 then (s.stks[(⟨k, h⟩ : Stk)].soft.map (fun x => (k, x.1, x.2))) else [])
  let cols := (List.range 4).flatMap (fun j =>
    (s.regs.filter (fun x => keyHome x.1 == (ME_COL_MAP.VALID j).home && x.2 == 1)).map (fun x =>
      (24 + 16 * keyI x.1 + keyJ x.1, j, s.get (ME_COL_MAP.COL j) (keyI x.1) (keyJ x.1))))
  (soft ++ cols).foldl (fun s x =>
    if s.hub.repairs.contains x then s
    else if s.hub.repairs.length < 4096 then s.modHub (fun h => { h with repairs := h.repairs ++ [x] })
    else s.modHub (fun h => { h with reports := if h.reports.contains (3, x.1) then h.reports else h.reports ++ [(3, x.1)] })) s

/-- The graft at a bell (R326): the spare binds ADDR, is none any more, and asks to join. -/
def State.graftBell (s : State) : State :=
  if s.bit HUB_GRAFT.GO then
    let s := ((s.put HUB_FAB.ADDR (s.get HUB_GRAFT.ADDR)).put HUB_FAB.SPARE 0).put HUB_GRAFT.GO 0
    (s.put HUB_GRAFT.DONE 1).sendReady
  else s

/-- Whether a restored partition continues at this bell (R297). -/
def State.resumesNow (s : State) (p : Prt) : Bool := s.parts[p].resuming && s.parts[p].restored && s.restoreLate p

/-- Whether a region's declared period differs from the one in force (R51). -/
def State.declaresOther (s : State) (p : Prt) (r : Rgn) : Bool :=
  (s.partState p == psRunning || s.bit RGN_SEQ_CTRL.GO r || s.resumesNow p) &&
  (s.header r).periodUs != s.get HUB_BELL_STATUS.CUR_PERIOD_US

/-- Sets the hold flag of every region of a partition (R45). -/
def State.setHold (s : State) (p : Prt) (v : Nat) : State :=
  (s.regionsOf p).foldl (fun s (r : Rgn) => s.put RGN_SEQ_STAT.HOLD_FLAG v r) s

/-- Sets what a bell says about holds in the registers: HELD, PERIOD_MISMATCH and the hold flags (R45, R51, R56). -/
def State.noteHold (s : State) (p : Prt) (held other : Bool) : State :=
  let s := (s.put PROC_PART_STAT.PERIOD_MISMATCH (if other then 1 else 0) p).put PROC_PART_STAT.HELD (if held then 1 else 0) p
  s.setHold p (if held then 1 else 0)

/-- Holds of one partition at a bell (R40-R42, R51, R296): PERIOD_MISMATCH, HELD, HOLD_CNT, CONSEC, hold flags; a late
partition that the bell does not hold is desynchronized. Without a job nothing holds, and a partition that saves,
restores or tears down takes part in holds without CONSEC (log entry 15). -/
def State.holdPart (s : State) (m : BellMsg) (p : Prt) : State :=
  let st := s.partState p
  let bit := m.lateVec.getLsbD (s.bellPart p)
  if st == psEmpty then
    let s := s.noteHold p false false
    if s.bit PROC_PART_CFG.SAVED p then s else s.put PROC_PART_STAT.CONSEC 0 p
  else
    let live := st == psLoaded || st == psRunning || s.restoreLate p
    let other := live && (s.regionsOf p).any (fun r => s.declaresOther p r)
    let held := bit || other
    let s := s.noteHold p held other
    let s := if held then s.bump PROC_PART_STAT.HOLD_CNT 1 p else s
    if !live then s
    else if s.parts[p].late && !bit then (s.put PROC_PART_STAT.DESYNC 1 p).beginTeardown p 2
    else if !held then s.put PROC_PART_STAT.CONSEC 0 p
    else if bit then s.bump PROC_PART_STAT.CONSEC 1 p else s

/-- The non-finite record of the block that ends is latched (R76). DESIGN CHOICE (log entry 34): for a block without a
record VALID is 0 and the other fields of RGN_NF_FIRST0 and RGN_NF_FIRST1 keep their values. -/
def State.latchNf (s : State) (r : Rgn) : State :=
  match s.regions[r].nf with
  | none => s.put RGN_NF_FIRST0.VALID 0 r
  | some x =>
    let s := (s.put RGN_NF_FIRST0.ELEM_INDEX x.elem r).put RGN_NF_FIRST0.ENGINE x.engine r
    let s := (s.put RGN_NF_FIRST0.VALID 1 r).put RGN_NF_FIRST1.TENSOR_ID x.tensorId r
    (s.put RGN_NF_FIRST1.CLASS x.cls r).put RGN_NF_FIRST1.ISSUE_ORD x.ord r

/-- A sequencer begins at ENTRY (R112, R285). -/
def State.beginRegion (s : State) (r : Rgn) : State :=
  let s := (s.put RGN_SEQ_CTRL.GO 0 r).put RGN_SEQ_STAT.SLOT (s.header r).entry r
  (s.setSeq r sqRunning).modRegion r (fun g => { g with pos := 0, ordinal := 0, nf := none })

/-- A sequencer leaves its bell wait (R49, R127): the next slot, the plan entry applied, a new block. -/
def State.nextBlock (s : State) (r : Rgn) : State :=
  let s := s.modRegion r (fun g => { g with
    plan := match g.planNext with | some b => b | none => g.plan, planNext := none, ordinal := 0, nf := none })
  (s.setSeq r sqRunning).advance r

/-- Blocks of one partition at a bell that is not a hold for it (R40, R49, R76, R285). DESIGN CHOICE (log entry 34): the
record of a block is latched at the bell that begins the next block; so that of a block which ends in a pre-emption at
its bell AT is latched at the bell that resumes the context, and that of a block which a teardown ends never. -/
def State.beginBlocks (s : State) (p : Prt) : State :=
  let rs := s.regionsOf p
  let st := s.partState p
  if s.bit PROC_PART_STAT.HELD p then s
  else if st == psLoaded then
    if !rs.isEmpty && rs.all (fun r => s.bit RGN_SEQ_CTRL.GO r) then
      let s := rs.foldl (fun s r => s.beginRegion r) s
      (s.put PROC_PART_CFG.STATE psRunning p).bump PROC_PART_BLOCK.BLOCKS 1 p
    else s
  else if st == psRunning && rs.all (fun r => s.regionComplete r) then
    let s := rs.foldl (fun s r => s.latchNf r) s
    let any := rs.any (fun r => s.bit RGN_SEQ_CTRL.GO r || s.seqState r == sqWait)
    let s := if any then s.bump PROC_PART_BLOCK.BLOCKS 1 p else s
    rs.foldl (fun s (r : Rgn) =>
      if s.bit RGN_SEQ_CTRL.GO r then s.beginRegion r else if s.seqState r == sqWait then s.nextBlock r else s) s
  else s

/-- A pre-emption asked for this bell stops the partition in place of its next block (R293, R294). -/
def State.stopAtBell (s : State) (p : Prt) : State :=
  if s.bit PROC_PREEMPT.REQ p && s.partState p == psRunning && s.get PROC_PREEMPT.AT p == s.period then s.stopPart p else s

/-- A restored partition continues at the bell AT, or at the first bell after its late restore (R297). -/
def State.resumeAtBell (s : State) (p : Prt) : State :=
  if s.resumesNow p then
    let s := (s.put PROC_PART_CFG.STATE psRunning p).modPart p (fun x => { x with resuming := false, restored := false })
    (s.regionsOf p).foldl (fun s r => s.setSeq r s.regions[r].savedSeq) s
  else s

/-- A partition at a bell. -/
def State.partBell (s : State) (m : BellMsg) (p : Prt) : State :=
  (((((s.holdPart m p).resumeAtBell p).stopAtBell p).serveBell p)).beginBlocks p

/-- The first bell ends STARTUP (R342). -/
def State.endStartup (s : State) : State := (s.put PH_MODE.STARTUP 0).syncStrict

/-- What every bell does, once its registers are set. -/
def State.atBell (s : State) (m : BellMsg) (x : Sensors) : State :=
  let s := (s.powerBell x).hedgeBell.cxlBell.peerBell.ownBell.routeBell
  let s := allLinks.foldl (fun s (l : Lnk) => s.linkBell l x) s
  let s := s.schedBell.publish
  let s := allRegions.foldl (fun s (r : Rgn) => s.modRegion r (fun g => { g with poison := g.poison ||| m.poisonVote, lastUse := 0 })) s
  let s := allRegions.foldl (fun s (p : Prt) => s.partBell m p) s
  s.endStartup.phBell.pairBell.hardenBell.graftBell.imageBell.recordRepairs

/-- BELL_FIRE (R30, R40, R55): the bell that is held fires; every at-bell action applies; the mirror shows the closed
period (R350). -/
def State.bellFire (s : State) (x : Sensors) : State :=
  match s.hub.pendingBell with
  | none => s
  | some m =>
    let s := (((s.latchBell).bellRegs m).electBell m).atBell m x
    s.mirror (s.get STAT_SEQ.PERIOD_NUM)
def execBellFire (x : Sensors) (s : State) : Host.Outcome State Fault Refusal := .next (s.bellFire x)

/-- BELL (R31, R33, R35, R240, R246): the first valid frame of a period is forwarded and waits for its fire time; one
that comes after its fire time fires on arrival. -/
def State.bell (s : State) (l : Lnk) (f : Flit) (v1 v2 : FlitCheck) (residence : List Nat) (x : Sensors) : State :=
  s.vc7Frame l ftBell f v1 v2 (fun s =>
    let m := bellOf f.payload
    if m.fireDelay.toNat ≠ s.get HUB_BELL_TIMING.FIRE_DELAY_NS ∨ 16 ≤ m.flags.toNat then s.bump HUB_BELL_ERR.MISSED
    else if !s.newPeriod m.periodNum.toNat then s
    else if s.fireDelay8 < m.pathDelay.toNat then
      ((s.takeBell l m residence).bump HUB_BELL_ERR.LATE_ARRIVE).bellFire x
    else s.takeBell l m residence)
def execBell (l : Lnk) (f : Flit) (v1 v2 : FlitCheck) (residence : List Nat) (x : Sensors) (s : State) :
    Host.Outcome State Fault Refusal := .next (s.bell l f v1 v2 residence x)

/-- MISSED_BELL_TIMEOUT (R48): partitions of jobs over several modules are desynchronized; the module rejoins by roll
call. DESIGN CHOICE (log entry 15): a partition whose MULTI is clear waits at its bell wait, and that wait is no hold in
the sense of R42, R54 and R56: HELD, HOLD_CNT, CONSEC and the idle cause hold stay as they are. -/
def State.missedBell (s : State) : State :=
  if s.complete && !s.bit HUB_BELL_STATUS.IS_MASTER && s.hub.pendingBell.isNone then
    let s := (s.bump HUB_BELL_ERR.MISSED).put HUB_BELL_STATUS.SYNCED 0
    let s := allRegions.foldl (fun s (p : Prt) =>
      if s.bit PROC_PART_CFG.MULTI p && (s.partState p == psLoaded || s.partState p == psRunning || s.restoreLate p) then
        (s.put PROC_PART_STAT.DESYNC 1 p).beginTeardown p 2
      else s) s
    (s.modHub (fun h => { h with bellsLost := true })).restartRoll
  else s
def execMissedBellTimeout (s : State) : Host.Outcome State Fault Refusal := .next s.missedBell

/-- LOCAL_TICK (R344, R345, R369): without bells the hub paces the timeouts and the mirror itself. -/
def State.localTick (s : State) : State :=
  if s.hub.powered && (!s.hub.fired || s.hub.bellsLost || s.dormant) then
    let s := (s.modHub (fun h => { h with ticks := h.ticks + 1 })).phBell
    s.mirror (s.hub.ticks + 2 ^ 63)
  else s
def execLocalTick (s : State) : Host.Outcome State Fault Refusal := .next s.localTick

end Sys2Proof.Machine
end

