-- ==== Sys2Proof/Machine/Conv.lean ====
section
/-!
DEFINITION. Sequence convolution: CONV_DIRECT with MIX and halos, CONV_FFT, CONV_4STEP (R180-R189, R207).
-/
namespace Sys2Proof.Machine

/-- PARAM fields of the convolution family (Table 8.8). -/
def convTaps (c : Cmd) : Nat := bitsAt c.w4 0 17
def convHalo (c : Cmd) : Bool := flag c.w4 17
def convPass (c : Cmd) : Nat := bitsAt c.w4 23 2
def convLog1 (c : Cmd) : Nat := bitsAt c.w5 0 4
def convLog2 (c : Cmd) : Nat := bitsAt c.w5 4 4
def convIndex0 (c : Cmd) : Nat := bitsAt c.w5 8 12

/-- Formats of a convolution's input, and of its output (R181). -/
def convIn (f : Nat) : Bool := f == fmtFP32 || f == fmtBF16 || f == fmtFP16

/-- Bits outside Table 8.8, and a halo without a preceding row (R187, R207). -/
def convParam (c : Cmd) : List Nat :=
  bad (bitsAt c.w4 25 7 != 0 || bitsAt c.w5 20 12 != 0 || c.w6 != 0 || c.w7 != 0 ||
    (convHalo c && convTaps c == 1)) 0x0C

/-- Least power of two at or above n, as a logarithm, from k up. -/
def log2Up : Nat → Nat → Nat → Nat
  | 0, _, k => k
  | f + 1, n, k => if n ≤ 2 ^ k then k else log2Up f n (k + 1)

/-- log2 L of the FFT path (R182). -/
def convLogL (n t : Nat) : Nat := log2Up 30 (max 256 (n + t - 1)) 0

/-- Checks of a filter over a stripe (R180-R182, R187). -/
def stripeCodes (x : Ctx) (maxTaps : Nat) (lengthOk : Bool) : List Nat :=
  let c := x.c
  let a := x.d 0 0
  let f := x.d 1 0
  let y := x.d 2 0
  let h := x.d 2 1
  let t := convTaps c
  let halo := convHalo c && t != 1
  convParam c ++
  bad (!convIn a.format || !(f.format == fmtFP32 || f.format == a.format) || !convIn y.format ||
    (halo && h.format != a.format)) 5 ++
  bad (t == 0 || maxTaps < t || !lengthOk || 32768 < a.size 0 || 2 < a.rank || 2 < f.rank || 2 < y.rank ||
    f.size 0 != a.size 0 || f.size 1 != t || y.size 0 != a.size 0 || y.size 1 != a.size 1 ||
    (halo && (3 < h.rank || h.size 0 != a.size 0 || h.size 1 != t - 1 || h.size 2 != 2))) 0x0B ++
  bad (4194304 < a.size 1) 0x0A ++
  bad (halo && !inSram x.r h.base (h.base + h.span)) 6

/-- Checks of CONV_DIRECT; with MIX those of a product (R186). -/
def convDirectCodes (x : Ctx) : List Nat :=
  if convMix x.c then
    convParam x.c ++ bad (convTaps x.c != 1 || convHalo x.c) 0x0C ++ productCodes (x.d 0 0) (x.d 1 0) (x.d 2 0)
  else stripeCodes x 64 true

/-- Input x at a position that may lie before the stripe (R180, R187). -/
def convAt (x : Ctx) (c t j : Nat) : Num :=
  if j ≤ t then readAt x.rd (x.d 0 0) c (t - j) 0
  else if convHalo x.c then readAt x.rd (haloHalf (x.d 2 1) x.e.beta) c (t + convTaps x.c - 1 - j) 0
  else .zero

/-- Counts of a convolution (R208). -/
def convCounts (x : Ctx) (positions : Nat) : List Post :=
  [.live CE_CNT.POSITIONS x.r (x.e.eng - 28) 0 positions,
   .live CE_CNT.HALO_READS x.r (x.e.eng - 28) 0 (if convHalo x.c then 1 else 0)]

/-- The effect of CONV_DIRECT (R183, R186). -/
def convDirectEffect (x : Ctx) : Effect :=
  let y := x.d 2 0
  if convMix x.c then
    { posts := productPosts x (x.d 0 0) (x.d 1 0) y ++
        [.live ME_FEED_CNT.TILES x.r (convMe x.c) 0 (tiles (y.size 1) * tiles (y.size 0) * y.size 2),
         x.pauses (convMe x.c)] ++
        convCounts x y.count }
  else
    let f := x.d 1 0
    { posts := x.form y (fun n => dot32 (Acc32.of .zero) ((List.range (convTaps x.c)).map (fun j =>
        (readAt x.rd f (y.index n 0) j 0, convAt x (y.index n 0) (y.index n 1) j)))) ++ convCounts x y.count }

/-- CONV_DIRECT. -/
def execConvDirect (r : Rgn) (k : Fin 2) (x : EngCheck) (s : State) : Host.Outcome State Fault Refusal :=
  .next ((s.issue r (28 + k.val) 0x30 (convReady r) Ctx.plainRanges convDirectCodes convDirectEffect).checkUnit r
    (28 + k.val) s.ticket x)

/-- Checks of CONV_FFT. -/
def convFftCodes (x : Ctx) : List Nat :=
  bad (convMix x.c) 0x0C ++
  stripeCodes x 65536 (decide (convLogL ((x.d 0 0).size 1) (convTaps x.c) ≤ 16))

/-- Sum of exact values. -/
def exactSum (xs : List Num) : Num := xs.foldl (fun a v => a.add v) .zero

/-- A free value within a tolerance of a reference, else the reference in FP32; a reference beyond FP32 marks either
(R73). -/
def nearRef (free ref tol : Num) : Acc32 :=
  let r := Acc32.round ref
  if free.isFinite && (free.sub ref).abs.le tol then { r with val := free } else r

/-- An FFT output (R183): free, a function of its channel's inputs, within the bound where those are finite. -/
def fftValue (x : Ctx) (c t : Nat) : Acc32 :=
  let n := (x.d 0 0).size 1
  let taps := convTaps x.c
  let f := (List.range taps).map (fun j => readAt x.rd (x.d 1 0) c j 0)
  let all := (List.range (n + taps - 1)).map (fun p => convAt x c p (taps - 1))
  let window := (List.range taps).map (fun j => convAt x c t j)
  let free := ofBits32 (Config.fft 0x31 t ((f ++ all).map bits32))
  if (f ++ all).all Num.isFinite then
    let ref := exactSum ((f.zip window).map (fun p => p.1.mul p.2))
    let top := window.foldl (fun a v => a.max v.abs) .zero
    let tol := ((exactSum (f.map Num.abs)).mul top).mul (.fin false (convLogL n taps) (-21))
    nearRef free ref tol
  else aOf free

/-- The effect of CONV_FFT. -/
def convFftEffect (x : Ctx) : Effect :=
  let y := x.d 2 0
  { posts := x.form y (fun n => fftValue x (y.index n 0) (y.index n 1)) ++ convCounts x y.count }

/-- CONV_FFT. -/
def execConvFft (r : Rgn) (k : Fin 2) (x : EngCheck) (s : State) : Host.Outcome State Fault Refusal :=
  .next ((s.issue r (28 + k.val) 0x31 unitFree Ctx.plainRanges convFftCodes convFftEffect).checkUnit r
    (28 + k.val) s.ticket x)

/-- Length of the transforms of a pass (Table 8.2). -/
def passLength (c : Cmd) : Nat := if convPass c = 0 ∨ convPass c = 3 then 2 ^ convLog1 c else 2 ^ convLog2 c

/-- Checks of CONV_4STEP (R181, R182, R185). -/
def conv4stepCodes (x : Ctx) : List Nat :=
  let c := x.c
  let a := x.d 0 0
  let y := x.d 2 0
  let f := x.d 1 0
  let real (d : Desc) : Bool := d.size 0 == 1
  let same (d e : Desc) : Bool := (List.range 5).all (fun k => k == 0 || d.size k == e.size k)
  let l1 := convLog1 c
  let l2 := convLog2 c
  convParam c ++
  bad (convMix c || l1 < 8 || 12 < l1 || l2 < 8 || 12 < l2 || l1 + l2 < 17 || 23 < l1 + l2) 0x0C ++
  bad (convTaps c != 0 || convHalo c || 32768 < a.size 3 || a.size 1 != passLength c || !same a y ||
    !(a.size 0 == 2 || (convPass c == 0 && real a)) || (if convPass c = 3 then !real y else y.size 0 != 2) ||
    (convPass c == 2 && (f.size 0 != 2 || !same a f))) 0x0B ++
  bad (!(if real a then convIn a.format else a.format == fmtFP32) ||
    !(if convPass c = 3 then convIn y.format else y.format == fmtFP32) ||
    (convPass c == 2 && f.format != fmtFP32)) 5

/-- Complex values: their sum, their product, and the sum of the magnitudes of their parts. -/
def cxAdd (a b : Num × Num) : Num × Num := (a.1.add b.1, a.2.add b.2)
def cxMul (a b : Num × Num) : Num × Num := ((a.1.mul b.1).sub (a.2.mul b.2), (a.1.mul b.2).add (a.2.mul b.1))
def cxSize (zs : List (Num × Num)) : Num := exactSum (zs.map (fun z => z.1.abs.add z.2.abs))

/-- e^(-2 pi i m / 2^k), or its conjugate, to the precision of the references. -/
def twiddle (inverse : Bool) (k m : Nat) : Num × Num :=
  let f := m % 2 ^ k * 2 ^ (32 - k)
  (cosTurns f, if inverse then sinTurns f else (sinTurns f).neg)

/-- Element j of the transform of length 2^k of a line. -/
def dftAt (inverse : Bool) (k : Nat) (zs : List (Num × Num)) (j : Nat) : Num × Num :=
  (List.range zs.length).foldl (fun a i => cxAdd a (cxMul (zs.getD i (.zero, .zero)) (twiddle inverse k (i * j))))
    (.zero, .zero)

/-- The exact element i of the transform that a pass makes of a line (Table 8.2), index fixed as its rows say, and the
magnitude that its error is measured by: the sum of the magnitudes of what is added up. -/
def passRef (c : Cmd) (fixed i : Nat) (zs spectrum : List (Num × Num)) : (Num × Num) × Num :=
  let l1 := convLog1 c
  let l2 := convLog2 c
  match convPass c with
  | 0 => (cxMul (dftAt false l1 zs i) (twiddle false (l1 + l2) (i * fixed)), (cxSize zs).mul (.fin false l1 0))
  | 1 => (dftAt false l2 zs i, (cxSize zs).mul (.fin false l2 0))
  | 2 =>
    let ws := (List.range (2 ^ l2)).map (fun k => cxMul (dftAt false l2 zs k) (spectrum.getD k (.zero, .zero)))
    (cxMul (dftAt true l2 ws i) (twiddle true (l1 + l2) (i * fixed)),
     ((cxSize zs).mul (cxSize spectrum)).mul (.fin false (2 * l2) 0))
  | _ =>
    let v := dftAt true l1 zs i
    ((v.1.scale (-((l1 + l2 : Nat) : Int)), .zero), ((cxSize zs).mul (.fin false l1 0)).scale (-((l1 + l2 : Nat) : Int)))

/-- One output element of a pass (R183, R185): free, a function of its transform's inputs and of the pass, within 2^-21
times the magnitude of the pass of the exact value where the inputs are finite (log entry 11). -/
def passValue (x : Ctx) (n : Nat) : Acc32 :=
  let y := x.d 2 0
  let line (d : Desc) : List (Num × Num) := (List.range (d.size 1)).map (fun i =>
    let part (h : Nat) : Num :=
      if h < d.size 0 then readElem x.rd d (d.linear h i (y.index n 2) (y.index n 3) (y.index n 4)) else .zero
    (part 0, part 1))
  let c := x.c
  let zs := line (x.d 0 0)
  let spectrum := if convPass c = 2 then line (x.d 1 0) else []
  let ins := (zs ++ spectrum).flatMap (fun z => [z.1, z.2])
  let fixed := convIndex0 c + y.index n 2
  let free := ofBits32 (Config.fft (0x3200 + convPass c) (y.index n 0 + 2 * y.index n 1)
    (c.word5 :: BitVec.ofNat 32 fixed :: ins.map bits32))
  if ins.all Num.isFinite then
    let p := passRef c fixed (y.index n 1) zs spectrum
    nearRef free (if y.index n 0 = 0 then p.1.1 else p.1.2) (p.2.scale (-21))
  else aOf free

/-- The effect of CONV_4STEP. -/
def conv4stepEffect (x : Ctx) : Effect :=
  let y := x.d 2 0
  { posts := x.form y (fun n => passValue x n) ++ convCounts x (y.count / y.size 0) }

/-- CONV_4STEP. -/
def execConv4step (r : Rgn) (k : Fin 2) (x : EngCheck) (s : State) : Host.Outcome State Fault Refusal :=
  .next ((s.issue r (28 + k.val) 0x32 unitFree Ctx.plainRanges conv4stepCodes conv4stepEffect).checkUnit r
    (28 + k.val) s.ticket x)

end Sys2Proof.Machine
end

