-- ==== Sys2Proof/Machine/Deliver.lean ====
section
/-!
DEFINITION. A sequenced flit from its arrival to its delivery (R237, R239, R241, R246, R251, R253), error frames, Icholt's
messages (R52, R303, R309), and the tick of the clocks (R53, R54).
-/
namespace Sys2Proof.Machine

/-- Whether a TYPE is listed and its VC falls in its row (Table 10.2, R237). -/
def typeOk (h : FlitHdr) : Bool :=
  let v := h.vc.toNat
  match h.type.toNat with
  | 0 => true
  | 1 => decide (v ≤ 5)
  | 2 => decide (v ≤ 5)
  | 3 => decide (v ≤ 5)
  | 4 => decide (v ≤ 4)
  | 5 => v == 7
  | 6 => v == 7
  | 7 => v == 6
  | 8 => v == 6
  | 9 => v == 5
  | 10 => v == 6
  | 11 => true
  | _ => false

/-- Whether a TYPE travels unsequenced (Table 10.2). -/
def unsequenced (h : FlitHdr) : Bool := [ftIdle, ftBell, ftReport, ftNak].contains h.type.toNat

/-- Whether a flit is one of the kinds a link accepts before START (R246). -/
def beforeStart (f : Flit) : Bool :=
  f.hdr.type.toNat == ftRollCall || (f.hdr.type.toNat == ftMgmt && (leAt f.payload 0 1 == 1 || leAt f.payload 0 1 == 2))

/-- The error frame in an ERROR flit (Table 10.6). -/
def errorOf (f : Flit) : ErrMsg :=
  { dest := f.hdr.dest, code := BitVec.ofNat 8 (leAt f.payload 0 1), offender := hdrOf (leAt f.payload 4 12)
    detail := BitVec.ofNat 64 (leAt f.payload 20 8) }

/-- An error frame for this module (R253, R346): a copy of the offending flit fails at its commit; the fabric post that
drew the frame records REJECTED, DORMANT or another error. -/
def State.errorFrame (s : State) (m : ErrMsg) : State :=
  let s := s.failCopies m.offender m.detail.toNat
  if m.offender.type.toNat == ftMgmt && m.offender.dest.toNat == s.get PH_FSEND.DEST then
    s.fpostAnswer (fpostStatus m.code.toNat)
  else s

/-- ERROR: a frame for another module is not this event (log entry 5). -/
def execError (l : Lnk) (m : ErrMsg) (s : State) : Host.Outcome State Fault Refusal :=
  .next (s.started l (fun s => if m.dest.toNat = s.addr then s.errorFrame m else s))

/-- A roll-call frame by its kind (Table 10.4); a reserved kind has no effect. -/
def State.rollCall (s : State) (l : Lnk) (f : Flit) (residence : List Nat) : State :=
  let m := (rollOf f.payload).2
  match (rollOf f.payload).1 with
  | 1 => s.hello l m
  | 2 => s.claim l m
  | 3 => s.bindFrame l m residence
  | 4 => s.probeFrame l m residence
  | 5 => s.readyFrame l m
  | 6 => s.startFrame l m
  | _ => s

/-- An MGMT flit by its kind (Table 14.4). A message between Icholts has no layout in the spec: the row ICHOLT carries
it; a reserved kind has no effect. -/
def State.mgmt (s : State) (l : Lnk) (f : Flit) : State :=
  let time := leAt f.payload 8 8
  let residence := leAt f.payload 16 4
  match leAt f.payload 0 1 with
  | 0x01 => s.timingProbe l time 0
  | 0x02 => s.echoAndGreet l time residence (s.now * 40 / 9)
  | 0x10 => s.phPostIn l f
  | 0x11 => s.phAck (leAt f.payload 1 1)
  | _ => s

/-- A DRAIN frame by its kind (Table 13.2); a reserved kind is answered BAD_TYPE (R316). -/
def State.drain (s : State) (l : Lnk) (f : Flit) : State :=
  let m := (drainOf f).2
  let r := linkRegion l
  s.unlessTorn m (fun s => match (drainOf f).1 with
    | 1 => s.storeBegin r m
    | 2 => s.storeData m
    | 3 => s.digestFrame m
    | 4 => s.storeEnd r m
    | 5 => s.drainCommit m
    | 6 => s.drainReject m
    | 7 => s.pair l m
    | 8 => s.pairAck m
    | 9 => s.restoreReq r m
    | 10 => s.restoreData m
    | _ => s.refuseFlit (some l) r f 6 0)

/-- A flit for this module by its TYPE; WRITE, READ_REQ and COLLECTIVE may keep their receive buffer. -/
def State.deliver (s : State) (l : Lnk) (f : Flit) (residence : List Nat) : State :=
  match f.hdr.type.toNat with
  | 3 => s.readResp f
  | 7 => s.rollCall l f residence
  | 8 => s.mgmt l f
  | 9 => s.drain l f
  | 10 => s.errorFrame (errorOf f)
  | _ => s

/-- An accepted flit: refused with BAD_TYPE, delivered, or routed on; its receive buffer is free once it has left it
(R237, R239, R246, R251, R253). -/
def State.arrive (s : State) (l : Lnk) (f : Flit) (residence : List Nat) : State :=
  let r := linkRegion l
  let buffer := bufferOf l f
  if !s.complete && !beforeStart f then (s.bump LNK_RC.NONRC 1 l).returnCredit buffer
  else if !typeOk f.hdr then (s.refuseFlit (some l) r f 6 0).returnCredit buffer
  else if f.hdr.dest.toNat = s.addr ∨ f.hdr.dest.toNat = 0xFFFF then
    if f.hdr.type.toNat = ftCollective then s.collArrive l f buffer
    else if f.hdr.type.toNat = ftWrite ∨ f.hdr.type.toNat = ftReadReq then s.peerRequest l buffer f
    else (s.deliver l f residence).returnCredit buffer
  else match s.forward r f buffer with
    | (t, none) => t
    | (t, some code) => (t.refuseFlit (some l) r f code (detailOf f)).returnCredit buffer

/-- One NAK until the gap closes (R241). -/
def State.nakOnce (s : State) (l : Lnk) : State :=
  if s.links[l].nakSent then s else (s.bareFlit l ftNak).modLink l (fun x => { x with nakSent := true })

/-- SEQUENCED_FLIT (R236, R237, R241): a flit with a bad CRC or under a bad codeword counts and is discarded; the ACK of a
good one is applied, and the flit is accepted, with the credits it returns, when its SEQ is the expected one. Another TYPE
is not this event (log entry 5). -/
def State.sequencedFlit (s : State) (l : Lnk) (f : Flit) (v : FlitCheck) (residence : List Nat) : State :=
  let st := s.get LNK_STAT.STATE l
  if unsequenced f.hdr || st == lkDown || st == lkFailed then s
  else if checkOf f v ≠ .good then (s.countCheck l (checkOf f v)).nakOnce l
  else if f.hdr.seq.toNat ≠ s.links[l].rxSeq then (s.applyAck l f.hdr).nakOnce l
  else
    let s := s.applyHeader l f.hdr
    (s.modLink l (fun x => { x with rxSeq := (x.rxSeq + 1) % 16384, nakSent := false })).arrive l f residence
def execSequencedFlit (l : Lnk) (f : Flit) (v : FlitCheck) (residence : List Nat) (s : State) :
    Host.Outcome State Fault Refusal := .next (s.sequencedFlit l f v residence)

/-- ICHOLT (R52, R303, R309): the master's Icholt writes a carried period to the master's register and returns a refusal;
an agreed interval is written; a teardown notice tears down. -/
def State.icholtMessage (s : State) (m : IcholtMsg) : State :=
  match m with
  | .periodChange src v =>
    if s.bit HUB_BELL_STATUS.IS_MASTER then
      let t := s.writePeriod v.toNat
      if s.periodOk v.toNat then t else t.emit (.icholt src.toNat .periodRefused)
    else s
  | .periodRefused => s
  | .secAgree tag atStep interval =>
    match s.partOfTag tag.toNat with
    | some p => s.setInterval p atStep.toNat interval.toNat
    | none => s
  | .teardownNotice tag => s.teardownNotice tag.toNat
def execIcholt (m : IcholtMsg) (s : State) : Host.Outcome State Fault Refusal := .next (s.icholtMessage m)

end Sys2Proof.Machine
end

