-- ==== Sys2Proof/Machine/Dispatch.lean ====
section
/-!
DEFINITION. The dispatcher: one arm per constructor of `Instr`, each a direct call of its meaning.
-/
namespace Sys2Proof.Machine

/-- The effect of a command on everything but the queue. -/
def exec (i : Instr) (s : State) : Host.Outcome State Fault Refusal :=
  match i with
  | .bell l f v1 v2 residence x => Sys2Proof.Machine.execBell l f v1 v2 residence x s
  | .bellFire x => Sys2Proof.Machine.execBellFire x s
  | .samplePoint => Sys2Proof.Machine.execSamplePoint s
  | .report l f v1 v2 => Sys2Proof.Machine.execReport l f v1 v2 s
  | .bellSend => Sys2Proof.Machine.execBellSend s
  | .overrunWarning => Sys2Proof.Machine.execOverrunWarning s
  | .stall p => Sys2Proof.Machine.execStall p s
  | .substituteBell elapsed => Sys2Proof.Machine.execSubstituteBell elapsed s
  | .missedBellTimeout => Sys2Proof.Machine.execMissedBellTimeout s
  | .localTick => Sys2Proof.Machine.execLocalTick s
  | .hubBellPeriodWrite a v => Sys2Proof.Machine.execHubBellPeriodWrite a v s
  | .ownReq g => Sys2Proof.Machine.execOwnReq g s
  | .hostOk a g => Sys2Proof.Machine.execHostOk a g s
  | .zeroFillComplete g => Sys2Proof.Machine.execZeroFillComplete g s
  | .cxlMemRead dpa n => Sys2Proof.Machine.execCxlMemRead dpa n s
  | .cxlMemWrite dpa bytes => Sys2Proof.Machine.execCxlMemWrite dpa bytes s
  | .go r => Sys2Proof.Machine.execGo r s
  | .dispatch r => Sys2Proof.Machine.execDispatch r s
  | .nop r rd rs imm => Sys2Proof.Machine.execNop r rd rs imm s
  | .li r rd rs imm => Sys2Proof.Machine.execLi r rd rs imm s
  | .lih r rd rs imm => Sys2Proof.Machine.execLih r rd rs imm s
  | .addi r rd rs imm => Sys2Proof.Machine.execAddi r rd rs imm s
  | .shli r rd rs imm => Sys2Proof.Machine.execShli r rd rs imm s
  | .shri r rd rs imm => Sys2Proof.Machine.execShri r rd rs imm s
  | .add r rd rs rt low => Sys2Proof.Machine.execAdd r rd rs rt low s
  | .sub r rd rs rt low => Sys2Proof.Machine.execSub r rd rs rt low s
  | .mul r rd rs rt low => Sys2Proof.Machine.execMul r rd rs rt low s
  | .and r rd rs rt low => Sys2Proof.Machine.execAnd r rd rs rt low s
  | .or r rd rs rt low => Sys2Proof.Machine.execOr r rd rs rt low s
  | .xor r rd rs rt low => Sys2Proof.Machine.execXor r rd rs rt low s
  | .slt r rd rs rt low => Sys2Proof.Machine.execSlt r rd rs rt low s
  | .beq r rs rt off => Sys2Proof.Machine.execBeq r rs rt off s
  | .bne r rs rt off => Sys2Proof.Machine.execBne r rs rt off s
  | .blt r rs rt off => Sys2Proof.Machine.execBlt r rs rt off s
  | .loop r rs rt off => Sys2Proof.Machine.execLoop r rs rt off s
  | .jmp r rs rt off => Sys2Proof.Machine.execJmp r rs rt off s
  | .bflag r flag off => Sys2Proof.Machine.execBflag r flag off s
  | .bnflag r flag off => Sys2Proof.Machine.execBnflag r flag off s
  | .cmdw r rd rs imm => Sys2Proof.Machine.execCmdw r rd rs imm s
  | .rdtok r rd rs imm => Sys2Proof.Machine.execRdtok r rd rs imm s
  | .rdstat r rd rs imm => Sys2Proof.Machine.execRdstat r rd rs imm s
  | .matmul r e x => Sys2Proof.Machine.execMatmul r e x s
  | .accOut r e x => Sys2Proof.Machine.execAccOut r e x s
  | .accClear r e => Sys2Proof.Machine.execAccClear r e s
  | .attFwd r k x y => Sys2Proof.Machine.execAttFwd r k x y s
  | .attBwd r k x y => Sys2Proof.Machine.execAttBwd r k x y s
  | .convDirect r k x => Sys2Proof.Machine.execConvDirect r k x s
  | .convFft r k x => Sys2Proof.Machine.execConvFft r k x s
  | .conv4step r k x => Sys2Proof.Machine.execConv4step r k x s
  | .pwMap r k x => Sys2Proof.Machine.execPwMap r k x s
  | .pwNorm r k x => Sys2Proof.Machine.execPwNorm r k x s
  | .pwDropout r k x => Sys2Proof.Machine.execPwDropout r k x s
  | .pwMask r k x => Sys2Proof.Machine.execPwMask r k x s
  | .pwReduce r k x => Sys2Proof.Machine.execPwReduce r k x s
  | .pwConvert r k x => Sys2Proof.Machine.execPwConvert r k x s
  | .vocGather r x => Sys2Proof.Machine.execVocGather r x s
  | .vocXent r x => Sys2Proof.Machine.execVocXent r x s
  | .vocScatter r x => Sys2Proof.Machine.execVocScatter r x s
  | .copy r k x => Sys2Proof.Machine.execCopy r k x s
  | .copyT r k x => Sys2Proof.Machine.execCopyT r k x s
  | .digest r k x => Sys2Proof.Machine.execDigest r k x s
  | .descLoad r k x => Sys2Proof.Machine.execDescLoad r k x s
  | .seUpdate k x => Sys2Proof.Machine.execSeUpdate k x s
  | .seAccum k x => Sys2Proof.Machine.execSeAccum k x s
  | .seAppend k x => Sys2Proof.Machine.execSeAppend k x s
  | .seScatterAdd k x => Sys2Proof.Machine.execSeScatterAdd k x s
  | .seDrain k x => Sys2Proof.Machine.execSeDrain k x s
  | .seFlip k => Sys2Proof.Machine.execSeFlip k s
  | .seFill k x => Sys2Proof.Machine.execSeFill k x s
  | .lcReduceScatter l x => Sys2Proof.Machine.execLcReduceScatter l x s
  | .lcGather l x => Sys2Proof.Machine.execLcGather l x s
  | .lcGatherHier l x => Sys2Proof.Machine.execLcGatherHier l x s
  | .lcAllToAll l x => Sys2Proof.Machine.execLcAllToAll l x s
  | .lcAddFwd l x => Sys2Proof.Machine.execLcAddFwd l x s
  | .lcSend l x => Sys2Proof.Machine.execLcSend l x s
  | .lcRecv l x => Sys2Proof.Machine.execLcRecv l x s
  | .bellWait r c => Sys2Proof.Machine.execBellWait r c s
  | .setStep r c => Sys2Proof.Machine.execSetStep r c s
  | .clearPoison r c => Sys2Proof.Machine.execClearPoison r c s
  | .endCmd r c => Sys2Proof.Machine.execEndCmd r c s
  | .tokSet r c => Sys2Proof.Machine.execTokSet r c s
  | .tokRemote r c => Sys2Proof.Machine.execTokRemote r c s
  | .fence r c => Sys2Proof.Machine.execFence r c s
  | .phase r c => Sys2Proof.Machine.execPhase r c s
  | .milestone r c => Sys2Proof.Machine.execMilestone r c s
  | .commandCommit r e => Sys2Proof.Machine.execCommandCommit r e s
  | .shadowCompare r => Sys2Proof.Machine.execShadowCompare r s
  | .patrol k offset badBits bank row => Sys2Proof.Machine.execPatrol k offset badBits bank row s
  | .linkTraining l passed polInv reversed permuted => Sys2Proof.Machine.execLinkTraining l passed polInv reversed permuted s
  | .trainingRetry l => Sys2Proof.Machine.execTrainingRetry l s
  | .timingProbe l time residence => Sys2Proof.Machine.execTimingProbe l time residence s
  | .probeEcho l time residence arrival => Sys2Proof.Machine.execProbeEcho l time residence arrival s
  | .sequencedFlit l f v residence => Sys2Proof.Machine.execSequencedFlit l f v residence s
  | .nak l ack v => Sys2Proof.Machine.execNak l ack v s
  | .replayTimeout l => Sys2Proof.Machine.execReplayTimeout l s
  | .idle l => Sys2Proof.Machine.execIdle l s
  | .laneFail l surviving => Sys2Proof.Machine.execLaneFail l surviving s
  | .linkWiden l => Sys2Proof.Machine.execLinkWiden l s
  | .error l m => Sys2Proof.Machine.execError l m s
  | .switch r => Sys2Proof.Machine.execSwitch r s
  | .hello l m => Sys2Proof.Machine.execHello l m s
  | .claim l m => Sys2Proof.Machine.execClaim l m s
  | .bind l m residence => Sys2Proof.Machine.execBind l m residence s
  | .probe l m residence => Sys2Proof.Machine.execProbe l m residence s
  | .ready l m => Sys2Proof.Machine.execReady l m s
  | .start l m => Sys2Proof.Machine.execStart l m s
  | .becomeMaster => Sys2Proof.Machine.execBecomeMaster s
  | .quietCompletion => Sys2Proof.Machine.execQuietCompletion s
  | .bellZero => Sys2Proof.Machine.execBellZero s
  | .frameRepeat l => Sys2Proof.Machine.execFrameRepeat l s
  | .timeout => Sys2Proof.Machine.execTimeout s
  | .fabricOfOne => Sys2Proof.Machine.execFabricOfOne s
  | .collective l f y => Sys2Proof.Machine.execCollective l f y s
  | .done l f => Sys2Proof.Machine.execDone l f s
  | .write l f => Sys2Proof.Machine.execWrite l f s
  | .readReq l f => Sys2Proof.Machine.execReadReq l f s
  | .readResp l f => Sys2Proof.Machine.execReadResp l f s
  | .load p => Sys2Proof.Machine.execLoad p s
  | .dbgLock p => Sys2Proof.Machine.execDbgLock p s
  | .procPartTeardown p => Sys2Proof.Machine.execProcPartTeardown p s
  | .procPreemptReq p => Sys2Proof.Machine.execProcPreemptReq p s
  | .procPreemptResume p => Sys2Proof.Machine.execProcPreemptResume p s
  | .saveComplete p => Sys2Proof.Machine.execSaveComplete p s
  | .restoreComplete p => Sys2Proof.Machine.execRestoreComplete p s
  | .preemptTimeout p => Sys2Proof.Machine.execPreemptTimeout p s
  | .contextTeardown p cause => Sys2Proof.Machine.execContextTeardown p cause s
  | .teardownEnd p => Sys2Proof.Machine.execTeardownEnd p s
  | .regionIsolation r => Sys2Proof.Machine.execRegionIsolation r s
  | .teardownNotice tag => Sys2Proof.Machine.execTeardownNotice tag s
  | .arm p => Sys2Proof.Machine.execArm p s
  | .flr f => Sys2Proof.Machine.execFlr f s
  | .begin l m => Sys2Proof.Machine.execBegin l m s
  | .data l m => Sys2Proof.Machine.execData l m s
  | .digestFrame l m => Sys2Proof.Machine.execDigestFrame l m s
  | .endFrame l m => Sys2Proof.Machine.execEndFrame l m s
  | .commit l m => Sys2Proof.Machine.execCommit l m s
  | .reject l m => Sys2Proof.Machine.execReject l m s
  | .pairRequest r t => Sys2Proof.Machine.execPairRequest r t s
  | .pair l m => Sys2Proof.Machine.execPair l m s
  | .pairAck l m => Sys2Proof.Machine.execPairAck l m s
  | .pairTimeout r t => Sys2Proof.Machine.execPairTimeout r t s
  | .restoreReq l m => Sys2Proof.Machine.execRestoreReq l m s
  | .restoreData l m => Sys2Proof.Machine.execRestoreData l m s
  | .positionFailed addr => Sys2Proof.Machine.execPositionFailed addr s
  | .graft addr spare via => Sys2Proof.Machine.execGraft addr spare via s
  | .graftGo => Sys2Proof.Machine.execGraftGo s
  | .hardenReq => Sys2Proof.Machine.execHardenReq s
  | .unitAdmit => Sys2Proof.Machine.execUnitAdmit s
  | .hardenRetry kind region index => Sys2Proof.Machine.execHardenRetry kind region index s
  | .intervalUpdate p m => Sys2Proof.Machine.execIntervalUpdate p m s
  | .completion r k status bytes => Sys2Proof.Machine.execCompletion r k status bytes s
  | .identifyMemoryDevice => Sys2Proof.Machine.execIdentifyMemoryDevice s
  | .getPartitionInfo => Sys2Proof.Machine.execGetPartitionInfo s
  | .getHealthInfo => Sys2Proof.Machine.execGetHealthInfo s
  | .getEventRecords => Sys2Proof.Machine.execGetEventRecords s
  | .clearEventRecords => Sys2Proof.Machine.execClearEventRecords s
  | .getSupportedLogs => Sys2Proof.Machine.execGetSupportedLogs s
  | .getLog id => Sys2Proof.Machine.execGetLog id s
  | .getPoisonList => Sys2Proof.Machine.execGetPoisonList s
  | .getTimestamp => Sys2Proof.Machine.execGetTimestamp s
  | .setTimestamp t => Sys2Proof.Machine.execSetTimestamp t s
  | .unsupportedMailboxCommand op => Sys2Proof.Machine.execUnsupportedMailboxCommand op s
  | .assemblyWrite a n word v => Sys2Proof.Machine.execAssemblyWrite a n word v s
  | .post a n v => Sys2Proof.Machine.execPost a n v s
  | .phTimeout n => Sys2Proof.Machine.execPhTimeout n s
  | .fabricPost => Sys2Proof.Machine.execFabricPost s
  | .phPost l src n msg => Sys2Proof.Machine.execPhPost l src n msg s
  | .phAck l n => Sys2Proof.Machine.execPhAck l n s
  | .fabricPostTimeout => Sys2Proof.Machine.execFabricPostTimeout s
  | .loadJob n pkg plan => Sys2Proof.Machine.execLoadJob n pkg plan s
  | .preempt n => Sys2Proof.Machine.execPreempt n s
  | .resume n => Sys2Proof.Machine.execResume n s
  | .teardown n => Sys2Proof.Machine.execTeardown n s
  | .lend n => Sys2Proof.Machine.execLend n s
  | .reclaim n => Sys2Proof.Machine.execReclaim n s
  | .setK n => Sys2Proof.Machine.execSetK n s
  | .dormant n => Sys2Proof.Machine.execDormant n s
  | .mctpRequest q => Sys2Proof.Machine.execMctpRequest q s
  | .pldmUpdate h => Sys2Proof.Machine.execPldmUpdate h s
  | .activateFirmware => Sys2Proof.Machine.execActivateFirmware s
  | .trialCommit => Sys2Proof.Machine.execTrialCommit s
  | .trialFail => Sys2Proof.Machine.execTrialFail s
  | .subInterval energy => Sys2Proof.Machine.execSubInterval energy s
  | .allotmentReached c plus5 => Sys2Proof.Machine.execAllotmentReached c plus5 s
  | .dip k level => Sys2Proof.Machine.execDip k level s
  | .dipRecovery k => Sys2Proof.Machine.execDipRecovery k s
  | .thermalTrip d => Sys2Proof.Machine.execThermalTrip d s
  | .coldReset => Sys2Proof.Machine.execColdReset s
  | .moduleReset cause => Sys2Proof.Machine.execModuleReset cause s
  | .warmReset => Sys2Proof.Machine.execWarmReset s
  | .regionReset r => Sys2Proof.Machine.execRegionReset r s
  | .hubResetModule a key => Sys2Proof.Machine.execHubResetModule a key s
  | .hubResetRegion a key sel => Sys2Proof.Machine.execHubResetRegion a key sel s
  | .bootRom => Sys2Proof.Machine.execBootRom s
  | .pwrEnAssert bladeA bladeB => Sys2Proof.Machine.execPwrEnAssert bladeA bladeB s
  | .pwrEnDeassert => Sys2Proof.Machine.execPwrEnDeassert s
  | .stackTraining failed => Sys2Proof.Machine.execStackTraining failed s
  | .dormancyEntered => Sys2Proof.Machine.execDormancyEntered s
  | .wake a => Sys2Proof.Machine.execWake a s
  | .strapSample pos feed => Sys2Proof.Machine.execStrapSample pos feed s
  | .spiOwnNFall => Sys2Proof.Machine.execSpiOwnNFall s
  | .spiOwnNRise => Sys2Proof.Machine.execSpiOwnNRise s
  | .jtagInstruction x => Sys2Proof.Machine.execJtagInstruction x s
  | .readClear a offset width => Sys2Proof.Machine.execReadClear a offset width s
  | .registerWrite a offset width v => Sys2Proof.Machine.execRegisterWrite a offset width v s
  | .idleFlit l h v => Sys2Proof.Machine.execIdleFlit l h v s
  | .standbyPowerLoss => Sys2Proof.Machine.execStandbyPowerLoss s
  | .pciePerstNRelease => Sys2Proof.Machine.execPciePerstNRelease s
  | .icholt m => Sys2Proof.Machine.execIcholt m s

end Sys2Proof.Machine
end

