-- ==== Sys2Proof/Machine/Tick.lean ====
section
/-!
DEFINITION. The tick of an empty queue: one cycle of the 1.8 GHz clock with the accounting of R53 and R54 (log entries 6
and 7).
-/
namespace Sys2Proof.Machine

/-- Whether the clock of a region has a cycle at this tick: a thermal stretch takes one cycle of four (R364), a dip takes
some of them (R362). -/
def State.regionCycle (s : State) (r : Rgn) : Bool :=
  let g := s.regions[r]
  if s.now % 4 != 3 then true
  else if g.thermStretch then false
  else if g.dipStretch then Config.freeBit s.ticket
  else true

/-- Whether an engine's own clock has a cycle at this tick: the 1.2 GHz of a stack engine in two of three, the 1.6 GHz of
a link in eight of nine, the region clock otherwise (R54). -/
def State.engineCycle (s : State) (e : Nat) (region : Bool) : Bool :=
  if e < 39 then region else if e < 45 then s.now % 3 != 2 else s.now % 9 != 8

/-- Whether the context of a region's engines is pre-empted: during a save and a restore (R54, R296). -/
def State.preempted (s : State) (p : Prt) : Bool :=
  let st := s.partState p
  st == psSaving || st == psRestoring

/-- Whether a head command waits on a token that a link transfer signals (R54, R133). -/
def State.waitsOnLink (s : State) (r : Rgn) (c : Cmd) : Bool :=
  c.waits.any (fun w =>
    decide (s.tok r w.token.toNat < ((c.waits.filter (fun x => x.token == w.token)).foldl (fun a x => a + x.count.toNat) 0)) &&
    s.get RGN_TOK.LINK r w.token.toNat == 1)

/-- The word of RGN_IDLE that a cycle of an engine counts in (R54): the first cause in the rule's order. -/
def State.cycleCause (s : State) (r : Rgn) (e : Nat) : Nat :=
  match s.partOf r with
  | none => 6
  | some p =>
    let q := s.regions[r].cmds.filter (fun x => x.eng == e)
    let runs := q.any (·.issued) || s.heldBy r e
    if s.regions[r].isolated then 6
    else if s.preempted p then 5
    else if s.seqState r == sqFault || s.partState p == psTearing then (if runs then 0 else 6)
    else match q.find? (fun x => !x.issued) with
      | none => if runs then 0 else if s.bit PROC_PART_STAT.HELD p then 3 else 6
      | some en =>
        if runs then 0
        else if !(en.consumed || s.waitsMet r en.cmd) then (if s.waitsOnLink r en.cmd then 2 else 1)
        else if s.powerOk r en.cmd then 0 else 4

/-- One tick of a region and of its engines; those of an isolated region have no work. -/
def State.tickRegion (s : State) (r : Rgn) : State :=
  let c := s.regionCycle r
  let s := if c then s.liveAdd RGN_PHASE_CNT.CYCLES 1 r s.regions[r].phase else s
  (List.range 53).foldl (fun s e =>
    if s.engineCycle e c then s.liveAdd RGN_IDLE.CYCLES 1 r e (s.cycleCause r e) else s) s

/-- A link that withholds credits for want of staging slots takes what fits by now (a teardown may have freed slots), and
counts the cycle if flits still wait (R259). -/
def State.tickLink (s : State) (l : Lnk) : State :=
  if s.links[l].backlog.isEmpty then s
  else
    let s := s.rescanAll l
    if s.links[l].backlog.isEmpty then s else s.liveAdd LNK_COLL_CNT.BP_CYCLES 1 l

/-- One tick of the links, in eight cycles of nine. -/
def State.tickLinks (s : State) : State :=
  if s.now % 9 = 8 then s else allLinks.foldl (fun s (l : Lnk) => s.tickLink l) s

/-- One tick: time goes on, and while the module is awake every cycle is counted under one phase and one cause. -/
def State.tick (s : State) : State :=
  let s := if s.get HUB_PWR_STATE.STATE = 1 ∨ s.get HUB_PWR_STATE.STATE = 2 then (allRegions.foldl (fun s r => s.tickRegion r) s).tickLinks else s
  { s with now := s.now + 1, ticket := s.ticket + 1 }

end Sys2Proof.Machine
end

