-- ==== Sys2Proof/Safety.lean ====
section
/-!
DEFINITION. The terms in which claims about the module are made: a command that completes, what every command keeps,
when the head command of an engine can issue and what its issue leaves, when a sequencer command runs.
-/
namespace Sys2Proof.Machine

/-- The command answers a next state with a property. -/
def Completes (i : Instr) (s : State) (P : State → Prop) : Prop := ∃ t, exec i s = .next t ∧ P t

/-- What whatever happens to the module keeps: the queue of waiting commands; a free value, once used, is never used
again; nothing sent is taken back; memory keeps its canonical form. -/
structure Kept (s t : State) : Prop where
  queue : t.pending = s.pending
  ticket : s.ticket ≤ t.ticket
  sent : s.out <+: t.out
  form : s.mem.wf = true → t.mem.wf = true

/-- Nothing but register fields differs. -/
structure OnlyRegs (s t : State) : Prop where
  now : t.now = s.now
  ticket : t.ticket = s.ticket
  live : t.live = s.live
  watchId : t.watchId = s.watchId
  mem : t.mem = s.mem
  badWords : t.badWords = s.badWords
  dirty : t.dirty = s.dirty
  regions : t.regions = s.regions
  parts : t.parts = s.parts
  links : t.links = s.links
  stks : t.stks = s.stks
  hub : t.hub = s.hub
  out : t.out = s.out
  pending : t.pending = s.pending

/-- Memory holds a run of bytes from an address on, and every other byte is as before. -/
def Wrote (s t : State) (a : Nat) (bs : List Byte) : Prop :=
  ∀ x, t.mem.read x = if a ≤ x ∧ x < a + bs.length then bs.getD (x - a) 0 else s.mem.read x

/-- Every register field but some named ones keeps its value, at every index below 65,536. -/
def SameRegs (s t : State) (changed : List Fld) : Prop :=
  ∀ (f : Fld) (i j k : Nat), i < 65536 → j < 65536 → k < 65536 → (∀ g ∈ changed, f.home ≠ g.home) →
    t.get f i j k = s.get f i j k

/-- What an engine sees of the head command of its queue: the descriptors latched at issue, or at its first issue when
it re-runs after a kill (R98, R136). -/
def issueCtx (s : State) (r : Rgn) (p : Prt) (en : Entry) : Ctx :=
  { s := s, r := r, p := p, e := en
    ds := if en.consumed then en.descs else en.cmd.latched.map (fun i => (i, s.desc r i)) }

/-- The head command `en` of engine e of region r, of partition p, has the opcode, and everything that R116 asks for its
issue holds; no check of Table 5.9 refuses it, nor has any when it re-runs (R136), and no operand is poisoned (R231). -/
structure CanIssue (s : State) (r : Rgn) (e op : Nat) (ready : State → Entry → Bool)
    (ranges : Ctx → List (Nat × Nat) × List (Nat × Nat)) (codes : Ctx → List Nat) (p : Prt) (en : Entry) : Prop where
  part : s.partOf r = some p
  head : nextOf s.regions[r].cmds e = some en
  runs : s.regionRuns r = true
  opcode : en.cmd.op = op
  accepts : ready s en = true
  power : s.powerOk r en.cmd = true
  holds : s.holdsFree r en.cmd = true
  waits : en.consumed = true ∨ (s.waitsMet r en.cmd = true ∧ s.outranked r e en.cmd = false)
  passes : en.consumed = true ∨ lowest ((issueCtx s r p en).sharedCodes (ranges (issueCtx s r p en)).1
    (ranges (issueCtx s r p en)).2 ++ codes (issueCtx s r p en)) = none
  sound : (issueCtx s r p en).badIn ((issueCtx s r p en).touched (ranges (issueCtx s r p en)).1) = []

/-- The queue entry of a command after its issue: issued, its waits consumed, its descriptors, extents and effect kept
for its commit. -/
def issuedEntry (s : State) (r : Rgn) (p : Prt) (en : Entry) (ranges : Ctx → List (Nat × Nat) × List (Nat × Nat))
    (eff : Ctx → Effect) : Entry :=
  let x := issueCtx s r p en
  let io := ranges x
  { en with
    issued := true, consumed := true, ticket := s.ticket, descs := x.ds, ins := x.extents io.1
    outs := if en.cmd.shadow then [] else x.outExtents io.2, posts := (eff x).posts, work := (eff x).work
    needs := x.hedgeNeeds (x.touched io.1 ++ io.2), failed := (eff x).failed, cause := (eff x).cause }

/-- What an issue leaves: the entry issued at its place in the queue of region r, its waits consumed if they were not,
and memory, hub, links, what has been sent and every other region as before (R116, R130, R134). -/
structure Issued (s t : State) (r : Rgn) (e : Nat) (en new : Entry) : Prop where
  queue : t.regions[r].cmds = replaceEntry (fun y => y.eng == e && !y.issued) new s.regions[r].cmds
  tokens : ∀ n < 65536, t.tok r n = (if en.consumed then s else s.consume r en.cmd).tok r n
  others : ∀ q, q ≠ r → t.regions[q] = s.regions[q]
  mem : t.mem = s.mem
  hub : t.hub = s.hub
  links : t.links = s.links
  out : t.out = s.out

/-- The head command issues, and then what the checks of its engine found takes effect. -/
def IssuesThen (i : Instr) (s : State) (r : Rgn) (e : Nat) (en new : Entry) (after : State → State) : Prop :=
  Completes i s (fun t => ∃ u, Issued s u r e en new ∧ t = after u)

/-- What the two copies of a VC-7 frame do before the frame counts (R240, R242, R256): bad ones are counted with the link,
ACK and credits of a good one are taken. -/
def vc7Taken (s : State) (l : Lnk) (f : Flit) (v1 v2 : FlitCheck) : State :=
  ((s.countCheck l (checkOf f v1)).countCheck l (checkOf f v2)).applyHeader l f.hdr

/-- A flit with a property leaves on a link: it is sent, or waits there for a credit or behind others of its channel
(R239). -/
def Leaves (t : State) (l : Lnk) (P : Flit → Prop) : Prop :=
  ∃ g : Flit, P g ∧ (Out.flit l.val g ∈ t.out ∨ ∃ b, (b, g) ∈ t.links[l].waiting)

/-- A sequencer command runs in place (R127): the sequencer runs, no check refuses the command, its waits are satisfied,
no ready engine command comes before it (R132). -/
structure SeqReady (s : State) (r : Rgn) (c : Cmd) (op : Nat) (codes : List Nat) : Prop where
  runs : s.seqRuns r = true
  opcode : c.op = op
  engine : c.eng = 63
  word : wordCodes c = []
  param : codes = []
  waits : s.waitsMet r c = true
  first : s.outranked r 53 c = false

/-- A sequencer command consumes its waits, counts as dispatched and marks the time of the last commit (R118, R127,
R130, R56). -/
def seqTaken (s : State) (r : Rgn) (c : Cmd) : State :=
  (((s.consume r c).counted r).noteSignaller r c).modRegion r (fun g => { g with lastUse := s.now - s.hub.firedAt })

end Sys2Proof.Machine
end

