-- ==== Sys2Proof/Certificates/Slice0/Obligations.lean ====
section
/-!
DEFINITION. The statements about the module, from the spec's numbered rules.
-/
open Sys2Proof Sys2Proof.Machine

/-- A step takes the command at the front of the queue and answers what it does with the rest of the queue. -/
def Obligations.StepRunsFrontCommand : Prop :=
  ∀ (s : State) (c : Instr) (rest : List Instr),
    step { s with pending := c :: rest } = exec c { s with pending := rest }

/-- On an empty queue a step is one tick of the clocks: the model's choice (log entry 6). -/
def Obligations.EmptyQueueTicks : Prop :=
  ∀ s : State, s.pending = [] → step s = .next s.tick

/-- Decode of encode is the instruction, for every scalar instruction with every value of its fields (Tables 5.2, 5.3): no
bit of an encoding is dropped. -/
def Obligations.ScalarDecodesItsEncoding : Prop :=
  ∀ (i : Instr) (r : Rgn) (w : Word32), encodeScalar i = some (r, w) → decodeScalar r w = some i

/-- Encode of decode is the word: no two words decode to one scalar instruction (Tables 5.2, 5.3). -/
def Obligations.ScalarEncodesItsDecoding : Prop :=
  ∀ (i : Instr) (r : Rgn) (w : Word32), decodeScalar r w = some i → encodeScalar i = some (r, w)

/-- Every command word fits 32 bytes and decodes from them to itself (R124, R125). -/
def Obligations.CommandWordDecodesItsEncoding : Prop :=
  ∀ c : Cmd, encodeCmd c < 2 ^ 256 ∧ decodeCmd (encodeCmd c) = c

/-- A few scalar instruction words written out from Tables 5.2 and 5.3: ADDI sq3, sq1, -2; MUL sq2, sq4, sq6; LOOP sq9,
-1; BFLAG 257, +5; and the operation codes 0x06 and 0x17, which are not listed. -/
def Obligations.ScalarWordsDecode : Prop :=
  ∀ r : Rgn,
    decodeScalar r 0b000011_00011_00001_1111111111111110#32 = some (.addi r 3 1 0xFFFE) ∧
    decodeScalar r 0b001010_00010_00100_00110_00000000000#32 = some (.mul r 2 4 6 0) ∧
    decodeScalar r 0b010011_01001_00000_1111111111111111#32 = some (.loop r 9 0 0xFFFF) ∧
    decodeScalar r 0b010101_0100000001_0000000000000101#32 = some (.bflag r 257 5) ∧
    decodeScalar r 0b000110_00000_00000_0000000000000000#32 = none ∧
    decodeScalar r 0b010111_00000_00000_0000000000000000#32 = none

/-- Scalar register n reads as what was written to it, sq0 as zero; a write leaves every other scalar register of every
region alone, every other register field, and everything that is no register (R121). -/
def Obligations.ScalarRegisterWrite : Prop :=
  ∀ (s : State) (r q : Rgn) (n m : BitVec 5) (v : Word64),
    (s.setSq r n v).sq q m = (if q = r ∧ m = n ∧ n ≠ 0 then v else s.sq q m) ∧
    (∀ (f : Fld) (i j k : Nat), f.home ≠ RGN_SEQ_SQ.VALUE.home → i < 65536 → j < 65536 → k < 65536 →
      (s.setSq r n v).get f i j k = s.get f i j k) ∧
    OnlyRegs s (s.setSq r n v)

/-- NOP leaves all as it is; LI, LIH, ADDI, SHLI, SHRI, RDTOK and RDSTAT write RD as Table 5.3 states, and nothing else
(R121). ADD, SUB, MUL, AND, OR, XOR and SLT write RD as Table 5.3 states, modulo 2^64, and nothing else (R121). -/
def Obligations.ScalarArithmetic : Prop :=
  (∀ (s : State) (r : Rgn) (rd rs : BitVec 5) (imm : BitVec 16), s.seqRuns r = true →
    exec (.nop r 0 0 0) s = .next s ∧
    exec (.li r rd rs imm) s = .next (s.setSq r rd (imm.signExtend 64)) ∧
    exec (.lih r rd 0 imm) s = .next (s.setSq r rd (s.sq r rd <<< 16 ||| imm.zeroExtend 64)) ∧
    exec (.addi r rd rs imm) s = .next (s.setSq r rd (s.sq r rs + imm.signExtend 64)) ∧
    exec (.shli r rd rs imm) s = .next (s.setSq r rd (s.sq r rs <<< (imm.toNat % 64))) ∧
    exec (.shri r rd rs imm) s = .next (s.setSq r rd (s.sq r rs >>> (imm.toNat % 64))) ∧
    exec (.rdtok r rd 0 imm) s = .next (s.setSq r rd (BitVec.ofNat 64 (s.get RGN_TOK.VALUE r (imm.toNat % 256)))) ∧
    (imm.toNat % 16 = 0 →
      exec (.rdstat r rd rs imm) s = .next (s.setSq r rd (BitVec.ofNat 64 (s.get HUB_BELL_STATUS.PERIOD_NUM)))) ∧
    (imm.toNat % 16 = 1 →
      exec (.rdstat r rd rs imm) s = .next (s.setSq r rd (BitVec.ofNat 64 (s.get RGN_GEN_STEP.STEP r)))) ∧
    (∀ p : Prt, s.partOf r = some p →
      (imm.toNat % 16 = 2 →
        exec (.rdstat r rd rs imm) s = .next (s.setSq r rd (BitVec.ofNat 64 (s.get PROC_PART_BLOCK.BLOCKS p)))) ∧
      (imm.toNat % 16 = 5 → exec (.rdstat r rd rs imm) s = .next (s.setSq r rd (BitVec.ofNat 64 (s.bellPart p))))) ∧
    (imm.toNat % 16 = 3 → exec (.rdstat r rd rs imm) s = .next (s.setSq r rd (BitVec.ofNat 64 r.val))) ∧
    (imm.toNat % 16 = 4 →
      exec (.rdstat r rd rs imm) s = .next (s.setSq r rd (BitVec.ofNat 64 (s.get HUB_FAB.ADDR))))) ∧
  (∀ (s : State) (r : Rgn) (rd rs rt : BitVec 5), s.seqRuns r = true →
    exec (.add r rd rs rt 0) s = .next (s.setSq r rd (s.sq r rs + s.sq r rt)) ∧
    exec (.sub r rd rs rt 0) s = .next (s.setSq r rd (s.sq r rs - s.sq r rt)) ∧
    exec (.mul r rd rs rt 0) s = .next (s.setSq r rd (s.sq r rs * s.sq r rt)) ∧
    exec (.and r rd rs rt 0) s = .next (s.setSq r rd (s.sq r rs &&& s.sq r rt)) ∧
    exec (.or r rd rs rt 0) s = .next (s.setSq r rd (s.sq r rs ||| s.sq r rt)) ∧
    exec (.xor r rd rs rt 0) s = .next (s.setSq r rd (s.sq r rs ^^^ s.sq r rt)) ∧
    exec (.slt r rd rs rt 0) s = .next (s.setSq r rd (if (s.sq r rs).toInt < (s.sq r rt).toInt then 1 else 0)))

/-- A taken branch goes to the slot of the branch plus OFFSET, where handling begins with the first instruction of the
slot, the rest of the branch's slot skipped; a target outside the timetable is SCALAR_FAULT, and so is going on past
its last slot in program order (R122). -/
def Obligations.BranchTarget : Prop :=
  ∀ (s : State) (r : Rgn) (off : BitVec 16),
    (∀ n : Nat, (n : Int) = s.slot r + off.toInt → n < s.slots r → s.slots r ≤ 8388600 →
      (s.branch r off).1.slot r = n ∧ (s.branch r off).1.regions[r].pos = 0 ∧
      (s.branch r off).1.mem = s.mem ∧ ∀ m, (s.branch r off).1.sq r m = s.sq r m) ∧
    ((s.slot r : Int) + off.toInt < 0 ∨ (s.slots r : Int) ≤ s.slot r + off.toInt →
      (s.branch r off).1 = s.scalarFault r) ∧
    (s.slot r + 1 < s.slots r → s.slots r ≤ 8388600 →
      (s.advance r).slot r = s.slot r + 1 ∧ (s.advance r).regions[r].pos = 0) ∧
    (s.slots r ≤ s.slot r + 1 → s.advance r = s.scalarFault r)

/-- BEQ, BNE, BLT, JMP, BFLAG and BNFLAG branch on their conditions and change nothing otherwise; LOOP first counts RS
down (Table 5.3, R121, R122). CMDW appends a patch of word IMM[2:0] with the low or, with IMM[3], the high half of RS;
the stored timetable is not changed (R123). -/
def Obligations.ScalarBranchesAndPatches : Prop :=
  (∀ (s : State) (r : Rgn) (rs rt : BitVec 5) (off : BitVec 16), s.seqRuns r = true →
    exec (.beq r rs rt off) s = .next (if s.sq r rs = s.sq r rt then (s.branch r off).1 else s) ∧
    exec (.bne r rs rt off) s = .next (if s.sq r rs ≠ s.sq r rt then (s.branch r off).1 else s) ∧
    exec (.blt r rs rt off) s = .next (if (s.sq r rs).toInt < (s.sq r rt).toInt then (s.branch r off).1 else s) ∧
    exec (.loop r rs 0 off) s = .next
      (if (s.setSq r rs (s.sq r rs - 1)).sq r rs ≠ 0 then ((s.setSq r rs (s.sq r rs - 1)).branch r off).1
       else s.setSq r rs (s.sq r rs - 1)) ∧
    exec (.jmp r 0 0 off) s = .next (s.branch r off).1 ∧
    (∀ f : BitVec 10, f.toNat < 256 →
      exec (.bflag r f off) s = .next (if s.regions[r].poison.getLsbD f.toNat then (s.branch r off).1 else s) ∧
      exec (.bnflag r f off) s = .next (if s.regions[r].poison.getLsbD f.toNat then s else (s.branch r off).1)) ∧
    exec (.bflag r 256 off) s = .next (if s.get RGN_SEQ_STAT.HOLD_FLAG r ≠ 0 then (s.branch r off).1 else s) ∧
    exec (.bnflag r 256 off) s = .next (if s.get RGN_SEQ_STAT.HOLD_FLAG r ≠ 0 then s else (s.branch r off).1) ∧
    exec (.bflag r 257 off) s = .next (if s.get RGN_SEQ_STAT.FALLBACK r ≠ 0 then (s.branch r off).1 else s) ∧
    exec (.bnflag r 257 off) s = .next (if s.get RGN_SEQ_STAT.FALLBACK r ≠ 0 then s else (s.branch r off).1)) ∧
  (∀ (s : State) (r : Rgn) (rs : BitVec 5) (imm : BitVec 16), s.seqRuns r = true →
    exec (.cmdw r 0 rs imm) s = .next (s.modRegion r (fun g => { g with
      patches := g.patches ++ [(imm.toNat % 8,
        if imm.getLsbD 3 then (s.sq r rs).extractLsb' 32 32 else (s.sq r rs).extractLsb' 0 32)] })))

/-- A non-zero value in a field that must be zero, and a reserved flag or status item, is SCALAR_FAULT (R121, Tables 5.4
and 5.5): no register is written and no branch is taken. -/
def Obligations.ScalarFieldFaults : Prop :=
  ∀ (s : State) (r : Rgn) (rd rs rt : BitVec 5) (low : BitVec 11) (imm : BitVec 16) (f : BitVec 10),
    s.seqRuns r = true →
    ((rd ≠ 0 ∨ rs ≠ 0 ∨ imm ≠ 0) → exec (.nop r rd rs imm) s = .next (s.scalarFault r)) ∧
    (rs ≠ 0 → exec (.lih r rd rs imm) s = .next (s.scalarFault r) ∧
      exec (.rdtok r rd rs imm) s = .next (s.scalarFault r)) ∧
    (rd ≠ 0 → exec (.cmdw r rd rs imm) s = .next (s.scalarFault r)) ∧
    (low ≠ 0 → exec (.add r rd rs rt low) s = .next (s.scalarFault r) ∧
      exec (.mul r rd rs rt low) s = .next (s.scalarFault r) ∧
      exec (.slt r rd rs rt low) s = .next (s.scalarFault r)) ∧
    (rt ≠ 0 → exec (.loop r rs rt imm) s = .next (s.scalarFault r)) ∧
    ((rs ≠ 0 ∨ rt ≠ 0) → exec (.jmp r rs rt imm) s = .next (s.scalarFault r)) ∧
    (258 ≤ f.toNat → exec (.bflag r f imm) s = .next (s.scalarFault r) ∧
      exec (.bnflag r f imm) s = .next (s.scalarFault r)) ∧
    (6 ≤ imm.toNat % 16 → exec (.rdstat r rd rs imm) s = .next (s.scalarFault r))

/-- The first error of a job context is recorded in RGN_SEQ_ERR and sets STATE to fault; a later one sets MORE and changes
nothing else (R140, R141). -/
def Obligations.FirstErrorIsRecorded : Prop :=
  ∀ (s : State) (r : Rgn) (code engine slot ord : Nat), 0 < code → code < 256 → engine < 64 → slot < 2 ^ 24 →
    ord < 2 ^ 24 →
    (s.get RGN_SEQ_ERR.CODE r = 0 →
      (s.regionFault r code engine slot ord).get RGN_SEQ_ERR.CODE r = code ∧
      (s.regionFault r code engine slot ord).get RGN_SEQ_ERR.ENGINE r = engine ∧
      (s.regionFault r code engine slot ord).get RGN_SEQ_ERR.SLOT r = slot ∧
      (s.regionFault r code engine slot ord).get RGN_SEQ_ERR.ORDINAL r = ord ∧
      (s.regionFault r code engine slot ord).get RGN_SEQ_STAT.STATE r = 4 ∧
      (∀ e ∈ (s.regionFault r code engine slot ord).regions[r].cmds, e.cmd.killable = true → e.issued = false)) ∧
    (s.get RGN_SEQ_ERR.CODE r ≠ 0 →
      s.regionFault r code engine slot ord = s.put RGN_SEQ_ERR.MORE 1 r)

/-- Waits are satisfied when every named token holds at least the sum of the COUNTs of the entries that name it; at issue
every COUNT of an entry with CONSUME set is subtracted from its token, all at once (R130): a token loses exactly the
sum of those counts. -/
def Obligations.WaitsAreConsumed : Prop :=
  ∀ (s : State) (r : Rgn) (c : Cmd) (n : BitVec 8),
    (s.waitsMet r c = true ↔ ∀ w ∈ c.waits,
      ((c.waits.filter (fun x => x.token == w.token)).map (fun x => x.count.toNat)).sum ≤ s.tok r w.token.toNat) ∧
    (s.waitsMet r c = true → s.tok r n.toNat < 65536 → (s.consume r c).tok r n.toNat +
      ((c.waits.filter (fun w => w.token == n && w.consume)).map (fun w => w.count.toNat)).sum = s.tok r n.toNat ∧
    OnlyRegs s (s.consume r c))

/-- A commit adds SIG_ADD to SIG_TOKEN; a result above 65,535 leaves the token and causes TOKEN_OVERFLOW (R131).
TOK_REMOTE adds ADD to a token of a region of its partition; when that would take the token above 65,535 the token
keeps its value and the region that issued TOK_REMOTE faults (R131). -/
def Obligations.CommitSignalsToken : Prop :=
  (∀ (s : State) (r : Rgn) (c : Cmd) (slot ord : Nat),
    (s.tok r c.sigToken.toNat + c.sigAdd.toNat ≤ 65535 →
      (s.signal r c slot ord).tok r c.sigToken.toNat = s.tok r c.sigToken.toNat + c.sigAdd.toNat ∧
      OnlyRegs s (s.signal r c slot ord)) ∧
    (65535 < s.tok r c.sigToken.toNat + c.sigAdd.toNat → c.sigAdd ≠ 0 →
      s.signal r c slot ord = s.regionFault r 0x11 c.eng slot ord)) ∧
  (∀ (s : State) (r q : Rgn) (p : Prt) (c : Cmd), s.partOf r = some p → s.partOf q = some p →
    SeqReady s r c 0xA1 (bad (bitsAt c.w4 12 4 == 0 || bitsAt c.w4 10 2 != 0 || c.param / 2 ^ 16 != 0) 0x0C) →
    bitsAt c.w4 8 2 = q.val →
    ((seqTaken s r c).tok q (c.w4 % 256) + bitsAt c.w4 12 4 ≤ 65535 → exec (.tokRemote r c) s =
      .next (((seqTaken s r c).put RGN_TOK.VALUE ((seqTaken s r c).tok q (c.w4 % 256) + bitsAt c.w4 12 4) q
        (c.w4 % 256)).signal r c (s.slot r) s.regions[r].ordinal)) ∧
    (65535 < (seqTaken s r c).tok q (c.w4 % 256) + bitsAt c.w4 12 4 → exec (.tokRemote r c) s =
      .next ((seqTaken s r c).regionFault r 0x11 63 (s.slot r) s.regions[r].ordinal)))

/-- Sequencer commands run in place (R127, Table 5.7): each consumes its waits, has its effect and signals its token.
MILESTONE tells the proctor of the region's partition (R305). -/
def Obligations.SequencerCommandsRun : Prop :=
  (∀ (s : State) (r : Rgn) (c : Cmd),
    (SeqReady s r c 0x91 (bad (c.param / 2 ^ 32 != 0) 0x0C) → exec (.setStep r c) s =
      .next (((seqTaken s r c).put RGN_GEN_STEP.STEP c.w4 r).signal r c (s.slot r) s.regions[r].ordinal)) ∧
    (SeqReady s r c 0x92 (bad (c.param / 2 ^ 9 != 0) 0x0C) → exec (.clearPoison r c) s =
      .next ((if flag c.w4 8 then (seqTaken s r c).clearPoisonAll r
              else (seqTaken s r c).clearPoisonFlag r (c.w4 % 256)).signal r c (s.slot r) s.regions[r].ordinal)) ∧
    (SeqReady s r c 0x93 (bad (c.param != 0) 0x0C) → exec (.endCmd r c) s =
      .next (((seqTaken s r c).put RGN_SEQ_STAT.STATE 3 r).signal r c (s.slot r) s.regions[r].ordinal)) ∧
    (SeqReady s r c 0xA0 (bad (bitsAt c.w4 8 8 != 0 || c.param / 2 ^ 32 != 0) 0x0C) → exec (.tokSet r c) s =
      .next (((seqTaken s r c).put RGN_TOK.VALUE (bitsAt c.w4 16 16) r (c.w4 % 256)).signal r c (s.slot r)
        s.regions[r].ordinal)) ∧
    (SeqReady s r c 0xA2 (bad (c.param != 0) 0x0C) → s.regions[r].cmds = [] → exec (.fence r c) s =
      .next ((seqTaken s r c).signal r c (s.slot r) s.regions[r].ordinal)) ∧
    (SeqReady s r c 0xB0 (bad (5 < c.param) 0x0C) → exec (.phase r c) s =
      .next (((seqTaken s r c).modRegion r (fun g => { g with phase := c.param })).signal r c (s.slot r)
        s.regions[r].ordinal)) ∧
    (SeqReady s r c 0x90 (bad (c.sigAdd != 0) 1 ++ bad (c.param / 65536 != 0) 0x0C) → c.param % 65536 = 0xFFFF →
      exec (.bellWait r c) s = .next (((seqTaken s r c).put RGN_SEQ_STAT.STATE 2 r).modRegion r (fun g =>
        { g with planNext := none }))) ∧
    (SeqReady s r c 0x90 (bad (c.sigAdd != 0) 1 ++ bad (c.param / 65536 != 0) 0x0C) → c.param % 65536 ≠ 0xFFFF →
      c.param % 65536 < (s.header r).planCount → planOk (s.planEntry r (c.param % 65536)) = true →
      exec (.bellWait r c) s = .next (((seqTaken s r c).put RGN_SEQ_STAT.STATE 2 r).modRegion r (fun g =>
        { g with planNext := some (s.planEntry r (c.param % 65536)) })))) ∧
  (∀ (s : State) (r : Rgn) (p : Prt) (c : Cmd), s.partOf r = some p →
    SeqReady s r c 0xB1 (bad (c.param / 2 ^ 16 != 0) 0x0C) → exec (.milestone r c) s =
      .next (((seqTaken s r c).reachMilestone p (c.param % 65536)).signal r c (s.slot r) s.regions[r].ordinal))

/-- MATMUL, ACC_OUT and ACC_CLEAR issue from the head of their engine's queue (R116, R134, R142, R151, R153); then what the
engine's checks found takes effect (R154-R156), nothing when they found nothing. -/
def Obligations.MatrixCommandsIssue : Prop :=
  ∀ (s : State) (r : Rgn) (e : Fin 16) (p : Prt) (en : Entry),
    (CanIssue s r e.val 0x10 (matReady r e.val) Ctx.plainRanges matmulCodes p en → ∀ x : EngCheck,
      IssuesThen (.matmul r e x) s r e.val en (issuedEntry s r p en Ctx.plainRanges matmulEffect)
        (fun u => u.checkEngine r e.val e.val s.ticket x)) ∧
    (CanIssue s r e.val 0x11 (matReady r e.val) Ctx.plainRanges accOutCodes p en → ∀ x : EngCheck,
      IssuesThen (.accOut r e x) s r e.val en (issuedEntry s r p en Ctx.plainRanges accOutEffect)
        (fun u => u.checkEngine r e.val e.val s.ticket x)) ∧
    (CanIssue s r e.val 0x12 (matReady r e.val) Ctx.plainRanges accClearCodes p en →
      Completes (.accClear r e) s
        (fun t => Issued s t r e.val en (issuedEntry s r p en Ctx.plainRanges accClearEffect))) ∧
    (∀ m n ticket : Nat, s.checkEngine r m n ticket .clean = s)

/-- The attention, convolution and vocabulary commands issue from the head of their engine's queue (R116, R134; their
effects by R159-R174, R178-R187, R198-R206). The six pointwise commands issue from the head of their engine's queue
(R116, R134; their effects by R188-R197). Then what the checks of their engines found takes effect (R17, R156, R178,
R186, R200), nothing when they found nothing. -/
def Obligations.UnitCommandsIssue : Prop :=
  (∀ (s : State) (r : Rgn) (p : Prt) (en : Entry),
    (∀ k : Fin 8, CanIssue s r (16 + k.val) 0x20 (attReady r k.val) Ctx.plainRanges attFwdCodes p en →
      ∀ x y : EngCheck, IssuesThen (.attFwd r k x y) s r (16 + k.val) en
        (issuedEntry s r p en Ctx.plainRanges attFwdEffect) (fun u => u.checkPair r k.val s.ticket x y)) ∧
    (∀ k : Fin 8, CanIssue s r (16 + k.val) 0x21 (attReady r k.val) Ctx.plainRanges attBwdCodes p en →
      ∀ x y : EngCheck, IssuesThen (.attBwd r k x y) s r (16 + k.val) en
        (issuedEntry s r p en Ctx.plainRanges attBwdEffect) (fun u => u.checkPair r k.val s.ticket x y)) ∧
    (∀ k : Fin 2, CanIssue s r (28 + k.val) 0x30 (convReady r) Ctx.plainRanges convDirectCodes p en →
      ∀ x : EngCheck, IssuesThen (.convDirect r k x) s r (28 + k.val) en
        (issuedEntry s r p en Ctx.plainRanges convDirectEffect) (fun u => u.checkUnit r (28 + k.val) s.ticket x)) ∧
    (∀ k : Fin 2, CanIssue s r (28 + k.val) 0x31 unitFree Ctx.plainRanges convFftCodes p en →
      ∀ x : EngCheck, IssuesThen (.convFft r k x) s r (28 + k.val) en
        (issuedEntry s r p en Ctx.plainRanges convFftEffect) (fun u => u.checkUnit r (28 + k.val) s.ticket x)) ∧
    (∀ k : Fin 2, CanIssue s r (28 + k.val) 0x32 unitFree Ctx.plainRanges conv4stepCodes p en →
      ∀ x : EngCheck, IssuesThen (.conv4step r k x) s r (28 + k.val) en
        (issuedEntry s r p en Ctx.plainRanges conv4stepEffect) (fun u => u.checkUnit r (28 + k.val) s.ticket x)) ∧
    (CanIssue s r 30 0x50 unitFree Ctx.plainRanges vocGatherCodes p en →
      ∀ x : EngCheck, IssuesThen (.vocGather r x) s r 30 en
        (issuedEntry s r p en Ctx.plainRanges vocGatherEffect) (fun u => u.checkUnit r 30 s.ticket x)) ∧
    (CanIssue s r 30 0x51 (vocXentReady r) Ctx.plainRanges vocXentCodes p en →
      ∀ x : EngCheck, IssuesThen (.vocXent r x) s r 30 en
        (issuedEntry s r p en Ctx.plainRanges vocXentEffect) (fun u => u.checkUnit r 30 s.ticket x)) ∧
    (CanIssue s r 30 0x52 (vocScatterReady r) vocScatterRanges vocScatterCodes p en →
      ∀ x : EngCheck, IssuesThen (.vocScatter r x) s r 30 en
        (issuedEntry s r p en vocScatterRanges vocScatterEffect) (fun u => u.checkUnit r 30 s.ticket x))) ∧
  (∀ (s : State) (r : Rgn) (k : Fin 4) (p : Prt) (en : Entry) (x : EngCheck),
    (CanIssue s r (24 + k.val) 0x40 unitFree Ctx.plainRanges pwMapCodes p en → IssuesThen (.pwMap r k x) s r
      (24 + k.val) en (issuedEntry s r p en Ctx.plainRanges pwMapEffect) (fun u => u.checkBlock r (24 + k.val) s.ticket x)) ∧
    (CanIssue s r (24 + k.val) 0x41 unitFree Ctx.plainRanges pwNormCodes p en → IssuesThen (.pwNorm r k x) s r
      (24 + k.val) en (issuedEntry s r p en Ctx.plainRanges pwNormEffect) (fun u => u.checkBlock r (24 + k.val) s.ticket x)) ∧
    (CanIssue s r (24 + k.val) 0x42 unitFree Ctx.plainRanges pwDropoutCodes p en → IssuesThen (.pwDropout r k x) s r
      (24 + k.val) en (issuedEntry s r p en Ctx.plainRanges pwDropoutEffect)
      (fun u => u.checkBlock r (24 + k.val) s.ticket x)) ∧
    (CanIssue s r (24 + k.val) 0x43 unitFree Ctx.plainRanges pwMaskCodes p en → IssuesThen (.pwMask r k x) s r
      (24 + k.val) en (issuedEntry s r p en Ctx.plainRanges pwMaskEffect) (fun u => u.checkBlock r (24 + k.val) s.ticket x)) ∧
    (CanIssue s r (24 + k.val) 0x44 unitFree Ctx.plainRanges pwReduceCodes p en → IssuesThen (.pwReduce r k x) s r
      (24 + k.val) en (issuedEntry s r p en Ctx.plainRanges pwReduceEffect)
      (fun u => u.checkBlock r (24 + k.val) s.ticket x)) ∧
    (CanIssue s r (24 + k.val) 0x45 unitFree Ctx.plainRanges pwConvertCodes p en → IssuesThen (.pwConvert r k x) s r
      (24 + k.val) en (issuedEntry s r p en Ctx.plainRanges pwConvertEffect)
      (fun u => u.checkBlock r (24 + k.val) s.ticket x))) ∧
  (∀ (s : State) (r : Rgn) (k e ticket : Nat), s.checkPair r k ticket .clean .clean = s ∧ s.checkUnit r e ticket .clean = s ∧
    s.checkBlock r e ticket .clean = s)

/-- The copy commands issue from the head of their engine's queue (R116, R134), and what leaves the module leaves then:
nothing with operands inside it; the reads of a host-window input, before whose data nothing takes effect; the bytes
of a host-window output as writes (R91, R337). A command that a check of its engine fails stands issued too and sends
nothing (R17). -/
def Obligations.CopyCommandsIssue : Prop :=
  ∀ (s : State) (r : Rgn) (k : Fin 8) (p : Prt) (en : Entry) (i : EngCheck → Instr) (op : Nat) (codes : Ctx → List Nat)
    (run : Ctx → Effect),
    (i, op, codes, run) ∈ [(Instr.copy r k, 0x60, copyCodes, copyEffect), (.copyT r k, 0x61, copyTCodes, copyEffect),
      (.digest r k, 0x62, digestCodes, copyEffect), (.descLoad r k, 0x63, descLoadCodes, descLoadEffect)] →
    CanIssue s r (31 + k.val) op unitFree Ctx.plainRanges codes p en →
    (∀ e ∈ s.regions[r].cmds, e.issued = true → e.ticket ≠ s.ticket) →
    exec (i .clean) s = .next (((((if en.consumed then s else s.consume r en.cmd).nextTicket.setCmds r (replaceEntry
      (fun y => y.eng == 31 + k.val && !y.issued) (issuedEntry s r p en Ctx.plainRanges run) s.regions[r].cmds)).sendOutputs
      r p (issuedEntry s r p en Ctx.plainRanges run)).sendReads r p (issuedEntry s r p en Ctx.plainRanges run))) ∧
    ((∀ key bs, Post.bytes key bs ∈ (run (issueCtx s r p en)).posts → isRemote key = false) →
      ((run (issueCtx s r p en)).work = .none → ∀ x : EngCheck,
        IssuesThen (i x) s r (31 + k.val) en (issuedEntry s r p en Ctx.plainRanges run)
          (fun u => u.checkBlock r (31 + k.val) s.ticket x)) ∧
      (∀ need, (run (issueCtx s r p en)).work = .remote need [] [] [] → Completes (i .clean) s (fun t =>
        t.regions[r].cmds = replaceEntry (fun y => y.eng == 31 + k.val && !y.issued)
          (issuedEntry s r p en Ctx.plainRanges run) s.regions[r].cmds ∧
        t.out = s.out ++ ((issueCtx s r p en).hostReads.map (fun a =>
          Out.hostRead (p.val + 1) (a.2.1 - 0x400000000000) a.2.2)) ∧
        t.mem = s.mem ∧ t.links = s.links))) ∧
    ((run (issueCtx s r p en)).work = .none → en.cmd.shadow = false →
      (∀ key bs, Post.bytes key bs ∈ (run (issueCtx s r p en)).posts → spaceOf key ≠ .peer) → Completes (i .clean) s (fun t =>
        t.out = s.out ++ ((run (issueCtx s r p en)).posts.filterMap (fun q => match q with
          | .bytes key bs => if isRemote key then some (Out.hostWrite (p.val + 1) (key - 0x400000000000) bs) else none
          | _ => none)) ∧ t.mem = s.mem ∧ t.links = s.links ∧
        ∀ n < 65536, t.tok r n = (if en.consumed then s else s.consume r en.cmd).tok r n)) ∧
    (∀ ok : Bool, ok = false ∨ en.cmd.killable = false → Completes (i (.sram ok)) s (fun t =>
      (∃ e ∈ t.regions[r].cmds, e.eng = 31 + k.val ∧ e.ord = en.ord ∧ e.issued = true ∧ e.failed = true ∧ e.cause = 6) ∧
      t.out = s.out ∧ t.mem = s.mem ∧ t.links = s.links))

/-- The stack-engine commands issue from the head of their queue (R116, R134, R210; their effects by R213-R229), and then
what the checks of the stack engine found takes effect (R15, R18). An SE_DRAIN that issues takes its place among the
issued commands; the first of a drain sets DRAIN_PEND and takes the buffer that is current into DRAIN_BUF (R215, R230). One
that sends nothing commits on issue when it is the oldest of its engine (R310): DRAIN_NEXT advances, DRAIN_PEND clears
after the last granule and its token is signalled; behind an older command it stands issued (R116). One that a check fails
stands issued and failed and sends nothing; where it would have sent nothing, its commit tears the job down (R384). -/
def Obligations.StackAndDrainCommandsIssue : Prop :=
  (∀ (s : State) (k : Stk) (p : Prt) (en : Entry) (x : EngCheck),
    (CanIssue s (stackRegion k) (seEng k) 0x70 (seReady k) updateRanges updateCodes p en →
      IssuesThen (.seUpdate k x) s (stackRegion k) (seEng k) en
        (issuedEntry s (stackRegion k) p en updateRanges updateEffect) (fun u => u.checkStack k (seEng k) s.ticket x)) ∧
    (CanIssue s (stackRegion k) (seEng k) 0x71 (seReady k) accumRanges accumCodes p en →
      IssuesThen (.seAccum k x) s (stackRegion k) (seEng k) en
        (issuedEntry s (stackRegion k) p en accumRanges accumEffect) (fun u => u.checkStack k (seEng k) s.ticket x)) ∧
    (CanIssue s (stackRegion k) (seEng k) 0x72 (seReady k) appendRanges appendCodes p en →
      IssuesThen (.seAppend k x) s (stackRegion k) (seEng k) en
        (issuedEntry s (stackRegion k) p en appendRanges appendEffect) (fun u => u.checkStack k (seEng k) s.ticket x)) ∧
    (CanIssue s (stackRegion k) (seEng k) 0x73 (seReady k) vocScatterRanges scatterAddCodes p en →
      IssuesThen (.seScatterAdd k x) s (stackRegion k) (seEng k) en
        (issuedEntry s (stackRegion k) p en vocScatterRanges scatterAddEffect)
        (fun u => u.checkStack k (seEng k) s.ticket x)) ∧
    (CanIssue s (stackRegion k) (seEng k) 0x75 (seReady k) Ctx.plainRanges flipCodes p en →
      Completes (.seFlip k) s (fun t => Issued s t (stackRegion k) (seEng k) en
        (issuedEntry s (stackRegion k) p en Ctx.plainRanges flipEffect))) ∧
    (CanIssue s (stackRegion k) (seEng k) 0x76 (seReady k) Ctx.plainRanges fillCodes p en →
      IssuesThen (.seFill k x) s (stackRegion k) (seEng k) en
        (issuedEntry s (stackRegion k) p en Ctx.plainRanges fillEffect) (fun u => u.checkStack k (seEng k) s.ticket x)) ∧
    (∀ e ticket : Nat, s.checkStack k e ticket .clean = s)) ∧
  (∀ (s : State) (k : Stk) (p : Prt) (en : Entry),
    CanIssue s (stackRegion k) (seEng k) 0x74 (seReady k) drainRanges drainCodes p en →
    (∀ e ∈ s.regions[stackRegion k].cmds, e.issued = true → e.ticket ≠ s.ticket) →
    ((issueCtx s (stackRegion k) p en).drSends = false → headOf s.regions[stackRegion k].cmds (seEng k) = some en →
      en.cmd.shadow = false → s.partState p ≠ psEmpty → s.partState p ≠ psTearing →
      (s.tok (stackRegion k) en.cmd.sigToken.toNat + en.cmd.sigAdd.toNat ≤ 65535 → Completes (.seDrain k .clean) s (fun t =>
        t.regions[stackRegion k].cmds = dropHead s.regions[stackRegion k].cmds (seEng k) ∧
        t.get SE_BUF1.DRAIN_NEXT k (drPair en.cmd) = (en.cmd.w5 + en.cmd.w6) % 2 ^ SE_BUF1.DRAIN_NEXT.width ∧
        t.get SE_BUF1.DRAIN_PEND k (drPair en.cmd) =
          (if s.get SE_BUF0.GRANULES k (drPair en.cmd) ≤ en.cmd.w5 + en.cmd.w6 then 0 else 1) ∧
        t.tok (stackRegion k) en.cmd.sigToken.toNat =
          (if en.consumed then s else s.consume (stackRegion k) en.cmd).tok (stackRegion k) en.cmd.sigToken.toNat +
            en.cmd.sigAdd.toNat ∧
        t.mem = s.mem ∧ t.links = s.links ∧ t.out = s.out)) ∧
      Completes (.seDrain k (.sram false)) s (fun t =>
        t.partState p = psTearing ∧ t.get PROC_TEAR_STAT.CAUSE p = 6)) ∧
    ((issueCtx s (stackRegion k) p en).drSends = false → headOf s.regions[stackRegion k].cmds (seEng k) ≠ some en →
      Completes (.seDrain k .clean) s (fun t =>
        t.regions[stackRegion k].cmds = replaceEntry (fun y => y.eng == seEng k && !y.issued)
          (issuedEntry s (stackRegion k) p en drainRanges drainEffect) s.regions[stackRegion k].cmds ∧
        t.bit SE_BUF1.DRAIN_PEND k (drPair en.cmd) = true ∧
        (s.get SE_BUF1.DRAIN_PEND k (drPair en.cmd) = 0 →
          t.get SE_BUF1.DRAIN_BUF k (drPair en.cmd) = s.get SE_BUF1.CUR k (drPair en.cmd) % 2) ∧
        t.mem = s.mem ∧ t.links = s.links ∧ t.out = s.out)) ∧
    ((issueCtx s (stackRegion k) p en).drSends = true → Completes (.seDrain k (.sram false)) s (fun t =>
      (∃ e ∈ t.regions[stackRegion k].cmds, e.eng = seEng k ∧ e.ord = en.ord ∧ e.issued = true ∧ e.failed = true ∧
        e.cause = 6) ∧ t.mem = s.mem ∧ t.links = s.links ∧ t.out = s.out)))

/-- The link-collective commands issue from the head of their link's queue (R116, R257): whatever the checks of the link
interface find, the command stands issued in the queue, its waits consumed; memory changes only with its commit
(R134). -/
def Obligations.LinkCommandsIssue : Prop :=
  ∀ (s : State) (l : Lnk) (p : Prt) (en : Entry) (i : EngCheck → Instr) (op : Nat) (codes : Ctx → List Nat),
    (i, op, codes) ∈ [(Instr.lcReduceScatter l, 0x80, reduceCodes), (.lcGather l, 0x81, gatherCodes),
      (.lcGatherHier l, 0x82, gatherCodes), (.lcAllToAll l, 0x83, allToAllCodes), (.lcAddFwd l, 0x84, messageCodes),
      (.lcSend l, 0x85, messageCodes), (.lcRecv l, 0x86, messageCodes)] →
    CanIssue s (linkRegion l) (lcEng l) op (lcReady (linkRegion l) (lcEng l)) collRanges codes p en →
    ∀ x : EngCheck, Completes (i x) s (fun t =>
      (∃ e ∈ t.regions[linkRegion l].cmds, e.eng = lcEng l ∧ e.ord = en.ord ∧ e.issued = true) ∧
      (∀ n < 65536, t.tok (linkRegion l) n = (if en.consumed then s else s.consume (linkRegion l) en.cmd).tok (linkRegion l) n) ∧
      t.mem = s.mem)

/-- A command that a check refuses at issue leaves its region in fault with the lowest of its codes, its engine, its slot
and its ordinal (R139, R140): shown for one row of each kind of engine. -/
def Obligations.RefusedCommandFaults : Prop :=
  ∀ (s : State) (r : Rgn) (p : Prt) (en : Entry) (code : Nat) (i : Instr) (e op : Nat) (ready : State → Entry → Bool)
    (codes : Ctx → List Nat),
    ((∃ m : Fin 16, (i, e, op) = (.accClear r m, m.val, 0x12) ∧ ready = matReady r m.val ∧ codes = accClearCodes) ∨
     (∃ k : Fin 2, (i, e, op) = (.convDirect r k .clean, 28 + k.val, 0x30) ∧ ready = convReady r ∧ codes = convDirectCodes) ∨
     (∃ k : Fin 4, (i, e, op) = (.pwMap r k .clean, 24 + k.val, 0x40) ∧ ready = unitFree ∧ codes = pwMapCodes) ∨
     ((i, e, op) = (.vocGather r .clean, 30, 0x50) ∧ ready = unitFree ∧ codes = vocGatherCodes)) →
    s.partOf r = some p → nextOf s.regions[r].cmds e = some en → s.regionRuns r = true → en.cmd.op = op →
    ready s en = true → s.powerOk r en.cmd = true → s.holdsFree r en.cmd = true → en.consumed = false →
    s.waitsMet r en.cmd = true → s.outranked r e en.cmd = false →
    lowest ((issueCtx s r p en).sharedCodes ((issueCtx s r p en).ranges false) ((issueCtx s r p en).ranges true) ++
      codes (issueCtx s r p en)) = some code →
    exec i s = .next (s.regionFault r code e en.slot en.ord)

/-- What the checks of a matrix engine find (R154-R156): corrected accumulator words count; a residue mismatch counts, its
column is recorded and mapped to the lowest spare that is free, the command is counted as killed and runs on when its
re-run passes; when no spare is free, when the re-run meets a mismatch again, and after an uncorrectable accumulator
word, the engine leaves service with its softmax unit and the command fails with CAUSE 4. SHADOW_COMPARE compares the
oldest digest whose twin has committed and forgets both (R329): the comparison counts, a mismatch counts too, and the
attempt of a unit in hardening-off fails (R330); with nothing to compare nothing changes. -/
def Obligations.UnitChecks : Prop :=
  (∀ (s : State) (r : Rgn) (m : Fin 16) (ticket : Nat), s.issuedAt r m.val ticket = true →
    (∀ n : Nat, (s.checkEngine r m.val m.val ticket (.corrected n)).get ME_ERR_CNT.ACC_CORR r m.val =
        min ME_ERR_CNT.ACC_CORR.max (s.get ME_ERR_CNT.ACC_CORR r m.val + n) ∧
      SameRegs s (s.checkEngine r m.val m.val ticket (.corrected n)) [ME_ERR_CNT.ACC_CORR] ∧
      OnlyRegs s (s.checkEngine r m.val m.val ticket (.corrected n))) ∧
    (∀ (col : BitVec 7) (j : Nat) (t : State), j < 4 → (∀ i < j, s.get (ME_COL_MAP.VALID i) r m.val ≠ 0) →
      s.get (ME_COL_MAP.VALID j) r m.val = 0 → t = s.checkEngine r m.val m.val ticket (.residue col .passed) →
      t.get ME_ERR_CNT.RESIDUE r m.val = min ME_ERR_CNT.RESIDUE.max (s.get ME_ERR_CNT.RESIDUE r m.val + 1) ∧
      t.get ME_STAT.LAST_COL r m.val = col.toNat ∧ t.get (ME_COL_MAP.COL j) r m.val = col.toNat ∧
      t.get (ME_COL_MAP.VALID j) r m.val = 1 ∧
      t.get ME_ERR_CNT.REPAIRS r m.val = min ME_ERR_CNT.REPAIRS.max (s.get ME_ERR_CNT.REPAIRS r m.val + 1) ∧
      t.get ME_STAT.SPARES_USED r m.val = ([0, 1, 2, 3].filter (fun i =>
        i == j || s.get (ME_COL_MAP.VALID i) r m.val != 0)).length ∧
      t.get RGN_SEQ_KILL.KILLED r = min RGN_SEQ_KILL.KILLED.max (s.get RGN_SEQ_KILL.KILLED r + 1) ∧
      t.get ME_STAT.STATE r m.val = s.get ME_STAT.STATE r m.val ∧ t.regions = s.regions ∧ t.mem = s.mem) ∧
    (∀ (col col2 : BitVec 7) (x : EngCheck) (t : State), t = s.checkEngine r m.val m.val ticket x →
      ((∀ j < 4, s.get (ME_COL_MAP.VALID j) r m.val ≠ 0) ∧ x = .residue col .passed ∨
        x = .residue col (.mismatch col2) ∨ x = .uncorr) →
      t.get ME_STAT.STATE r m.val = 1 ∧ t.get SU_STAT.STATE r (m.val / 2) = 1 ∧
      (∀ e ∈ t.regions[r].cmds, e.eng = m.val → e.issued = true → e.ticket = ticket →
        e.failed = true ∧ e.cause = 4 ∧ e.posts = []) ∧
      (∀ q, q ≠ r → t.regions[q] = s.regions[q]))) ∧
  (∀ (s : State) (r : Rgn),
    ((∀ x ∈ s.regions[r].shadows, ∀ w ∈ s.regions[r].twins, w.1 ≠ x.twinOrd) → exec (.shadowCompare r) s = .next s) ∧
    (∀ (x : Shadow) (pre post : List Shadow) (d : Nat), s.regions[r].shadows = pre ++ x :: post →
      (∀ y ∈ pre, ∀ w ∈ s.regions[r].twins, w.1 ≠ y.twinOrd) → (x.twinOrd, d) ∈ s.regions[r].twins →
      (∀ w ∈ s.regions[r].twins, w.1 = x.twinOrd → w.2 = d) → Completes (.shadowCompare r) s (fun t =>
        t.regions[r].shadows = pre ++ post ∧
        t.regions[r].twins = s.regions[r].twins.filter (fun w => w.1 != x.twinOrd) ∧
        t.get HUB_HARDEN.COMPARED = min HUB_HARDEN.COMPARED.max (s.get HUB_HARDEN.COMPARED + 1) ∧
        (d = x.digest → SameRegs s t [HUB_HARDEN.COMPARED]) ∧
        (d ≠ x.digest → t.get HUB_HARDEN.MISMATCH = min HUB_HARDEN.MISMATCH.max (s.get HUB_HARDEN.MISMATCH + 1) ∧
          t.get HUB_HARDEN.STATE = if s.get HUB_HARDEN.STATE = 1 then 3 else s.get HUB_HARDEN.STATE) ∧
        t.mem = s.mem ∧ t.out = s.out)))

/-- COMMAND_COMMIT of a command that nothing keeps: it leaves the queue, its effects take place in order, poisoned words
that it rewrote whole are good again, and its token is signalled (R131, R134, R231); a failed command tears its job down
with its cause and signals nothing (R384); an engine with no issued head is left alone. -/
def Obligations.CommandCommits : Prop :=
  ∀ (s : State) (r : Rgn) (e : Eng) (p : Prt) (en : Entry), s.partOf r = some p →
    headOf s.regions[r].cmds e.val = some en →
    (en.issued = false → exec (.commandCommit r e) s = .next s) ∧
    (en.issued = true → en.needs = [] → en.work.done = true → s.drainWaiting r en = false → s.awaitsUnit r en = false →
      en.cmd.shadow = false → s.partState p ≠ psTearing →
      (en.failed = false → ∀ u : State, u = (((((s.keepTwin r en).hideCopies r p en).setCmds r
        (dropHead s.regions[r].cmds e.val)).modRegion r (fun g => { g with lastUse := s.now - s.hub.firedAt })).postAll r
        en.posts) → exec (.commandCommit r e) s =
          .next (({ u with badWords := healedBy u.badWords en.posts } : State).signal r en.cmd en.slot en.ord)) ∧
      (en.failed = true → en.posts = [] → en.cmd.op ≠ 0x70 → en.cause < 16 → s.partState p ≠ psEmpty →
        Completes (.commandCommit r e) s (fun t => t.partState p = psTearing ∧ t.get PROC_TEAR_STAT.CAUSE p = en.cause ∧
          t.get PROC_TEAR_STAT.PERIOD p = s.period % 2 ^ 48)))

/-- The effects that an issue forms, by kind: stored bytes read back and nothing beside them changes, a zero fill reads as
zero, a field takes its value, a dirty bit is set and a range of them cleared (R134, R211, R226). Memory keeps what is
written: a byte reads back, every other byte is as before, and the canonical form is kept. -/
def Obligations.EffectsReachMemory : Prop :=
  (∀ (s : State) (r : Rgn),
    (∀ (key : Nat) (bs : List Byte) (a : Nat), (s.post r (.bytes key bs)).mem.read a =
      if key ≤ a ∧ a < key + bs.length then bs.getD (a - key) 0 else s.mem.read a) ∧
    (∀ lo hi a : Nat, (s.post r (.zero lo hi)).mem.read a = if lo ≤ a ∧ a < hi then 0 else s.mem.read a) ∧
    (∀ (f : Fld) (i j k v : Nat), (s.post r (.field f i j k v)).get f i j k = v % 2 ^ f.width) ∧
    (∀ g h : Nat, h ∈ (s.post r (.dirty g)).dirty ↔ h = g ∨ h ∈ s.dirty) ∧
    (∀ lo hi h : Nat, h ∈ (s.post r (.clean lo hi)).dirty ↔ h ∈ s.dirty ∧ ¬ (lo ≤ h ∧ h < hi))) ∧
  (∀ (m : Memory) (a : Nat) (bs : List Byte) (n : Nat),
    (m.writeBytes a bs).read n = (if a ≤ n ∧ n < a + bs.length then bs.getD (n - a) 0 else m.read n) ∧
    (m.wf = true → (m.writeBytes a bs).wf = true))

/-- A flip of a pair at its commit: CUR changes to the other buffer and STEP takes the block's step (R214, R222). PATROL
reads a word, whatever it finds (R231): PROGRESS follows it; a word without bad bits changes no other register but
INFLIGHT and stays good; one or two bad bits are corrected and counted; a word that cannot be corrected, or could not be
before, is poisoned and counted with its address. Memory, queues and other stacks' registers are as before. -/
def Obligations.FlipsAndScrubs : Prop :=
  (∀ (s : State) (k : Stk) (p : Fin 64) (step : Nat),
    (s.flipPair k p.val step).get SE_BUF1.CUR k p.val = 1 - s.get SE_BUF1.CUR k p.val ∧
    (s.flipPair k p.val step).get SE_BUF1.STEP k p.val = step % 2 ^ 32 ∧
    (s.flipPair k p.val step).mem = s.mem ∧
    ∀ q : Fin 64, q ≠ p → (s.flipPair k p.val step).get SE_BUF1.CUR k q.val = s.get SE_BUF1.CUR k q.val) ∧
  (∀ (s : State) (k : Stk) (o : BitVec 36) (n bank row w : Nat), w = (k.val * 2 ^ 36 + o.toNat) / 8 →
    Completes (.patrol k o n bank row) s (fun t => t.get SE_SCRUB.PROGRESS k = o.toNat / 4096 ∧ t.mem = s.mem ∧
      t.regions = s.regions ∧ t.out = s.out ∧
      (∀ j, j ≠ k → t.stks[j] = s.stks[j]) ∧
      (n = 0 → w ∉ s.badWords → t.badWords = s.badWords ∧ SameRegs s t [SE_SCRUB.PROGRESS, SE_STAT.INFLIGHT]) ∧
      (n = 1 ∨ n = 2 → w ∉ s.badWords → t.badWords = s.badWords ∧
        t.get SE_SCRUB.CORR k = min SE_SCRUB.CORR.max (s.get SE_SCRUB.CORR k + 1) ∧
        t.get SE_SCRUB.DOUBLE k = (if n = 2 then min SE_SCRUB.DOUBLE.max (s.get SE_SCRUB.DOUBLE k + 1)
          else s.get SE_SCRUB.DOUBLE k) ∧
        SameRegs s t [SE_SCRUB.PROGRESS, SE_STAT.INFLIGHT, SE_SCRUB.CORR, SE_SCRUB.DOUBLE, SE_REPAIR.SOFT,
          SE_REPAIR.NO_SPARE, SE_REPAIR.SPARES_LEFT]) ∧
      (3 ≤ n ∨ w ∈ s.badWords → (∀ v, v ∈ t.badWords ↔ v = w ∨ v ∈ s.badWords) ∧
        t.get SE_ERR_ADDR.VALID k = 1 ∧ t.get SE_ERR_ADDR.OFFSET k = o.toNat / 8 * 8 ∧
        t.get SE_ERR.UNCORR k = min SE_ERR.UNCORR.max (s.get SE_ERR.UNCORR k + 1) ∧
        SameRegs s t [SE_SCRUB.PROGRESS, SE_STAT.INFLIGHT, SE_ERR_ADDR.VALID, SE_ERR_ADDR.OFFSET, SE_ERR.UNCORR,
          SE_REPAIR.SOFT, SE_REPAIR.NO_SPARE, SE_REPAIR.SPARES_LEFT])))

/-- GO on an idle or ended sequencer of a loaded or running partition (R112): a header that passes the checks sets GO and
nothing else; one that does not clears GO and leaves the region in fault with BAD_TIMETABLE. -/
def Obligations.GoChecksTheHeader : Prop :=
  ∀ (s : State) (r : Rgn) (p : Prt), s.partOf r = some p → (s.partState p = psLoaded ∨ s.partState p = psRunning) →
    (s.seqState r = sqIdle ∨ s.seqState r = sqEnded) →
    (headerOk s r (s.header r) = true → Completes (.go r) s (fun t =>
      t.get RGN_SEQ_CTRL.GO r = 1 ∧ SameRegs s t [RGN_SEQ_CTRL.GO] ∧ OnlyRegs s t)) ∧
    (headerOk s r (s.header r) = false → s.get RGN_SEQ_ERR.CODE r = 0 → Completes (.go r) s (fun t =>
      t.get RGN_SEQ_CTRL.GO r = 0 ∧ t.get RGN_SEQ_ERR.CODE r = 0x12 ∧ t.seqState r = sqFault))

/-- DISPATCH handles the slot that the sequencer stands at (R113, R115): the next scalar instruction of a scalar slot, as
its row does; a sequencer command, as its row does; else an engine command goes to its queue, and up to three more. A
dispatched engine command stands last in the queues with its slot, its ordinal, and the step, seed and block count of
that moment; ordinals count up, pending patches are spent (R116, R118, R119, R123). -/
def Obligations.DispatchFillsQueues : Prop :=
  (∀ (s : State) (r : Rgn) (p : Prt), s.partOf r = some p → s.seqRuns r = true →
    (∀ (i : Instr) (t : State), s.slotWord r % 256 = 1 → bitsAt (s.slotWord r) 8 3 ≠ 0 →
      bitsAt (s.slotWord r) 11 21 = 0 →
      decodeScalar r (BitVec.ofNat 32 (bitsAt (s.slotWord r) (32 + 32 * s.regions[r].pos) 32)) = some i →
      exec i s = .next t →
      exec (.dispatch r) s = .next (if (runScalar i s).2 || !t.seqRuns r then t
        else if s.regions[r].pos + 1 < bitsAt (s.slotWord r) 8 3 then
          t.modRegion r (fun g => { g with pos := s.regions[r].pos + 1 })
        else t.advance r)) ∧
    (∀ (c : Cmd) (lo hi : Nat), c = decodeCmd (patched (s.slotWord r) s.regions[r].patches) →
      s.slotWord r % 256 ≠ 1 → (engineRange (s.slotWord r % 256)).isSome = true → engineRange c.op = some (lo, hi) →
      (0x90 ≤ c.op → ∀ u, runSeq r c s = u →
        exec (.dispatch r) s = .next (if u.2 && u.1.seqRuns r then u.1.advance r else u.1)) ∧
      (c.op < 0x90 → c.eng ≤ 52 → (s.regions[r].cmds.filter (fun e => e.eng == c.eng)).length < 32 →
        exec (.dispatch r) s = .next (((s.enqueue r p c).advance r).dispatchEngines r p 3)) ∧
      (c.op < 0x90 → c.eng ≤ 52 → 32 ≤ (s.regions[r].cmds.filter (fun e => e.eng == c.eng)).length →
        exec (.dispatch r) s = .next (s.liveAdd RGN_SEQ_CNT.QFULL 1 r)))) ∧
  (∀ (s : State) (r : Rgn) (p : Prt) (c : Cmd),
    (∃ en : Entry, (s.enqueue r p c).regions[r].cmds = s.regions[r].cmds ++ [en] ∧ en.cmd = c ∧ en.slot = s.slot r ∧
      en.ord = s.regions[r].ordinal ∧ en.step = s.get RGN_GEN_STEP.STEP r ∧ en.seed = s.get HUB_JOB_SEED.SEED p ∧
      en.beta = s.get PROC_PART_BLOCK.BLOCKS p ∧ en.issued = false ∧ en.consumed = false) ∧
    (s.enqueue r p c).regions[r].ordinal = s.regions[r].ordinal + 1 ∧ (s.enqueue r p c).regions[r].patches = [] ∧
    (∀ q, q ≠ r → (s.enqueue r p c).regions[q] = s.regions[q]) ∧ (s.enqueue r p c).mem = s.mem ∧
    SameRegs s (s.enqueue r p c) [RGN_TOK.LINK])

/-- The first valid bell frame of a period is held for its fire time and goes on twice over every other trained link, with
the residence and that link's latency added to its path delay; one that comes after its fire time fires on arrival; a
frame with both copies bad counts, and one that is not new changes nothing but what its ACK and credits do (R31, R33,
R35, R240). That the residence and the own link's latency are what a hop adds is this model's reading (log entry 18).
The master sends the bell that ends the period with the vectors reported to it, and bell 0 right after START; without a
bell by the deadline the deputy sends it, marked as a substitute, and is the master from then on (R34, R39, R46, R47). The
module that sends a bell holds it for its own fire time. -/
def Obligations.BellFramesTravel : Prop :=
  (∀ (s : State) (l : Lnk) (f : Flit) (m : BellMsg) (v1 v2 : FlitCheck) (res : List Nat) (x : Sensors),
    s.trained l = true → f.hdr.type.toNat = ftBell → m = bellOf f.payload →
    (checkOf f v1 ≠ .good → checkOf f v2 ≠ .good → Completes (.bell l f v1 v2 res x) s (fun t =>
      t.get LNK_RC.VC7_LOST l = min LNK_RC.VC7_LOST.max (s.get LNK_RC.VC7_LOST l + 1) ∧
      SameRegs s t [LNK_RC.VC7_LOST, LNK_ERR.CRC, LNK_ERR.UNCORR_CW] ∧ OnlyRegs s t)) ∧
    (checkOf f v1 = .good ∨ checkOf f v2 = .good → s.complete = true → f.hdr.vc = 7 →
      m.fireDelay.toNat = s.get HUB_BELL_TIMING.FIRE_DELAY_NS → m.flags.toNat < 16 →
      (s.newPeriod m.periodNum.toNat = false → exec (.bell l f v1 v2 res x) s = .next (vc7Taken s l f v1 v2)) ∧
      (s.newPeriod m.periodNum.toNat = true → m.pathDelay.toNat ≤ 8 * s.get HUB_BELL_TIMING.FIRE_DELAY_NS →
        Completes (.bell l f v1 v2 res x) s (fun t =>
          t.hub.pendingBell = some m ∧ t.get HUB_BELL_TIMING.ARRIVAL_LINK = l.val ∧
          t.get HUB_BELL_TIMING.PATH_DELAY_NS = (m.pathDelay.toNat + 4) / 8 % 2 ^ HUB_BELL_TIMING.PATH_DELAY_NS.width ∧
          (∀ k : Lnk, s.trained k = true → k ≠ l → ∃ g : Flit, [Out.flit k.val g, Out.flit k.val g] <:+: t.out ∧
            g.hdr.type.toNat = ftBell ∧ g.hdr.vc = 7 ∧ g.payload = bellBytes { m with
              pathDelay := m.pathDelay + BitVec.ofNat 32 (res.getD k 0 + s.get LNK_STAT.LATENCY k) }) ∧
          t.period = s.period ∧ t.regions = s.regions ∧ t.mem = s.mem)) ∧
      (s.newPeriod m.periodNum.toNat = true → 8 * s.get HUB_BELL_TIMING.FIRE_DELAY_NS < m.pathDelay.toNat →
        exec (.bell l f v1 v2 res x) s = .next
          ((((vc7Taken s l f v1 v2).takeBell l m res).bump HUB_BELL_ERR.LATE_ARRIVE).bellFire x)))) ∧
  (∀ (s : State), s.complete = true → s.hub.pendingBell = none →
    (s.bit HUB_BELL_STATUS.IS_MASTER = true → s.hub.fresh = false → Completes .bellSend s (fun t => ∃ m : BellMsg,
      t.hub.pendingBell = some m ∧ m.periodNum = BitVec.ofNat 48 (s.period + 1) ∧ m.lateVec = s.hub.repLate ∧
      m.poisonVote = s.hub.repPoison ∧ m.periodUs = BitVec.ofNat 16 (s.get HUB_BELL_PERIOD.PERIOD_US) ∧
      m.pathDelay = 0 ∧ (∀ k : Lnk, s.trained k = true → ∃ g : Flit, [Out.flit k.val g, Out.flit k.val g] <:+: t.out ∧
        g.hdr.type.toNat = ftBell ∧ g.hdr.vc = 7 ∧
        g.payload = bellBytes { m with pathDelay := BitVec.ofNat 32 (s.get LNK_STAT.LATENCY k) }) ∧
      t.hub.sent = true ∧ t.regs = s.regs ∧ t.mem = s.mem ∧ t.regions = s.regions)) ∧
    (s.bit HUB_BELL_STATUS.IS_MASTER = true → s.hub.fresh = true → Completes .bellZero s (fun t => ∃ m : BellMsg,
      t.hub.pendingBell = some m ∧ m.periodNum = 0 ∧ t.regs = s.regs ∧ t.mem = s.mem ∧ t.regions = s.regions)) ∧
    (∀ elapsed : BitVec 32, s.bit HUB_BELL_STATUS.IS_DEPUTY = true →
      Completes (.substituteBell elapsed) s (fun t => ∃ m : BellMsg,
        t.hub.pendingBell = some m ∧ (s.hub.fresh = false → m.periodNum = BitVec.ofNat 48 (s.period + 1)) ∧
        m.flags.getLsbD 2 = true ∧ (s.get HUB_BELL_STATUS.CUR_PERIOD_US ≠ 0 →
          m.periodUs = BitVec.ofNat 16 (s.get HUB_BELL_STATUS.CUR_PERIOD_US)) ∧
        m.pathDelay = elapsed ∧ t.get HUB_BELL_STATUS.IS_MASTER = 1 ∧ t.get HUB_BELL_STATUS.IS_DEPUTY = 0 ∧
        t.mem = s.mem ∧ t.regions = s.regions)))

/-- BELL_FIRE: the bell that is held fires; period number and length, and whether the module is synchronized, follow it
(R30, R34, R35, R40, R55); with no bell held nothing changes. The latch of a bell (R55, R86): a latched field shows
the count since the last bell, which restarts from zero, a latched field with no count shows zero, and no other field
changes: shown for the cycles of an engine. -/
def Obligations.BellFiresAndLatches : Prop :=
  (∀ (s : State) (x : Sensors),
    (s.hub.pendingBell = none → exec (.bellFire x) s = .next s) ∧
    (∀ m : BellMsg, s.hub.pendingBell = some m →
      exec (.bellFire x) s = .next (((((s.latchBell).bellRegs m).electBell m).atBell m x).mirror
        (((((s.latchBell).bellRegs m).electBell m).atBell m x).get STAT_SEQ.PERIOD_NUM)) ∧
      ((s.latchBell).bellRegs m).period = m.periodNum.toNat ∧
      ((s.latchBell).bellRegs m).get HUB_BELL_STATUS.CUR_PERIOD_US = m.periodUs.toNat % 8192 ∧
      ((s.latchBell).bellRegs m).get HUB_BELL_MASTER.MASTER_SERIAL = m.masterSerial.toNat ∧
      ((s.latchBell).bellRegs m).get HUB_BELL_STATUS.SYNCED =
        (if 8 * (s.latchBell).get HUB_BELL_TIMING.FIRE_DELAY_NS < m.pathDelay.toNat then 0 else 1) ∧
      ((s.latchBell).bellRegs m).hub.pendingBell = none ∧ ((s.latchBell).bellRegs m).hub.fired = true ∧
      ((s.latchBell).bellRegs m).regions = s.regions ∧ ((s.latchBell).bellRegs m).mem = s.mem)) ∧
  (∀ (s t : State) (r : Rgn) (e w n : Nat), e < 64 → w < 8 → s.hub.fired = true → s.live = [] →
    t = s.liveAdd RGN_IDLE.CYCLES n r e w →
    (t.latchBell).get RGN_IDLE.CYCLES r e w = min RGN_IDLE.CYCLES.max n ∧
    (t.latchBell).get RGN_SEQ_CNT.DISPATCHED r = 0 ∧
    (t.latchBell).get STAT_SEQ.PERIOD_NUM = s.period % 2 ^ STAT_SEQ.PERIOD_NUM.width ∧
    (t.latchBell).live = [] ∧ (t.latchBell).get RGN_SEQ_STAT.STATE r = s.get RGN_SEQ_STAT.STATE r)

/-- Holds of a running partition at a bell (R40, R41, R42, R45): its LATE bit holds it, counts, and sets the hold flag of
its regions; a partition that was late and is not held is desynchronized and torn down with CAUSE 2; without a hold
the run of holds ends. -/
def Obligations.HoldsAtBell : Prop :=
  ∀ (s : State) (m : BellMsg) (p : Prt), s.partState p = psRunning →
    (m.lateVec.getLsbD (s.bellPart p) = true →
      (s.holdPart m p).get PROC_PART_STAT.HELD p = 1 ∧
      (s.holdPart m p).get PROC_PART_STAT.HOLD_CNT p =
        min PROC_PART_STAT.HOLD_CNT.max (s.get PROC_PART_STAT.HOLD_CNT p + 1) ∧
      (s.holdPart m p).get PROC_PART_STAT.CONSEC p =
        min PROC_PART_STAT.CONSEC.max (s.get PROC_PART_STAT.CONSEC p + 1) ∧
      (∀ r ∈ s.regionsOf p, (s.holdPart m p).get RGN_SEQ_STAT.HOLD_FLAG r = 1) ∧
      OnlyRegs s (s.holdPart m p)) ∧
    (m.lateVec.getLsbD (s.bellPart p) = false → s.parts[p].late = true →
      (s.holdPart m p).get PROC_PART_STAT.DESYNC p = 1 ∧ (s.holdPart m p).partState p = psTearing ∧
      (s.holdPart m p).get PROC_TEAR_STAT.CAUSE p = 2) ∧
    (m.lateVec.getLsbD (s.bellPart p) = false → s.parts[p].late = false →
      (∀ r ∈ s.regionsOf p, s.declaresOther p r = false) →
      (s.holdPart m p).get PROC_PART_STAT.HELD p = 0 ∧ (s.holdPart m p).get PROC_PART_STAT.CONSEC p = 0 ∧
      (s.holdPart m p).get PROC_PART_STAT.HOLD_CNT p = s.get PROC_PART_STAT.HOLD_CNT p ∧
      (∀ r ∈ s.regionsOf p, (s.holdPart m p).get RGN_SEQ_STAT.HOLD_FLAG r = 0))

/-- Reports, warnings and limits between bells: a report for the running period joins the vectors of the master or the
deputy, a late one counts (R39), one for another module goes on twice with what is merged into it (R37, R240); at the
sample point a partition is late when one of its regions is not complete (R36); OVERRUN_WARNING counts the regions whose
block has not committed (R44); STALL tears a partition down with CAUSE 3 (R42); a refused period length counts and changes nothing
else (R52). Without bells: after the missed bell (R48) the module counts it, is not synchronized, and rejoins by roll
call; the local tick (R345) counts and writes the mirror while no bell has fired. -/
def Obligations.ReportsAndDeadlines : Prop :=
  ((∀ (s : State) (l : Lnk) (f : Flit) (m : ReportMsg) (v1 v2 : FlitCheck), s.trained l = true → s.complete = true →
    f.hdr.type.toNat = ftReport → f.hdr.vc = 7 → checkOf f v1 = .good ∨ checkOf f v2 = .good →
    m = reportOf f.hdr.dest f.payload →
    (m.dest.toNat = s.addr → s.bit HUB_BELL_STATUS.IS_MASTER = true ∨ s.bit HUB_BELL_STATUS.IS_DEPUTY = true →
      (s.hub.sent = false → s.hub.pendingBell = none → m.periodNum.toNat = s.period →
        exec (.report l f v1 v2) s = .next ((vc7Taken s l f v1 v2).modHub (fun h => { h with
          repLate := h.repLate ||| m.lateVec, repPoison := h.repPoison ||| m.poisonVote }))) ∧
      (s.hub.sent = true ∨ m.periodNum.toNat ≠ s.period → exec (.report l f v1 v2) s =
        .next ((vc7Taken s l f v1 v2).bump HUB_BELL_ERR.LATE_REPORT))) ∧
    (∀ (k : Lnk) (up : Bool), m.dest.toNat ≠ s.addr → s.routeOf (linkRegion l) m.dest.toNat = some (k, up) →
      s.trained k = true → Completes (.report l f v1 v2) s (fun t => ∃ (g : Flit) (n : ReportMsg),
        [Out.flit k.val g, Out.flit k.val g] <:+: t.out ∧ g.hdr.dest = f.hdr.dest ∧ g.payload = reportBytes n ∧
        n.periodNum = m.periodNum ∧ n.lateVec &&& m.lateVec = m.lateVec ∧
        n.poisonVote &&& m.poisonVote = m.poisonVote ∧ t.mem = s.mem ∧ t.regions = s.regions))) ∧
  (∀ (s : State) (p : Prt), s.hub.fired = true → s.partState p = psRunning → Completes .samplePoint s (fun t =>
    t.parts[p].late = (s.regionsOf p).any (fun r => !s.regionComplete r) ∧ t.mem = s.mem)) ∧
  (∀ (s : State) (p : Prt) (r : Rgn), s.hub.fired = true → s.partState p = psRunning → r ∈ s.regionsOf p →
    (∀ q, r ∈ s.regionsOf q → q = p) → s.blockCommitted r = false → Completes .overrunWarning s (fun t =>
      t.get PROC_REGION_STAT.WARN_CNT r = min PROC_REGION_STAT.WARN_CNT.max (s.get PROC_REGION_STAT.WARN_CNT r + 1) ∧
      SameRegs s t [PROC_REGION_STAT.WARN_CNT] ∧ OnlyRegs s t)) ∧
  (∀ (s : State) (p : Prt), s.get PROC_HOLD_LIMIT.LIMIT ≤ s.get PROC_PART_STAT.CONSEC p →
    s.bit PROC_PART_STAT.HELD p = true → s.partState p ≠ psEmpty → s.partState p ≠ psTearing →
    Completes (.stall p) s (fun t => t.get PROC_PART_STAT.STALL p = 1 ∧ t.partState p = psTearing ∧
      t.get PROC_TEAR_STAT.CAUSE p = 3)) ∧
  (∀ (s : State) (v : Word32), s.periodOk v.toNat = false → Completes (.hubBellPeriodWrite .pf v) s (fun t =>
    t.get HUB_BELL_ERR.REFUSED = min HUB_BELL_ERR.REFUSED.max (s.get HUB_BELL_ERR.REFUSED + 1) ∧
    SameRegs s t [HUB_BELL_ERR.REFUSED] ∧ OnlyRegs s t)) ∧
  (∀ (s : State) (v : Word32), s.periodOk v.toNat = true → Completes (.hubBellPeriodWrite .pf v) s (fun t =>
    t.get HUB_BELL_PERIOD.PERIOD_US = HUB_BELL_PERIOD.PERIOD_US.ofWord v.toNat ∧
    SameRegs s t [HUB_BELL_PERIOD.PERIOD_US] ∧ t.mem = s.mem))) ∧
  ((∀ s : State, s.complete = true → s.bit HUB_BELL_STATUS.IS_MASTER = false → s.hub.pendingBell = none →
    Completes .missedBellTimeout s (fun t =>
      t.get HUB_BELL_ERR.MISSED = min HUB_BELL_ERR.MISSED.max (s.get HUB_BELL_ERR.MISSED + 1) ∧
      t.get HUB_BELL_STATUS.SYNCED = 0 ∧ t.complete = false ∧ t.hub.bellsLost = true)) ∧
  (∀ s : State, s.hub.powered = true → s.hub.fired = false → Completes .localTick s (fun t =>
    t.hub.ticks = s.hub.ticks + 1 ∧ t.regs = s.regs ∧ t.mem = s.mem ∧
    (s.get HUB_MIRROR.EN 0 ≠ 0 → Out.hostWrite 0 (4096 * s.get HUB_MIRROR.ADDR 0) (toLe 8 (s.hub.ticks + 1 + 2 ^ 63)) ∈
      t.out))))

/-- Ownership (R108, R109, R110): OWN_REQ sets REQ of every entry of the unit, HOST_OK only from the physical function. When
the zero fill of a granule is complete the granule reads as zero and every other byte is as before; FILLING of the unit
clears once all its fills are complete. Where no fill runs nothing changes. -/
def Obligations.OwnershipRequests : Prop :=
  (∀ (s : State) (g : Fin 1536), Completes (.ownReq g) s (fun t =>
    (∀ e ∈ s.ownUnit g.val, t.get HUB_OWN.REQ e = 1) ∧ SameRegs s t [HUB_OWN.REQ] ∧ OnlyRegs s t)) ∧
  (∀ (s : State) (g : Fin 1536), Completes (.hostOk .pf g) s (fun t =>
    (∀ e ∈ s.ownUnit g.val, t.get HUB_OWN.HOST_OK e = 1) ∧ SameRegs s t [HUB_OWN.HOST_OK] ∧ OnlyRegs s t)) ∧
  (∀ (s : State) (g : Fin 1536) (a : Actor), a ≠ .pf → exec (.hostOk a g) s = .next s) ∧
  (∀ (s : State) (g : Fin 1536), ((∃ f ∈ s.hub.fills, f.granule = g.val ∧ f.filled = false) →
    Completes (.zeroFillComplete g) s (fun t =>
      (∀ a : Nat, t.mem.read a = if g.val * 2 ^ 30 ≤ a ∧ a < (g.val + 1) * 2 ^ 30 then 0 else s.mem.read a) ∧
      t.regions = s.regions ∧ t.out = s.out ∧
      ((∀ f ∈ s.hub.fills, f.granule ≠ g.val → f.granule ∈ s.ownUnit g.val → f.filled = true) →
        (∀ e ∈ s.ownUnit g.val, t.get HUB_OWN.FILLING e = 0) ∧ SameRegs s t [HUB_OWN.FILLING]) ∧
      ((∃ f ∈ s.hub.fills, f.granule ≠ g.val ∧ f.granule ∈ s.ownUnit g.val ∧ f.filled = false) → t.regs = s.regs))) ∧
    ((∀ f ∈ s.hub.fills, f.granule = g.val → f.filled = true) → exec (.zeroFillComplete g) s = .next s))

/-- CXL.mem (R107, R289, R290, R338, R369). An access within one 256-byte line of stack memory that the host owns, in a module
that is not dormant: with no hedge for the host, or with one that has a unit left and no request of the region waiting, a
read answers the bytes, poisoned if a word of them is, and a write stores its bytes and nothing else; else the request waits
behind the others. What the host does not own is refused and counted, whatever the hedge: a read answers poisoned bytes, a
write stores nothing. A longer access is that of its first line and then that of the rest. -/
def Obligations.HostMemoryAccess : Prop :=
  (∀ (s : State) (dpa : Word64) (n h : Nat) (bs : List Byte), 0 < n → bs.length = n →
    dpa.toNat / 256 = (dpa.toNat + n - 1) / 256 → h = 64 + dpa.toNat / 0x6000000000 →
    (s.hostOwns dpa.toNat (dpa.toNat + n) = true → s.dormant = false →
      (kget s.hub.hedgeOn h 0 = 0 ∨
        ((∀ q ∈ s.hub.cxl, 64 + q.1 / 0x6000000000 ≠ h) ∧ 0 < kget s.hub.hedge h 0) →
        Completes (.cxlMemRead dpa n) s (fun t => t.out = s.out ++ [.cxlData ((List.range n).flatMap
          (fun i => s.bytes (s.phys (dpa.toNat + i)) 1)) ((List.range n).any (fun i =>
            s.badWords.contains (s.phys (dpa.toNat + i) / 8)))] ∧ t.mem = s.mem ∧ t.regs = s.regs ∧
          t.regions = s.regions ∧ t.hub.cxl = s.hub.cxl) ∧
        Completes (.cxlMemWrite dpa bs) s (fun t => Wrote s t (s.phys dpa.toNat) bs ∧ t.out = s.out ∧ t.regs = s.regs ∧
          t.regions = s.regions ∧ t.hub.cxl = s.hub.cxl)) ∧
      (kget s.hub.hedgeOn h 0 ≠ 0 → ((∃ q ∈ s.hub.cxl, 64 + q.1 / 0x6000000000 = h) ∨ kget s.hub.hedge h 0 = 0) →
        Completes (.cxlMemRead dpa n) s (fun t => t.hub.cxl = s.hub.cxl ++ [(dpa.toNat, n, none)] ∧ t.mem = s.mem ∧
          t.out = s.out ∧ t.regs = s.regs ∧ t.regions = s.regions) ∧
        Completes (.cxlMemWrite dpa bs) s (fun t => t.hub.cxl = s.hub.cxl ++ [(dpa.toNat, n, some bs)] ∧ t.mem = s.mem ∧
          t.out = s.out ∧ t.regs = s.regs ∧ t.regions = s.regions))) ∧
    (s.hostOwns dpa.toNat (dpa.toNat + n) = false ∨ s.dormant = true →
      Completes (.cxlMemRead dpa n) s (fun t => (∃ data, data.length = n ∧ t.out = s.out ++ [.cxlData data true]) ∧
        t.get HUB_CXL_DENY_CNT.COUNT = min HUB_CXL_DENY_CNT.COUNT.max (s.get HUB_CXL_DENY_CNT.COUNT + 1) ∧
        SameRegs s t [HUB_CXL_DENY_CNT.COUNT] ∧ t.mem = s.mem ∧ t.regions = s.regions) ∧
      Completes (.cxlMemWrite dpa bs) s (fun t =>
        t.get HUB_CXL_DENY_CNT.COUNT = min HUB_CXL_DENY_CNT.COUNT.max (s.get HUB_CXL_DENY_CNT.COUNT + 1) ∧
        SameRegs s t [HUB_CXL_DENY_CNT.COUNT] ∧ OnlyRegs s t))) ∧
  (∀ (s : State) (dpa : Word64) (k n : Nat) (bs : List Byte), k = 256 - dpa.toNat % 256 → k < n → bs.length = n →
    dpa.toNat + n < 2 ^ 64 →
    (∃ u, exec (.cxlMemRead dpa k) s = .next u ∧
      exec (.cxlMemRead dpa n) s = exec (.cxlMemRead (dpa + BitVec.ofNat 64 k) (n - k)) u) ∧
    (∃ u, exec (.cxlMemWrite dpa (bs.take k)) s = .next u ∧
      exec (.cxlMemWrite dpa bs) s = exec (.cxlMemWrite (dpa + BitVec.ofNat 64 k) (bs.drop k)) u))

/-- Training a link that is down or in training (R236, R243): with a lane that passes it is in training at the widest
width the lanes allow and sends its first timing probe; with none, or with a permutation that is no reversal, it is
down; a link that is in use is left alone. Other links are as before. A retry trains a link that is down again unless
its flight time was refused, and starts the return of the lanes of a link below its target width (R255). Timing probes
(R244): a probe is answered with its time and the residence; an echo adds its round trip less residence; the sixteenth
gives the latency, half the mean, and the reach class; the link then takes roll call, or all flits in a complete fabric,
or is down when its reach is refused. -/
def Obligations.LinksTrainAndTime : Prop :=
  (∀ (s : State) (l : Lnk) (passed polInv : BitVec 4) (reversed permuted : Bool),
    (s.get LNK_STAT.STATE l = lkDown ∨ s.get LNK_STAT.STATE l = lkTraining →
      (permuted = false → widthOf passed.toNat ≠ 0 → Completes (.linkTraining l passed polInv reversed permuted) s
        (fun t => t.get LNK_STAT.STATE l = lkTraining ∧ t.get LNK_STAT.WIDTH l = widthOf passed.toNat ∧
          t.get LNK_STAT.LANES_OK l = passed.toNat ∧ t.get LNK_STAT.POL_INV l = polInv.toNat ∧
          t.get LNK_STAT.REVERSED l = (if reversed then 1 else 0) ∧ t.links[l].probes = [] ∧
          Leaves t l (fun g => g.hdr.type.toNat = ftMgmt ∧ leAt g.payload 0 1 = 1) ∧
          (∀ k, k ≠ l → t.links[k] = s.links[k]) ∧ t.mem = s.mem ∧ t.regions = s.regions)) ∧
      (permuted = true ∨ widthOf passed.toNat = 0 → Completes (.linkTraining l passed polInv reversed permuted) s
        (fun t => t.get LNK_STAT.STATE l = lkDown ∧ t.get LNK_STAT.WIDTH l = 0 ∧
          (∀ k, k ≠ l → t.links[k] = s.links[k]) ∧ t.mem = s.mem ∧ t.out = s.out ∧ t.regions = s.regions))) ∧
    (s.get LNK_STAT.STATE l ≠ lkDown → s.get LNK_STAT.STATE l ≠ lkTraining →
      exec (.linkTraining l passed polInv reversed permuted) s = .next s) ∧
    (s.get LNK_STAT.STATE l = lkDown →
      (s.get LNK_STAT.LATENCY l ≤ 5184 → Completes (.trainingRetry l) s (fun t =>
        t.get LNK_STAT.STATE l = lkTraining ∧ SameRegs s t [LNK_STAT.STATE] ∧ OnlyRegs s t)) ∧
      (5184 < s.get LNK_STAT.LATENCY l → exec (.trainingRetry l) s = .next s)) ∧
    (s.get LNK_STAT.STATE l = lkUp ∨ s.get LNK_STAT.STATE l = lkRollCall →
      (s.get LNK_WIDTH.PHASE l = 0 → s.get LNK_STAT.WIDTH l < s.get LNK_WIDTH.TARGET l →
        s.attemptsOf (3, l.val, 0) < 4 → s.retryDue (3, l.val, 0) = true → Completes (.trainingRetry l) s (fun t => t.get LNK_WIDTH.PHASE l = 1 ∧
          t.get LNK_WIDTH.CLEAN l = 0 ∧ SameRegs s t [LNK_WIDTH.PHASE, LNK_WIDTH.CLEAN] ∧ OnlyRegs s t)) ∧
      (s.get LNK_WIDTH.TARGET l ≤ s.get LNK_STAT.WIDTH l ∨ s.retryDue (3, l.val, 0) = false →
        exec (.trainingRetry l) s = .next s))) ∧
  (∀ (s : State) (l : Lnk) (time arrival : Word64) (residence : Word32),
    s.get LNK_STAT.STATE l ≠ lkDown → s.get LNK_STAT.STATE l ≠ lkFailed →
    (s.timingOk l = false → Completes (.timingProbe l time residence) s (fun t =>
      t.get LNK_RC.NONRC l = min LNK_RC.NONRC.max (s.get LNK_RC.NONRC l + 1) ∧ SameRegs s t [LNK_RC.NONRC] ∧
      OnlyRegs s t)) ∧
    (s.timingOk l = true →
      Completes (.timingProbe l time residence) s (fun t => Leaves t l (fun g => g.hdr.type.toNat = ftMgmt ∧
        leAt g.payload 0 1 = 2 ∧ leAt g.payload 8 8 = time.toNat ∧ leAt g.payload 16 4 = residence.toNat) ∧
        t.links[l].timing = s.links[l].timing + 1 ∧ t.regs = s.regs ∧ t.mem = s.mem ∧ t.regions = s.regions) ∧
      (s.get LNK_STAT.STATE l = lkTraining → s.links[l].probes.length < 15 →
        Completes (.probeEcho l time residence arrival) s (fun t =>
          t.links[l].probes = s.links[l].probes ++ [arrival.toNat - time.toNat - residence.toNat] ∧
          Leaves t l (fun g => g.hdr.type.toNat = ftMgmt ∧ leAt g.payload 0 1 = 1) ∧ t.regs = s.regs ∧ t.mem = s.mem)) ∧
      (s.get LNK_STAT.STATE l = lkTraining → 15 ≤ s.links[l].probes.length → ∀ lat,
        lat = ((s.links[l].probes.foldl (· + ·) 0) + (arrival.toNat - time.toNat - residence.toNat) + 16) / 32 →
        Completes (.probeEcho l time residence arrival) s (fun t =>
          t.get LNK_STAT.LATENCY l = min lat (2 ^ 20 - 1) ∧ t.get LNK_STAT.REACH l = reachOf lat ∧
          t.get LNK_STAT.STATE l =
            (if reachOf lat = 3 then lkDown else if s.complete then lkUp else lkRollCall) ∧ t.mem = s.mem)) ∧
      (s.get LNK_STAT.STATE l ≠ lkTraining → exec (.probeEcho l time residence arrival) s =
        .next (s.modLink l (fun x => { x with timing := x.timing + 1 })))))

/-- Retry (R237, R239, R241, R242): a bad flit is counted, discarded and answered with a NAK if none is out; a good one out
of sequence is discarded too, its ACK taken; the expected one is accepted. A NAK or a timeout replays what is
unacknowledged, at the ninth time of one SEQ what a failing lane does; IDLE carries the ACK, and a good IDLE flit that
arrives returns credits. A lane in use fails (R254): the link goes on at the width the surviving lanes allow, or fails
when none is left; a failing lane that is not in use leaves LANES_OK. LINK_WIDEN (R255) takes the target width when the
hardening-off is over, and the width only grows; SWITCH (R252) asks for the other routing table. -/
def Obligations.LinksRetryAndNarrow : Prop :=
  (∀ (s : State) (l : Lnk) (f : Flit) (v : FlitCheck) (res : List Nat),
    unsequenced f.hdr = false → s.get LNK_STAT.STATE l ≠ lkDown → s.get LNK_STAT.STATE l ≠ lkFailed →
    (checkOf f v ≠ .good → Completes (.sequencedFlit l f v res) s (fun t =>
      (checkOf f v = .badCrc → t.get LNK_ERR.CRC l = min LNK_ERR.CRC.max (s.get LNK_ERR.CRC l + 1)) ∧
      (∀ n, v = .badWord n → t.get LNK_ERR.UNCORR_CW l = min LNK_ERR.UNCORR_CW.max (s.get LNK_ERR.UNCORR_CW l + n)) ∧
      (s.links[l].nakSent = true → t.out = s.out) ∧
      (s.links[l].nakSent = false → ∃ g : Flit, t.out = s.out ++ [.flit l.val g] ∧ g.hdr.type.toNat = ftNak ∧
        g.hdr.ack = BitVec.ofNat 14 s.links[l].rxSeq) ∧
      t.links[l].nakSent = true ∧ t.links[l].rxSeq = s.links[l].rxSeq ∧ t.mem = s.mem ∧ t.regions = s.regions)) ∧
    (checkOf f v = .good → f.hdr.seq.toNat ≠ s.links[l].rxSeq → Completes (.sequencedFlit l f v res) s (fun t =>
      t.links[l].nakSent = true ∧ t.links[l].rxSeq = s.links[l].rxSeq ∧ t.mem = s.mem ∧ t.regions = s.regions)) ∧
    (checkOf f v = .good → f.hdr.seq.toNat = s.links[l].rxSeq → exec (.sequencedFlit l f v res) s = .next
      (((s.applyHeader l f.hdr).modLink l (fun x => { x with rxSeq := (x.rxSeq + 1) % 16384, nakSent := false })).arrive
        l f res))) ∧
  (∀ (s : State) (l : Lnk),
    (s.links[l].unacked = [] → exec (.replayTimeout l) s = .next s) ∧
    (s.links[l].unacked ≠ [] → s.links[l].replays < 8 → Completes (.replayTimeout l) s (fun t =>
      t.get LNK_ERR.REPLAYS l = min LNK_ERR.REPLAYS.max (s.get LNK_ERR.REPLAYS l + 1) ∧
      t.links[l].unacked = s.links[l].unacked ∧ t.out = s.out ++ s.links[l].unacked.map (fun g =>
        Out.flit l.val (sealFlit { g with hdr := { g.hdr with ack := BitVec.ofNat 14 s.links[l].rxSeq } })) ∧
      SameRegs s t [LNK_ERR.REPLAYS] ∧ t.mem = s.mem ∧ t.regions = s.regions)) ∧
    (s.links[l].unacked ≠ [] → 8 ≤ s.links[l].replays → ∃ i : Nat, Completes (.replayTimeout l) s (fun t =>
      t = ((s.nextTicket).modLink l (fun x => { x with replays := 0 })).laneFail l (15 - 2 ^ i))) ∧
    (∀ (ack : BitVec 14) (v : FlitCheck),
      (v ≠ .good → Completes (.nak l ack v) s (fun t => SameRegs s t [LNK_ERR.CRC, LNK_ERR.UNCORR_CW] ∧ OnlyRegs s t ∧
        (v = .badCrc → t.get LNK_ERR.CRC l = min LNK_ERR.CRC.max (s.get LNK_ERR.CRC l + 1)))) ∧
      (v = .good → (s.links[l].ackTo ack.toNat).unacked = [] → exec (.nak l ack v) s =
        .next (s.modLink l (·.ackTo ack.toNat))) ∧
      (v = .good → (s.links[l].ackTo ack.toNat).unacked ≠ [] → (s.links[l].ackTo ack.toNat).replays < 8 →
        Completes (.nak l ack v) s (fun t =>
          t.get LNK_ERR.REPLAYS l = min LNK_ERR.REPLAYS.max (s.get LNK_ERR.REPLAYS l + 1) ∧
          t.links[l].unacked = (s.links[l].ackTo ack.toNat).unacked ∧
          t.out = s.out ++ (s.links[l].ackTo ack.toNat).unacked.map (fun g =>
            Out.flit l.val (sealFlit { g with hdr := { g.hdr with ack := BitVec.ofNat 14 s.links[l].rxSeq } })) ∧
          t.mem = s.mem ∧ t.regions = s.regions))) ∧
    (s.get LNK_STAT.STATE l = lkTraining ∨ s.get LNK_STAT.STATE l = lkRollCall ∨ s.get LNK_STAT.STATE l = lkUp →
      Completes (.idle l) s (fun t => ∃ g : Flit, t.out = s.out ++ [.flit l.val g] ∧ g.hdr.type.toNat = ftIdle ∧
        g.hdr.ack = BitVec.ofNat 14 s.links[l].rxSeq ∧ t.regs = s.regs ∧ t.mem = s.mem ∧ t.regions = s.regions)) ∧
    (∀ (h : FlitHdr) (v : FlitCheck),
      (v ≠ .good → Completes (.idleFlit l h v) s (fun t => SameRegs s t [LNK_ERR.CRC, LNK_ERR.UNCORR_CW] ∧ OnlyRegs s t)) ∧
      (v = .good → s.links[l].waiting = [] → h.cvc.toNat < 7 → s.links[l].credits.length = 14 →
        Completes (.idleFlit l h v) s (fun t =>
          t.links[l].credits.getD (2 * h.cvc.toNat + if h.ccls then 1 else 0) 0 =
            s.links[l].credits.getD (2 * h.cvc.toNat + if h.ccls then 1 else 0) 0 + h.cred.toNat ∧
          t.links[l].unacked = (s.links[l].ackTo h.ack.toNat).unacked ∧ t.regs = s.regs ∧ t.mem = s.mem)) ∧
      (v = .good → exec (.idleFlit l h v) s = .next (s.applyHeader l h)))) ∧
  (∀ (s : State) (l : Lnk) (lanes : BitVec 4) (ok : Nat), ok = s.get LNK_STAT.LANES_OK l &&& lanes.toNat →
    s.get LNK_STAT.STATE l ≠ lkDown → s.get LNK_STAT.STATE l ≠ lkFailed →
    (s.links[l].lanes &&& lanes.toNat ≠ s.links[l].lanes → lanes ≠ 15 →
      Completes (.laneFail l lanes) s (fun t => t.get LNK_STAT.WIDTH l = widthOf ok ∧ t.get LNK_STAT.LANES_OK l = ok ∧
        t.get LNK_ERR.DEGRADES l = (if widthOf ok < s.get LNK_STAT.WIDTH l then
          min LNK_ERR.DEGRADES.max (s.get LNK_ERR.DEGRADES l + 1) else s.get LNK_ERR.DEGRADES l) ∧
        t.links[l].lanes = lanesFor ok ∧
        t.get LNK_STAT.STATE l = (if widthOf ok = 0 then lkFailed else s.get LNK_STAT.STATE l) ∧
        t.mem = s.mem ∧ t.regions = s.regions)) ∧
    (s.links[l].lanes &&& lanes.toNat = s.links[l].lanes → lanes ≠ 15 → Completes (.laneFail l lanes) s (fun t =>
      t.get LNK_STAT.LANES_OK l = ok ∧ t.get LNK_STAT.WIDTH l = s.get LNK_STAT.WIDTH l ∧
      t.get LNK_STAT.STATE l = s.get LNK_STAT.STATE l ∧ t.links = s.links ∧ t.mem = s.mem ∧ t.regions = s.regions))) ∧
  (∀ (s : State) (l : Lnk),
    (s.get LNK_WIDTH.PHASE l = 3 → s.get LNK_WIDTH.TARGET l < 8 → Completes (.linkWiden l) s (fun t =>
      t.get LNK_STAT.WIDTH l = max (s.get LNK_STAT.WIDTH l) (s.get LNK_WIDTH.TARGET l) ∧ t.get LNK_WIDTH.PHASE l = 0 ∧
      t.get LNK_WIDTH.CLEAN l = 0 ∧ t.mem = s.mem ∧ t.regions = s.regions)) ∧
    (s.get LNK_WIDTH.PHASE l ≠ 3 → exec (.linkWiden l) s = .next s) ∧
    (∀ r : Rgn, Completes (.switch r) s (fun t => t.get RGN_ROUTE_CTRL.SWITCH r = 1 ∧
      SameRegs s t [RGN_ROUTE_CTRL.SWITCH] ∧ OnlyRegs s t)))

/-- Roll-call frames before START (R246-R249): one within 8 microseconds of the last is dropped and counted. HELLO fills
LNK_PEER, and the own address at a neighbour fails roll call with FAIL_CODE 4; CLAIM takes the lowest two serial numbers
over; BIND names parent and path delay, over 32 hops roll call fails with FAIL_CODE 1; PROBE gives the path delay from
the deputy; READY is kept with its link, and at the master its count completes roll call or, above EXPECT, fails it with
FAIL_CODE 2; START sets F and L and completes roll call, one without F fails it with FAIL_CODE 3, and a module whose roll
call failed takes none. The other events of roll call (R246, R247, R250): the module with the lowest serial number
becomes the master; without an expected count the master completes roll call after quiet; START that does not come fails
it with FAIL_CODE 5; a fabric of one completes with F 1,000 ns and L 2,000 ns; the latest frame of each kind goes out
again. -/
def Obligations.RollCall : Prop :=
  (∀ (s : State) (l : Lnk) (m : RollMsg) (res : List Nat), s.rollLink l = true → s.complete = false →
    (∀ (i : Instr) (τ : Nat), i ∈ [Instr.hello l m, .claim l m, .bind l m res, .probe l m res, .ready l m, .start l m] →
      s.links[l].rcLast = some τ → s.now < τ + 14400 → Completes i s (fun t =>
        t.get LNK_RC.DROPPED l = min LNK_RC.DROPPED.max (s.get LNK_RC.DROPPED l + 1) ∧ SameRegs s t [LNK_RC.DROPPED] ∧
        OnlyRegs s t)) ∧
    ((∀ τ, s.links[l].rcLast = some τ → τ + 14400 ≤ s.now) →
      Completes (.hello l m) s (fun t => t.get LNK_PEER.ADDR l = m.addr.toNat ∧ t.get LNK_PEER.VALID l = 1 ∧
        t.get LNK_PEER_SERIAL.SERIAL l = m.serial.toNat ∧ t.get LNK_PEER.POS_ID l = m.posId.toNat ∧
        (s.addr ≠ 0xFFFF → m.addr.toNat = s.addr →
          t.get HUB_RC_STAT.STATE = 6 ∧ t.get HUB_RC_STAT.FAIL_CODE = 4) ∧ t.mem = s.mem) ∧
      Completes (.claim l m) s (fun t => ∀ n, n = lowSerials [s.serial, s.hub.roll.best.toNat, s.hub.roll.second.toNat,
          m.best.toNat, m.second.toNat, m.serial.toNat] →
        t.hub.roll.best.toNat = n.1 % 2 ^ 64 ∧ t.hub.roll.second.toNat = n.2 % 2 ^ 64 ∧ t.mem = s.mem) ∧
      (32 < m.hops.toNat → Completes (.bind l m res) s (fun t =>
        t.get HUB_RC_STAT.STATE = 6 ∧ t.get HUB_RC_STAT.FAIL_CODE = 1 ∧ t.mem = s.mem)) ∧
      (m.hops.toNat ≤ 32 → s.bindable m = true →
        Completes (.bind l m res) s (fun t => t.hub.roll.parent = some l.val ∧
          t.hub.roll.pathM = some (m.pathM.toNat + s.hopNs l) ∧ t.hub.roll.lastEpoch = m.epoch ∧
          t.get HUB_RC_STAT.HOPS = m.hops.toNat ∧ t.get HUB_BELL_MASTER.MASTER_SERIAL = m.best.toNat ∧
          (s.positional ≠ 0xFFFF → t.get HUB_FAB.ADDR = s.positional % 65536) ∧ t.mem = s.mem)) ∧
      (m.hops.toNat ≤ 32 → s.bindable m = false → exec (.bind l m res) s =
        .next (s.modLink l (fun x => { x with rcLast := some s.now }))) ∧
      (s.probeable m = true → Completes (.probe l m res) s (fun t =>
        t.hub.roll.pathD = some (m.pathD.toNat + s.hopNs l) ∧ t.hub.deputyAddr = m.addr.toNat ∧ t.mem = s.mem)) ∧
      (s.probeable m = false → exec (.probe l m res) s = .next (s.modLink l (fun x => { x with rcLast := some s.now }))) ∧
      (∀ u : State, u = s.modLink l (fun x => { x with
          rcLast := some s.now, ready := some (m.count.toNat, m.pathM.toNat, m.pathD.toNat, m.hops.toNat) }) →
        (s.bit HUB_BELL_STATUS.IS_MASTER = false → Completes (.ready l m) s (fun t =>
          t.links[l].ready = u.links[l].ready ∧ t.mem = s.mem)) ∧
        (s.bit HUB_BELL_STATUS.IS_MASTER = true → s.get HUB_RC_CTRL.EXPECT ≠ 0 →
          (u.aggregate.1 < s.get HUB_RC_CTRL.EXPECT → exec (.ready l m) s = .next u) ∧
          (s.get HUB_RC_CTRL.EXPECT < u.aggregate.1 → Completes (.ready l m) s (fun t =>
            t.get HUB_RC_STAT.STATE = 6 ∧ t.get HUB_RC_STAT.FAIL_CODE = 2 ∧ t.mem = s.mem)) ∧
          (u.aggregate.1 = s.get HUB_RC_CTRL.EXPECT → Completes (.ready l m) s (fun t => t.complete = true ∧
            t.get HUB_BELL_TIMING.FIRE_DELAY_NS =
              fireDelay u.aggregate.2.1 u.aggregate.2.2.1 % 2 ^ HUB_BELL_TIMING.FIRE_DELAY_NS.width ∧ t.mem = s.mem)))) ∧
      (m.fNs ≠ 0 → s.get HUB_RC_STAT.STATE ≠ 6 → Completes (.start l m) s (fun t => t.complete = true ∧
        t.get HUB_BELL_TIMING.FIRE_DELAY_NS = m.fNs.toNat ∧ t.get HUB_BELL_TIMING.LEAD_NS = m.lNs.toNat ∧
        t.get HUB_RC_STAT.EPOCH = m.epoch.toNat ∧ t.mem = s.mem)) ∧
      (m.fNs = 0 → s.get HUB_RC_STAT.STATE ≠ 6 → Completes (.start l m) s (fun t =>
        t.get HUB_RC_STAT.STATE = 6 ∧ t.get HUB_RC_STAT.FAIL_CODE = 3 ∧ t.mem = s.mem)) ∧
      (s.get HUB_RC_STAT.STATE = 6 → exec (.start l m) s =
        .next (s.modLink l (fun x => { x with rcLast := some s.now }))))) ∧
  (∀ (s : State),
    ((s.get HUB_RC_STAT.STATE = 1 ∨ s.get HUB_RC_STAT.STATE = 2) → s.hub.roll.best.toNat = s.serial →
      Completes .becomeMaster s (fun t => t.get HUB_BELL_STATUS.IS_MASTER = 1 ∧ t.get HUB_RC_STAT.STATE = 3 ∧
        t.get HUB_RC_STAT.HOPS = 0 ∧ t.hub.roll.lastEpoch = s.hub.roll.lastEpoch + 1 ∧
        (∀ l : Lnk, s.rollLink l = true → Leaves t l (fun g => g.hdr.type.toNat = ftRollCall ∧ leAt g.payload 0 1 = 3)) ∧
        t.mem = s.mem)) ∧
    (s.get HUB_RC_CTRL.EXPECT = 0 → s.bit HUB_BELL_STATUS.IS_MASTER = true →
      (s.get HUB_RC_STAT.STATE = 3 ∨ s.get HUB_RC_STAT.STATE = 4) → Completes .quietCompletion s (fun t =>
        t.complete = true ∧ t.get HUB_BELL_TIMING.FIRE_DELAY_NS =
          fireDelay s.aggregate.2.1 s.aggregate.2.2.1 % 2 ^ HUB_BELL_TIMING.FIRE_DELAY_NS.width ∧ t.mem = s.mem)) ∧
    (1 ≤ s.get HUB_RC_STAT.STATE → s.get HUB_RC_STAT.STATE ≤ 4 → Completes .timeout s (fun t =>
      t.get HUB_RC_STAT.STATE = 6 ∧ t.get HUB_RC_STAT.FAIL_CODE = 5 ∧ OnlyRegs s t)) ∧
    (s.get HUB_RC_CTRL.EXPECT = 1 → (s.get HUB_RC_STAT.STATE ≤ 2 ∨ s.get HUB_RC_STAT.STATE = 6) →
      Completes .fabricOfOne s (fun t => t.complete = true ∧ t.get HUB_BELL_STATUS.IS_MASTER = 1 ∧
        t.get HUB_BELL_TIMING.FIRE_DELAY_NS = 1000 ∧ t.get HUB_BELL_TIMING.LEAD_NS = 2000 ∧ t.mem = s.mem)) ∧
    (∀ l : Lnk, s.rollLink l = true → Completes (.frameRepeat l) s (fun t =>
      (∀ x ∈ s.hub.roll.latest, x.1 ≠ rkHello → (x.1 = rkReady → s.hub.roll.parent = some l.val) →
        Leaves t l (fun g => g.hdr.type.toNat = ftRollCall ∧ g.payload = padTo 240 (rollBytes x.1
          { stayed x.1 x.2.1 x.2.2 l with link := BitVec.ofNat 8 l.val, reach := BitVec.ofNat 8 (s.get LNK_STAT.REACH l) }))) ∧
      t.regs = s.regs ∧ t.mem = s.mem ∧ t.regions = s.regions)))

/-- A COLLECTIVE flit that no issued command can use is staged on its target link, LEVEL following, with what is bad in its
slot, and memory is as before; without a free slot, or behind others, it waits (R257-R260); one that a command can use at
once is used. A DONE is such a flit, one of another OP no such event; a flit of a torn-down tag is discarded and counted
(R302); a reserved OP is answered BAD_TYPE (R261); before START a flit is dropped and counted (R246). An uncorrectable word
of a parked flit counts when the flit is used (R260: that it is met then is the model's reading, log entry 16). -/
def Obligations.CollectiveFlitIsStaged : Prop :=
  (∀ (s u : State) (l k : Lnk) (f : Flit) (i : Instr) (y : StageCheck),
    (i = .collective l f y ∨ i = .done l f ∧ y = .good ∧ (collHdr f).op = opDone) → s.complete = true →
    collReserved f = false → k.val = (collHdr f).tlink % 32 →
    (s.torn f.hdr.tag.toNat = true → exec i s = .next (s.discardTorn f.hdr.tag.toNat)) ∧
    (s.torn f.hdr.tag.toNat = false → u = (if s.links[k].backlog = [] then s else s.rescanAll k) →
      ((u.noteStage f (onArrival y)).takeDirect k f = none → u.links[k].backlog = [] → u.stageUsed k < 16384 →
        ¬ (f.hdr.last = true ∧ ((collHdr f).op = opSend ∨ (collHdr f).op = opAddFwd)) →
        Completes i s (fun t => t.links[k].stage = u.links[k].stage ++ [f] ∧
          t.get LNK_ADD_STAGE_LVL.LEVEL k = (u.stageUsed k + 1) % 2 ^ LNK_ADD_STAGE_LVL.LEVEL.width ∧
          ((∀ b ∈ u.links[k].stageBad, b.1 ≠ f) → t.stageCheck k f = y) ∧
          t.mem = u.mem ∧ t.regions = u.regions ∧ t.out = u.out)) ∧
      ((u.noteStage f (onArrival y)).takeDirect k f = none → u.links[k].backlog = [] → u.stageUsed k < 16384 →
        f.hdr.last = true → ((collHdr f).op = opSend ∨ (collHdr f).op = opAddFwd) → f.hdr.src.toNat ≠ s.addr →
        Completes i s (fun t => t.links[k].stage = u.links[k].stage ++ [f] ∧ t.mem = u.mem ∧ t.regions = u.regions)) ∧
      ((u.noteStage f (onArrival y)).takeDirect k f = none → (u.links[k].backlog ≠ [] ∨ 16384 ≤ u.stageUsed k) →
        Completes i s (fun t => t.links[k].stage = u.links[k].stage ∧
          t.links[k].backlog = u.links[k].backlog ++ [(512, f)] ∧ t.regs = u.regs ∧ t.mem = u.mem ∧
          t.regions = u.regions ∧ t.out = u.out)) ∧
      (∀ v, (u.noteStage f (onArrival y)).takeDirect k f = some v → Completes i s (fun t =>
        t = ((v.answerLast k f).rescanAll k).stageLevel k ∧ t.mem = s.mem)))) ∧
  (∀ (s : State) (l : Lnk) (f : Flit) (y : StageCheck),
    (s.complete = true → (collHdr f).op ≠ opDone → exec (.done l f) s = .next s) ∧
    (s.complete = true → collReserved f = true →
      exec (.collective l f y) s = .next (s.refuseFlit (some l) (linkRegion l) f 6 0)) ∧
    (s.complete = false → ∀ i, i = .collective l f y ∨ i = .done l f → Completes i s (fun t =>
      t.get LNK_RC.NONRC l = min LNK_RC.NONRC.max (s.get LNK_RC.NONRC l + 1) ∧ SameRegs s t [LNK_RC.NONRC] ∧
      OnlyRegs s t)) ∧
    (∀ w, s.stageCheck l f = .flit w → (s.freeBad l f).get LNK_COLL_ERR.STAGE_UNCORR l =
      min LNK_COLL_ERR.STAGE_UNCORR.max (s.get LNK_COLL_ERR.STAGE_UNCORR l + 1)))

/-- Peer requests of a complete module while no hedge is on (R90, R107, R302): a WRITE that the tag may make stores its
bytes and nothing else; one it may not make changes no memory and is answered with an error frame, which counts; one of a
torn-down tag is discarded and counted. A READ_REQ is answered with its bytes. Before START both are dropped and counted
(R246). -/
def Obligations.PeerRequests : Prop :=
  ∀ (s : State) (l : Lnk) (f : Flit) (q : PeerReq) (da : Nat), q = requestOf f →
    (s.complete = false → ∀ i, i = .write l f ∨ i = .readReq l f → Completes i s (fun t =>
      t.get LNK_RC.NONRC l = min LNK_RC.NONRC.max (s.get LNK_RC.NONRC l + 1) ∧ SameRegs s t [LNK_RC.NONRC] ∧
      OnlyRegs s t)) ∧
    (s.complete = true → f.hdr.type.toNat = ftWrite → s.torn q.tag.toNat = true →
      exec (.write l f) s = .next (s.discardTorn q.tag.toNat)) ∧
    (s.complete = true → s.hub.hedgeOn = [] → behindPeer s.hub.peerWait f = false → q.length ≠ 0 →
      peerTarget (q.offset.toNat % 2 ^ 44) = some da →
      (f.hdr.type.toNat = ftWrite → s.torn q.tag.toNat = false → q.data.length = q.length.toNat →
        s.peerRefusal q.tag.toNat (q.offset.toNat % 2 ^ 44) q.data.length = none → Completes (.write l f) s (fun t =>
          (∀ i < q.data.length, (∀ j < q.data.length, s.phys (da + j) = s.phys (da + i) → j = i) →
            t.mem.read (s.phys (da + i)) = q.data.getD i 0) ∧
          (∀ a, (∀ i < q.data.length, a ≠ s.phys (da + i)) → t.mem.read a = s.mem.read a) ∧
          t.regs = s.regs ∧ t.regions = s.regions ∧ t.out = s.out)) ∧
      (∀ code i, (i = .write l f ∧ f.hdr.type.toNat = ftWrite ∧ s.torn q.tag.toNat = false ∨
          i = .readReq l f ∧ f.hdr.type.toNat = ftReadReq) →
        s.peerRefusal q.tag.toNat (q.offset.toNat % 2 ^ 44) q.length.toNat = some code → q.src.toNat ≠ s.addr →
        f.hdr.vc ≠ 7 → Completes i s (fun t => t.mem = s.mem ∧
          t.get LNK_RC.ERR_SENT l = min LNK_RC.ERR_SENT.max (s.get LNK_RC.ERR_SENT l + 1))) ∧
      (f.hdr.type.toNat = ftReadReq →
        s.peerRefusal q.tag.toNat (q.offset.toNat % 2 ^ 44) q.length.toNat = none →
        exec (.readReq l f) s = .next (s.sendAll (linkRegion l) (s.dataFlits ftReadResp q.vc.toNat q.src.toNat q.tag.toNat
          (ownOffset q.returnDA.toNat % 2 ^ 44)
          ((List.range q.length.toNat).map (fun i => readOpen s.mem s.openOuts (s.phys (da + i))))))))

/-- A READ_RESP adds its bytes to the copy command that asked for them, whose effect is formed once all have come (R90);
an error frame for this module fails the issued copies that touch what it names (R253) and answers the fabric post
that drew it (R346). Memory changes with the commit only (R134). COMPLETION (R337): data of a host-window read joins
what the copy has, memory as before, and its effect is formed once all have come; a status of UR or CA fails the copy,
which then reports nothing else at its commit. Flits are dropped and counted before START (R246), a response of a torn-down
tag is discarded (R302). -/
def Obligations.AnswersReachTheirCommands : Prop :=
  ((∀ (s : State) (l : Lnk) (f : Flit) (q : PeerReq) (r : Rgn) (p : Prt) (e : Entry) (host : Nat) (hostGot : List Byte)
      (need : List (Nat × Nat × Nat)) (got got' : KMap), q = requestOf f → s.complete = true →
    f.hdr.type.toNat = ftReadResp →
    (s.torn q.tag.toNat = true → exec (.readResp l f) s = .next (s.discardTorn q.tag.toNat)) ∧
    (s.torn q.tag.toNat = false → (∀ x, s.regionOfTag x q.tag.toNat = (x == r)) → s.partOf r = some p →
      s.regions[r].cmds.find? (fun e => e.awaits q.src.toNat q.offset.toNat q.data) = some e →
      e.work = .remote host hostGot need got →
      got' = (answers need q.src.toNat q.offset.toNat q.data).foldl (fun m a => kset m a.1 a.2.toNat) got →
      ((Work.remote host hostGot need got').done = false → Completes (.readResp l f) s (fun t =>
        t.regions[r].cmds = replaceEntry (fun y => y.eng == e.eng && y.ord == e.ord && y.issued)
          { e with work := .remote host hostGot need got' } s.regions[r].cmds ∧ t.mem = s.mem ∧ t.out = s.out)) ∧
      ((Work.remote host hostGot need got').done = true → exec (.readResp l f) s =
        .next (s.finishRemote r p { e with work := .remote host hostGot need got' })))) ∧
  (∀ (s : State) (l : Lnk) (m : ErrMsg), s.complete = true → m.dest.toNat = s.addr →
    (m.offender.type.toNat = ftMgmt → m.offender.dest.toNat = s.get PH_FSEND.DEST → s.get PH_FSEND.STATUS = 1 →
      Completes (.error l m) s (fun t => t.get PH_FSEND.STATUS =
        (if m.code.toNat = 4 then 3 else if m.code.toNat = 5 then 4 else 5) ∧ SameRegs s t [PH_FSEND.STATUS] ∧
        OnlyRegs s t)) ∧
    (m.offender.type.toNat = ftWrite ∨ m.offender.type.toNat = ftReadReq → Completes (.error l m) s (fun t =>
      (∀ r : Rgn, s.regionOfTag r m.offender.tag.toNat = true → ∀ e ∈ t.regions[r].cmds, e.issued = true →
        e.cmd.op / 16 = 6 → e.descs.any (fun d => namesPeer d.2 m.offender.dest.toNat m.detail.toNat) = true →
        e.failed = true ∧ e.cause = 6 ∧ e.posts = []) ∧
      (∀ r : Rgn, s.regionOfTag r m.offender.tag.toNat = false → t.regions[r].cmds = s.regions[r].cmds) ∧
      t.mem = s.mem))) ∧
  (∀ (s : State) (l : Lnk) (m : ErrMsg), s.complete = true → m.dest.toNat ≠ s.addr → exec (.error l m) s = .next s) ∧
  (∀ (s : State) (l : Lnk) (f : Flit) (m : ErrMsg) (i : Instr), s.complete = false → i = .readResp l f ∨ i = .error l m →
    Completes i s (fun t => t.get LNK_RC.NONRC l = min LNK_RC.NONRC.max (s.get LNK_RC.NONRC l + 1) ∧
      SameRegs s t [LNK_RC.NONRC] ∧ OnlyRegs s t))) ∧
  (∀ (s : State) (r : Rgn) (k : Fin 8) (p : Prt) (e : Entry) (need : Nat) (got bs : List Byte)
      (peers : List (Nat × Nat × Nat)) (peerGot : KMap) (w : Work),
    s.partOf r = some p → s.regions[r].cmds.find? (fun e => e.eng == 31 + k.val && e.issued) = some e →
    e.work = .remote need got peers peerGot → got.length < need →
    w = .remote need ((got ++ bs).take need) peers peerGot →
    (w.done = false → Completes (.completion r k 0 bs) s (fun t =>
      t.regions[r].cmds = replaceEntry (fun y => y.eng == e.eng && y.ord == e.ord && y.issued)
        { e with work := w } s.regions[r].cmds ∧ t.mem = s.mem ∧ t.out = s.out ∧
      SameRegs s t [SU_STAT.CLAIMED, SE_STAT.INFLIGHT, LNK_ADD_STAGE_LVL.INFLIGHT])) ∧
    (w.done = true → exec (.completion r k 0 bs) s = .next (s.finishRemote r p { e with work := w })) ∧
    (∀ status : BitVec 3, status = 1 ∨ status = 4 → Completes (.completion r k status bs) s (fun t =>
      t.regions[r].cmds = replaceEntry (fun y => y.eng == e.eng && y.ord == e.ord && y.issued)
        { e with failed := true, cause := 6, posts := [], work := .none } s.regions[r].cmds ∧ t.mem = s.mem ∧
      t.out = s.out ∧ SameRegs s t [SU_STAT.CLAIMED, SE_STAT.INFLIGHT, LNK_ADD_STAGE_LVL.INFLIGHT])))

/-- LOAD of an empty partition with a JOB_TAG (R285, R129, R141): it is loaded, BLOCKS is zero, and every region of it has
an idle sequencer, empty queues, tokens at zero, no error and no poison flag; memory outside the accumulators is as it
was. LOAD in another state, or with JOB_TAG 0, changes nothing. DBG_LOCK sets only while a job is loaded or running
(R288), ARM only while no batch is active (R304); neither changes anything else. -/
def Obligations.LoadsAndLocks : Prop :=
  (∀ (s : State) (p : Prt),
    (s.partState p = psEmpty → s.get PROC_PART_CFG.JOB_TAG p ≠ 0 → Completes (.load p) s (fun t =>
      t.partState p = psLoaded ∧ t.get PROC_PART_BLOCK.BLOCKS p = 0 ∧
      (∀ r ∈ s.regionsOf p, t.seqState r = sqIdle ∧ t.regions[r].cmds = [] ∧ t.regions[r].ordinal = 0 ∧
        t.regions[r].poison = 0 ∧ t.get RGN_SEQ_ERR.CODE r = 0 ∧ (∀ n < 256, t.tok r n = 0)) ∧
      (∀ r, r ∉ s.regionsOf p → t.regions[r] = s.regions[r]) ∧
      (∀ a < 0x20000000000000000, t.mem.read a = s.mem.read a))) ∧
    ((s.partState p ≠ psEmpty ∨ s.get PROC_PART_CFG.JOB_TAG p = 0) → exec (.load p) s = .next s)) ∧
  (∀ (s : State) (p : Prt),
    ((s.partState p = psLoaded ∨ s.partState p = psRunning) → Completes (.dbgLock p) s (fun t =>
      t.get PROC_PART_CFG.DBG_LOCK p = 1 ∧ SameRegs s t [PROC_PART_CFG.DBG_LOCK] ∧ OnlyRegs s t)) ∧
    (s.partState p ≠ psLoaded → s.partState p ≠ psRunning → exec (.dbgLock p) s = .next s) ∧
    (s.get PROC_SERVE_STAT.ACTIVE p = 0 → Completes (.arm p) s (fun t =>
      t.get PROC_SERVE_CTRL.ARM p = 1 ∧ SameRegs s t [PROC_SERVE_CTRL.ARM] ∧ OnlyRegs s t)) ∧
    (s.get PROC_SERVE_STAT.ACTIVE p ≠ 0 → exec (.arm p) s = .next s))

/-- Pre-emption (R293-R298). A request is refused outside the running state, with a save granule that is not Icholt's in the
region's own stacks, or for a bell that is not to come; one for a later bell waits; one at once stops the partition. The
save, once nothing issued is left, leaves the partition empty with its context saved, and no byte outside the save granules
changes; a resume restores under the saved tag, or is refused; the restore brings back sequencers and queues; a save that
takes too long is a teardown with CAUSE 6. None of these does anything in another state. -/
def Obligations.PreemptionAndResume : Prop :=
  ∀ (s : State) (p : Prt),
    (s.partState p ≠ psRunning ∨ (∃ r ∈ s.regionsOf p, s.saveGranuleOk p r = false) ∨
      (s.get PROC_PREEMPT.MODE p = 0 ∧ s.get PROC_PREEMPT.AT p ≤ s.period) → Completes (.procPreemptReq p) s (fun t =>
        t.get PROC_PREEMPT.REFUSED p = 1 ∧ t.get PROC_PREEMPT.REQ p = 0 ∧
        SameRegs s t [PROC_PREEMPT.REFUSED, PROC_PREEMPT.REQ] ∧ OnlyRegs s t)) ∧
    (s.partState p = psRunning → (∀ r ∈ s.regionsOf p, s.saveGranuleOk p r = true) →
      (s.get PROC_PREEMPT.MODE p = 0 → s.period < s.get PROC_PREEMPT.AT p → Completes (.procPreemptReq p) s (fun t =>
        t.get PROC_PREEMPT.REQ p = 1 ∧ SameRegs s t [PROC_PREEMPT.REQ] ∧ OnlyRegs s t)) ∧
      (s.get PROC_PREEMPT.MODE p ≠ 0 → Completes (.procPreemptReq p) s (fun t => t.partState p = psSaving ∧
        t.get PROC_PREEMPT.REQ p = 0 ∧ ∀ r ∈ s.regionsOf p, t.seqState r = sqPreempted ∧
          t.regions[r].savedSeq = s.seqState r ∧
          ∀ e ∈ t.regions[r].cmds, e.cmd.killable = true → e.issued = false))) ∧
    (s.partState p = psSaving → (∀ r ∈ s.regionsOf p, ∀ e ∈ s.regions[r].cmds, e.issued = false) →
      Completes (.saveComplete p) s (fun t => t.partState p = psEmpty ∧ t.get PROC_PART_CFG.SAVED p = 1 ∧
        t.get PROC_PART_CFG.SAVED_TAG p = s.get PROC_PART_CFG.JOB_TAG p % 65536 ∧
        t.parts[p].image = (s.regionsOf p).map (fun r => s.imageOf p r) ∧
        t.parts[p].savedRegions = s.get PROC_PART_CFG.REGIONS p ∧
        (∀ r ∈ s.regionsOf p, t.regions[r].cmds = []) ∧
        (∀ a, (∀ r ∈ s.regionsOf p, a / 2 ^ 30 ≠ s.get (PROC_SAVE.GRANULE r.val) p) → t.mem.read a = s.mem.read a))) ∧
    (s.partState p ≠ psSaving ∨ (∃ r ∈ s.regionsOf p, ∃ e ∈ s.regions[r].cmds, e.issued = true) →
      exec (.saveComplete p) s = .next s) ∧
    (s.partState p = psEmpty → s.get PROC_PART_CFG.SAVED p ≠ 0 →
      s.get PROC_PART_CFG.REGIONS p = s.parts[p].savedRegions → s.period < s.get PROC_PREEMPT.AT p →
      Completes (.procPreemptResume p) s (fun t => t.partState p = psRestoring ∧
        t.get PROC_PART_CFG.JOB_TAG p = s.get PROC_PART_CFG.SAVED_TAG p % 65536 ∧ t.mem = s.mem ∧
        ∀ r ∈ s.regionsOf p, t.seqState r = sqPreempted)) ∧
    (s.partState p ≠ psEmpty ∨ s.get PROC_PART_CFG.SAVED p = 0 ∨
      s.get PROC_PART_CFG.REGIONS p ≠ s.parts[p].savedRegions ∨ s.get PROC_PREEMPT.AT p ≤ s.period →
      Completes (.procPreemptResume p) s (fun t => t.get PROC_PREEMPT.REFUSED p = 1 ∧ t.get PROC_PREEMPT.RESUME p = 0 ∧
        SameRegs s t [PROC_PREEMPT.REFUSED, PROC_PREEMPT.RESUME] ∧ OnlyRegs s t)) ∧
    (s.partState p = psRestoring → s.parts[p].restored = false → (s.parts[p].image.map (·.region)).Nodup →
      (∀ im ∈ s.parts[p].image, im.region < 4) → Completes (.restoreComplete p) s (fun t => t.parts[p].restored = true ∧
        t.get PROC_PART_CFG.SAVED p = 0 ∧ t.out = s.out ∧ t.hub = s.hub ∧
        (∀ im ∈ s.parts[p].image, ∀ r : Rgn, r.val = im.region → t.regions[r] = { im.seq with
          isolated := s.regions[r].isolated, dipStretch := s.regions[r].dipStretch,
          thermStretch := s.regions[r].thermStretch, pacedMatrix := s.regions[r].pacedMatrix,
          pacedAll := s.regions[r].pacedAll }) ∧
        (∀ r : Rgn, r.val ∉ s.parts[p].image.map (·.region) → t.regions[r] = s.regions[r]))) ∧
    (s.partState p ≠ psRestoring ∨ s.parts[p].restored = true → exec (.restoreComplete p) s = .next s) ∧
    (s.partState p = psSaving → (∃ r ∈ s.regionsOf p, ∃ e ∈ s.regions[r].cmds, e.issued = true) →
      Completes (.preemptTimeout p) s (fun t => t.partState p = psTearing ∧ t.get PROC_TEAR_STAT.CAUSE p = 6)) ∧
    (s.partState p ≠ psSaving ∨ (∀ r ∈ s.regionsOf p, ∀ e ∈ s.regions[r].cmds, e.issued = false) →
      exec (.preemptTimeout p) s = .next s)

/-- A teardown begins (R299, R300, R301, R303): cause and period are recorded, and no region of the partition keeps a command
but issued ones that run to their commit, nor a token; other regions are as before. By register it has CAUSE 7, by a
notice for the partition's tag CAUSE 8, by an error its own. A partition that is empty or tearing down is left alone. The
end of a teardown leaves the partition empty with idle sequencers once no command is left (R300); an isolated region stops
and its stacks leave service, and its job is torn down with CAUSE 5 (R19); a function-level reset tears the partition of its
function down with CAUSE 7, clears the function's pigeonholes and ends its mirror (R336). A notice for no partition
changes nothing (R303). -/
def Obligations.Teardowns : Prop :=
  (∀ (s : State) (p : Prt) (i : Instr) (cause : Nat),
    (i = .procPartTeardown p ∧ cause = 7 ∨
     (∃ c : BitVec 4, i = .contextTeardown p c ∧ c.toNat = cause ∧ 1 ≤ cause ∧ cause ≤ 8) ∨
     (∃ tag : BitVec 16, i = .teardownNotice tag ∧ cause = 8 ∧ s.get PROC_PART_CFG.JOB_TAG p = tag.toNat ∧
       s.partState p ≠ psEmpty ∧
       ∀ q, q ≠ p → s.partState q ≠ psEmpty → s.get PROC_PART_CFG.JOB_TAG q ≠ tag.toNat)) →
    (s.partState p ≠ psEmpty → s.partState p ≠ psTearing →
      Completes i s (fun t => t.partState p = psTearing ∧ t.get PROC_TEAR_STAT.CAUSE p = cause ∧
        t.get PROC_TEAR_STAT.PERIOD p = s.period % 2 ^ 48 ∧
        (∀ r ∈ s.regionsOf p, (∀ e ∈ t.regions[r].cmds, e.issued = true ∧ e.abandonable = false) ∧
          ∀ n < 256, t.tok r n = 0) ∧
        (∀ r, r ∉ s.regionsOf p → t.regions[r] = s.regions[r]))) ∧
    (s.partState p = psEmpty ∨ s.partState p = psTearing →
      Completes i s (fun t => SameRegs s t [PROC_PART_CFG.TEARDOWN] ∧ OnlyRegs s t))) ∧
  (∀ (s : State) (p : Prt),
    (s.partState p = psTearing → (∀ r ∈ s.regionsOf p, s.regions[r].cmds = []) →
      Completes (.teardownEnd p) s (fun t => t.partState p = psEmpty ∧ t.get PROC_PART_CFG.DBG_LOCK p = 0 ∧
        (∀ r ∈ s.regionsOf p, t.seqState r = sqIdle) ∧ t.regions = s.regions ∧
        (s.bit PROC_PART_CFG.DBG_LOCK p = false → t.mem = s.mem))) ∧
    (s.partState p ≠ psTearing ∨ (∃ r ∈ s.regionsOf p, s.regions[r].cmds ≠ []) → exec (.teardownEnd p) s = .next s) ∧
    (∀ r : Rgn, Completes (.regionIsolation r) s (fun t => t.regions[r].isolated = true ∧
      (∀ i < 6, t.get SE_STAT.STATE (6 * r.val + i) = 1) ∧
      (s.partOf r = some p → s.partState p ≠ psEmpty → s.partState p ≠ psTearing →
        t.partState p = psTearing ∧ t.get PROC_TEAR_STAT.CAUSE p = 5))) ∧
    (∀ f : Fin 5, Completes (.flr f) s (fun t => t.get HUB_MIRROR.EN f = 0 ∧
      (∀ n < 16, s.get PH_CFG.FUNC n = f.val → t.get PH_IN_STAT.FULL n = 0 ∧ t.get PH_IN_STAT.COLLIDE n = 0) ∧
      (f.val = p.val + 1 → s.partState p ≠ psEmpty → s.partState p ≠ psTearing →
        t.partState p = psTearing ∧ t.get PROC_TEAR_STAT.CAUSE p = 7))) ∧
    (∀ c : BitVec 4, c = 0 ∨ 8 < c.toNat → exec (.contextTeardown p c) s = .next s) ∧
    (∀ tag : BitVec 16, (∀ q, s.partState q ≠ psEmpty → s.get PROC_PART_CFG.JOB_TAG q ≠ tag.toNat) →
      exec (.teardownNotice tag) s = .next s))

/-- Frames of the securing drain. Before START every one is dropped and counted (R246), and one of a torn-down tag is
discarded and counted (R302). A store takes a generation from its sources (R312, R313, R315, R323). BEGIN starts the work of
its step: a mirror's dirty form first copies the committed places of the pair, a parity store's new work starts at zero
stripes or from the committed ones, and a second form rejects a parity generation. DATA goes to its place in the incoming
slot of a mirror, or is added to the P stripe, or times its sender's power of g to the Q stripe (R314), and nowhere else;
DIGEST goes behind the places; END with everything announced makes that slot the committed one, an earlier one is kept. The
answers to a final drain (R310, R315): a COMMIT leaves one holder fewer to wait for, a REJECT makes the drain fail at its
commit; one that no drain waits for changes nothing. -/
def Obligations.SecuringStores : Prop :=
  (∀ (s : State) (l : Lnk) (m : DrainMsg) (i : Instr),
    i ∈ [Instr.begin l m, .data l m, .digestFrame l m, .endFrame l m, .commit l m, .reject l m, .pair l m, .pairAck l m,
      .restoreReq l m, .restoreData l m] →
    (s.complete = false → Completes i s (fun t =>
      t.get LNK_RC.NONRC l = min LNK_RC.NONRC.max (s.get LNK_RC.NONRC l + 1) ∧ SameRegs s t [LNK_RC.NONRC] ∧
      OnlyRegs s t)) ∧
    (s.complete = true → s.torn m.tag.toNat = true → Completes i s (fun t => (∃ x ∈ s.hub.tornTags,
      x % 65536 = m.tag.toNat ∧ t.get PROC_TEAR_CNT.DISCARDED (x / 65536) =
        min PROC_TEAR_CNT.DISCARDED.max (s.get PROC_TEAR_CNT.DISCARDED (x / 65536) + 1)) ∧ OnlyRegs s t))) ∧
  (∀ (s : State) (l : Lnk) (m : DrainMsg) (q n : Nat), s.complete = true → s.torn m.tag.toNat = false →
    q = m.store.toNat → n = 65536 * s.slotGranules q →
    (s.storeTakes q m.src.toNat = false → exec (.begin l m) s = .next s ∧ exec (.endFrame l m) s = .next s ∧
      exec (.data l m) s = .next s) ∧
    (s.storeTakes q m.src.toNat = true →
      (s.storeWork q m.step.toNat = none → Completes (.begin l m) s (fun t => t.get HUB_SEC_STORE1.WORKING q = 1 ∧
        (∃ w : StoreWork, t.storeWork q m.step.toNat = some w ∧ w.full = drFull m ∧ w.mixed = false ∧ w.ends = [] ∧
          w.begun = [(m.src.toNat, m.place.toNat, leAt m.data 0 4)]) ∧
        (s.get HUB_SEC_STORE0.KIND q = 1 → drFull m = true → t.mem = s.mem) ∧
        (s.get HUB_SEC_STORE0.KIND q = 1 → drFull m = false → Wrote s t
          (s.placeKey q (s.incoming q) m.place.toNat false)
          (s.bytes (s.placeKey q (s.committed q) m.place.toNat false) (leAt m.data 0 4 * 65536))) ∧
        (s.get HUB_SEC_STORE0.KIND q = 2 → Wrote s t (s.slotKey q (s.incoming q))
          (if drFull m then List.replicate n 0 else s.bytes (s.slotKey q (s.committed q)) n)))) ∧
      (∀ w : StoreWork, s.storeWork q m.step.toNat = some w → Completes (.begin l m) s (fun t =>
        (∃ w' : StoreWork, t.storeWork q m.step.toNat = some w' ∧
          (m.src.toNat, m.place.toNat, leAt m.data 0 4) ∈ w'.begun ∧
          (w'.mixed = true ↔ w.mixed = true ∨ s.get HUB_SEC_STORE0.KIND q = 2 ∧ w.full ≠ drFull m)) ∧
        (s.get HUB_SEC_STORE0.KIND q = 2 → w.full ≠ drFull m → w.mixed = false →
          t.get HUB_SEC_ERR.REJECT = min HUB_SEC_ERR.REJECT.max (s.get HUB_SEC_ERR.REJECT + 1)) ∧
        (s.get HUB_SEC_STORE0.KIND q = 2 ∨ drFull m = true → t.mem = s.mem))))) ∧
  (∀ (s : State) (l : Lnk) (m : DrainMsg) (q : Nat) (w : StoreWork), s.complete = true → s.torn m.tag.toNat = false →
    q = m.store.toNat → s.storeWork q m.step.toNat = some w → s.storeTakes q m.src.toNat = true →
    (∀ key : Bool → Nat, key = (fun isQ => s.placeKey q (s.incoming q) m.place.toNat isQ + m.offset.toNat) →
      w.mixed = false → m.place.toNat < s.get HUB_SEC_STORE0.GRANULES q → m.offset.toNat + m.count.toNat ≤ 65536 →
      Completes (.data l m) s (fun t => t.regs = s.regs ∧
        (s.get HUB_SEC_STORE0.KIND q = 1 → Wrote s t (key false) (drData m)) ∧
        (s.get HUB_SEC_STORE0.KIND q = 2 → drP m = true → Wrote s t (key false)
          (xorBytes (s.bytes (key false) (drData m).length) (drData m))) ∧
        (s.get HUB_SEC_STORE0.KIND q = 2 → drP m = false → drQ m = true → Wrote s t (key true)
          (xorBytes (s.bytes (key true) (drData m).length) ((drData m).map (gfScale (drRank m))))))) ∧
    ((w.mixed = true ∨ s.get HUB_SEC_STORE0.GRANULES q ≤ m.place.toNat ∨ 65536 < m.offset.toNat + m.count.toNat) →
      exec (.data l m) s = .next s) ∧
    ((∀ x ∈ s.hub.restores, x.step = m.step.toNat → s.get RGN_SEC_TGT.STORE (x.stack / 6) x.target = q →
        m.src.toNat ∉ s.holders (x.stack / 6) x.target) →
      Completes (.digestFrame l m) s (fun t => t.regs = s.regs ∧ t.regions = s.regions ∧
        (s.get HUB_SEC_STORE0.KIND q = 1 → Wrote s t (s.digestKey q (s.incoming q) 0 m.place.toNat)
          (m.data.take (8 * (m.count.toNat / 8)))) ∧
        ∃ w', t.storeWork q m.step.toNat = some w' ∧
          ∀ i < m.count.toNat / 8, (m.src.toNat, m.place.toNat + i) ∈ w'.digests)) ∧
    (∀ (e : Nat × Nat × Nat × Nat) (ends : List (Nat × Nat × Nat × Nat)) (want : Nat), w.mixed = false →
      e = (m.src.toNat, m.place.toNat, leAt m.data 0 4, leAt m.data 4 4) →
      ends = w.ends.filter (fun x => !(x.1 == e.1 && x.2.1 == e.2.1)) ++ [e] →
      want = (s.get HUB_SEC_STORE0.PAIRS q + 1) * (if s.get HUB_SEC_STORE0.KIND q = 2 then 8 else 1) →
      (ends.length = want → (∀ x ∈ ends, w.endMet x.2.2.1 x = true) → Completes (.endFrame l m) s (fun t =>
        t.get HUB_SEC_STORE1.CUR q = (1 - s.get HUB_SEC_STORE1.CUR q) ∧
        t.get HUB_SEC_STORE1.STEP q = w.step % 2 ^ HUB_SEC_STORE1.STEP.width ∧ t.get HUB_SEC_STORE1.VALID q = 1 ∧
        t.get HUB_SEC_STORE1.WORKING q = 0 ∧ t.storeWork q m.step.toNat = none ∧ t.mem = s.mem)) ∧
      (ends.length ≠ want ∨ (∃ x ∈ ends, w.endMet x.2.2.1 x = false) → Completes (.endFrame l m) s (fun t =>
        (∃ w', t.storeWork q m.step.toNat = some w' ∧ w'.ends = ends) ∧ t.regs = s.regs ∧ t.mem = s.mem ∧
        t.regions = s.regions))) ∧
    (w.mixed = true → m.src.toNat ≠ s.addr → exec (.endFrame l m) s = .next (s.send (linkRegion l)
      (s.drainFlit m.src.toNat dkReject (s.drainMsg m.tag.toNat q 0 4 m.place.toNat 0 w.step []))))) ∧
  (∀ (s : State) (l : Lnk) (m : DrainMsg), s.complete = true → s.torn m.tag.toNat = false →
    (∀ (r : Rgn) (e : Entry) (hs : List Nat), s.drainFor m = some (r, e) → e.work = .drain hs →
      Completes (.commit l m) s (fun t => t.regions[r].cmds = replaceEntry
        (fun y => y.eng == e.eng && y.ord == e.ord && y.issued)
        { e with work := .drain (hs.filter (fun a => a != m.src.toNat)) } s.regions[r].cmds ∧ t.mem = s.mem ∧
        SameRegs s t [SU_STAT.CLAIMED, SE_STAT.INFLIGHT, LNK_ADD_STAGE_LVL.INFLIGHT]) ∧
      Completes (.reject l m) s (fun t => t.regions[r].cmds = replaceEntry
        (fun y => y.eng == e.eng && y.ord == e.ord && y.issued)
        { e with failed := true, posts := [], work := .none } s.regions[r].cmds ∧ t.mem = s.mem ∧
        SameRegs s t [SU_STAT.CLAIMED, SE_STAT.INFLIGHT, LNK_ADD_STAGE_LVL.INFLIGHT])) ∧
    (s.drainFor m = none → exec (.commit l m) s = .next s ∧ exec (.reject l m) s = .next s))

/-- Pairing (R320): a request sets PAIR, clears SEC_VALID of the pairs drained to the entry and waits for answers; a PAIR is
answered with the status of feed and store. The answer of a member that has not answered yet: one of the same feed as this
module or another member ends the pairing with RESULT 2, one with no store of the kind with 3, with one too small with 4;
the last of the holders' answers pairs the entry, an earlier one is kept. No answer within 16 bells ends it with RESULT 5.
STATE is then 1 when paired, 2 for a same feed that OVERRIDE allows in a mirror, else 3. -/
def Obligations.PairingOutcome : Prop :=
  (∀ (s : State) (r : Rgn) (e : Fin 16),
    Completes (.pairRequest r e) s (fun t => t.get RGN_SEC_TGT.PAIR r e = 1 ∧
      { region := r.val, entry := e.val, bells := 0, answers := [] } ∈ t.hub.pairings ∧ t.mem = s.mem ∧
      ∀ i < 6, ∀ p < 64, bitsAt (kget s.hub.drainedTo (64 * (6 * r.val + i) + p) 0) e 1 = 1 →
        t.get SE_SEC0.SEC_VALID (6 * r.val + i) p = 0) ∧
    ((∃ x ∈ s.hub.pairings, x.region = r.val ∧ x.entry = e.val ∧ 16 ≤ x.bells) →
      Completes (.pairTimeout r e) s (fun t => t.get RGN_SEC_TGT.RESULT r e = 5 ∧ t.get RGN_SEC_TGT.STATE r e = 3 ∧
        t.get RGN_SEC_TGT.PAIR r e = 0 ∧ t.mem = s.mem ∧
        ∀ x ∈ t.hub.pairings, ¬ (x.region = r.val ∧ x.entry = e.val))) ∧
    ((∀ x ∈ s.hub.pairings, x.region = r.val → x.entry = e.val → x.bells < 16) →
      exec (.pairTimeout r e) s = .next s)) ∧
  (∀ (s : State) (l : Lnk) (m : DrainMsg) (answers : Pairing → Prop), s.complete = true → s.torn m.tag.toNat = false →
    answers = (fun y => s.get RGN_SEC_TGT.STORE y.region y.entry = m.store.toNat ∧
      s.tgtParity y.region y.entry = drP m ∧ m.src.toNat ∈ s.holders y.region y.entry ∧
      ∀ a ∈ y.answers, a.1 ≠ m.src.toNat) →
    exec (.pair l m) s = .next (s.send (linkRegion l) (s.drainFlit m.src.toNat dkPairAck
      (s.drainMsg m.tag.toNat m.store.toNat (if drP m then 8 else 0)
        (s.pairStatus m.store.toNat (leAt m.data 0 1) (drP m)) 0 0 0 [BitVec.ofNat 8 (s.get HUB_FAB.FEED_ID)]))) ∧
    ((∀ x ∈ s.hub.pairings, ¬ answers x) → exec (.pairAck l m) s = .next s) ∧
    (∀ (x : Pairing) (r : Rgn) (e : Fin 16) (same all : Prop), x ∈ s.hub.pairings → answers x →
      (∀ y ∈ s.hub.pairings, answers y → y = x) → x.region = r.val → x.entry = e.val →
      same = (leAt m.data 0 1 = s.get HUB_FAB.FEED_ID ∨ ∃ a ∈ x.answers, a.2.1 = leAt m.data 0 1) →
      all = (∀ a ∈ s.holders r e, drP m = true ∧ a = s.addr ∨ a = m.src.toNat ∨ ∃ y ∈ x.answers, y.1 = a) →
      Completes (.pairAck l m) s (fun t => t.mem = s.mem ∧ t.regions = s.regions ∧
        (m.status = 1 ∨ same → t.get RGN_SEC_TGT.RESULT r e = 2 ∧ t.get RGN_SEC_TGT.PAIR r e = 0 ∧
          t.get RGN_SEC_TGT.STATE r e = (if s.bit RGN_SEC_TGT.OVERRIDE r e && !drP m then 2 else 3)) ∧
        (¬ same → m.status = 2 ∨ m.status = 3 → t.get RGN_SEC_TGT.RESULT r e = m.status.toNat + 1 ∧
          t.get RGN_SEC_TGT.PAIR r e = 0 ∧ t.get RGN_SEC_TGT.STATE r e = 3) ∧
        (¬ same → m.status = 0 → all → t.get RGN_SEC_TGT.RESULT r e = 1 ∧ t.get RGN_SEC_TGT.PAIR r e = 0 ∧
          t.get RGN_SEC_TGT.STATE r e = 1) ∧
        (m.status = 1 ∨ m.status = 2 ∨ m.status = 3 ∨ same ∨ all →
          ∀ y ∈ t.hub.pairings, ¬ (y.region = r.val ∧ y.entry = e.val)) ∧
        (¬ same → m.status = 0 → ¬ all → t.regs = s.regs ∧
          { x with answers := x.answers ++ [(m.src.toNat, leAt m.data 0 1, 0)] } ∈ t.hub.pairings))))

/-- A restore (R324). A mirror partner that holds the generation sends every granule asked for, and no request of another
module changes memory; a request of the module's own copies the secured copy of a parity pair, whose digests are then
waited for. Bytes that come go to their place in the CUR buffer, the granule's other bytes being zero until they come: as they are from a mirror partner,
added to what is there (times the sender's power of g where the stripe is rebuilt from Q) in a parity group; no other byte
changes. A digest is kept until its tile has come; a tile whose digest agrees is done, the last one ends the restore, which
writes the secured copy of a parity pair; one that disagrees counts, fails the restore of a member's own copy and is
otherwise asked of the other source. -/
def Obligations.RestoreMovesBytes : Prop :=
  (∀ (s : State) (l : Lnk) (m : DrainMsg), s.complete = true → s.torn m.tag.toNat = false →
    (m.src.toNat ≠ s.addr → Completes (.restoreReq l m) s (fun t => t.mem = s.mem ∧
      ∀ (k : Lnk) (up : Bool) (q : Nat), q = m.store.toNat → s.get HUB_SEC_STORE0.KIND q = 1 →
        s.storeTakes q m.src.toNat = true → s.bit HUB_SEC_STORE1.VALID q = true →
        s.get HUB_SEC_STORE1.STEP q = m.step.toNat → s.routeOf (linkRegion l) m.src.toNat = some (k, up) →
        s.trained k = true → ∀ j < leAt m.data 0 4, ∀ f ∈ placeFrames s m.src.toNat dkRestoreData 0 q 0 (m.place.toNat + j)
          m.step.toNat (s.bytes (s.placeKey q (s.committed q) (m.place.toNat + j) false) 65536),
          Leaves t k (fun g => g.payload = padTo 240 (drainBytes dkRestoreData f.2.2) ∧ g.hdr.dest = m.src))) ∧
    (∀ (k p e : Nat) (own : Prop), m.src.toNat = s.addr →
      s.restorePair s.addr m.store.toNat m.place.toNat = some (k, p, e) →
      own = (s.tgtParity (k / 6 % 4) e = true ∧ s.get SE_SEC1.SEC_STEP k p = m.step.toNat ∧
        s.regionLoaded ⟨k / 6 % 4, Nat.mod_lt _ (by omega)⟩ = false ∧ s.get SE_BUF1.STEP k p ≠ m.step.toNat) →
      (own → Completes (.restoreReq l m) s (fun t => Wrote s t (s.curKey k p 0)
          (s.bytes (s.secCopyKey k p 0) (65536 * s.get SE_BUF0.GRANULES k p)) ∧ t.regs = s.regs ∧ t.regions = s.regions ∧
        { s.restoreOf k p e m.step.toNat with own := true } ∈ t.hub.restores)) ∧
      (¬ own → exec (.restoreReq l m) s = .next s)) ∧
    (m.src.toNat = s.addr → s.restorePair s.addr m.store.toNat m.place.toNat = none →
      exec (.restoreReq l m) s = .next s) ∧
    (s.restorePair m.src.toNat m.store.toNat m.place.toNat = none → exec (.restoreData l m) s = .next s)) ∧
  (∀ (s : State) (l : Lnk) (m : DrainMsg) (k p e key lost first c : Nat) (r : Rgn) (x : Restore) (parity q second : Bool)
      (old : Nat → Byte), s.complete = true → s.torn m.tag.toNat = false →
    s.restorePair m.src.toNat m.store.toNat m.place.toNat = some (k, p, e) → r.val = k / 6 % 4 →
    x = s.restoreOf k p e m.step.toNat → parity = s.tgtParity r e → first = s.get SE_SEC0.PLACE k p →
    lost = ((s.holders r e).findIdx? (· == s.addr)).getD 0 →
    second = (s.sourceOf x (tileOf first m.place.toNat)).2 → q = useQ lost m.place.toNat second →
    c = (if !parity then 10 else if drP m then 8 else if drQ m then 9
      else ((s.holders r e).findIdx? (· == m.src.toNat)).getD 0) →
    key = s.curKey k p (m.place.toNat - first) →
    old = (fun a => ((if x.got.any (fun g => g.1 / 16 == m.place.toNat) then s
      else s.zeroFill key (key + 65536)).bytes a 1).getD 0 0) →
    (s.regionLoaded r = true ∨ s.get SE_BUF1.STEP k p = m.step.toNat ∨ 65536 < m.offset.toNat + m.count.toNat ∨
        x.own = true ∨ e ≠ (s.sourceOf x (tileOf first m.place.toNat)).1 ∨
        c ∉ contributors parity lost m.place.toNat second →
      exec (.restoreData l m) s = .next s) ∧
    (s.regionLoaded r = false → s.get SE_BUF1.STEP k p ≠ m.step.toNat → m.offset.toNat + m.count.toNat ≤ 65536 →
      x.own = false → e = (s.sourceOf x (tileOf first m.place.toNat)).1 →
      c ∈ contributors parity lost m.place.toNat second →
      kget x.digests (tileOf first m.place.toNat) (2 ^ 64) = 2 ^ 64 →
      (parity = true → q = true → ∀ got, got = kset x.got (gotIx m.place.toNat c)
        (kget x.got (gotIx m.place.toNat c) 0 + m.count.toNat) →
        Restore.whole { x with got := got } parity lost second m.place.toNat = false) →
      Completes (.restoreData l m) s (fun u => u.regs = s.regs ∧ u.regions = s.regions ∧
        (∃ y ∈ u.hub.restores, y.stack = k ∧ y.pair = p ∧ y.step = m.step.toNat ∧
          kget y.got (gotIx m.place.toNat c) 0 = kget x.got (gotIx m.place.toNat c) 0 + m.count.toNat) ∧
        ∀ a, u.mem.read a =
          if key + m.offset.toNat ≤ a ∧ a < key + m.offset.toNat + (drData m).length then
            (let b := (drData m).getD (a - (key + m.offset.toNat)) 0
             if parity then old a ^^^ (if q && decide (c < 8) then gfScale c b else b) else b)
          else if x.got.any (fun g => g.1 / 16 == m.place.toNat) then s.mem.read a
          else if key ≤ a ∧ a < key + 65536 then 0 else s.mem.read a))) ∧
  (∀ (s : State) (l : Lnk) (m : DrainMsg) (x : Restore) (tile first n lost d : Nat) (js : List Nat) (parity second : Bool),
    s.complete = true → s.torn m.tag.toNat = false → m.count.toNat / 8 = 1 →
    s.hub.restores.find? (fun x => x.step == m.step.toNat &&
      s.get RGN_SEC_TGT.STORE (x.stack / 6) x.target == m.store.toNat &&
      (s.holders (x.stack / 6) x.target).contains m.src.toNat) = some x →
    (∀ y ∈ s.hub.restores, y.stack = x.stack → y.pair = x.pair → y = x) → tile = m.place.toNat → d = leAt m.data 0 8 →
    first = s.get SE_SEC0.PLACE x.stack x.pair → n = s.get SE_BUF0.GRANULES x.stack x.pair →
    (parity, second) = (s.tgtParity (x.stack / 6) (s.sourceOf x tile).1, (s.sourceOf x tile).2) →
    lost = ((s.holders (x.stack / 6) (s.sourceOf x tile).1).findIdx? (· == s.addr)).getD 0 →
    js = (List.range n).filter (fun j => tileOf first (first + j) == tile) → x.done.contains tile = false →
    ((∃ j ∈ js, x.whole parity lost second (first + j) = false) →
      Completes (.digestFrame l m) s (fun t => t.regs = s.regs ∧ t.mem = s.mem ∧ t.regions = s.regions ∧
        { x with digests := kset x.digests tile d } ∈ t.hub.restores)) ∧
    ((∀ j ∈ js, x.whole parity lost second (first + j) = true) →
      (crc64 (js.flatMap (fun j => s.bytes (s.curKey x.stack x.pair j) 65536)) = d →
        (x.done.length + 1 ≠ (n + 15) / 16 → Completes (.digestFrame l m) s (fun t => t.regs = s.regs ∧ t.mem = s.mem ∧
          { x with digests := kset x.digests tile d, done := x.done ++ [tile] } ∈ t.hub.restores)) ∧
        (x.done.length + 1 = (n + 15) / 16 →
          Completes (.digestFrame l m) s (fun t => t.get SE_BUF1.STEP x.stack x.pair = x.step % 2 ^ SE_BUF1.STEP.width ∧
            t.get SE_BUF1.DRAIN_PEND x.stack x.pair = 0 ∧
            (if s.tgtParity (x.stack / 6) x.target = true ∨ 2 ≤ s.get SE_SEC0.CLASS x.stack x.pair then
              t.get SE_SEC1.SEC_STEP x.stack x.pair = x.step % 2 ^ SE_SEC1.SEC_STEP.width ∧
              Wrote s t (s.secCopyKey x.stack x.pair 0) (s.bytes (s.curKey x.stack x.pair 0) (65536 * n))
             else t.mem = s.mem) ∧
            ∀ y ∈ t.hub.restores, ¬ (y.stack = x.stack ∧ y.pair = x.pair)))) ∧
      (crc64 (js.flatMap (fun j => s.bytes (s.curKey x.stack x.pair j) 65536)) ≠ d → d < 2 ^ 64 →
        Completes (.digestFrame l m) s (fun t => t.mem = s.mem ∧ t.get HUB_SEC_ERR.DIGEST_MISMATCH =
          min HUB_SEC_ERR.DIGEST_MISMATCH.max (s.get HUB_SEC_ERR.DIGEST_MISMATCH + 1) ∧
          (x.own = true → t.get HUB_SEC_ERR.RESTORE_FAIL =
            min HUB_SEC_ERR.RESTORE_FAIL.max (s.get HUB_SEC_ERR.RESTORE_FAIL + 1) ∧
            ∀ y ∈ t.hub.restores, ¬ (y.stack = x.stack ∧ y.pair = x.pair))))))

/-- A failed position (R325), a graft (R326) and the requests of hardening-off (R328, R330-R332): once every trained link to
the position has been down for two bells, the pigeonholes turn strict for the recovery (R342) and notices go to the members of every job there; a spare takes the address and sets
GO, a neighbour routes the address over the link to the spare in its inactive tables and asks for the switch; requests set
REQ except while a unit is hardening; a unit is admitted after its clean bells, a region by comparison; a unit with one to
three failed attempts is asked for again once its wait is over. What does not apply changes nothing. INTERVAL_UPDATE (R309, R319): INTERVAL takes
the value of R319, from two steps past the last step of the job's regions, and the other modules of the job are told; the
same value is left alone. -/
def Obligations.GraftsHardeningAndIntervals : Prop :=
  (∀ (s : State),
    (∀ (addr : BitVec 16) (away : Prop), away = ((∃ l : Lnk, s.bit LNK_PEER.VALID l = true ∧
        s.get LNK_PEER.ADDR l = addr.toNat) ∧ ∀ l : Lnk, s.bit LNK_PEER.VALID l = true →
        s.get LNK_PEER.ADDR l = addr.toNat → 2 ≤ s.links[l].downBells) →
      (away → Completes (.positionFailed addr) s (fun t => t.regions = s.regions ∧ t.mem = s.mem ∧
        t.get PH_MODE.RECOVERY = 1 ∧ t.get PH_MODE.STRICT = 1 ∧ SameRegs s t [PH_MODE.RECOVERY, PH_MODE.STRICT] ∧
        ∀ p : Prt, addr.toNat ∈ s.parts[p].members → s.partState p ≠ psEmpty → ∀ a ∈ s.parts[p].members,
          Out.icholt a (.teardownNotice (BitVec.ofNat 16 (s.get PROC_PART_CFG.JOB_TAG p))) ∈ t.out)) ∧
      (¬ away → exec (.positionFailed addr) s = .next s)) ∧
    (∀ (addr : BitVec 16) (via : Lnk),
      (s.bit HUB_FAB.SPARE = true → Completes (.graft addr true via) s (fun t => t.get HUB_GRAFT.ADDR = addr.toNat ∧
        t.get HUB_GRAFT.GO = 1 ∧ SameRegs s t [HUB_GRAFT.ADDR, HUB_GRAFT.GO] ∧ OnlyRegs s t)) ∧
      (s.bit HUB_FAB.SPARE = false → exec (.graft addr true via) s = .next s ∧ exec .graftGo s = .next s) ∧
      Completes (.graft addr false via) s (fun t => OnlyRegs s t ∧ ∀ r : Rgn, t.get RGN_ROUTE_CTRL.SWITCH r = 1 ∧
        t.get RGN_ROUTE_CTRL.ACTIVE r = s.get RGN_ROUTE_CTRL.ACTIVE r ∧
        t.get (RGN_ROUTE.ENTRY (addr.toNat % 8)) r (1 - s.get RGN_ROUTE_CTRL.ACTIVE r) (addr.toNat / 8) = 128 + via.val)) ∧
    (s.bit HUB_FAB.SPARE = true → Completes .graftGo s (fun t => t.get HUB_GRAFT.GO = 1 ∧
      SameRegs s t [HUB_GRAFT.GO] ∧ OnlyRegs s t)) ∧
    (s.get HUB_HARDEN.STATE ≠ 1 → Completes .hardenReq s (fun t => t.get HUB_HARDEN.REQ = 1 ∧
      SameRegs s t [HUB_HARDEN.REQ] ∧ OnlyRegs s t)) ∧
    (s.get HUB_HARDEN.STATE = 1 → exec .hardenReq s = .next s) ∧
    (s.get HUB_HARDEN.STATE = 1 → s.get HUB_HARDEN.KIND = 2 ∨ s.get HUB_HARDEN.BELLS ≤ s.get HUB_HARDEN.CLEAN →
      Completes .unitAdmit s (fun t => t.get HUB_HARDEN.STATE = 2 ∧ t.hub.admitted = true ∧
        SameRegs s t [HUB_HARDEN.STATE] ∧ t.regions = s.regions ∧ t.mem = s.mem)) ∧
    (s.get HUB_HARDEN.STATE ≠ 1 ∨
        (s.get HUB_HARDEN.KIND ≠ 2 ∧ s.get HUB_HARDEN.CLEAN < s.get HUB_HARDEN.BELLS) →
      exec .unitAdmit s = .next s) ∧
    (∀ (k r : BitVec 2) (i : BitVec 5) (again : Prop), again = (1 ≤ s.attemptsOf (k.toNat, r.toNat, i.toNat) ∧
        s.attemptsOf (k.toNat, r.toNat, i.toNat) < 4 ∧ s.retryDue (k.toNat, r.toNat, i.toNat) = true ∧ s.get HUB_HARDEN.STATE ≠ 1 ∧ k ≠ 3) →
      (again → Completes (.hardenRetry k r i) s (fun t => t.get HUB_HARDEN.KIND = k.toNat ∧
        t.get HUB_HARDEN.REGION = r.toNat ∧ t.get HUB_HARDEN.INDEX = i.toNat ∧ t.get HUB_HARDEN.REQ = 1 ∧
        SameRegs s t [HUB_HARDEN.KIND, HUB_HARDEN.REGION, HUB_HARDEN.INDEX, HUB_HARDEN.REQ] ∧ OnlyRegs s t)) ∧
      (¬ again → exec (.hardenRetry k r i) s = .next s))) ∧
  (∀ (s : State) (p : Prt) (m : SecMeas) (i atStep : Nat), i = intervalOf (s.get HUB_SEC_CTRL.K p) m →
    atStep = (s.regionsOf p).foldl (fun (a : Nat) (r : Rgn) => max a (s.get RGN_GEN_STEP.STEP r)) 0 + 2 →
    (i ≠ s.get HUB_SEC_CTRL.INTERVAL p → Completes (.intervalUpdate p m) s (fun t =>
      t.get HUB_SEC_CTRL.INTERVAL p = i % 256 ∧ t.get HUB_SEC_CTRL.AT_STEP p = atStep % 2 ^ 32 ∧
      t.mem = s.mem ∧ t.regions = s.regions ∧ ∀ a ∈ s.parts[p].members, Out.icholt a (.secAgree
        (BitVec.ofNat 16 (s.get PROC_PART_CFG.JOB_TAG p)) (BitVec.ofNat 32 atStep) (BitVec.ofNat 8 i)) ∈ t.out)) ∧
    (i = s.get HUB_SEC_CTRL.INTERVAL p → Completes (.intervalUpdate p m) s (fun t =>
      SameRegs s t [SE_SEC0.REC] ∧ t.out = s.out ∧ t.mem = s.mem ∧ t.regions = s.regions)))

/-- The primary mailbox (R339) answers each command it lists with return code 0, and any other with Unsupported (3); only
Clear Event Records and Set Timestamp change anything but what was sent. The bytes of an answer follow log entry 21. -/
def Obligations.MailboxAnswers : Prop :=
  ∀ (s : State),
    Completes .identifyMemoryDevice s (fun t => ∃ bs, t = { s with out := s.out ++ [.mailbox 0 bs] } ∧ bs.length = 67 ∧
      leAt bs 16 8 = 6144 ∧ leAt bs 24 8 = 6144 ∧ leAt bs 32 8 = 0) ∧
    exec .getPartitionInfo s = .next { s with out := s.out ++ [.mailbox 0 (toLe 8 6144 ++ List.replicate 24 0)] } ∧
    Completes .getHealthInfo s (fun t => ∃ bs,
      t = { s with ticket := s.ticket + 1, out := s.out ++ [.mailbox 0 bs] } ∧ bs.length = 18) ∧
    exec .getEventRecords s = .next { s with out := s.out ++ [.mailbox 0 (s.hub.events.flatMap (fun a => toLe 8 a.toNat))] } ∧
    exec .clearEventRecords s = .next { s with
      hub := { s.hub with events := [] }, out := s.out ++ [.mailbox 0 []] } ∧
    Completes .getSupportedLogs s (fun t => ∃ bs, t = { s with out := s.out ++ [.mailbox 0 bs] }) ∧
    (∀ id : Word64, Completes (.getLog id) s (fun t => ∃ bs, t = { s with out := s.out ++ [.mailbox 0 bs] })) ∧
    exec .getPoisonList s = .next { s with out := s.out ++ [.mailbox 0 (s.poisonList.flatMap (fun a => toLe 8 a))] } ∧
    (∀ w ∈ s.badWords, s.get HUB_OWN.KIND (w / 2 ^ 27) = 1 → s.daOf (w * 8) ∈ s.poisonList) ∧
    Completes .getTimestamp s (fun t => t = { s with out := s.out ++ [.mailbox 0 (toLe 8 s.timeNow)] }) ∧
    (∀ v : Word64, Completes (.setTimestamp v) s (fun t => t.timeNow = v.toNat ∧ t.out = s.out ++ [.mailbox 0 []] ∧
      t.regs = s.regs ∧ t.mem = s.mem)) ∧
    (∀ op : BitVec 16, exec (.unsupportedMailboxCommand op) s = .next { s with out := s.out ++ [.mailbox 3 []] })

/-- A post (R340-R342): the seven assembled words and the last word become the message in one step, FULL is set, SRC names
the poster and POSTS counts. Into a full pigeonhole, strict mode rejects and counts it, and a host post draws an
Unsupported Request, whose error message is open (log entry 54); fast mode overwrites and sets COLLIDE. A word of the
assembly is kept for its post. For a dormant domain both of a host's are discarded and so is Icholt's post, and a timeout is
due at the second bell (R344). What an actor does not reach, and any post of JTAG, counts as a bad access. -/
def Obligations.PigeonholePosts : Prop :=
  ∀ (s : State) (a : Actor) (n : Fin 16) (v : Word64) (i : Nat), i = postSide (actorSrc a) n →
    (a ≠ .jtag → s.phReach (actorSrc a) i = true → (s.asmFor (actorSrc a) n).words.length = 7 →
      (s.phDormant i = false ∨ a = .icholt → ∀ w : Fin 7, Completes (.assemblyWrite a n w v) s (fun t =>
        (t.asmFor (actorSrc a) n).words = (s.asmFor (actorSrc a) n).words.set w v ∧ t.regs = s.regs ∧ t.mem = s.mem ∧
        t.out = s.out)) ∧
      (s.phDormant i = true → a ≠ .icholt → ∀ w : Fin 7, Completes (.assemblyWrite a n w v) s (fun t =>
        (i, 2) ∈ t.hub.phTouts ∧ t.hub.asm = s.hub.asm ∧ t.regs = s.regs ∧ t.mem = s.mem ∧ t.out = s.out)) ∧
      (s.phDormant i = true → Completes (.post a n v) s (fun t =>
        (i, 2) ∈ t.hub.phTouts ∧ t.regs = s.regs ∧ t.mem = s.mem ∧ t.out = s.out)) ∧
      (s.phDormant i = false → s.bit (phFull i) n = false ∨ s.bit PH_MODE.STRICT = false →
        Completes (.post a n v) s (fun t =>
          (∀ j < 7, t.get (phWord i) n j = ((s.asmFor (actorSrc a) n).words.getD j 0).toNat) ∧
          t.get (phWord i) n 7 = v.toNat ∧ t.get (phFull i) n = 1 ∧ t.get (phSrc i) n = actorSrc a ∧
          t.get (phPosts i) n = (s.get (phPosts i) n + 1) % 65536 ∧
          t.get (phCollide i) n = (if s.bit (phFull i) n then 1 else s.get (phCollide i) n) ∧
          SameRegs s t [phWord i, phFull i, phSrc i, phPosts i, phCollide i] ∧ t.mem = s.mem ∧ t.out = s.out)) ∧
      (s.phDormant i = false → s.bit (phFull i) n = true → s.bit PH_MODE.STRICT = true →
        Completes (.post a n v) s (fun t =>
          t.get (phReject i) n = min (phReject i).max (s.get (phReject i) n + 1) ∧ SameRegs s t [phReject i] ∧
          t.mem = s.mem ∧ (a = .icholt → t.out = s.out ∧ t.hub.aer = s.hub.aer) ∧
          (a ≠ .icholt → (∃ x, (actorSrc a, x) ∈ t.hub.aer) ∧
            (t.out = s.out ∨ ∃ kind, 1 ≤ kind ∧ kind ≤ 3 ∧ t.out = s.out ++ [.aer (actorSrc a) kind]))))) ∧
    (a = .jtag ∨ s.phReach (actorSrc a) i = false → ∀ (c : Instr) (w : Fin 7), c = .assemblyWrite a n w v ∨ c = .post a n v →
      Completes c s (fun t => t.get HUB_BAD_ACCESS_CNT.COUNT =
        min HUB_BAD_ACCESS_CNT.COUNT.max (s.get HUB_BAD_ACCESS_CNT.COUNT + 1) ∧ SameRegs s t [HUB_BAD_ACCESS_CNT.COUNT] ∧
        OnlyRegs s t))

/-- Fabric posts and the dormant-domain timeout (R344, R346). GO sends PH_FDATA as a PH_POST for another module over the
link of the route, and STATUS is pending; with no link that is up STATUS is 5; for the module itself the message enters the pigeonhole
at once, or STATUS is 3, 4 or 5 (R251); while one is pending GO is ignored. A PH_POST that a fabric pigeonhole takes enters
it and is acknowledged; one that it does not take is answered with an error frame. PH_ACK for the pending post, or its
absence for two bells, is the STATUS; a due timeout sets its PH_TOUT bit. Before START a PH_POST or PH_ACK is dropped and
counted (R246). -/
def Obligations.FabricPosts : Prop :=
  (∀ s : State,
    (s.get PH_FSEND.STATUS = 1 → exec .fabricPost s = .next s) ∧
    (s.get PH_FSEND.STATUS ≠ 1 → s.get PH_FSEND.DEST ≠ s.addr → s.get PH_FSEND.DEST < 65536 →
      (∀ (k : Lnk) (up : Bool), s.routeOf 0 (s.get PH_FSEND.DEST) = some (k, up) →
        s.get LNK_STAT.STATE k ≠ lkDown → s.get LNK_STAT.STATE k ≠ lkFailed → Completes .fabricPost s (fun t => t.get PH_FSEND.STATUS = 1 ∧ t.get PH_FSEND.GO = 0 ∧ t.hub.fpostBells = 2 ∧
          t.mem = s.mem ∧ t.regions = s.regions ∧ Leaves t k (fun g => g.hdr.dest.toNat = s.get PH_FSEND.DEST ∧
            g.hdr.type.toNat = ftMgmt ∧ leAt g.payload 0 1 = 0x10 ∧ leAt g.payload 1 1 = s.get PH_FSEND.PH % 256 ∧
            ∀ j < 8, leAt g.payload (16 + 8 * j) 8 = s.get PH_FDATA.WORD j % 2 ^ 64))) ∧
      ((∀ (k : Lnk) (up : Bool), s.routeOf 0 (s.get PH_FSEND.DEST) = some (k, up) →
          s.get LNK_STAT.STATE k = lkDown ∨ s.get LNK_STAT.STATE k = lkFailed) → Completes .fabricPost s (fun t => t.get PH_FSEND.STATUS = 5 ∧
        t.get PH_FSEND.GO = 0 ∧ SameRegs s t [PH_FSEND.STATUS, PH_FSEND.GO] ∧ t.mem = s.mem ∧ t.out = s.out ∧
        t.regions = s.regions ∧ t.links = s.links))) ∧
    (∀ n, s.get PH_FSEND.STATUS ≠ 1 → s.get PH_FSEND.DEST = s.addr → n = s.get PH_FSEND.PH →
      (n < 16 → s.get PH_CFG.FUNC n = 5 → s.phDormant n = false →
        (s.bit PH_IN_STAT.FULL n = false ∨ s.bit PH_MODE.STRICT = false → Completes .fabricPost s (fun t =>
          (∀ j < 8, t.get PH_IN.WORD n j = s.get PH_FDATA.WORD j % 2 ^ 64) ∧ t.get PH_IN_STAT.FULL n = 1 ∧
          t.get PH_IN_STAT.SRC n = 5 ∧ t.get PH_FSEND.STATUS = 2 ∧ t.mem = s.mem ∧ t.out = s.out)) ∧
        (s.bit PH_IN_STAT.FULL n = true → s.bit PH_MODE.STRICT = true → Completes .fabricPost s (fun t =>
          t.get PH_IN_STAT.REJECT n = min PH_IN_STAT.REJECT.max (s.get PH_IN_STAT.REJECT n + 1) ∧
          t.get PH_FSEND.STATUS = 3 ∧ SameRegs s t [PH_IN_STAT.REJECT, PH_FSEND.STATUS, PH_FSEND.GO] ∧ t.out = s.out))) ∧
      (16 ≤ n ∨ s.get PH_CFG.FUNC n ≠ 5 → Completes .fabricPost s (fun t => t.get PH_FSEND.STATUS = 5 ∧
        SameRegs s t [PH_FSEND.STATUS, PH_FSEND.GO] ∧ t.out = s.out)) ∧
      (n < 16 → s.get PH_CFG.FUNC n = 5 → s.phDormant n = true → Completes .fabricPost s (fun t =>
        t.get PH_FSEND.STATUS = 4 ∧ SameRegs s t [PH_FSEND.STATUS, PH_FSEND.GO] ∧ t.out = s.out)))) ∧
  (∀ (s : State) (l : Lnk) (src : BitVec 16) (n : BitVec 8) (msg : List Byte),
    (s.complete = false → ∀ i : Instr, i = .phPost l src n msg ∨ i = .phAck l n → Completes i s (fun t =>
      t.get LNK_RC.NONRC l = min LNK_RC.NONRC.max (s.get LNK_RC.NONRC l + 1) ∧ SameRegs s t [LNK_RC.NONRC] ∧
      OnlyRegs s t)) ∧
    (s.complete = true → msg.length = 64 →
      (n.toNat < 16 → s.get PH_CFG.FUNC n.toNat = 5 → s.phDormant n.toNat = false →
        s.bit PH_IN_STAT.FULL n.toNat = false ∨ s.bit PH_MODE.STRICT = false → ∃ u : State,
          (∀ j < 8, u.get PH_IN.WORD n.toNat j = leAt msg (8 * j) 8) ∧ u.get PH_IN_STAT.FULL n.toNat = 1 ∧
          u.get PH_IN_STAT.SRC n.toNat = 5 ∧ u.get PH_IN_STAT.SRC_ADDR n.toNat = src.toNat ∧
          u.get PH_IN_STAT.COLLIDE n.toNat =
            (if s.bit PH_IN_STAT.FULL n.toNat then 1 else s.get PH_IN_STAT.COLLIDE n.toNat) ∧
          SameRegs s u [PH_IN.WORD, PH_IN_STAT.FULL, PH_IN_STAT.SRC, PH_IN_STAT.SRC_ADDR, PH_IN_STAT.COLLIDE,
            PH_IN_STAT.POSTS] ∧ OnlyRegs s u ∧
          exec (.phPost l src n msg) s = .next (u.send (linkRegion l) (u.mgmtFlit src.toNat 0x11 n.toNat []))) ∧
      (src.toNat ≠ s.addr → 16 ≤ n.toNat ∨ s.get PH_CFG.FUNC n.toNat ≠ 5 ∨ s.phDormant n.toNat = true ∨
          (s.bit PH_IN_STAT.FULL n.toNat = true ∧ s.bit PH_MODE.STRICT = true) →
        Completes (.phPost l src n msg) s (fun t => (∀ j < 8, t.get PH_IN.WORD n.toNat j = s.get PH_IN.WORD n.toNat j) ∧
          t.get LNK_RC.ERR_SENT l = min LNK_RC.ERR_SENT.max (s.get LNK_RC.ERR_SENT l + 1) ∧ t.mem = s.mem))) ∧
    (s.complete = true → s.get PH_FSEND.PH = n.toNat → s.get PH_FSEND.STATUS = 1 → Completes (.phAck l n) s
      (fun t => t.get PH_FSEND.STATUS = 2 ∧ SameRegs s t [PH_FSEND.STATUS] ∧ OnlyRegs s t)) ∧
    (s.complete = true → s.get PH_FSEND.PH ≠ n.toNat ∨ s.get PH_FSEND.STATUS ≠ 1 →
      exec (.phAck l n) s = .next s)) ∧
  (∀ s : State,
    (s.hub.fpostBells = 0 → s.get PH_FSEND.STATUS = 1 → Completes .fabricPostTimeout s (fun t =>
      t.get PH_FSEND.STATUS = 6 ∧ SameRegs s t [PH_FSEND.STATUS] ∧ OnlyRegs s t)) ∧
    (s.hub.fpostBells ≠ 0 ∨ s.get PH_FSEND.STATUS ≠ 1 → exec .fabricPostTimeout s = .next s) ∧
    (∀ (i : Fin 32) (f : Fld), f = (if i.val < 16 then PH_TOUT.IN else PH_TOUT.OUT) →
      ((i.val, 0) ∈ s.hub.phTouts → Completes (.phTimeout i) s (fun t =>
        t.get f = (s.get f ||| 2 ^ (i.val % 16)) % 65536 ∧ SameRegs s t [f] ∧ t.mem = s.mem ∧ t.regions = s.regions)) ∧
      ((i.val, 0) ∉ s.hub.phTouts → exec (.phTimeout i) s = .next s)))

/-- Requests to Icholt (R347), except LOAD_JOB: it takes the message, does what its OP asks, and answers in the outbound
pigeonhole of the same number. The requests about a partition come from its VF or the PF: PREEMPT, RESUME, TEARDOWN with or
without ERASE, SET_K. LEND, RECLAIM and DORMANT come from the PF; a run of granules is asked for when every one may move, is
not worn out (R232; its status is log entry 20) and no change of one is pending. What a VF may not ask is answered
NOT_PERMITTED and has no effect. A number without a waiting message of the OP changes nothing. The reply holds OP, SEQ,
STATUS and body. -/
def Obligations.RequestsToIcholt : Prop :=
  (∀ (s u : State) (n : Fin 16) (m : List Byte) (p : Prt) (seq : Nat), s.hub.booted = true →
    s.bit PH_IN_STAT.FULL n = true → m = s.message n → u = s.put PH_IN_STAT.FULL 0 n → seq = leAt m 2 2 →
    (s.get PH_IN_STAT.SRC n = 0 ∨ s.get PH_IN_STAT.SRC n = p.val + 1) → leAt m 8 1 = p.val →
    (leAt m 0 2 = 2 →
      (1 < leAt m 9 1 → exec (.preempt n) s = .next (u.reply n 2 seq rpBad [])) ∧
      (∀ (v : State) (taken : Prop) [Decidable taken], leAt m 9 1 ≤ 1 →
        v = (u.put PROC_PREEMPT.MODE (leAt m 9 1) p).put PROC_PREEMPT.AT (leAt m 10 6) p →
        taken = (s.partState p = psRunning ∧ (∀ r ∈ s.regionsOf p, s.saveGranuleOk p r = true) ∧
          (leAt m 9 1 = 1 ∨ s.period < leAt m 10 6)) →
        exec (.preempt n) s = .next ((v.preemptReq p).reply n 2 seq (if taken then rpOk else rpRefused)
          [BitVec.ofNat 8 p.val, BitVec.ofNat 8 (s.get PROC_PART_CFG.SAVED p)]))) ∧
    (leAt m 0 2 = 3 → ∀ v : State, v = (((u.writeRegions p (leAt m 9 1 % 16)).writeSeed p (leAt m 16 8)).put
        PROC_PREEMPT.AT (leAt m 10 6) p) → exec (.resume n) s = .next ((v.resume p).reply n 3 seq
        (if s.partState p = psEmpty ∧ (v.resume p).partState p = psRestoring then rpOk else rpRefused)
        [BitVec.ofNat 8 p.val])) ∧
    (leAt m 0 2 = 4 →
      (s.partState p = psEmpty → exec (.teardown n) s = .next (u.reply n 4 seq rpRefused [BitVec.ofNat 8 p.val])) ∧
      (s.partState p ≠ psEmpty → ∀ v : State, v = (if leAt m 9 1 % 2 = 1 then
          (u.granulesOf (s.get PROC_PART_CFG.JOB_TAG p)).foldl (fun v g => v.askOwn g 0 0 true) (u.procTeardown p)
          else u.procTeardown p) → exec (.teardown n) s = .next (v.reply n 4 seq rpOk
            ([BitVec.ofNat 8 p.val, 0] ++ toLe 6 (v.get PROC_TEAR_STAT.PERIOD p))))) ∧
    (leAt m 0 2 = 7 →
      (leAt m 9 1 = 0 → exec (.setK n) s = .next (u.reply n 7 seq rpBad [])) ∧
      (leAt m 9 1 ≠ 0 → exec (.setK n) s = .next ((u.put HUB_SEC_CTRL.K (leAt m 9 1) p).reply n 7 seq rpOk
        [BitVec.ofNat 8 p.val, BitVec.ofNat 8 (leAt m 9 1), BitVec.ofNat 8 (s.get HUB_SEC_CTRL.INTERVAL p)])))) ∧
  (∀ (s u : State) (n : Fin 16) (m : List Byte) (seq first count kind tag : Nat) (i : Instr) (op : Nat) (erase : Bool)
      (may : Nat → Prop) (answer : Nat → State), s.hub.booted = true → s.bit PH_IN_STAT.FULL n = true → m = s.message n →
    u = s.put PH_IN_STAT.FULL 0 n → seq = leAt m 2 2 → s.get PH_IN_STAT.SRC n = 0 → first = leAt m 8 2 →
    count = leAt m 10 2 → leAt m 0 2 = op →
    (i = .lend n ∧ op = 5 ∧ kind = 1 ∧ tag = 0 ∧ erase = false ∧ may = (fun g => s.get HUB_OWN.KIND g = 0 ∨
        s.get HUB_OWN.KIND g = 2 ∨ leAt m 12 1 % 2 = 1 ∧ s.get HUB_OWN.KIND g = 3 ∧ s.get HUB_OWN.TAG g = leAt m 14 2) ∨
     i = .reclaim n ∧ op = 6 ∧ kind = leAt m 12 1 ∧ (kind = 0 ∨ kind = 3) ∧ tag = (if kind = 3 then leAt m 14 2 else 0) ∧
        erase = (leAt m 13 1 % 2 == 1) ∧ may = (fun g => s.get HUB_OWN.KIND g = 1)) →
    answer = (fun st => u.reply n op seq st (toLe 2 first ++ toLe 2 count ++ [0])) →
    ((count = 0 ∨ 1536 < first + count ∨ ∃ j < count, ¬ may (first + j)) → exec i s = .next (answer rpBad)) ∧
    (0 < count → first + count ≤ 1536 → (∀ j < count, may (first + j)) →
      (kind ≠ 0 → (∃ j < count, s.isWorn (first + j) = true) → exec i s = .next (answer rpRefused)) ∧
      (kind = 0 ∨ (∀ j < count, s.isWorn (first + j) = false) →
        ((∃ j < count, s.changing (first + j) = true ∨ s.bit HUB_OWN.REQ (first + j) = true) →
          exec i s = .next (answer rpBusy)) ∧
        ((∀ j < count, s.changing (first + j) = false ∧ s.bit HUB_OWN.REQ (first + j) = false) → exec i s = .next
          (((List.range count).foldl (fun v j => v.askOwn (first + j) kind tag erase) u).reply n op seq rpOk
            (toLe 2 first ++ toLe 2 count ++ [1])))))) ∧
  (∀ (s u : State) (n : Fin 16) (m : List Byte) (seq : Nat), s.hub.booted = true → s.bit PH_IN_STAT.FULL n = true →
    m = s.message n → u = s.put PH_IN_STAT.FULL 0 n → seq = leAt m 2 2 →
    (s.get PH_IN_STAT.SRC n = 0 → leAt m 0 2 = 8 → ∀ (quiet : Prop) [Decidable quiet], quiet =
        ((∀ q : Prt, s.partState q = psEmpty) ∧ (∀ x ∈ s.regs, keyHome x.1 = HUB_OWN.KIND.home → x.2 ≠ 1) ∧
         s.get HUB_PWR_STATE.STATE = 1) → exec (.dormant n) s = .next
        (if quiet then (u.put HUB_PWR_STATE.STATE 2).reply n 8 seq rpOk [] else u.reply n 8 seq rpBusy [])) ∧
    (s.get PH_IN_STAT.SRC n ≠ 0 →
      (leAt m 0 2 = 5 → exec (.lend n) s = .next (u.reply n 5 seq rpNotPermitted [])) ∧
      (leAt m 0 2 = 6 → exec (.reclaim n) s = .next (u.reply n 6 seq rpNotPermitted [])) ∧
      (leAt m 0 2 = 8 → exec (.dormant n) s = .next (u.reply n 8 seq rpNotPermitted []))) ∧
    (s.get PH_IN_STAT.SRC n = 0 → leAt m 0 2 = 6 → leAt m 12 1 ≠ 0 → leAt m 12 1 ≠ 3 → exec (.reclaim n) s = .next
      (u.reply n 6 seq rpBad (toLe 2 (leAt m 8 2) ++ toLe 2 (leAt m 10 2) ++ [0]))) ∧
    (∀ c ∈ [(Instr.preempt n, 2), (.resume n, 3), (.teardown n, 4), (.setK n, 7)], leAt m 0 2 = c.2 →
      (4 < s.get PH_IN_STAT.SRC n ∨ s.get PH_IN_STAT.SRC n ≠ 0 ∧ leAt m 8 1 + 1 ≠ s.get PH_IN_STAT.SRC n →
        exec c.1 s = .next (u.reply n c.2 seq rpNotPermitted [])) ∧
      (s.get PH_IN_STAT.SRC n = 0 → 4 ≤ leAt m 8 1 → exec c.1 s = .next (u.reply n c.2 seq rpBad [])))) ∧
  (∀ (s : State) (n : Fin 16), ∀ c ∈ [(Instr.preempt n, 2), (.resume n, 3), (.teardown n, 4), (.lend n, 5), (.reclaim n, 6),
      (.setK n, 7), (.dormant n, 8)],
    s.hub.booted = false ∨ s.bit PH_IN_STAT.FULL n = false ∨ leAt (s.message n) 0 2 ≠ c.2 → exec c.1 s = .next s) ∧
  (∀ (s : State) (n : Fin 16) (op seq st : Nat) (body : List Byte), body.length ≤ 56 → op < 65536 → seq < 65536 →
    st < 65536 → s.phDormant (16 + n.val) = false →
    s.bit PH_OUT_STAT.FULL n = false ∨ s.bit PH_MODE.STRICT = false →
    (∀ j, 1 ≤ j → j < 8 → (s.reply n op seq st body).get PH_OUT.WORD n j = leAt body (8 * (j - 1)) 8) ∧
    (s.reply n op seq st body).get PH_OUT.WORD n 0 = op + 65536 * seq + 65536 ^ 2 * st ∧
    (s.reply n op seq st body).get PH_OUT_STAT.FULL n = 1 ∧ OnlyRegs s (s.reply n op seq st body))

/-- LOAD_JOB (R347-R349). A package whose header and sections check, for an empty partition with a free region set of one of
its builds and granules that the job may claim, is placed and answered OK with the tag and the region set: claims on
granules of nobody are asked for, the partition gets its tag and regions. A bad request or header is answered BAD_REQUEST,
a partition with a job BUSY, no build for a free region set or a granule that the job may not claim REFUSED, a section that
does not check REFUSED or BAD_REQUEST (which one is open), a VF that asks for another partition NOT_PERMITTED, and nothing
is placed. How Icholt chooses a tag is log entry 20. -/
def Obligations.JobPackagesArePlaced : Prop :=
  (∀ (s u : State) (n : Fin 16) (m pkg : List Byte) (plan : List (BitVec 16)) (p : Prt) (tag : Nat) (good : Prop)
      (body : Nat → Nat → Nat → List Byte), s.hub.booted = true → s.bit PH_IN_STAT.FULL n = true → m = s.message n →
    u = s.put PH_IN_STAT.FULL 0 n → leAt m 0 2 = 1 →
    (s.get PH_IN_STAT.SRC n = 0 ∨ s.get PH_IN_STAT.SRC n = p.val + 1) → leAt m 20 1 = p.val →
    body = (fun g mask k => toLe 2 g ++ [BitVec.ofNat 8 p.val, BitVec.ofNat 8 mask] ++ toLe 4 k) →
    good = (packageOk pkg (leAt m 16 4) = true ∧ leAt m 8 8 % 4096 = 0 ∧ 0x400000000000 ≤ leAt m 8 8 ∧
      leAt m 8 8 + leAt m 16 4 ≤ 0x800000000000 ∧ leAt m 32 1 ≤ 63) → tag = u.assignTag (leAt m 22 2) →
    (¬ good → exec (.loadJob n pkg plan) s = .next (u.reply n 1 (leAt m 2 2) rpBad
      (body (s.get PROC_PART_CFG.JOB_TAG p) 0 0xFFFFFFFF))) ∧
    (good → s.partState p ≠ psEmpty → exec (.loadJob n pkg plan) s = .next (u.reply n 1 (leAt m 2 2) rpBusy
      (body (s.get PROC_PART_CFG.JOB_TAG p) 0 0xFFFFFFFF))) ∧
    (good → s.partState p = psEmpty →
      (u.chooseBuild (builds pkg) (leAt m 21 1 % 16) tag = none → exec (.loadJob n pkg plan) s = .next
        (u.nextTicket.reply n 1 (leAt m 2 2) rpRefused (body (s.get PROC_PART_CFG.JOB_TAG p) 0 0xFFFFFFFF))) ∧
      (∀ (b : Nat × Nat × Nat) (ks gs : List Nat), u.chooseBuild (builds pkg) (leAt m 21 1 % 16) tag = some b →
        ks = (List.range b.2.2).map (b.2.1 + ·) → gs = claimsOf pkg (ks.filter (sectionOk pkg (regionsIn b.1).length)) →
        ∀ may : Nat → Prop, may = (fun g => s.changing g = false ∧ (s.get HUB_OWN.KIND g = 0 ∧ s.isWorn g = false ∨
          s.get HUB_OWN.KIND g = 3 ∧ s.get HUB_OWN.TAG g = tag)) →
        ((∃ g ∈ gs, ¬ may g) → exec (.loadJob n pkg plan) s = .next (u.nextTicket.reply n 1 (leAt m 2 2) rpRefused
          (body (s.get PROC_PART_CFG.JOB_TAG p) 0 0xFFFFFFFF))) ∧
        ((∀ g ∈ gs, may g) →
          (∀ k, ks.find? (fun k => !sectionOk pkg (regionsIn b.1).length k) = some k → ∃ st, (st = rpRefused ∨ st = rpBad) ∧
            exec (.loadJob n pkg plan) s = .next (u.nextTicket.reply n 1 (leAt m 2 2) st
              (body (s.get PROC_PART_CFG.JOB_TAG p) 0 k))) ∧
          ((∀ k ∈ ks, sectionOk pkg (regionsIn b.1).length k = true) → ∀ v : State, v = ((gs.filter (fun g => s.get HUB_OWN.KIND g == 0)).foldl
              (fun v g => v.askOwn g 3 tag false) u.nextTicket).placeJob m pkg p plan b.1 tag ks →
            exec (.loadJob n pkg plan) s = .next (v.reply n 1 (leAt m 2 2) rpOk (body tag b.1 0xFFFFFFFF)) ∧
            v.get PROC_PART_CFG.JOB_TAG p = tag ∧ v.get PROC_PART_CFG.REGIONS p = b.1))))) ∧
  (∀ (s u : State) (n : Fin 16) (m pkg : List Byte) (plan : List (BitVec 16)), s.hub.booted = true →
    s.bit PH_IN_STAT.FULL n = true → m = s.message n → u = s.put PH_IN_STAT.FULL 0 n → leAt m 0 2 = 1 →
    (4 < s.get PH_IN_STAT.SRC n ∨ s.get PH_IN_STAT.SRC n ≠ 0 ∧ leAt m 20 1 + 1 ≠ s.get PH_IN_STAT.SRC n →
      exec (.loadJob n pkg plan) s = .next (u.reply n 1 (leAt m 2 2) rpNotPermitted [])) ∧
    (s.get PH_IN_STAT.SRC n = 0 → 4 ≤ leAt m 20 1 →
      exec (.loadJob n pkg plan) s = .next (u.reply n 1 (leAt m 2 2) rpBad []))) ∧
  (∀ (s : State) (n : Fin 16) (pkg : List Byte) (plan : List (BitVec 16)),
    s.hub.booted = false ∨ s.bit PH_IN_STAT.FULL n = false ∨ leAt (s.message n) 0 2 ≠ 1 →
    exec (.loadJob n pkg plan) s = .next s)

/-- Management (R352, R354, R355, R52, R303, R309): MCTP requests are answered while standby power is present; an update
goes to the inactive slot with the next SEQ and no marker; ACTIVATE verifies it; a trial of 64 bells writes marker and
SVN floor, a failed one asks for the way back. On the channel between Icholts a carried period is written or returned, an
agreed interval is written, a notice tears down. A command whose conditions do not hold changes nothing. -/
def Obligations.ManagementCommands : Prop :=
  ∀ (s : State),
    (∀ q : MctpReq,
      (s.hub.powered = true → Completes (.mctpRequest q) s (fun t => ∃ bs,
        t = { s with ticket := s.ticket + 1, out := s.out ++ [.mctp bs] })) ∧
      (s.hub.powered = false → exec (.mctpRequest q) s = .next s)) ∧
    (∀ (x : SlotHdr) (may : Prop), may = (s.hub.powered = true ∧ s.hub.spiHub = true ∧
        s.get HUB_IMG.SEQ ≠ 0xFFFFFFFF ∧ x.length.toNat ≤ 67088384) →
      (may → Completes (.pldmUpdate x) s (fun t =>
        t.hub.slot s.inactive = { hdr := some { x with seq := BitVec.ofNat 32 (s.get HUB_IMG.SEQ + 1) }, marker := false } ∧
        (∀ k, k < 2 → k = s.get HUB_IMG.SLOT → t.hub.slot k = s.hub.slot k) ∧ t.regs = s.regs ∧ t.mem = s.mem)) ∧
      (¬ may → exec (.pldmUpdate x) s = .next s)) ∧
    (s.hub.booted = true → s.hub.spiHub = true → s.get HUB_IMG.STATE = 0 → Completes .activateFirmware s (fun t =>
      t.get HUB_IMG.STATE = 2 ∧ (t.hub.switchPending = true ↔ ∃ x, (s.hub.slot s.inactive).hdr = some x ∧
        s.hub.headerValid x = true) ∧ t.hub.revertPending = !t.hub.switchPending ∧ SameRegs s t [HUB_IMG.STATE])) ∧
    (s.hub.booted = false ∨ s.hub.spiHub = false ∨ s.get HUB_IMG.STATE ≠ 0 → exec .activateFirmware s = .next s) ∧
    (∀ done : Prop, done = (s.get HUB_IMG.STATE = 1 ∧ 64 ≤ s.hub.trialBells ∧ s.hub.revertPending = false ∧
        s.hub.spiHub = true) →
      (done → Completes .trialCommit s (fun t => t.get HUB_IMG.STATE = 0 ∧
        (t.hub.slot (s.get HUB_IMG.SLOT)).marker = true ∧
        (∀ x : SlotHdr, (s.hub.slot (s.get HUB_IMG.SLOT)).hdr = some x →
          t.hub.svnFloor = max s.hub.svnFloor x.svn.toNat ∧
          t.get HUB_IMG.SVN_FLOOR = t.hub.svnFloor % 2 ^ HUB_IMG.SVN_FLOOR.width) ∧
        SameRegs s t [HUB_IMG.STATE, HUB_IMG.SVN_FLOOR])) ∧
      (¬ done → exec .trialCommit s = .next s)) ∧
    (s.get HUB_IMG.STATE = 1 → Completes .trialFail s (fun t => t.hub.revertPending = true ∧ t.regs = s.regs)) ∧
    (s.get HUB_IMG.STATE ≠ 1 → exec .trialFail s = .next s) ∧
    (∀ (src : BitVec 16) (v : Word32), s.bit HUB_BELL_STATUS.IS_MASTER = true →
      (s.periodOk v.toNat = true → Completes (.icholt (.periodChange src v)) s (fun t =>
        t.get HUB_BELL_PERIOD.PERIOD_US = v.toNat % 8192 ∧ SameRegs s t [HUB_BELL_PERIOD.PERIOD_US] ∧ OnlyRegs s t)) ∧
      (s.periodOk v.toNat = false → Completes (.icholt (.periodChange src v)) s (fun t =>
        t.get HUB_BELL_ERR.REFUSED = min HUB_BELL_ERR.REFUSED.max (s.get HUB_BELL_ERR.REFUSED + 1) ∧
        t.out = s.out ++ [.icholt src.toNat .periodRefused]))) ∧
    (∀ (src : BitVec 16) (v : Word32), s.bit HUB_BELL_STATUS.IS_MASTER = false →
      exec (.icholt (.periodChange src v)) s = .next s) ∧
    exec (.icholt .periodRefused) s = .next s ∧
    (∀ (tag : BitVec 16) (step : Word32) (i : Byte),
      (∀ p : Prt, s.partOfTag tag.toNat = some p → Completes (.icholt (.secAgree tag step i)) s (fun t =>
        t.get HUB_SEC_CTRL.AT_STEP p = step.toNat ∧ (i ≠ 0 → t.get HUB_SEC_CTRL.INTERVAL p = i.toNat) ∧
        SameRegs s t [HUB_SEC_CTRL.AT_STEP, HUB_SEC_CTRL.INTERVAL] ∧ t.mem = s.mem ∧ t.out = s.out)) ∧
      (s.partOfTag tag.toNat = none → exec (.icholt (.secAgree tag step i)) s = .next s)) ∧
    (∀ (p : Prt) (tag : BitVec 16), s.get PROC_PART_CFG.JOB_TAG p = tag.toNat → s.partState p ≠ psEmpty →
      s.partState p ≠ psTearing →
      (∀ q : Prt, q ≠ p → s.partState q ≠ psEmpty → s.get PROC_PART_CFG.JOB_TAG q ≠ tag.toNat) →
      Completes (.icholt (.teardownNotice tag)) s (fun t => t.partState p = psTearing ∧
        t.get PROC_TEAR_STAT.CAUSE p = 8)) ∧
    (∀ tag : BitVec 16, (∀ q : Prt, s.partState q ≠ psEmpty → s.get PROC_PART_CFG.JOB_TAG q ≠ tag.toNat) →
      exec (.icholt (.teardownNotice tag)) s = .next s)

/-- Power pacing, dips and temperature (R357, R358, R360, R362, R364): a new sub-interval lifts all pacing; a region that
reaches its allotment has its matrix issue paced, all its issue at 5 % more, another consumer but the hub is noted; a dip
below the warning level keeps the lowest voltage, and a first one counts and stretches the clocks it reaches until recovery;
one below the reset level, or a die that trips, resets: a region is out of service, the 48 V input or the hub resets the
module. -/
def Obligations.PowerAndPacing : Prop :=
  ∀ (s : State),
    (∀ energy : List Nat, Completes (.subInterval energy) s (fun t =>
      (∀ r : Rgn, t.regions[r].pacedMatrix = false ∧ t.regions[r].pacedAll = false) ∧ t.hub.paced = [] ∧
      t.regs = s.regs ∧ t.mem = s.mem)) ∧
    (∀ (r : Rgn) (plus5 : Bool), Completes (.allotmentReached ⟨r.val, by omega⟩ plus5) s (fun t =>
      t.regions[r].pacedMatrix = true ∧ t.regions[r].pacedAll = (s.regions[r].pacedAll || plus5) ∧
      (∀ q, q ≠ r → t.regions[q] = s.regions[q]) ∧ t.regs = s.regs ∧ t.mem = s.mem)) ∧
    (∀ (c : Fin 10) (plus5 : Bool), 4 ≤ c.val →
      (c.val < 9 → c.val ∉ s.hub.paced → Completes (.allotmentReached c plus5) s (fun t =>
        t.hub.paced = s.hub.paced ++ [c.val] ∧ t.regions = s.regions ∧ t.regs = s.regs ∧ t.mem = s.mem)) ∧
      (c.val = 9 ∨ c.val ∈ s.hub.paced → exec (.allotmentReached c plus5) s = .next s)) ∧
    (∀ (k : Fin 5) (level : BitVec 16) (warn low : Nat), warn = (if k.val < 4 then 690 else 4200) →
      low = (if k.val < 4 then 620 else 3800) →
      (warn ≤ level.toNat → exec (.dip k level) s = .next s) ∧
      (low ≤ level.toNat → level.toNat < warn → Completes (.dip k level) s (fun t =>
        t.get PWR_DROOP.VALID k = 1 ∧ t.get PWR_DROOP.MIN k =
          (if s.bit PWR_DROOP.VALID k then min level.toNat (s.get PWR_DROOP.MIN k) else level.toNat) %
            2 ^ PWR_DROOP.MIN.width ∧ t.mem = s.mem ∧
        (k.val ∉ s.hub.dipRails → t.get PWR_DROOP.EVENTS k = min PWR_DROOP.EVENTS.max (s.get PWR_DROOP.EVENTS k + 1) ∧
          (∀ r : Rgn, k.val = r.val ∨ k.val = 4 → t.regions[r].dipStretch = true) ∧
          SameRegs s t [PWR_DROOP.EVENTS, PWR_DROOP.VALID, PWR_DROOP.MIN]) ∧
        (k.val ∈ s.hub.dipRails → t.regions = s.regions ∧ SameRegs s t [PWR_DROOP.VALID, PWR_DROOP.MIN]))) ∧
      (level.toNat < low →
        (∀ r : Rgn, k.val = r.val → Completes (.dip k level) s (fun t => t.regions[r].isolated = true ∧
          t.regions[r].cmds = [] ∧ ∀ i < 6, t.get SE_STAT.STATE (6 * r.val + i) = 1)) ∧
        (k.val = 4 → Completes (.dip k level) s (fun t => t.get HUB_RESET.LAST = 3 ∧
          t.regions = State.reset.regions)))) ∧
    (∀ k : Fin 5, Completes (.dipRecovery k) s (fun t => t.regs = s.regs ∧ t.mem = s.mem ∧ ∀ r : Rgn,
      (t.regions[r].dipStretch = true ↔ r.val ∈ s.hub.dipRails ∧ k.val ≠ r.val ∨ 4 ∈ s.hub.dipRails ∧ k.val ≠ 4) ∧
      t.regions[r].cmds = s.regions[r].cmds)) ∧
    (∀ (d : Fin 29) (r : Rgn), r.val = (if d.val < 4 then d.val else (d.val - 4) / 6) → d.val < 28 →
      Completes (.thermalTrip d) s (fun t => t.regions[r].isolated = true ∧
        (∀ i < 6, t.get SE_STAT.STATE (6 * r.val + i) = 1) ∧ t.regions[r].cmds = [])) ∧
    Completes (.thermalTrip 28) s (fun t => t.get HUB_RESET.LAST = 4 ∧ t.regions = State.reset.regions)

/-- The resets of Table 15.3 (R365, R366, R371): a cold and a module reset leave everything at its reset value with the
cause in LAST, flash, OTP and standby pins aside; a warm reset keeps stack contents and ownership; a region reset takes one
region out of service, tears its job down with CAUSE 5 and, where it has none, leaves the other regions' queues; HUB_RESET does these only with
its key and for the PF (MODULE) or Icholt (REGION), and counts a bad access else. A cause that Table 15.3 does not give a
module reset changes nothing. -/
def Obligations.Resets : Prop :=
  ∀ (s : State),
    (∀ (i : Instr) (last : Nat), i = .coldReset ∧ last = 0 ∨ i = .hubResetModule .pf 0x5A ∧ last = 2 ∨
        (∃ cause : BitVec 4, i = .moduleReset cause ∧ cause.toNat = last ∧ 2 ≤ last ∧ last ≤ 4) →
      Completes i s (fun t => t.get HUB_RESET.LAST = last ∧ t.regions = State.reset.regions ∧
        t.parts = State.reset.parts ∧ t.links = State.reset.links ∧ t.stks = State.reset.stks ∧ t.mem.cells = [] ∧
        SameRegs State.reset t [HUB_RESET.LAST, HUB_IMG.SVN_FLOOR, HUB_PWR_STATE.PWR_EN] ∧
        t.hub.slotA = s.hub.slotA ∧ t.hub.slotB = s.hub.slotB ∧ t.hub.svnFloor = s.hub.svnFloor)) ∧
    (∀ cause : BitVec 4, cause.toNat < 2 ∨ 4 < cause.toNat → exec (.moduleReset cause) s = .next s) ∧
    Completes .warmReset s (fun t => t.get HUB_RESET.LAST = 1 ∧ (∀ a : Nat, a < 0x18000000000 → t.mem.read a = s.mem.read a) ∧
      (∀ g < 1536, t.get HUB_OWN.KIND g = s.get HUB_OWN.KIND g ∧ t.get HUB_OWN.TAG g = s.get HUB_OWN.TAG g) ∧
      t.parts = State.reset.parts ∧ t.links = State.reset.links ∧
      (∀ r : Rgn, t.regions[r].cmds = [] ∧ t.regions[r].isolated = false)) ∧
    (∀ (r : Rgn) (i : Instr), i = .regionReset r ∨ i = .hubResetRegion .icholt 0x5A r → Completes i s (fun t =>
      t.regions[r].isolated = true ∧ t.regions[r].cmds = [] ∧ (∀ i < 6, t.get SE_STAT.STATE (6 * r.val + i) = 1) ∧
      (∀ p : Prt, s.partOf r = some p → s.partState p ≠ psEmpty → s.partState p ≠ psTearing →
        t.partState p = psTearing ∧ t.get PROC_TEAR_STAT.CAUSE p = 5) ∧
      (∀ q : Rgn, q ≠ r → s.partOf r = none → t.regions[q].cmds = s.regions[q].cmds))) ∧
    (∀ (i : Instr) (a : Actor) (key : Byte), (i = .hubResetModule a key ∧ (key ≠ 0x5A ∨ a ≠ .pf)) ∨
        (∃ sel, i = .hubResetRegion a key sel ∧ (key ≠ 0x5A ∨ a ≠ .icholt)) → Completes i s (fun t =>
      t.get HUB_BAD_ACCESS_CNT.COUNT = min HUB_BAD_ACCESS_CNT.COUNT.max (s.get HUB_BAD_ACCESS_CNT.COUNT + 1) ∧
      SameRegs s t [HUB_BAD_ACCESS_CNT.COUNT] ∧ OnlyRegs s t))

/-- The first second and the power states (R353, R357, R367-R370, R374): the boot ROM runs the valid slot with the higher
SEQ; main power comes with a running image, PWR_EN and good blades; trained stacks make the module active, the failed ones
out of service; PWR_EN falling begins dormancy and tears every job down with CAUSE 7; dormancy, once every partition is
empty, keeps the stacks; a wake leaves it with good blades, one asked for on the way in waits for its end. A command whose
conditions do not hold changes nothing. -/
def Obligations.PowerStates : Prop :=
  ∀ (s : State),
    (∀ k, s.hub.booted = false → s.hub.powered = true → s.hub.spiHub = true → s.hub.bootSlot = some k →
      Completes .bootRom s (fun t => t.hub.booted = true ∧ t.get HUB_IMG.SLOT = k ∧
        t.get HUB_IMG.SEQ = (if k = 0 then s.hub.slotA.seq else s.hub.slotB.seq) ∧ t.get HUB_IMG.STATE = 0 ∧
        SameRegs s t [HUB_IMG.SLOT, HUB_IMG.SEQ, HUB_IMG.STATE])) ∧
    (s.hub.booted = true ∨ s.hub.powered = false ∨ s.hub.spiHub = false ∨ s.hub.bootSlot = none →
      exec .bootRom s = .next s) ∧
    (∀ (a b : BitVec 16) (ok : Bool), ok = (decide (4400 ≤ a.toNat) && decide (a.toNat ≤ 5600) &&
        decide (4400 ≤ b.toNat) && decide (b.toNat ≤ 5600)) → Completes (.pwrEnAssert a b) s (fun t =>
      t.get HUB_PWR_STATE.PWR_EN = 1 ∧ t.hub.bladesOk = ok ∧ t.mem = s.mem ∧ t.regions = s.regions ∧
      (s.get HUB_PWR_STATE.STATE < 2 → t.hub.mainPower = (s.hub.mainPower || (s.hub.booted && ok)) ∧
        SameRegs s t [HUB_PWR_STATE.PWR_EN]) ∧
      (s.get HUB_PWR_STATE.STATE = 2 → s.bit HUB_PWR_STATE.PWR_EN = false → t.hub.wakePending = true) ∧
      (s.get HUB_PWR_STATE.STATE = 3 → s.bit HUB_PWR_STATE.PWR_EN = false → ok = true →
        t.get HUB_PWR_STATE.STATE = 1 ∧ t.hub.mainPower = true))) ∧
    (s.hub.mainPower = true → s.get HUB_PWR_STATE.STATE < 2 → Completes .pwrEnDeassert s (fun t =>
      t.get HUB_PWR_STATE.PWR_EN = 0 ∧ t.get HUB_PWR_STATE.STATE = 2 ∧
      ∀ p : Prt, s.partState p ≠ psEmpty → s.partState p ≠ psTearing → t.partState p = psTearing ∧
        t.get PROC_TEAR_STAT.CAUSE p = 7)) ∧
    (s.hub.mainPower = false ∨ 2 ≤ s.get HUB_PWR_STATE.STATE → Completes .pwrEnDeassert s (fun t =>
      t.get HUB_PWR_STATE.PWR_EN = 0 ∧ SameRegs s t [HUB_PWR_STATE.PWR_EN] ∧ OnlyRegs s t)) ∧
    (∀ failed : BitVec 24,
      (s.hub.mainPower = true → s.get HUB_PWR_STATE.STATE = 0 → Completes (.stackTraining failed) s (fun t =>
        t.get HUB_PWR_STATE.STATE = 1 ∧ (∀ k < 24, failed.getLsbD k = true → t.get SE_STAT.STATE k = 1) ∧
        t.hub.untrained = false ∧ t.mem = s.mem ∧ t.regions = s.regions)) ∧
      (s.hub.mainPower = false ∨ s.get HUB_PWR_STATE.STATE ≠ 0 → exec (.stackTraining failed) s = .next s)) ∧
    (s.get HUB_PWR_STATE.STATE = 2 → (∀ p : Prt, s.partState p = psEmpty) → Completes .dormancyEntered s (fun t =>
      t.get HUB_RC_STAT.STATE = 0 ∧ (∀ a : Nat, a < 0x18000000000 → t.mem.read a = s.mem.read a) ∧
      (∀ k : Stk, t.stks[k].soft = [] ∧ t.get SE_REPAIR.HARD k = min SE_REPAIR.HARD.max s.stks[k].soft.length) ∧
      (s.hub.wakePending = false ∨ s.hub.bladesOk = false → t.get HUB_PWR_STATE.STATE = 3 ∧ t.hub.mainPower = false) ∧
      (s.hub.wakePending = true → s.hub.bladesOk = true → t.get HUB_PWR_STATE.STATE = 1 ∧ t.hub.mainPower = true))) ∧
    (s.get HUB_PWR_STATE.STATE ≠ 2 ∨ (∃ p : Prt, s.partState p ≠ psEmpty) → exec .dormancyEntered s = .next s) ∧
    (s.bit HUB_PWR_STATE.PWR_EN = true →
      (s.get HUB_PWR_STATE.STATE = 3 → s.hub.bladesOk = true → Completes (.wake .pf) s (fun t =>
        t.get HUB_PWR_STATE.STATE = 1 ∧ t.get HUB_PWR_STATE.WAKE = 0 ∧ t.hub.mainPower = true ∧ t.mem = s.mem)) ∧
      (s.get HUB_PWR_STATE.STATE = 3 → s.hub.bladesOk = false → Completes (.wake .pf) s (fun t =>
        t.get HUB_PWR_STATE.WAKE = 1 ∧ SameRegs s t [HUB_PWR_STATE.WAKE] ∧ OnlyRegs s t)) ∧
      (s.get HUB_PWR_STATE.STATE = 2 → Completes (.wake .pf) s (fun t => t.get HUB_PWR_STATE.WAKE = 1 ∧
        t.hub.wakePending = true ∧ SameRegs s t [HUB_PWR_STATE.WAKE] ∧ t.mem = s.mem))) ∧
    (∀ a : Actor, a ≠ .pf ∨ s.bit HUB_PWR_STATE.PWR_EN = false ∨ s.get HUB_PWR_STATE.STATE < 2 →
      exec (.wake a) s = .next s) ∧
    Completes .standbyPowerLoss s (fun t => t.hub.powered = false ∧ t.hub.slotA = s.hub.slotA ∧
      t.hub.slotB = s.hub.slotB ∧ t.hub.keys = s.hub.keys ∧ t.hub.svnFloor = s.hub.svnFloor ∧
      t.regions = State.reset.regions ∧ t.links = State.reset.links) ∧
    exec .pciePerstNRelease s = .next { s with hub := { s.hub with perst := true } } ∧
    (∀ (pos : Byte) (feed : BitVec 4), (s.hub.strapsDue = true → Completes (.strapSample pos feed) s (fun t =>
        t.get HUB_FAB.POS_ID = pos.toNat ∧ t.get HUB_FAB.FEED_ID = feed.toNat ∧ t.hub.strapsDue = false ∧
        SameRegs s t [HUB_FAB.POS_ID, HUB_FAB.FEED_ID])) ∧
      (s.hub.strapsDue = false → exec (.strapSample pos feed) s = .next s))

/-- Accesses to the control space (R5-R7, R288, R369): a read answers the register's word and clears its RC fields; a read
or a write of no register, of the wrong width, or out of reach counts in HUB_BAD_ACCESS_CNT, and the read answers
zero, as does one that the debug lock hides; one of a powered-down block is aborted. A word written to a register with no
rule of its own changes its RW, W1C and W1S fields by their codes and nothing else; the descriptor table takes a word only
while no job is loaded and no debug lock is set. -/
def Obligations.RegisterAccesses : Prop :=
  ∀ (s : State) (a : Actor) (off : Word32) (w : BitVec 8) (v : Word64),
    (s.find a off.toNat w.toNat = .bad → Completes (.readClear a off w) s (fun t =>
        t.get HUB_BAD_ACCESS_CNT.COUNT = min HUB_BAD_ACCESS_CNT.COUNT.max (s.get HUB_BAD_ACCESS_CNT.COUNT + 1) ∧
        SameRegs s t [HUB_BAD_ACCESS_CNT.COUNT] ∧ t.out = s.out ++ [.value a 0] ∧ t.mem = s.mem) ∧
      Completes (.registerWrite a off w v) s (fun t =>
        t.get HUB_BAD_ACCESS_CNT.COUNT = min HUB_BAD_ACCESS_CNT.COUNT.max (s.get HUB_BAD_ACCESS_CNT.COUNT + 1) ∧
        SameRegs s t [HUB_BAD_ACCESS_CNT.COUNT] ∧ OnlyRegs s t)) ∧
    (∀ row i j k, s.find a off.toNat w.toNat = .reg row i j k → s.lockHides a row.base i = true →
      Completes (.readClear a off w) s (fun t =>
        t.get HUB_BAD_ACCESS_CNT.COUNT = min HUB_BAD_ACCESS_CNT.COUNT.max (s.get HUB_BAD_ACCESS_CNT.COUNT + 1) ∧
        SameRegs s t [HUB_BAD_ACCESS_CNT.COUNT] ∧ t.out = s.out ++ [.value a 0] ∧ t.mem = s.mem)) ∧
    (∀ row i j k, s.find a off.toNat w.toNat = .reg row i j k → s.lockHides a row.base i = false →
      i < 65536 → j < 65536 → k < 65536 → Completes (.readClear a off w) s (fun t =>
        t.out = s.out ++ [.value a (BitVec.ofNat 64 (s.word row i j k))] ∧
        (∀ f ∈ row.fields, f.acc = .rc → t.get f i j k = 0) ∧ SameRegs s t (row.fields.filter (fun f => f.acc == .rc)) ∧
        t.mem = s.mem ∧ t.regions = s.regions)) ∧
    (s.find a off.toNat w.toNat = .abort → exec (.readClear a off w) s = .next { s with out := s.out ++ [.completerAbort a] } ∧
      ((∀ row i j k, findReg off.toNat = some (row, i, j, k) → pigeonOf row.base i = none) →
        exec (.registerWrite a off w v) s = .next s)) ∧
    (∀ row i j k, s.find a off.toNat w.toNat = .reg row i j k → i < 65536 → j < 65536 → k < 65536 →
      row.base ∉ [0x10000, 0x200, 0x410, 0x300, 0x2000, 0x5000, 0x5048, 0x5050, 0x500, 0x700, 0x20010, 0x20000, 0x40000,
        0x40008, 0x40200, 0x40220, 0x40400, 0x41000, 0x41100, 0x30000, 0x30400, 0x30800, 0x30880, 0x30900, 0x30980, 0x30A40,
        0x1400000, 0x1000000, 0x1000008, 0x10C0000, 0x10A0000, 0x1040008, 0x1050200, 0x1050400, 0x8000008, 0x8000038,
        0xC000018, 0xC000030] →
      Completes (.registerWrite a off w v) s (fun t => OnlyRegs s t ∧
        (∀ f ∈ row.fields, (f.acc = .rw → t.get f i j k = f.ofWord v.toNat) ∧
          (f.acc = .w1c → t.get f i j k = (s.get f i j k &&& (f.max - f.ofWord v.toNat)) % 2 ^ f.width) ∧
          (f.acc = .w1s → t.get f i j k = (s.get f i j k ||| f.ofWord v.toNat) % 2 ^ f.width)) ∧
        SameRegs s t (row.fields.filter (fun f => f.acc == .rw || f.acc == .w1c || f.acc == .w1s)))) ∧
    (∀ (row : RegRow) (n e : Nat) (r : Rgn), row.base = 0x1400000 → row.fields = [RGN_DESC.WORD] → n < 4096 → e < 8 →
      s.find a off.toNat w.toNat = .reg row r n e →
      (s.regionLoaded r = false → s.regionLocked r = false → Completes (.registerWrite a off w v) s (fun t =>
        t.get RGN_DESC.WORD r n e = v.toNat ∧
        (∀ q m d, (q, m, d) ≠ (r.val, n, e) → q < 65536 → m < 65536 → d < 65536 →
          t.get RGN_DESC.WORD q m d = s.get RGN_DESC.WORD q m d) ∧ SameRegs s t [RGN_DESC.WORD] ∧ OnlyRegs s t)) ∧
      (s.regionLoaded r = true ∨ s.regionLocked r = true → exec (.registerWrite a off w v) s = .next s))

/-- The flash bus pin and the TAP (R288, R375, R376): SPI_OWN_N gives the bus to the baseboard and back; a TAP instruction
that tests or scans runs only in test mode with no job loaded, and is BYPASS otherwise; BYPASS, IDCODE and SAMPLE run
always. A scan of a register or of SRAM shows its value, and zero under the debug lock. -/
def Obligations.PinsAndTap : Prop :=
  ∀ (s : State),
    exec .spiOwnNFall s = .next { s with hub := { s.hub with spiHub := false } } ∧
    exec .spiOwnNRise s = .next { s with hub := { s.hub with spiHub := true } } ∧
    (∀ i : JtagInstr, i ∉ [JtagInstr.bypass, .idcode, .samplePreload] → s.tapOpen = false →
      exec (.jtagInstruction i) s = .next { s with hub := { s.hub with jtag := .bypass } }) ∧
    (∀ i : JtagInstr, i ∈ [JtagInstr.bypass, .idcode, .samplePreload] ∨ s.tapOpen = true →
      Completes (.jtagInstruction i) s (fun t => t.hub.jtag = i ∧ t.mem = s.mem ∧ t.regions = s.regions ∧
        SameRegs s t [HUB_BAD_ACCESS_CNT.COUNT])) ∧
    (∀ (o : Word32) row i j k, s.tapOpen = true → findReg o.toNat = some (row, i, j, k) →
      (s.lockHides .jtag row.base i = false → Completes (.jtagInstruction (.scanReg o)) s (fun t =>
        t.out = s.out ++ [.tap (BitVec.ofNat 64 (s.word row i j k))] ∧ t.regs = s.regs)) ∧
      (s.lockHides .jtag row.base i = true → Completes (.jtagInstruction (.scanReg o)) s (fun t =>
        t.out = s.out ++ [.tap 0] ∧ t.get HUB_BAD_ACCESS_CNT.COUNT =
          min HUB_BAD_ACCESS_CNT.COUNT.max (s.get HUB_BAD_ACCESS_CNT.COUNT + 1)))) ∧
    (∀ (a : Word64) (r : Rgn), s.tapOpen = true → sramBase r ≤ a.toNat → a.toNat < sramBase r + 0x10000000 →
      Completes (.jtagInstruction (.scanSram a)) s (fun t => t.regs = s.regs ∧
        t.out = s.out ++ [.tap (if s.regionLocked r then 0 else BitVec.ofNat 64 (s.num a.toNat 8))]))

/-- The module right after reset: every register field reads its reset value (shown by name for those the register
sections give a value other than zero; where they state none the value is this model's choice, log entries 3 and 4),
no bell has fired, nothing is queued or sent. -/
def Obligations.ResetState : Prop :=
  (∀ (f : Fld) (i j k : Nat), State.reset.get f i j k = f.reset) ∧
  State.reset.get HUB_BELL_PERIOD.PERIOD_US = 128 ∧ State.reset.get PROC_HOLD_LIMIT.LIMIT = 64 ∧
  State.reset.get SE_SCHED.W_UPD 0 = 8 ∧ State.reset.get SE_SCHED.W_ACC 0 = 4 ∧ State.reset.get SE_SCHED.W_SCAT 0 = 2 ∧
  State.reset.get SE_SCRUB.HOURS 0 = 20 ∧ State.reset.get SE_REPAIR.SPARES_LEFT 0 0 = 4 ∧
  State.reset.get LNK_STAT.REACH 0 = 3 ∧ State.reset.get LNK_PEER.ADDR 0 = 0xFFFF ∧
  State.reset.get LNK_WIDTH.TARGET 0 = 4 ∧ State.reset.get LNK_WIDTH.HARDEN_BELLS 0 = 64 ∧
  State.reset.get HUB_FAB.ADDR = 0xFFFF ∧ State.reset.get HUB_RC_CTRL.STABLE_US = 2000 ∧
  State.reset.get HUB_SEC_CTRL.INTERVAL 0 = 1 ∧ State.reset.get HUB_SEC_CTRL.K 0 = 1 ∧
  State.reset.get HUB_GRAFT.ADDR = 0xFFFF ∧ State.reset.get HUB_HARDEN.BELLS = 64 ∧
  State.reset.get HUB_SEC_STORE1.SRC 0 = 0xFFFF ∧ State.reset.get RGN_SEC_TGT.ADDR 0 0 = 0xFFFF ∧
  State.reset.get PH_MODE.STRICT = 1 ∧ State.reset.get PH_FSEND.DEST = 0xFFFF ∧ State.reset.get PWR_CAP.CAP_W = 2400 ∧
  State.reset.pending = [] ∧ State.reset.out = [] ∧ State.reset.hub.fired = false ∧ State.reset.mem.wf = true ∧
  (∀ r : Rgn, State.reset.regions[r].cmds = [] ∧ State.reset.seqState r = sqIdle) ∧
  (∀ p : Prt, State.reset.partState p = psEmpty)

/-- Whatever the command, in every state: it answers a next state; it leaves the queue of waiting commands to the step; a
free value once used is not used again; nothing sent is taken back; and memory keeps its canonical form. The tick of
an empty queue keeps the same, and so does every step, which takes the front command from the queue. -/
def Obligations.EveryCommandKeeps : Prop :=
  (∀ (i : Instr) (s : State), Completes i s (Kept s)) ∧ (∀ s : State, Kept s s.tick) ∧
  (∀ s t : State, step s = .next t →
    t.pending = s.pending.tail ∧ s.ticket ≤ t.ticket ∧ s.out <+: t.out ∧ (s.mem.wf = true → t.mem.wf = true))

/-- The number formats (R62, R63, R64, R67): a finite value of a format converts back to its own code under either
rounding; the scale of a block is the smallest power of two from 2^-127 to 2^127 under which no magnitude exceeds the
base format's largest value, so that an element saturates only where the scale is 2^127; a block of zeros has scale
0x00 and zero elements. -/
def Obligations.FormatsAndBlockScales : Prop :=
  (∀ (c v : Nat) (rnd : Rnd), 1 ≤ c → c ≤ 0x0B → v < 2 ^ fmtBits c → (decodeNum c v).isFinite = true →
    encodeNum c rnd (decodeNum c v) = (v, false)) ∧
  (∀ (c : Nat) (xs : List Machine.Num) (top : Machine.Num), isScaled c = true → (∀ x ∈ xs, x.isFinite = true) →
    top = .fin false (maxFinite c).1 (maxFinite c).2 → scaleByte c xs ≤ 254 ∧
    (scaleByte c xs < 254 → ∀ x ∈ xs, x.abs.le (top.scale ((scaleByte c xs : Int) - 127)) = true ∧
      ∀ rnd : Rnd, (∀ u, rnd = .sr u → u < 2 ^ 32) → (encodeScaled c (scaleByte c xs) rnd x).2 = false) ∧
    (0 < scaleByte c xs → ∃ x ∈ xs, x.abs.le (top.scale ((scaleByte c xs : Int) - 128)) = false) ∧
    ((∀ x ∈ xs, x.isZero = true) → scaleByte c xs = 0 ∧
      ∀ x ∈ xs, ∀ rnd : Rnd, (decodeNum c (encodeScaled c 0 rnd x).1).isZero = true))
end

