-- ==== Sys2Proof/Laws/State.lean ====
section
/-!
SUPPORT. What each update of State leaves alone: one lemma per field, true by computation. No later proof unfolds a
record update.
-/
namespace Sys2Proof.Machine

@[simp] theorem State.put_now (s : State) (f : Fld) (v i j k : Nat) : (s.put f v i j k).now = s.now := rfl
@[simp] theorem State.put_ticket (s : State) (f : Fld) (v i j k : Nat) : (s.put f v i j k).ticket = s.ticket := rfl
@[simp] theorem State.put_live (s : State) (f : Fld) (v i j k : Nat) : (s.put f v i j k).live = s.live := rfl
@[simp] theorem State.put_watchId (s : State) (f : Fld) (v i j k : Nat) : (s.put f v i j k).watchId = s.watchId := rfl
@[simp] theorem State.put_mem (s : State) (f : Fld) (v i j k : Nat) : (s.put f v i j k).mem = s.mem := rfl
@[simp] theorem State.put_badWords (s : State) (f : Fld) (v i j k : Nat) : (s.put f v i j k).badWords = s.badWords := rfl
@[simp] theorem State.put_dirty (s : State) (f : Fld) (v i j k : Nat) : (s.put f v i j k).dirty = s.dirty := rfl
@[simp] theorem State.put_regions (s : State) (f : Fld) (v i j k : Nat) : (s.put f v i j k).regions = s.regions := rfl
@[simp] theorem State.put_parts (s : State) (f : Fld) (v i j k : Nat) : (s.put f v i j k).parts = s.parts := rfl
@[simp] theorem State.put_links (s : State) (f : Fld) (v i j k : Nat) : (s.put f v i j k).links = s.links := rfl
@[simp] theorem State.put_stks (s : State) (f : Fld) (v i j k : Nat) : (s.put f v i j k).stks = s.stks := rfl
@[simp] theorem State.put_hub (s : State) (f : Fld) (v i j k : Nat) : (s.put f v i j k).hub = s.hub := rfl
@[simp] theorem State.put_out (s : State) (f : Fld) (v i j k : Nat) : (s.put f v i j k).out = s.out := rfl
@[simp] theorem State.put_pending (s : State) (f : Fld) (v i j k : Nat) : (s.put f v i j k).pending = s.pending := rfl

@[simp] theorem State.bump_now (s : State) (f : Fld) (n i j k : Nat) : (s.bump f n i j k).now = s.now := rfl
@[simp] theorem State.bump_ticket (s : State) (f : Fld) (n i j k : Nat) : (s.bump f n i j k).ticket = s.ticket := rfl
@[simp] theorem State.bump_live (s : State) (f : Fld) (n i j k : Nat) : (s.bump f n i j k).live = s.live := rfl
@[simp] theorem State.bump_watchId (s : State) (f : Fld) (n i j k : Nat) : (s.bump f n i j k).watchId = s.watchId := rfl
@[simp] theorem State.bump_mem (s : State) (f : Fld) (n i j k : Nat) : (s.bump f n i j k).mem = s.mem := rfl
@[simp] theorem State.bump_badWords (s : State) (f : Fld) (n i j k : Nat) : (s.bump f n i j k).badWords = s.badWords := rfl
@[simp] theorem State.bump_dirty (s : State) (f : Fld) (n i j k : Nat) : (s.bump f n i j k).dirty = s.dirty := rfl
@[simp] theorem State.bump_regions (s : State) (f : Fld) (n i j k : Nat) : (s.bump f n i j k).regions = s.regions := rfl
@[simp] theorem State.bump_parts (s : State) (f : Fld) (n i j k : Nat) : (s.bump f n i j k).parts = s.parts := rfl
@[simp] theorem State.bump_links (s : State) (f : Fld) (n i j k : Nat) : (s.bump f n i j k).links = s.links := rfl
@[simp] theorem State.bump_stks (s : State) (f : Fld) (n i j k : Nat) : (s.bump f n i j k).stks = s.stks := rfl
@[simp] theorem State.bump_hub (s : State) (f : Fld) (n i j k : Nat) : (s.bump f n i j k).hub = s.hub := rfl
@[simp] theorem State.bump_out (s : State) (f : Fld) (n i j k : Nat) : (s.bump f n i j k).out = s.out := rfl
@[simp] theorem State.bump_pending (s : State) (f : Fld) (n i j k : Nat) : (s.bump f n i j k).pending = s.pending := rfl

@[simp] theorem State.liveAdd_now (s : State) (f : Fld) (n i j k : Nat) : (s.liveAdd f n i j k).now = s.now := rfl
@[simp] theorem State.liveAdd_ticket (s : State) (f : Fld) (n i j k : Nat) : (s.liveAdd f n i j k).ticket = s.ticket := rfl
@[simp] theorem State.liveAdd_regs (s : State) (f : Fld) (n i j k : Nat) : (s.liveAdd f n i j k).regs = s.regs := rfl
@[simp] theorem State.liveAdd_watchId (s : State) (f : Fld) (n i j k : Nat) : (s.liveAdd f n i j k).watchId = s.watchId := rfl
@[simp] theorem State.liveAdd_mem (s : State) (f : Fld) (n i j k : Nat) : (s.liveAdd f n i j k).mem = s.mem := rfl
@[simp] theorem State.liveAdd_badWords (s : State) (f : Fld) (n i j k : Nat) : (s.liveAdd f n i j k).badWords = s.badWords := rfl
@[simp] theorem State.liveAdd_dirty (s : State) (f : Fld) (n i j k : Nat) : (s.liveAdd f n i j k).dirty = s.dirty := rfl
@[simp] theorem State.liveAdd_regions (s : State) (f : Fld) (n i j k : Nat) : (s.liveAdd f n i j k).regions = s.regions := rfl
@[simp] theorem State.liveAdd_parts (s : State) (f : Fld) (n i j k : Nat) : (s.liveAdd f n i j k).parts = s.parts := rfl
@[simp] theorem State.liveAdd_links (s : State) (f : Fld) (n i j k : Nat) : (s.liveAdd f n i j k).links = s.links := rfl
@[simp] theorem State.liveAdd_stks (s : State) (f : Fld) (n i j k : Nat) : (s.liveAdd f n i j k).stks = s.stks := rfl
@[simp] theorem State.liveAdd_hub (s : State) (f : Fld) (n i j k : Nat) : (s.liveAdd f n i j k).hub = s.hub := rfl
@[simp] theorem State.liveAdd_out (s : State) (f : Fld) (n i j k : Nat) : (s.liveAdd f n i j k).out = s.out := rfl
@[simp] theorem State.liveAdd_pending (s : State) (f : Fld) (n i j k : Nat) : (s.liveAdd f n i j k).pending = s.pending := rfl

@[simp] theorem State.latch_now (s : State) : s.latch.now = s.now := rfl
@[simp] theorem State.latch_ticket (s : State) : s.latch.ticket = s.ticket := rfl
@[simp] theorem State.latch_watchId (s : State) : s.latch.watchId = s.watchId := rfl
@[simp] theorem State.latch_mem (s : State) : s.latch.mem = s.mem := rfl
@[simp] theorem State.latch_badWords (s : State) : s.latch.badWords = s.badWords := rfl
@[simp] theorem State.latch_dirty (s : State) : s.latch.dirty = s.dirty := rfl
@[simp] theorem State.latch_regions (s : State) : s.latch.regions = s.regions := rfl
@[simp] theorem State.latch_parts (s : State) : s.latch.parts = s.parts := rfl
@[simp] theorem State.latch_links (s : State) : s.latch.links = s.links := rfl
@[simp] theorem State.latch_stks (s : State) : s.latch.stks = s.stks := rfl
@[simp] theorem State.latch_hub (s : State) : s.latch.hub = s.hub := rfl
@[simp] theorem State.latch_out (s : State) : s.latch.out = s.out := rfl
@[simp] theorem State.latch_pending (s : State) : s.latch.pending = s.pending := rfl

@[simp] theorem State.clearHome_now (s : State) (f : Fld) : (s.clearHome f).now = s.now := rfl
@[simp] theorem State.clearHome_ticket (s : State) (f : Fld) : (s.clearHome f).ticket = s.ticket := rfl
@[simp] theorem State.clearHome_live (s : State) (f : Fld) : (s.clearHome f).live = s.live := rfl
@[simp] theorem State.clearHome_watchId (s : State) (f : Fld) : (s.clearHome f).watchId = s.watchId := rfl
@[simp] theorem State.clearHome_mem (s : State) (f : Fld) : (s.clearHome f).mem = s.mem := rfl
@[simp] theorem State.clearHome_badWords (s : State) (f : Fld) : (s.clearHome f).badWords = s.badWords := rfl
@[simp] theorem State.clearHome_dirty (s : State) (f : Fld) : (s.clearHome f).dirty = s.dirty := rfl
@[simp] theorem State.clearHome_regions (s : State) (f : Fld) : (s.clearHome f).regions = s.regions := rfl
@[simp] theorem State.clearHome_parts (s : State) (f : Fld) : (s.clearHome f).parts = s.parts := rfl
@[simp] theorem State.clearHome_links (s : State) (f : Fld) : (s.clearHome f).links = s.links := rfl
@[simp] theorem State.clearHome_stks (s : State) (f : Fld) : (s.clearHome f).stks = s.stks := rfl
@[simp] theorem State.clearHome_hub (s : State) (f : Fld) : (s.clearHome f).hub = s.hub := rfl
@[simp] theorem State.clearHome_out (s : State) (f : Fld) : (s.clearHome f).out = s.out := rfl
@[simp] theorem State.clearHome_pending (s : State) (f : Fld) : (s.clearHome f).pending = s.pending := rfl

@[simp] theorem State.clearAt_now (s : State) (f : Fld) (i : Nat) : (s.clearAt f i).now = s.now := rfl
@[simp] theorem State.clearAt_ticket (s : State) (f : Fld) (i : Nat) : (s.clearAt f i).ticket = s.ticket := rfl
@[simp] theorem State.clearAt_live (s : State) (f : Fld) (i : Nat) : (s.clearAt f i).live = s.live := rfl
@[simp] theorem State.clearAt_watchId (s : State) (f : Fld) (i : Nat) : (s.clearAt f i).watchId = s.watchId := rfl
@[simp] theorem State.clearAt_mem (s : State) (f : Fld) (i : Nat) : (s.clearAt f i).mem = s.mem := rfl
@[simp] theorem State.clearAt_badWords (s : State) (f : Fld) (i : Nat) : (s.clearAt f i).badWords = s.badWords := rfl
@[simp] theorem State.clearAt_dirty (s : State) (f : Fld) (i : Nat) : (s.clearAt f i).dirty = s.dirty := rfl
@[simp] theorem State.clearAt_regions (s : State) (f : Fld) (i : Nat) : (s.clearAt f i).regions = s.regions := rfl
@[simp] theorem State.clearAt_parts (s : State) (f : Fld) (i : Nat) : (s.clearAt f i).parts = s.parts := rfl
@[simp] theorem State.clearAt_links (s : State) (f : Fld) (i : Nat) : (s.clearAt f i).links = s.links := rfl
@[simp] theorem State.clearAt_stks (s : State) (f : Fld) (i : Nat) : (s.clearAt f i).stks = s.stks := rfl
@[simp] theorem State.clearAt_hub (s : State) (f : Fld) (i : Nat) : (s.clearAt f i).hub = s.hub := rfl
@[simp] theorem State.clearAt_out (s : State) (f : Fld) (i : Nat) : (s.clearAt f i).out = s.out := rfl
@[simp] theorem State.clearAt_pending (s : State) (f : Fld) (i : Nat) : (s.clearAt f i).pending = s.pending := rfl

@[simp] theorem State.modRegion_now (s : State) (r : Rgn) (g : Region → Region) : (s.modRegion r g).now = s.now := rfl
@[simp] theorem State.modRegion_ticket (s : State) (r : Rgn) (g : Region → Region) : (s.modRegion r g).ticket = s.ticket := rfl
@[simp] theorem State.modRegion_regs (s : State) (r : Rgn) (g : Region → Region) : (s.modRegion r g).regs = s.regs := rfl
@[simp] theorem State.modRegion_live (s : State) (r : Rgn) (g : Region → Region) : (s.modRegion r g).live = s.live := rfl
@[simp] theorem State.modRegion_watchId (s : State) (r : Rgn) (g : Region → Region) : (s.modRegion r g).watchId = s.watchId := rfl
@[simp] theorem State.modRegion_mem (s : State) (r : Rgn) (g : Region → Region) : (s.modRegion r g).mem = s.mem := rfl
@[simp] theorem State.modRegion_badWords (s : State) (r : Rgn) (g : Region → Region) : (s.modRegion r g).badWords = s.badWords := rfl
@[simp] theorem State.modRegion_dirty (s : State) (r : Rgn) (g : Region → Region) : (s.modRegion r g).dirty = s.dirty := rfl
@[simp] theorem State.modRegion_parts (s : State) (r : Rgn) (g : Region → Region) : (s.modRegion r g).parts = s.parts := rfl
@[simp] theorem State.modRegion_links (s : State) (r : Rgn) (g : Region → Region) : (s.modRegion r g).links = s.links := rfl
@[simp] theorem State.modRegion_stks (s : State) (r : Rgn) (g : Region → Region) : (s.modRegion r g).stks = s.stks := rfl
@[simp] theorem State.modRegion_hub (s : State) (r : Rgn) (g : Region → Region) : (s.modRegion r g).hub = s.hub := rfl
@[simp] theorem State.modRegion_out (s : State) (r : Rgn) (g : Region → Region) : (s.modRegion r g).out = s.out := rfl
@[simp] theorem State.modRegion_pending (s : State) (r : Rgn) (g : Region → Region) : (s.modRegion r g).pending = s.pending := rfl

@[simp] theorem State.modPart_now (s : State) (p : Prt) (g : Part → Part) : (s.modPart p g).now = s.now := rfl
@[simp] theorem State.modPart_ticket (s : State) (p : Prt) (g : Part → Part) : (s.modPart p g).ticket = s.ticket := rfl
@[simp] theorem State.modPart_regs (s : State) (p : Prt) (g : Part → Part) : (s.modPart p g).regs = s.regs := rfl
@[simp] theorem State.modPart_live (s : State) (p : Prt) (g : Part → Part) : (s.modPart p g).live = s.live := rfl
@[simp] theorem State.modPart_watchId (s : State) (p : Prt) (g : Part → Part) : (s.modPart p g).watchId = s.watchId := rfl
@[simp] theorem State.modPart_mem (s : State) (p : Prt) (g : Part → Part) : (s.modPart p g).mem = s.mem := rfl
@[simp] theorem State.modPart_badWords (s : State) (p : Prt) (g : Part → Part) : (s.modPart p g).badWords = s.badWords := rfl
@[simp] theorem State.modPart_dirty (s : State) (p : Prt) (g : Part → Part) : (s.modPart p g).dirty = s.dirty := rfl
@[simp] theorem State.modPart_regions (s : State) (p : Prt) (g : Part → Part) : (s.modPart p g).regions = s.regions := rfl
@[simp] theorem State.modPart_links (s : State) (p : Prt) (g : Part → Part) : (s.modPart p g).links = s.links := rfl
@[simp] theorem State.modPart_stks (s : State) (p : Prt) (g : Part → Part) : (s.modPart p g).stks = s.stks := rfl
@[simp] theorem State.modPart_hub (s : State) (p : Prt) (g : Part → Part) : (s.modPart p g).hub = s.hub := rfl
@[simp] theorem State.modPart_out (s : State) (p : Prt) (g : Part → Part) : (s.modPart p g).out = s.out := rfl
@[simp] theorem State.modPart_pending (s : State) (p : Prt) (g : Part → Part) : (s.modPart p g).pending = s.pending := rfl

@[simp] theorem State.modLink_now (s : State) (l : Lnk) (g : Link → Link) : (s.modLink l g).now = s.now := rfl
@[simp] theorem State.modLink_ticket (s : State) (l : Lnk) (g : Link → Link) : (s.modLink l g).ticket = s.ticket := rfl
@[simp] theorem State.modLink_regs (s : State) (l : Lnk) (g : Link → Link) : (s.modLink l g).regs = s.regs := rfl
@[simp] theorem State.modLink_live (s : State) (l : Lnk) (g : Link → Link) : (s.modLink l g).live = s.live := rfl
@[simp] theorem State.modLink_watchId (s : State) (l : Lnk) (g : Link → Link) : (s.modLink l g).watchId = s.watchId := rfl
@[simp] theorem State.modLink_mem (s : State) (l : Lnk) (g : Link → Link) : (s.modLink l g).mem = s.mem := rfl
@[simp] theorem State.modLink_badWords (s : State) (l : Lnk) (g : Link → Link) : (s.modLink l g).badWords = s.badWords := rfl
@[simp] theorem State.modLink_dirty (s : State) (l : Lnk) (g : Link → Link) : (s.modLink l g).dirty = s.dirty := rfl
@[simp] theorem State.modLink_regions (s : State) (l : Lnk) (g : Link → Link) : (s.modLink l g).regions = s.regions := rfl
@[simp] theorem State.modLink_parts (s : State) (l : Lnk) (g : Link → Link) : (s.modLink l g).parts = s.parts := rfl
@[simp] theorem State.modLink_stks (s : State) (l : Lnk) (g : Link → Link) : (s.modLink l g).stks = s.stks := rfl
@[simp] theorem State.modLink_hub (s : State) (l : Lnk) (g : Link → Link) : (s.modLink l g).hub = s.hub := rfl
@[simp] theorem State.modLink_out (s : State) (l : Lnk) (g : Link → Link) : (s.modLink l g).out = s.out := rfl
@[simp] theorem State.modLink_pending (s : State) (l : Lnk) (g : Link → Link) : (s.modLink l g).pending = s.pending := rfl

@[simp] theorem State.modStack_now (s : State) (k : Stk) (g : Stack → Stack) : (s.modStack k g).now = s.now := rfl
@[simp] theorem State.modStack_ticket (s : State) (k : Stk) (g : Stack → Stack) : (s.modStack k g).ticket = s.ticket := rfl
@[simp] theorem State.modStack_regs (s : State) (k : Stk) (g : Stack → Stack) : (s.modStack k g).regs = s.regs := rfl
@[simp] theorem State.modStack_live (s : State) (k : Stk) (g : Stack → Stack) : (s.modStack k g).live = s.live := rfl
@[simp] theorem State.modStack_watchId (s : State) (k : Stk) (g : Stack → Stack) : (s.modStack k g).watchId = s.watchId := rfl
@[simp] theorem State.modStack_mem (s : State) (k : Stk) (g : Stack → Stack) : (s.modStack k g).mem = s.mem := rfl
@[simp] theorem State.modStack_badWords (s : State) (k : Stk) (g : Stack → Stack) : (s.modStack k g).badWords = s.badWords := rfl
@[simp] theorem State.modStack_dirty (s : State) (k : Stk) (g : Stack → Stack) : (s.modStack k g).dirty = s.dirty := rfl
@[simp] theorem State.modStack_regions (s : State) (k : Stk) (g : Stack → Stack) : (s.modStack k g).regions = s.regions := rfl
@[simp] theorem State.modStack_parts (s : State) (k : Stk) (g : Stack → Stack) : (s.modStack k g).parts = s.parts := rfl
@[simp] theorem State.modStack_links (s : State) (k : Stk) (g : Stack → Stack) : (s.modStack k g).links = s.links := rfl
@[simp] theorem State.modStack_hub (s : State) (k : Stk) (g : Stack → Stack) : (s.modStack k g).hub = s.hub := rfl
@[simp] theorem State.modStack_out (s : State) (k : Stk) (g : Stack → Stack) : (s.modStack k g).out = s.out := rfl
@[simp] theorem State.modStack_pending (s : State) (k : Stk) (g : Stack → Stack) : (s.modStack k g).pending = s.pending := rfl

@[simp] theorem State.modHub_now (s : State) (g : Hub → Hub) : (s.modHub g).now = s.now := rfl
@[simp] theorem State.modHub_ticket (s : State) (g : Hub → Hub) : (s.modHub g).ticket = s.ticket := rfl
@[simp] theorem State.modHub_regs (s : State) (g : Hub → Hub) : (s.modHub g).regs = s.regs := rfl
@[simp] theorem State.modHub_live (s : State) (g : Hub → Hub) : (s.modHub g).live = s.live := rfl
@[simp] theorem State.modHub_watchId (s : State) (g : Hub → Hub) : (s.modHub g).watchId = s.watchId := rfl
@[simp] theorem State.modHub_mem (s : State) (g : Hub → Hub) : (s.modHub g).mem = s.mem := rfl
@[simp] theorem State.modHub_badWords (s : State) (g : Hub → Hub) : (s.modHub g).badWords = s.badWords := rfl
@[simp] theorem State.modHub_dirty (s : State) (g : Hub → Hub) : (s.modHub g).dirty = s.dirty := rfl
@[simp] theorem State.modHub_regions (s : State) (g : Hub → Hub) : (s.modHub g).regions = s.regions := rfl
@[simp] theorem State.modHub_parts (s : State) (g : Hub → Hub) : (s.modHub g).parts = s.parts := rfl
@[simp] theorem State.modHub_links (s : State) (g : Hub → Hub) : (s.modHub g).links = s.links := rfl
@[simp] theorem State.modHub_stks (s : State) (g : Hub → Hub) : (s.modHub g).stks = s.stks := rfl
@[simp] theorem State.modHub_out (s : State) (g : Hub → Hub) : (s.modHub g).out = s.out := rfl
@[simp] theorem State.modHub_pending (s : State) (g : Hub → Hub) : (s.modHub g).pending = s.pending := rfl

@[simp] theorem State.emit_now (s : State) (o : Out) : (s.emit o).now = s.now := rfl
@[simp] theorem State.emit_ticket (s : State) (o : Out) : (s.emit o).ticket = s.ticket := rfl
@[simp] theorem State.emit_regs (s : State) (o : Out) : (s.emit o).regs = s.regs := rfl
@[simp] theorem State.emit_live (s : State) (o : Out) : (s.emit o).live = s.live := rfl
@[simp] theorem State.emit_watchId (s : State) (o : Out) : (s.emit o).watchId = s.watchId := rfl
@[simp] theorem State.emit_mem (s : State) (o : Out) : (s.emit o).mem = s.mem := rfl
@[simp] theorem State.emit_badWords (s : State) (o : Out) : (s.emit o).badWords = s.badWords := rfl
@[simp] theorem State.emit_dirty (s : State) (o : Out) : (s.emit o).dirty = s.dirty := rfl
@[simp] theorem State.emit_regions (s : State) (o : Out) : (s.emit o).regions = s.regions := rfl
@[simp] theorem State.emit_parts (s : State) (o : Out) : (s.emit o).parts = s.parts := rfl
@[simp] theorem State.emit_links (s : State) (o : Out) : (s.emit o).links = s.links := rfl
@[simp] theorem State.emit_stks (s : State) (o : Out) : (s.emit o).stks = s.stks := rfl
@[simp] theorem State.emit_hub (s : State) (o : Out) : (s.emit o).hub = s.hub := rfl
@[simp] theorem State.emit_pending (s : State) (o : Out) : (s.emit o).pending = s.pending := rfl

@[simp] theorem State.nextTicket_now (s : State) : s.nextTicket.now = s.now := rfl
@[simp] theorem State.nextTicket_regs (s : State) : s.nextTicket.regs = s.regs := rfl
@[simp] theorem State.nextTicket_live (s : State) : s.nextTicket.live = s.live := rfl
@[simp] theorem State.nextTicket_watchId (s : State) : s.nextTicket.watchId = s.watchId := rfl
@[simp] theorem State.nextTicket_mem (s : State) : s.nextTicket.mem = s.mem := rfl
@[simp] theorem State.nextTicket_badWords (s : State) : s.nextTicket.badWords = s.badWords := rfl
@[simp] theorem State.nextTicket_dirty (s : State) : s.nextTicket.dirty = s.dirty := rfl
@[simp] theorem State.nextTicket_regions (s : State) : s.nextTicket.regions = s.regions := rfl
@[simp] theorem State.nextTicket_parts (s : State) : s.nextTicket.parts = s.parts := rfl
@[simp] theorem State.nextTicket_links (s : State) : s.nextTicket.links = s.links := rfl
@[simp] theorem State.nextTicket_stks (s : State) : s.nextTicket.stks = s.stks := rfl
@[simp] theorem State.nextTicket_hub (s : State) : s.nextTicket.hub = s.hub := rfl
@[simp] theorem State.nextTicket_out (s : State) : s.nextTicket.out = s.out := rfl
@[simp] theorem State.nextTicket_pending (s : State) : s.nextTicket.pending = s.pending := rfl

@[simp] theorem State.store_now (s : State) (a : Nat) (bs : List Byte) : (s.store a bs).now = s.now := rfl
@[simp] theorem State.store_ticket (s : State) (a : Nat) (bs : List Byte) : (s.store a bs).ticket = s.ticket := rfl
@[simp] theorem State.store_regs (s : State) (a : Nat) (bs : List Byte) : (s.store a bs).regs = s.regs := rfl
@[simp] theorem State.store_live (s : State) (a : Nat) (bs : List Byte) : (s.store a bs).live = s.live := rfl
@[simp] theorem State.store_watchId (s : State) (a : Nat) (bs : List Byte) : (s.store a bs).watchId = s.watchId := rfl
@[simp] theorem State.store_dirty (s : State) (a : Nat) (bs : List Byte) : (s.store a bs).dirty = s.dirty := rfl
@[simp] theorem State.store_regions (s : State) (a : Nat) (bs : List Byte) : (s.store a bs).regions = s.regions := rfl
@[simp] theorem State.store_parts (s : State) (a : Nat) (bs : List Byte) : (s.store a bs).parts = s.parts := rfl
@[simp] theorem State.store_links (s : State) (a : Nat) (bs : List Byte) : (s.store a bs).links = s.links := rfl
@[simp] theorem State.store_stks (s : State) (a : Nat) (bs : List Byte) : (s.store a bs).stks = s.stks := rfl
@[simp] theorem State.store_hub (s : State) (a : Nat) (bs : List Byte) : (s.store a bs).hub = s.hub := rfl
@[simp] theorem State.store_out (s : State) (a : Nat) (bs : List Byte) : (s.store a bs).out = s.out := rfl
@[simp] theorem State.store_pending (s : State) (a : Nat) (bs : List Byte) : (s.store a bs).pending = s.pending := rfl

@[simp] theorem State.zeroFill_now (s : State) (lo hi : Nat) : (s.zeroFill lo hi).now = s.now := rfl
@[simp] theorem State.zeroFill_ticket (s : State) (lo hi : Nat) : (s.zeroFill lo hi).ticket = s.ticket := rfl
@[simp] theorem State.zeroFill_regs (s : State) (lo hi : Nat) : (s.zeroFill lo hi).regs = s.regs := rfl
@[simp] theorem State.zeroFill_live (s : State) (lo hi : Nat) : (s.zeroFill lo hi).live = s.live := rfl
@[simp] theorem State.zeroFill_watchId (s : State) (lo hi : Nat) : (s.zeroFill lo hi).watchId = s.watchId := rfl
@[simp] theorem State.zeroFill_dirty (s : State) (lo hi : Nat) : (s.zeroFill lo hi).dirty = s.dirty := rfl
@[simp] theorem State.zeroFill_regions (s : State) (lo hi : Nat) : (s.zeroFill lo hi).regions = s.regions := rfl
@[simp] theorem State.zeroFill_parts (s : State) (lo hi : Nat) : (s.zeroFill lo hi).parts = s.parts := rfl
@[simp] theorem State.zeroFill_links (s : State) (lo hi : Nat) : (s.zeroFill lo hi).links = s.links := rfl
@[simp] theorem State.zeroFill_stks (s : State) (lo hi : Nat) : (s.zeroFill lo hi).stks = s.stks := rfl
@[simp] theorem State.zeroFill_hub (s : State) (lo hi : Nat) : (s.zeroFill lo hi).hub = s.hub := rfl
@[simp] theorem State.zeroFill_out (s : State) (lo hi : Nat) : (s.zeroFill lo hi).out = s.out := rfl
@[simp] theorem State.zeroFill_pending (s : State) (lo hi : Nat) : (s.zeroFill lo hi).pending = s.pending := rfl

@[simp] theorem State.undefine_now (s : State) (x : Extent) (n : Nat) : (s.undefine x n).now = s.now := rfl
@[simp] theorem State.undefine_ticket (s : State) (x : Extent) (n : Nat) : (s.undefine x n).ticket = s.ticket := rfl
@[simp] theorem State.undefine_regs (s : State) (x : Extent) (n : Nat) : (s.undefine x n).regs = s.regs := rfl
@[simp] theorem State.undefine_live (s : State) (x : Extent) (n : Nat) : (s.undefine x n).live = s.live := rfl
@[simp] theorem State.undefine_watchId (s : State) (x : Extent) (n : Nat) : (s.undefine x n).watchId = s.watchId := rfl
@[simp] theorem State.undefine_badWords (s : State) (x : Extent) (n : Nat) : (s.undefine x n).badWords = s.badWords := rfl
@[simp] theorem State.undefine_dirty (s : State) (x : Extent) (n : Nat) : (s.undefine x n).dirty = s.dirty := rfl
@[simp] theorem State.undefine_regions (s : State) (x : Extent) (n : Nat) : (s.undefine x n).regions = s.regions := rfl
@[simp] theorem State.undefine_parts (s : State) (x : Extent) (n : Nat) : (s.undefine x n).parts = s.parts := rfl
@[simp] theorem State.undefine_links (s : State) (x : Extent) (n : Nat) : (s.undefine x n).links = s.links := rfl
@[simp] theorem State.undefine_stks (s : State) (x : Extent) (n : Nat) : (s.undefine x n).stks = s.stks := rfl
@[simp] theorem State.undefine_hub (s : State) (x : Extent) (n : Nat) : (s.undefine x n).hub = s.hub := rfl
@[simp] theorem State.undefine_out (s : State) (x : Extent) (n : Nat) : (s.undefine x n).out = s.out := rfl
@[simp] theorem State.undefine_pending (s : State) (x : Extent) (n : Nat) : (s.undefine x n).pending = s.pending := rfl

@[simp] theorem State.modRegion_at (s : State) (r : Rgn) (g : Region → Region) :
    (s.modRegion r g).regions[r] = g s.regions[r] := by simp [State.modRegion]
@[simp] theorem State.modPart_at (s : State) (p : Prt) (g : Part → Part) :
    (s.modPart p g).parts[p] = g s.parts[p] := by simp [State.modPart]
@[simp] theorem State.modLink_at (s : State) (l : Lnk) (g : Link → Link) :
    (s.modLink l g).links[l] = g s.links[l] := by simp [State.modLink]
@[simp] theorem State.modStack_at (s : State) (k : Stk) (g : Stack → Stack) :
    (s.modStack k g).stks[k] = g s.stks[k] := by simp [State.modStack]
@[simp] theorem State.modHub_hub (s : State) (g : Hub → Hub) :
    (s.modHub g).hub = g s.hub := rfl
@[simp] theorem State.emit_out (s : State) (o : Out) :
    (s.emit o).out = s.out ++ [o] := rfl
@[simp] theorem State.nextTicket_ticket (s : State) :
    s.nextTicket.ticket = s.ticket + 1 := rfl
@[simp] theorem State.store_mem (s : State) (a : Nat) (bs : List Byte) :
    (s.store a bs).mem = s.mem.writeBytes a bs := rfl
@[simp] theorem State.zeroFill_mem (s : State) (lo hi : Nat) :
    (s.zeroFill lo hi).mem = s.mem.zero lo hi := rfl
@[simp] theorem State.undefine_mem (s : State) (x : Extent) (n : Nat) :
    (s.undefine x n).mem = s.mem.undefine x.lo x.hi n := rfl
theorem State.modRegion_ne (s : State) (r q : Rgn) (g : Region → Region) (h : q ≠ r) :
    (s.modRegion r g).regions[q] = s.regions[q] := by
  have : r.val ≠ q.val := fun e => h (Fin.ext e.symm)
  simp [State.modRegion, this]
theorem State.modPart_ne (s : State) (p q : Prt) (g : Part → Part) (h : q ≠ p) :
    (s.modPart p g).parts[q] = s.parts[q] := by
  have : p.val ≠ q.val := fun e => h (Fin.ext e.symm)
  simp [State.modPart, this]
theorem State.modLink_ne (s : State) (l q : Lnk) (g : Link → Link) (h : q ≠ l) :
    (s.modLink l g).links[q] = s.links[q] := by
  have : l.val ≠ q.val := fun e => h (Fin.ext e.symm)
  simp [State.modLink, this]
theorem State.modStack_ne (s : State) (k q : Stk) (g : Stack → Stack) (h : q ≠ k) :
    (s.modStack k g).stks[q] = s.stks[q] := by
  have : k.val ≠ q.val := fun e => h (Fin.ext e.symm)
  simp [State.modStack, this]

end Sys2Proof.Machine
end

