-- ==== Sys2Proof/Laws/Access.lean ====
section
/-!
SUPPORT. Reading a register field after an update: the field written gives the value cut to its width, every other field
and every update that is no register write leaves it alone.
-/
namespace Sys2Proof.Machine

theorem kget_kset_self (m : KMap) (k v d : Nat) : kget (kset m k v) k d = v := by
  induction m with
  | nil => simp [kset, kget]
  | cons a t ih =>
    obtain ⟨x, w⟩ := a
    simp only [kset]
    split
    · simp [kget]
    · split
      · simp [kget]
      · simp only [kget]; rw [if_neg (by omega)]; exact ih

theorem kget_kset_ne (m : KMap) (k v d n : Nat) (h : n ≠ k) : kget (kset m k v) n d = kget m n d := by
  induction m with
  | nil => simp [kset, kget, h]
  | cons a t ih =>
    obtain ⟨x, w⟩ := a
    simp only [kset]
    split
    · simp [kget, h]
    · split
      · rename_i e; subst e; simp [kget, h]
      · simp only [kget, ih]

theorem kget_kdel_self (m : KMap) (k d : Nat) : kget (kdel m k) k d = d := by
  induction m with
  | nil => rfl
  | cons a t ih =>
    obtain ⟨x, w⟩ := a
    unfold kdel at ih ⊢
    by_cases e : x = k
    · rw [List.filter_cons_of_neg (by simp [e])]
      exact ih
    · have : k ≠ x := fun h => e h.symm
      rw [List.filter_cons_of_pos (by simpa using e)]
      simpa [kget, this] using ih

theorem kget_kdel_ne (m : KMap) (k d n : Nat) (h : n ≠ k) : kget (kdel m k) n d = kget m n d := by
  induction m with
  | nil => rfl
  | cons a t ih =>
    obtain ⟨x, w⟩ := a
    unfold kdel at ih ⊢
    by_cases e : x = k
    · rw [List.filter_cons_of_neg (by simp [e]), ih]
      subst e; simp [kget, h]
    · rw [List.filter_cons_of_pos (by simpa using e)]
      simp only [kget, ih]

theorem kget_kput_self (m : KMap) (k d v : Nat) : kget (kput m k d v) k d = v := by
  unfold kput
  split
  · rename_i e; rw [kget_kdel_self, e]
  · exact kget_kset_self ..

theorem kget_kput_ne (m : KMap) (k d v n e : Nat) (h : n ≠ k) : kget (kput m k d v) n e = kget m n e := by
  unfold kput
  split
  · exact kget_kdel_ne _ _ _ _ h
  · exact kget_kset_ne _ _ _ _ _ h

/-- A field reads as what was put into it, cut to its width. -/
@[simp] theorem State.get_put_self (s : State) (f : Fld) (v i j k : Nat) :
    (s.put f v i j k).get f i j k = v % 2 ^ f.width := kget_kput_self ..

/-- A write of one field leaves every field of another key alone. -/
theorem State.get_put_ne (s : State) (f g : Fld) (v i j k a b c : Nat) (h : g.key a b c ≠ f.key i j k) :
    (s.put f v i j k).get g a b c = s.get g a b c := kget_kput_ne _ _ _ _ _ _ h

/-- A counter after events: it saturates at its largest value (R10). -/
theorem State.get_bump_self (s : State) (f : Fld) (n i j k : Nat) :
    (s.bump f n i j k).get f i j k = min f.max (s.get f i j k + n) := by
  unfold State.bump
  rw [State.get_put_self]
  exact Nat.mod_eq_of_lt (by
    have : 0 < 2 ^ f.width := Nat.two_pow_pos _
    unfold Fld.max; omega)

theorem State.get_bump_ne (s : State) (f g : Fld) (n i j k a b c : Nat) (h : g.key a b c ≠ f.key i j k) :
    (s.bump f n i j k).get g a b c = s.get g a b c := State.get_put_ne _ _ _ _ _ _ _ _ _ _ h

/-- Keys of fields of different homes differ, whatever the indices below 65,536. -/
theorem Fld.key_ne (f g : Fld) (i j k a b c : Nat) (_ : i < 65536) (_ : j < 65536) (_ : k < 65536) (_ : a < 65536)
    (_ : b < 65536) (_ : c < 65536) (h : g.home ≠ f.home) : g.key a b c ≠ f.key i j k := by
  unfold Fld.home at h; unfold Fld.key; omega

/-- Keys of one field differ when an index below 65,536 differs. -/
theorem Fld.key_ne_ix (f : Fld) (i j k a b c : Nat) (_ : i < 65536) (_ : j < 65536) (_ : k < 65536) (_ : a < 65536)
    (_ : b < 65536) (_ : c < 65536) (h : a ≠ i ∨ b ≠ j ∨ c ≠ k) : f.key a b c ≠ f.key i j k := by
  unfold Fld.key; omega

@[simp] theorem State.get_liveAdd (s : State) (f g : Fld) (n i j k a b c : Nat) :
    (s.liveAdd f n i j k).get g a b c = s.get g a b c := rfl
@[simp] theorem State.get_modRegion (s : State) (r : Rgn) (u : Region → Region) (g : Fld) (a b c : Nat) :
    (s.modRegion r u).get g a b c = s.get g a b c := rfl
@[simp] theorem State.get_modPart (s : State) (p : Prt) (u : Part → Part) (g : Fld) (a b c : Nat) :
    (s.modPart p u).get g a b c = s.get g a b c := rfl
@[simp] theorem State.get_modLink (s : State) (l : Lnk) (u : Link → Link) (g : Fld) (a b c : Nat) :
    (s.modLink l u).get g a b c = s.get g a b c := rfl
@[simp] theorem State.get_modStack (s : State) (k : Stk) (u : Stack → Stack) (g : Fld) (a b c : Nat) :
    (s.modStack k u).get g a b c = s.get g a b c := rfl
@[simp] theorem State.get_modHub (s : State) (u : Hub → Hub) (g : Fld) (a b c : Nat) :
    (s.modHub u).get g a b c = s.get g a b c := rfl
@[simp] theorem State.get_emit (s : State) (o : Out) (g : Fld) (a b c : Nat) :
    (s.emit o).get g a b c = s.get g a b c := rfl
@[simp] theorem State.get_nextTicket (s : State) (g : Fld) (a b c : Nat) :
    s.nextTicket.get g a b c = s.get g a b c := rfl
@[simp] theorem State.get_store (s : State) (x : Nat) (bs : List Byte) (g : Fld) (a b c : Nat) :
    (s.store x bs).get g a b c = s.get g a b c := rfl
@[simp] theorem State.get_zeroFill (s : State) (lo hi : Nat) (g : Fld) (a b c : Nat) :
    (s.zeroFill lo hi).get g a b c = s.get g a b c := rfl
@[simp] theorem State.get_undefine (s : State) (x : Extent) (n : Nat) (g : Fld) (a b c : Nat) :
    (s.undefine x n).get g a b c = s.get g a b c := rfl

end Sys2Proof.Machine
end

