-- ==== Sys2Proof/Laws/Issue.lean ====
section
/-!
SUPPORT. Operations that write registers only, as one relation for all other fields (`OnlyRegs`), the update of a
region's queues, and what an issue leaves (`Issued`, R116, R130, R134).
-/
namespace Sys2Proof.Machine

theorem OnlyRegs.refl (s : State) : OnlyRegs s s := ⟨rfl, rfl, rfl, rfl, rfl, rfl, rfl, rfl, rfl, rfl, rfl, rfl, rfl, rfl⟩

theorem OnlyRegs.trans {s t u : State} (a : OnlyRegs s t) (b : OnlyRegs t u) : OnlyRegs s u :=
  ⟨b.now.trans a.now, b.ticket.trans a.ticket, b.live.trans a.live, b.watchId.trans a.watchId, b.mem.trans a.mem,
   b.badWords.trans a.badWords, b.dirty.trans a.dirty, b.regions.trans a.regions, b.parts.trans a.parts,
   b.links.trans a.links, b.stks.trans a.stks, b.hub.trans a.hub, b.out.trans a.out, b.pending.trans a.pending⟩

theorem OnlyRegs.put (s : State) (f : Fld) (v i j k : Nat) : OnlyRegs s (s.put f v i j k) :=
  ⟨rfl, rfl, rfl, rfl, rfl, rfl, rfl, rfl, rfl, rfl, rfl, rfl, rfl, rfl⟩
theorem OnlyRegs.bump (s : State) (f : Fld) (n i j k : Nat) : OnlyRegs s (s.bump f n i j k) := OnlyRegs.put ..
theorem OnlyRegs.clearAt (s : State) (f : Fld) (i : Nat) : OnlyRegs s (s.clearAt f i) :=
  ⟨rfl, rfl, rfl, rfl, rfl, rfl, rfl, rfl, rfl, rfl, rfl, rfl, rfl, rfl⟩
theorem OnlyRegs.clearHome (s : State) (f : Fld) : OnlyRegs s (s.clearHome f) :=
  ⟨rfl, rfl, rfl, rfl, rfl, rfl, rfl, rfl, rfl, rfl, rfl, rfl, rfl, rfl⟩
theorem OnlyRegs.setSeq (s : State) (r : Rgn) (v : Nat) : OnlyRegs s (s.setSeq r v) := OnlyRegs.put ..

theorem OnlyRegs.ite {s a b : State} {c : Prop} [Decidable c] (x : OnlyRegs s a) (y : OnlyRegs s b) :
    OnlyRegs s (if c then a else b) := by split <;> assumption

theorem OnlyRegs.foldl {α : Type} {f : State → α → State} (hf : ∀ s a, OnlyRegs s (f s a)) :
    ∀ (l : List α) (s : State), OnlyRegs s (l.foldl f s)
  | [], s => .refl s
  | a :: t, s => (hf s a).trans (OnlyRegs.foldl hf t _)

/-- Consuming waits writes tokens only (R130). -/
theorem OnlyRegs.consume (s : State) (r : Rgn) (c : Cmd) : OnlyRegs s (s.consume r c) :=
  OnlyRegs.foldl (fun s _ => .ite (.put s ..) (.refl s)) _ _

/-- CLAIMED and INFLIGHT follow the queues (R179, R234). -/
theorem OnlyRegs.syncUnits (s : State) (r : Rgn) : OnlyRegs s (s.syncUnits r) :=
  ((OnlyRegs.foldl (fun s _ => .put s ..) _ _).trans (OnlyRegs.foldl (fun s _ => .put s ..) _ _)).trans
    (OnlyRegs.foldl (fun s _ => .put s ..) _ _)

theorem OnlyRegs.abandonDrain (s : State) (r : Rgn) (e : Entry) : OnlyRegs s (s.abandonDrain r e) :=
  .ite (.put s ..) (.refl s)

/-- A register field read after updates of registers at other homes. -/
theorem State.get_put_home (s : State) (f g : Fld) (v i j k a b c : Nat) (h : f.home ≠ g.home) (ha : a < 65536)
    (hb : b < 65536) (hc : c < 65536) (hi : i < 65536) (hj : j < 65536) (hk : k < 65536) :
    (s.put g v i j k).get f a b c = s.get f a b c := by
  apply State.get_put_ne; apply Fld.key_ne <;> assumption

theorem State.get_bump_home (s : State) (f g : Fld) (v i j k a b c : Nat) (h : f.home ≠ g.home) (ha : a < 65536)
    (hb : b < 65536) (hc : c < 65536) (hi : i < 65536) (hj : j < 65536) (hk : k < 65536) :
    (s.bump g v i j k).get f a b c = s.get f a b c := by apply State.get_put_home <;> assumption

theorem State.get_of_regs {s t : State} (h : t.regs = s.regs) (f : Fld) (i j k : Nat) : t.get f i j k = s.get f i j k := by
  unfold State.get; rw [h]

/-- A field that a fold of writes to another home leaves alone. -/
theorem State.get_foldl_put {f g : Fld} (h : f.home ≠ g.home) {i j k : Nat} (hi : i < 65536) (hj : j < 65536)
    (hk : k < 65536) (v a b : State → Nat → Nat) : ∀ (l : List Nat) (s : State),
    (∀ s k, k ∈ l → a s k < 65536 ∧ b s k < 65536) →
    (l.foldl (fun s k => s.put g (v s k) (a s k) (b s k)) s).get f i j k = s.get f i j k
  | [], _, _ => rfl
  | x :: t, s, ha => by
    rw [List.foldl_cons, State.get_foldl_put h hi hj hk v a b t _ (fun s k m => ha s k (List.mem_cons_of_mem _ m))]
    have := ha s x (List.mem_cons_self ..)
    apply State.get_put_home <;> first | assumption | omega

/-- A change of the queues leaves every register field alone but CLAIMED and INFLIGHT. -/
theorem State.get_syncUnits (s : State) (r : Rgn) (f : Fld) (i j k : Nat) (hi : i < 65536) (hj : j < 65536)
    (hk : k < 65536) (h1 : f.home ≠ SU_STAT.CLAIMED.home) (h2 : f.home ≠ SE_STAT.INFLIGHT.home)
    (h3 : f.home ≠ LNK_ADD_STAGE_LVL.INFLIGHT.home) : (s.syncUnits r).get f i j k = s.get f i j k := by
  have hr := r.isLt
  unfold State.syncUnits
  refine (State.get_foldl_put h3 hi hj hk (fun _ _ => _) (fun _ _ => _) (fun _ _ => 0) _ _ ?_).trans
    ((State.get_foldl_put h2 hi hj hk (fun _ _ => _) (fun _ _ => _) (fun _ _ => 0) _ _ ?_).trans
      (State.get_foldl_put h1 hi hj hk (fun _ _ => _) (fun _ _ => _) (fun _ _ => _) _ _ ?_))
  all_goals (intro s k m; simp at m; omega)

@[simp] theorem State.setCmds_region (s : State) (r : Rgn) (q : List Entry) :
    (s.setCmds r q).regions[r] = { s.regions[r] with cmds := q } := by
  unfold State.setCmds; simp [(OnlyRegs.syncUnits _ r).regions, State.modRegion]

/-- Replacing the queues of a region leaves every other region alone. -/
theorem State.setCmds_ne (s : State) (r p : Rgn) (q : List Entry) (h : p ≠ r) :
    (s.setCmds r q).regions[p] = s.regions[p] := by
  unfold State.setCmds; rw [(OnlyRegs.syncUnits _ r).regions]; exact s.modRegion_ne _ _ _ h

theorem State.get_setCmds (s : State) (r : Rgn) (q : List Entry) (f : Fld) (i j k : Nat) (hi : i < 65536) (hj : j < 65536)
    (hk : k < 65536) (h1 : f.home ≠ SU_STAT.CLAIMED.home) (h2 : f.home ≠ SE_STAT.INFLIGHT.home)
    (h3 : f.home ≠ LNK_ADD_STAGE_LVL.INFLIGHT.home) : (s.setCmds r q).get f i j k = s.get f i j k := by
  unfold State.setCmds; rw [State.get_syncUnits _ _ _ _ _ _ hi hj hk h1 h2 h3]; rfl

theorem State.tok_setCmds (s : State) (r p : Rgn) (q : List Entry) (n : Nat) (h : n < 65536) :
    (s.setCmds r q).tok p n = s.tok p n := by
  unfold State.tok; apply State.get_setCmds <;> first | omega | decide

@[simp] theorem State.setCmds_mem (s : State) (r : Rgn) (q : List Entry) : (s.setCmds r q).mem = s.mem :=
  (OnlyRegs.syncUnits _ r).mem
@[simp] theorem State.setCmds_ticket (s : State) (r : Rgn) (q : List Entry) : (s.setCmds r q).ticket = s.ticket :=
  (OnlyRegs.syncUnits _ r).ticket
@[simp] theorem State.setCmds_parts (s : State) (r : Rgn) (q : List Entry) : (s.setCmds r q).parts = s.parts :=
  (OnlyRegs.syncUnits _ r).parts
@[simp] theorem State.setCmds_links (s : State) (r : Rgn) (q : List Entry) : (s.setCmds r q).links = s.links :=
  (OnlyRegs.syncUnits _ r).links
@[simp] theorem State.setCmds_stks (s : State) (r : Rgn) (q : List Entry) : (s.setCmds r q).stks = s.stks :=
  (OnlyRegs.syncUnits _ r).stks
@[simp] theorem State.setCmds_hub (s : State) (r : Rgn) (q : List Entry) : (s.setCmds r q).hub = s.hub :=
  (OnlyRegs.syncUnits _ r).hub
@[simp] theorem State.setCmds_out (s : State) (r : Rgn) (q : List Entry) : (s.setCmds r q).out = s.out :=
  (OnlyRegs.syncUnits _ r).out
@[simp] theorem State.setCmds_pending (s : State) (r : Rgn) (q : List Entry) : (s.setCmds r q).pending = s.pending :=
  (OnlyRegs.syncUnits _ r).pending

/-- The state that consumes the waits of a command unless they were consumed before. -/
theorem OnlyRegs.consumed (s : State) (r : Rgn) (en : Entry) :
    OnlyRegs s (if en.consumed then s else s.consume r en.cmd) := .ite (.refl s) (.consume s r _)

/-- The issue of a head command that can issue, as one update: waits consumed, a ticket taken, the entry issued. -/
theorem State.issue_of_canIssue {s : State} {r : Rgn} {e op : Nat} {ready : State → Entry → Bool}
    {ranges : Ctx → List (Nat × Nat) × List (Nat × Nat)} {codes : Ctx → List Nat} {p : Prt} {en : Entry}
    (run : Ctx → Effect) (h : CanIssue s r e op ready ranges codes p en) :
    s.issue r e op ready ranges codes run =
      ((if en.consumed then s else s.consume r en.cmd).nextTicket).setCmds r
        (replaceEntry (fun y => y.eng == e && !y.issued) (Sys2Proof.Machine.issuedEntry s r p en ranges run)
          s.regions[r].cmds) := by
  have w : (en.consumed || (s.waitsMet r en.cmd && !s.outranked r e en.cmd)) = true := by
    rcases h.waits with q | ⟨q, q'⟩
    · simp [q]
    · simp [q, q']
  have ps : (if en.consumed then none else lowest ((issueCtx s r p en).sharedCodes (ranges (issueCtx s r p en)).1
      (ranges (issueCtx s r p en)).2 ++ codes (issueCtx s r p en))) = none := by
    rcases h.passes with q | q
    · simp [q]
    · rw [q]; simp
  have sd := h.sound
  unfold State.issue
  simp only [h.part, h.head, h.runs, h.opcode, h.accepts, h.power, h.holds, w, Bool.and_self, beq_self_eq_true, if_true]
  unfold issueCtx at ps sd
  simp only [ps, sd, State.meetBad, List.foldl_nil, List.isEmpty_nil, if_true]
  simp only [Sys2Proof.Machine.issuedEntry, issueCtx, (OnlyRegs.consumed s r en).ticket, (OnlyRegs.consumed s r en).regions]

/-- What the issue of a head command that can issue leaves. -/
theorem State.issued_of_canIssue {s : State} {r : Rgn} {e op : Nat} {ready : State → Entry → Bool}
    {ranges : Ctx → List (Nat × Nat) × List (Nat × Nat)} {codes : Ctx → List Nat} {p : Prt} {en : Entry}
    (run : Ctx → Effect) (h : CanIssue s r e op ready ranges codes p en) :
    Issued s (s.issue r e op ready ranges codes run) r e en (Sys2Proof.Machine.issuedEntry s r p en ranges run) := by
  rw [State.issue_of_canIssue run h]
  have o := OnlyRegs.consumed s r en
  exact ⟨congrArg Region.cmds (State.setCmds_region _ _ _), fun n hn => State.tok_setCmds _ _ _ _ _ hn,
    fun q hq => (State.setCmds_ne _ _ _ _ hq).trans (by rw [State.nextTicket_regions, o.regions]),
    by simp [o.mem], by simp [o.hub], by simp [o.links], by simp [o.out]⟩

end Sys2Proof.Machine
end

