-- ==== Sys2Proof/Laws/Memory.lean ====
section
/-!
SUPPORT. The laws of memory: a read after a write, a write leaves every other byte alone, and every memory operation
keeps the canonical form `Memory.wf`.
-/
namespace Sys2Proof.Machine

theorem cellAt_cellSet_self (cs : List Host.Cell) (a : Nat) (b : Byte) : cellAt (cellSet cs a b) a = some b := by
  induction cs with
  | nil => simp [cellSet, cellAt]
  | cons c t ih =>
    obtain ⟨k, x⟩ := c
    simp only [cellSet]
    split
    · simp [cellAt]
    · split
      · simp [cellAt]
      · simp only [cellAt]; rw [if_neg (by omega)]; exact ih

theorem cellAt_cellSet_ne (cs : List Host.Cell) (a n : Nat) (b : Byte) (h : n ≠ a) :
    cellAt (cellSet cs a b) n = cellAt cs n := by
  induction cs with
  | nil => simp [cellSet, cellAt, h]
  | cons c t ih =>
    obtain ⟨k, x⟩ := c
    simp only [cellSet]
    split
    · simp [cellAt, h]
    · split
      · rename_i e; subst e; simp [cellAt, h]
      · simp only [cellAt, ih]

theorem cellAt_outside (cs : List Host.Cell) (lo hi n : Nat) :
    cellAt (cellsOutside cs lo hi) n = if n < lo ∨ hi ≤ n then cellAt cs n else none := by
  induction cs with
  | nil => simp [cellsOutside, cellAt]
  | cons c t ih =>
    obtain ⟨k, x⟩ := c
    unfold cellsOutside at ih ⊢
    by_cases hk : k < lo ∨ hi ≤ k
    · rw [List.filter_cons_of_pos (by simpa using hk)]
      simp only [cellAt, ih]
      by_cases e : n = k
      · subst e; simp [hk]
      · simp [e]
    · rw [List.filter_cons_of_neg (by simpa using hk), ih]
      simp only [cellAt]
      by_cases e : n = k
      · subst e; simp [hk]
      · simp [e]

@[simp] theorem Memory.write_layers (m : Memory) (a : Nat) (b : Byte) : (m.write a b).layers = m.layers := rfl
@[simp] theorem Memory.unlisted_write (m : Memory) (a n : Nat) (b : Byte) :
    (m.write a b).unlisted n = m.unlisted n := rfl
@[simp] theorem Memory.zeroAt_write (m : Memory) (a n : Nat) (b : Byte) :
    (m.write a b).zeroAt n = m.zeroAt n := rfl

theorem Memory.unlisted_of_zeroAt (m : Memory) (a : Nat) (h : m.zeroAt a = true) : m.unlisted a = 0 := by
  unfold Memory.zeroAt at h
  unfold Memory.unlisted
  split at h
  · rename_i y e
    rw [e]
    obtain ⟨lo, hi, f⟩ := y
    cases f with
    | none => rfl
    | some t => simp at h
  · simp at h

/-- A byte reads as what was written to it. -/
@[simp] theorem Memory.read_write_self (m : Memory) (a : Nat) (b : Byte) : (m.write a b).read a = b := by
  unfold Memory.read
  rw [Memory.unlisted_write]
  unfold Memory.write
  simp only
  split
  · rename_i h
    simp only [Bool.and_eq_true, beq_iff_eq] at h
    rw [cellAt_outside]
    rw [if_neg (by omega), m.unlisted_of_zeroAt a h.1, h.2]; rfl
  · rw [cellAt_cellSet_self]; rfl

/-- A write leaves every other byte alone. -/
theorem Memory.read_write_ne (m : Memory) (a n : Nat) (b : Byte) (h : n ≠ a) : (m.write a b).read n = m.read n := by
  unfold Memory.read
  rw [Memory.unlisted_write]
  unfold Memory.write
  simp only
  split
  · rw [cellAt_outside, if_pos (by omega)]
  · rw [cellAt_cellSet_ne _ _ _ _ h]

/-- A run of written bytes leaves every byte outside it alone. -/
theorem Memory.read_writeBytes_ne (m : Memory) (a n : Nat) (bs : List Byte) (h : n < a ∨ a + bs.length ≤ n) :
    (m.writeBytes a bs).read n = m.read n := by
  induction bs generalizing m a with
  | nil => rfl
  | cons b t ih =>
    simp only [List.length_cons] at h
    rw [Memory.writeBytes, ih _ _ (by omega), Memory.read_write_ne _ _ _ _ (by omega)]

/-- A run of written bytes reads as written. -/
theorem Memory.read_writeBytes_at (m : Memory) (a i : Nat) (bs : List Byte) (h : i < bs.length) :
    (m.writeBytes a bs).read (a + i) = bs[i] := by
  induction bs generalizing m a i with
  | nil => simp at h
  | cons b t ih =>
    rw [Memory.writeBytes]
    cases i with
    | zero => rw [Memory.read_writeBytes_ne _ _ _ _ (by omega)]; simp
    | succ j =>
      have := ih (m.write a b) (a + 1) j (by simpa using h)
      rw [show a + (j + 1) = a + 1 + j by omega, this]; rfl

theorem cellsRising_mono (lo hi : Nat) (h : lo ≤ hi) (cs : List Host.Cell) (w : cellsRising hi cs = true) :
    cellsRising lo cs = true := by
  cases cs with
  | nil => rfl
  | cons c t =>
    obtain ⟨k, b⟩ := c
    simp only [cellsRising, Bool.and_eq_true, decide_eq_true_eq] at w ⊢
    exact ⟨by omega, w.2⟩

theorem cellsRising_filter (lo : Nat) (f : Host.Cell → Bool) (cs : List Host.Cell) (w : cellsRising lo cs = true) :
    cellsRising lo (cs.filter f) = true := by
  induction cs generalizing lo with
  | nil => rfl
  | cons c t ih =>
    obtain ⟨k, b⟩ := c
    simp only [cellsRising, Bool.and_eq_true, decide_eq_true_eq] at w
    by_cases h : f (k, b) = true
    · rw [List.filter_cons_of_pos h]
      simp only [cellsRising, Bool.and_eq_true, decide_eq_true_eq]
      exact ⟨w.1, ih _ w.2⟩
    · rw [List.filter_cons_of_neg h]
      exact cellsRising_mono _ _ (by omega) _ (ih _ w.2)

theorem cellsRising_cellSet (lo a : Nat) (b : Byte) (cs : List Host.Cell) (h : lo ≤ a) (w : cellsRising lo cs = true) :
    cellsRising lo (cellSet cs a b) = true := by
  induction cs generalizing lo with
  | nil => simp [cellSet, cellsRising, h]
  | cons c t ih =>
    obtain ⟨k, x⟩ := c
    simp only [cellsRising, Bool.and_eq_true, decide_eq_true_eq] at w
    simp only [cellSet]
    split
    · simp only [cellsRising, Bool.and_eq_true, decide_eq_true_eq]
      exact ⟨h, by omega, w.2⟩
    · split
      · rename_i e; subst e
        simp only [cellsRising, Bool.and_eq_true, decide_eq_true_eq]
        exact ⟨w.1, w.2⟩
      · simp only [cellsRising, Bool.and_eq_true, decide_eq_true_eq]
        exact ⟨w.1, ih _ (by omega) w.2⟩

theorem mem_cellSet (cs : List Host.Cell) (a : Nat) (b : Byte) (c : Host.Cell) (h : c ∈ cellSet cs a b) :
    c = (a, b) ∨ c ∈ cs := by
  induction cs with
  | nil => simp [cellSet] at h; exact Or.inl h
  | cons d t ih =>
    obtain ⟨k, x⟩ := d
    simp only [cellSet] at h
    split at h
    · simpa using h
    · split at h
      · simp only [List.mem_cons] at h ⊢
        rcases h with h | h
        · exact Or.inl h
        · exact Or.inr (Or.inr h)
      · simp only [List.mem_cons] at h ⊢
        rcases h with h | h
        · exact Or.inr (Or.inl h)
        · rcases ih h with h | h
          · exact Or.inl h
          · exact Or.inr (Or.inr h)

theorem Memory.wf_iff (m : Memory) : m.wf = true ↔
    cellsRising 0 m.cells = true ∧ ∀ c ∈ m.cells, ¬(m.zeroAt c.1 = true ∧ c.2 = 0) := by
  unfold Memory.wf
  rw [Bool.and_eq_true, List.all_eq_true]
  refine and_congr_right (fun _ => forall₂_congr (fun c _ => ?_))
  cases m.zeroAt c.1 <;> simp

/-- A write keeps the canonical form. -/
theorem Memory.wf_write (m : Memory) (a : Nat) (b : Byte) (h : m.wf = true) : (m.write a b).wf = true := by
  rw [Memory.wf_iff] at h ⊢
  simp only [Memory.zeroAt_write]
  unfold Memory.write
  simp only
  split
  · exact ⟨cellsRising_filter _ _ _ h.1, fun c hc => h.2 c (List.mem_filter.1 hc).1⟩
  · rename_i hz
    refine ⟨cellsRising_cellSet _ _ _ _ (by omega) h.1, fun c hc => ?_⟩
    rcases mem_cellSet _ _ _ _ hc with e | hc
    · subst e; simpa using hz
    · exact h.2 c hc

/-- Writing a run of bytes keeps the canonical form. -/
theorem Memory.wf_writeBytes (m : Memory) (a : Nat) (bs : List Byte) (h : m.wf = true) : (m.writeBytes a bs).wf = true := by
  induction bs generalizing m a with
  | nil => exact h
  | cons b t ih => exact ih _ _ (m.wf_write a b h)

theorem layerOf_filter (ls : List Layer) (f : Layer → Bool) (a : Nat)
    (h : ∀ y ∈ ls, y.lo ≤ a → a < y.hi → f y = true) : layerOf (ls.filter f) a = layerOf ls a := by
  induction ls with
  | nil => rfl
  | cons y t ih =>
    have iht := ih (fun z hz => h z (List.mem_cons_of_mem _ hz))
    by_cases c : y.lo ≤ a ∧ a < y.hi
    · rw [List.filter_cons_of_pos (h y (List.mem_cons_self ..) c.1 c.2)]
      simp [layerOf, c]
    · by_cases g : f y = true
      · rw [List.filter_cons_of_pos g]; simp only [layerOf, if_neg c, iht]
      · rw [List.filter_cons_of_neg g]; simp only [layerOf, if_neg c, iht]

/-- A new layer changes what unlisted addresses outside it read as nowhere. -/
theorem Memory.layerOf_layer (m : Memory) (lo hi a : Nat) (free : Option Nat) (h : a < lo ∨ hi ≤ a) :
    layerOf (m.layer lo hi free).layers a = layerOf m.layers a := by
  unfold Memory.layer
  simp only [layerOf]
  rw [if_neg (by omega)]
  exact layerOf_filter _ _ _ (fun y _ h1 h2 => by simp; omega)

theorem Memory.zeroAt_congr (m n : Memory) (a : Nat) (h : layerOf m.layers a = layerOf n.layers a) :
    m.zeroAt a = n.zeroAt a := by unfold Memory.zeroAt; rw [h]

theorem Memory.unlisted_congr (m n : Memory) (a : Nat) (h : layerOf m.layers a = layerOf n.layers a) :
    m.unlisted a = n.unlisted a := by unfold Memory.unlisted; rw [h]

/-- A fill or an undefining leaves every byte outside its range alone. -/
theorem Memory.read_layer_ne (m : Memory) (lo hi a : Nat) (free : Option Nat) (h : a < lo ∨ hi ≤ a) :
    (m.layer lo hi free).read a = m.read a := by
  unfold Memory.read
  rw [Memory.unlisted_congr _ _ _ (m.layerOf_layer lo hi a free h)]
  simp only [Memory.layer]
  rw [cellAt_outside, if_pos h]

/-- A zero fill reads as zero. -/
theorem Memory.read_zero_in (m : Memory) (lo hi a : Nat) (h : lo ≤ a ∧ a < hi) : (m.zero lo hi).read a = 0 := by
  unfold Memory.read Memory.zero Memory.layer
  simp only
  rw [cellAt_outside, if_neg (by omega)]
  simp [Memory.unlisted, layerOf, h]

/-- A fill and an undefining keep the canonical form. -/
theorem Memory.wf_layer (m : Memory) (lo hi : Nat) (free : Option Nat) (h : m.wf = true) :
    (m.layer lo hi free).wf = true := by
  rw [Memory.wf_iff] at h ⊢
  refine ⟨cellsRising_filter _ _ _ h.1, fun c hc => ?_⟩
  have hc' : c ∈ cellsOutside m.cells lo hi := hc
  unfold cellsOutside at hc'
  rw [List.mem_filter] at hc'
  have ho : c.1 < lo ∨ hi ≤ c.1 := by simpa using hc'.2
  rw [Memory.zeroAt_congr _ _ _ (m.layerOf_layer lo hi c.1 free ho)]
  exact h.2 c hc'.1

theorem Memory.wf_zero (m : Memory) (lo hi : Nat) (h : m.wf = true) : (m.zero lo hi).wf = true := m.wf_layer _ _ _ h
theorem Memory.wf_undefine (m : Memory) (lo hi t : Nat) (h : m.wf = true) : (m.undefine lo hi t).wf = true :=
  m.wf_layer _ _ _ h

/-- A slice keeps the canonical form. -/
theorem Memory.wf_slice (m : Memory) (lo hi : Nat) (h : m.wf = true) : (m.slice lo hi).wf = true := by
  rw [Memory.wf_iff] at h ⊢
  refine ⟨cellsRising_filter _ _ _ h.1, fun c hc => ?_⟩
  have hc' : c ∈ m.cells.filter (fun c => decide (lo ≤ c.1) && decide (c.1 < hi)) := hc
  rw [List.mem_filter] at hc'
  have hr : lo ≤ c.1 ∧ c.1 < hi := by simpa using hc'.2
  rw [Memory.zeroAt_congr (m.slice lo hi) m c.1 (layerOf_filter _ _ _ (fun y _ h1 h2 => by simp; omega))]
  exact h.2 c hc'.1

theorem layerOf_append_cut (img rest : List Layer) (lo hi a : Nat) (h : a < lo ∨ hi ≤ a) :
    layerOf (img.map (·.cut lo hi) ++ rest) a = layerOf rest a := by
  induction img with
  | nil => rfl
  | cons y t ih =>
    simp only [List.map_cons, List.cons_append, layerOf, Layer.cut]
    rw [if_neg (by omega)]; exact ih

/-- Putting a slice back keeps the canonical form. -/
theorem Memory.wf_restore (m img : Memory) (lo hi : Nat) (h : m.wf = true) : (m.restore img lo hi).wf = true := by
  unfold Memory.restore
  simp only
  have base : Memory.wf { m with cells := cellsOutside m.cells lo hi
                                 layers := img.layers.map (·.cut lo hi) ++ m.layers } = true := by
    rw [Memory.wf_iff] at h ⊢
    refine ⟨cellsRising_filter _ _ _ h.1, fun c hc => ?_⟩
    have hc' : c ∈ cellsOutside m.cells lo hi := hc
    unfold cellsOutside at hc'
    rw [List.mem_filter] at hc'
    have ho : c.1 < lo ∨ hi ≤ c.1 := by simpa using hc'.2
    rw [Memory.zeroAt_congr _ m c.1 (layerOf_append_cut _ _ _ _ _ ho)]
    exact h.2 c hc'.1
  generalize hm : ({ m with cells := cellsOutside m.cells lo hi
                            layers := img.layers.map (·.cut lo hi) ++ m.layers } : Memory) = n at base
  clear hm
  induction img.cells generalizing n with
  | nil => exact base
  | cons c t ih => exact ih _ (n.wf_write c.1 c.2 base)

/-- The memory after reset has the canonical form. -/
theorem State.reset_mem_wf : State.reset.mem.wf = true := rfl

end Sys2Proof.Machine
end

