-- ==== Sys2Proof/Laws/Kept.lean ====
section
/-!
SUPPORT. What every operation of the model keeps (`Kept`), one lemma per operation: the queue is left to the step, a free
value once used is not used again, nothing sent is taken back, memory keeps its canonical form.
-/
namespace Sys2Proof.Machine

theorem Kept.refl (s : State) : Kept s s := ⟨rfl, Nat.le_refl _, List.prefix_refl _, id⟩

theorem Kept.trans {s t u : State} (a : Kept s t) (b : Kept t u) : Kept s u :=
  ⟨b.queue.trans a.queue, Nat.le_trans a.ticket b.ticket, a.sent.trans b.sent, fun h => b.form (a.form h)⟩

/-- An update of other fields keeps what was kept. -/
theorem Kept.same {s0 s t : State} (h : Kept s0 s) (a : t.pending = s.pending) (b : t.ticket = s.ticket)
    (c : t.out = s.out) (d : t.mem = s.mem) : Kept s0 t :=
  ⟨a.trans h.queue, b ▸ h.ticket, c ▸ h.sent, fun w => d ▸ h.form w⟩

theorem Kept.ite {s0 a b : State} {c : Prop} [Decidable c] (x : Kept s0 a) (y : Kept s0 b) :
    Kept s0 (if c then a else b) := by split <;> assumption

theorem Kept.dite {s0 : State} {c : Prop} [Decidable c] {a : c → State} {b : ¬ c → State} (x : ∀ h, Kept s0 (a h))
    (y : ∀ h, Kept s0 (b h)) : Kept s0 (if h : c then a h else b h) := by split <;> simp only [x, y]

theorem Kept.foldl {α : Type} {s0 : State} {f : State → α → State} (hf : ∀ s a, Kept s0 s → Kept s0 (f s a)) :
    ∀ (l : List α) {s : State}, Kept s0 s → Kept s0 (l.foldl f s)
  | [], _, h => h
  | a :: t, _, h => Kept.foldl hf t (hf _ a h)

theorem Kept.mem {s0 s t : State} (h : Kept s0 s) (a : t.pending = s.pending) (b : t.ticket = s.ticket)
    (c : t.out = s.out) (d : s.mem.wf = true → t.mem.wf = true) : Kept s0 t :=
  ⟨a.trans h.queue, b ▸ h.ticket, c ▸ h.sent, fun w => d (h.form w)⟩

theorem Kept.put {s0 s : State} (h : Kept s0 s) (f : Fld) (v i j k : Nat) : Kept s0 (s.put f v i j k) :=
  h.same rfl rfl rfl rfl
theorem Kept.bump {s0 s : State} (h : Kept s0 s) (f : Fld) (n i j k : Nat) : Kept s0 (s.bump f n i j k) :=
  h.same rfl rfl rfl rfl
theorem Kept.liveAdd {s0 s : State} (h : Kept s0 s) (f : Fld) (n i j k : Nat) : Kept s0 (s.liveAdd f n i j k) :=
  h.same rfl rfl rfl rfl
theorem Kept.latch {s0 s : State} (h : Kept s0 s) : Kept s0 s.latch := h.same rfl rfl rfl rfl
theorem Kept.clearHome {s0 s : State} (h : Kept s0 s) (f : Fld) : Kept s0 (s.clearHome f) := h.same rfl rfl rfl rfl
theorem Kept.clearAt {s0 s : State} (h : Kept s0 s) (f : Fld) (i : Nat) : Kept s0 (s.clearAt f i) := h.same rfl rfl rfl rfl
theorem Kept.modRegion {s0 s : State} (h : Kept s0 s) (r : Rgn) (f : Region → Region) : Kept s0 (s.modRegion r f) :=
  h.same rfl rfl rfl rfl
theorem Kept.modPart {s0 s : State} (h : Kept s0 s) (p : Prt) (f : Part → Part) : Kept s0 (s.modPart p f) :=
  h.same rfl rfl rfl rfl
theorem Kept.modLink {s0 s : State} (h : Kept s0 s) (l : Lnk) (f : Link → Link) : Kept s0 (s.modLink l f) :=
  h.same rfl rfl rfl rfl
theorem Kept.modStack {s0 s : State} (h : Kept s0 s) (k : Stk) (f : Stack → Stack) : Kept s0 (s.modStack k f) :=
  h.same rfl rfl rfl rfl
theorem Kept.modHub {s0 s : State} (h : Kept s0 s) (f : Hub → Hub) : Kept s0 (s.modHub f) := h.same rfl rfl rfl rfl
theorem Kept.emit {s0 s : State} (h : Kept s0 s) (o : Out) : Kept s0 (s.emit o) :=
  ⟨h.queue, h.ticket, h.sent.trans (List.prefix_append _ _), h.form⟩
/-- Tickets go up. -/
theorem Kept.later {s0 s : State} (h : Kept s0 s) (n : Nat) : Kept s0 { s with ticket := s.ticket + n } :=
  ⟨h.queue, Nat.le_add_right_of_le h.ticket, h.sent, h.form⟩
theorem Kept.nextTicket {s0 s : State} (h : Kept s0 s) : Kept s0 s.nextTicket := h.later 1
theorem Kept.store {s0 s : State} (h : Kept s0 s) (a : Nat) (bs : List Byte) : Kept s0 (s.store a bs) :=
  h.mem rfl rfl rfl (s.mem.wf_writeBytes a bs)
theorem Kept.zeroFill {s0 s : State} (h : Kept s0 s) (lo hi : Nat) : Kept s0 (s.zeroFill lo hi) :=
  h.mem rfl rfl rfl (s.mem.wf_zero lo hi)
theorem Kept.undefine {s0 s : State} (h : Kept s0 s) (x : Extent) (n : Nat) : Kept s0 (s.undefine x n) :=
  h.mem rfl rfl rfl (s.mem.wf_undefine x.lo x.hi n)

/-- A record update of fields that are not kept, tickets going up. -/
theorem Kept.record {s0 s : State} (h : Kept s0 s) (now : Nat) (n : Nat) (regs live : KMap) (watchId : KMap)
    (badWords dirty : List Nat) (regions : Vector Region 4) (parts : Vector Part 4) (links : Vector Link 32)
    (stks : Vector Stack 24) (hub : Hub) :
    Kept s0 ⟨now, s.ticket + n, regs, live, watchId, s.mem, badWords, dirty, regions, parts, links, stks, hub, s.out,
      s.pending⟩ :=
  ⟨h.queue, Nat.le_add_right_of_le h.ticket, h.sent, h.form⟩

theorem Kept.record0 {s0 s : State} (h : Kept s0 s) (now : Nat) (regs live : KMap) (watchId : KMap)
    (badWords dirty : List Nat) (regions : Vector Region 4) (parts : Vector Part 4) (links : Vector Link 32)
    (stks : Vector Stack 24) (hub : Hub) :
    Kept s0 ⟨now, s.ticket, regs, live, watchId, s.mem, badWords, dirty, regions, parts, links, stks, hub, s.out,
      s.pending⟩ :=
  h.record now 0 ..

theorem Kept.recordZero {s0 s : State} (h : Kept s0 s) (lo hi : Nat) : Kept s0 { s with mem := s.mem.zero lo hi } :=
  h.mem rfl rfl rfl (s.mem.wf_zero lo hi)

theorem Kept.setSeq {s0 s : State} (h : Kept s0 s) (r : Rgn) (v : Nat) : Kept s0 (State.setSeq s r v) := by
  unfold State.setSeq
  with_reducible
    repeat' first
      | assumption | apply Kept.put

theorem Kept.consume {s0 s : State} (h : Kept s0 s) (r : Rgn) (c : Cmd) : Kept s0 (State.consume s r c) := by
  unfold State.consume
  with_reducible
    repeat' first
      | assumption | apply Kept.put | (apply Kept.foldl; intro _ _ _) | split

theorem Kept.syncUnits {s0 s : State} (h : Kept s0 s) (r : Rgn) : Kept s0 (State.syncUnits s r) := by
  unfold State.syncUnits
  with_reducible
    repeat' first
      | assumption | apply Kept.put | (apply Kept.foldl; intro _ _ _)

theorem Kept.setCmds {s0 s : State} (h : Kept s0 s) (r : Rgn) (q : List Entry) : Kept s0 (State.setCmds s r q) :=
    by
  unfold State.setCmds
  with_reducible
    repeat' first
      | assumption | apply Kept.modRegion | apply Kept.syncUnits

theorem Kept.undefineAll {s0 s : State} (h : Kept s0 s) (xs : List Extent) : Kept s0 (State.undefineAll s xs) :=
    by
  unfold State.undefineAll
  with_reducible
    repeat' first
      | assumption | apply Kept.undefine | apply Kept.nextTicket | (apply Kept.foldl; intro _ _ _)

theorem Kept.killWhere {s0 s : State} (h : Kept s0 s) (r : Rgn) (f : Entry → Bool) : Kept s0 (State.killWhere s r
    f) := by
  unfold State.killWhere
  with_reducible
    repeat' first
      | assumption | apply Kept.undefineAll | apply Kept.bump | apply Kept.setCmds

theorem Kept.killAll {s0 s : State} (h : Kept s0 s) (r : Rgn) : Kept s0 (State.killAll s r) := by
  unfold State.killAll
  with_reducible
    repeat' first
      | assumption | apply Kept.killWhere

theorem Kept.regionFault {s0 s : State} (h : Kept s0 s) (r : Rgn) (code engine slot ord : Nat) : Kept s0
    (State.regionFault s r code engine slot ord) := by
  unfold State.regionFault
  with_reducible
    repeat' first
      | assumption | apply Kept.put | apply Kept.setSeq | apply Kept.killAll | split

theorem Kept.addTok {s0 s z : State} {r : Rgn} {t n : Nat} (h : Kept s0 s) (e : s.addTok r t n = some z) :
    Kept s0 z := by
  unfold State.addTok at e
  split at e
  · cases e
  · cases e; exact h.put ..

theorem Kept.signal {s0 s : State} (h : Kept s0 s) (r : Rgn) (c : Cmd) (slot ord : Nat) : Kept s0 (State.signal s
    r c slot ord) := by
  unfold State.signal
  with_reducible
    repeat' first
      | assumption | apply Kept.regionFault | (refine Kept.addTok ?_ (by assumption)) | split

theorem Kept.abandonDrain {s0 s : State} (h : Kept s0 s) (r : Rgn) (e : Entry) : Kept s0 (State.abandonDrain s r
    e) := by
  unfold State.abandonDrain
  with_reducible
    repeat' first
      | assumption | apply Kept.put | split

theorem Kept.tearRegion {s0 s : State} (h : Kept s0 s) (r : Rgn) : Kept s0 (State.tearRegion s r) := by
  unfold State.tearRegion
  with_reducible
    repeat' first
      | assumption | apply Kept.killAll | apply Kept.abandonDrain | apply Kept.bump | apply Kept.undefineAll
      | apply Kept.setCmds | apply Kept.modRegion | apply Kept.clearAt | (apply Kept.foldl; intro _ _ _) | split

theorem Kept.returnCredit {s0 s : State} (h : Kept s0 s) (buffer : Nat) : Kept s0 (State.returnCredit s buffer) :=
    by
  unfold State.returnCredit
  with_reducible
    repeat' first
      | assumption | apply Kept.modLink | split

theorem Kept.stageLevel {s0 s : State} (h : Kept s0 s) (l : Lnk) : Kept s0 (State.stageLevel s l) := by
  unfold State.stageLevel
  with_reducible
    repeat' first
      | assumption | apply Kept.put

theorem Kept.dropTag {s0 s : State} (h : Kept s0 s) (tag : Nat) : Kept s0 (State.dropTag s tag) := by
  unfold State.dropTag
  with_reducible
    repeat' first
      | assumption | apply Kept.modLink | apply Kept.returnCredit | apply Kept.put | (apply Kept.foldl; intro _ _ _)

theorem Kept.setMe {s0 s : State} (h : Kept s0 s) (r m v : Nat) : Kept s0 (State.setMe s r m v) := by
  unfold State.setMe
  with_reducible
    repeat' first
      | assumption | apply Kept.put

theorem Kept.beginTeardown {s0 s : State} (h : Kept s0 s) (p : Prt) (cause : Nat) : Kept s0 (State.beginTeardown s
    p cause) := by
  unfold State.beginTeardown
  with_reducible
    repeat' first
      | assumption | apply Kept.modPart | apply Kept.put | apply Kept.bump | apply Kept.tearRegion
      | apply Kept.dropTag | apply Kept.modHub | apply Kept.emit | apply Kept.ite | apply Kept.ite
      | (apply Kept.foldl; intro _ _ _)

theorem Kept.discardTorn {s0 s : State} (h : Kept s0 s) (tag : Nat) : Kept s0 (State.discardTorn s tag) := by
  unfold State.discardTorn
  with_reducible
    repeat' first
      | assumption | apply Kept.bump | split

theorem Kept.endTeardown {s0 s : State} (h : Kept s0 s) (p : Prt) : Kept s0 (State.endTeardown s p) := by
  unfold State.endTeardown
  with_reducible
    repeat' first
      | assumption | apply Kept.zeroFill | apply Kept.put | apply Kept.setSeq | (apply Kept.foldl; intro _ _ _)
      | split

theorem Kept.meetBad {s0 s : State} (h : Kept s0 s) (ws : List Nat) : Kept s0 (State.meetBad s ws) := by
  unfold State.meetBad
  with_reducible
    repeat' first
      | assumption | apply Kept.bump | apply Kept.put | (apply Kept.foldl; intro _ _ _)

theorem Kept.spoilWord {s0 s : State} (h : Kept s0 s) (word : Nat) : Kept s0 (State.spoilWord s word) := by
  unfold State.spoilWord
  with_reducible
    repeat' first
      | assumption | apply Kept.modHub | apply Kept.meetBad | apply Kept.ite | split | apply Kept.record0

theorem Kept.refuseStray {s0 s : State} (h : Kept s0 s) (x : Ctx) : Kept s0 (State.refuseStray s x) := by
  unfold State.refuseStray
  with_reducible
    repeat' first
      | assumption | apply Kept.regionFault | apply Kept.ite | split

theorem Kept.issue {s0 s : State} (h : Kept s0 s) (r : Rgn) (e op : Nat) (ready : State → Entry → Bool) (ranges :
    Ctx → List (Nat × Nat) × List (Nat × Nat)) (codes : Ctx → List Nat) (run : Ctx → Effect) : Kept s0 (State.issue s
    r e op ready ranges codes run) := by
  unfold State.issue
  try dsimp only
  with_reducible
    repeat' first
      | assumption | apply Kept.regionFault | apply Kept.consume | apply Kept.meetBad | apply Kept.nextTicket
      | apply Kept.setCmds | apply Kept.refuseStray | split

theorem Kept.putEntry {s0 s : State} (h : Kept s0 s) (r : Rgn) (e : Entry) : Kept s0 (State.putEntry s r e) := by
  unfold State.putEntry
  with_reducible
    repeat' first
      | assumption | apply Kept.setCmds

theorem Kept.editIssued {s0 s : State} (h : Kept s0 s) (r : Rgn) (e ticket : Nat) (f : Entry → Entry) : Kept s0
    (State.editIssued s r e ticket f) := by
  unfold State.editIssued
  with_reducible
    repeat' first
      | assumption | apply Kept.setCmds

theorem Kept.checkBlock {s0 s : State} (h : Kept s0 s) (r : Rgn) (e ticket : Nat) (x : EngCheck) : Kept s0
    (State.checkBlock s r e ticket x) := by
  unfold State.checkBlock
  try dsimp only
  with_reducible
    repeat' first
      | assumption | apply Kept.bump | apply Kept.editIssued | apply Kept.ite | split

theorem Kept.checkStack {s0 s : State} (h : Kept s0 s) (k : Stk) (e ticket : Nat) (x : EngCheck) : Kept s0
    (State.checkStack s k e ticket x) := by
  unfold State.checkStack
  try dsimp only
  with_reducible
    repeat' first
      | assumption | apply Kept.spoilWord | apply Kept.editIssued | apply Kept.checkBlock | apply Kept.ite
      | (apply Kept.foldl; intro _ _ _) | split

theorem Kept.watched {s0 s : State} (h : Kept s0 s) (tensorId : Nat) (w : Watch) : Kept s0 (State.watched s
    tensorId w) := by
  unfold State.watched
  with_reducible
    repeat' first
      | assumption | apply Kept.liveAdd | split

theorem Kept.flipPair {s0 s : State} (h : Kept s0 s) (k p step : Nat) : Kept s0 (State.flipPair s k p step) := by
  unfold State.flipPair
  with_reducible
    repeat' first
      | assumption | apply Kept.put | apply Kept.modHub

theorem Kept.post {s0 s : State} (h : Kept s0 s) (r : Rgn) (q : Post) : Kept s0 (s.post r q) := by
  cases q <;> unfold State.post <;> dsimp only
  all_goals
  with_reducible
    repeat' first
      | apply Kept.store | apply Kept.zeroFill | apply Kept.undefine | apply Kept.modRegion | apply Kept.watched
      | apply Kept.bump | apply Kept.flipPair | exact h.same rfl rfl rfl rfl | split

theorem Kept.postAll {s0 : State} (r : Rgn) : ∀ (l : List Post) {s : State}, Kept s0 s → Kept s0 (s.postAll r l)
  | [], _, h => h
  | q :: t, _, h => Kept.postAll r t (h.post r q)

theorem Kept.takeHedge {s0 : State} (p : Prt) : ∀ (l : List (Nat × Nat × Nat)) {s : State}, Kept s0 s →
    Kept s0 (s.takeHedge p l).1
  | [], _, h => h
  | (c, n, w) :: t, s, h => by
    unfold State.takeHedge
    dsimp only
    repeat' first
      | with_reducible exact h
      | with_reducible assumption
      | with_reducible apply Kept.takeHedge
      | with_reducible apply Kept.modHub
      | with_reducible apply Kept.liveAdd
      | with_reducible apply Kept.ite
      | with_reducible apply Kept.dite
      | split

theorem Kept.commitEntry {s0 s : State} (h : Kept s0 s) (r : Rgn) (p : Prt) (e : Entry) (q : List Entry) : Kept s0
    (State.commitEntry s r p e q) := by
  unfold State.commitEntry
  with_reducible
    repeat' first
      | assumption | apply Kept.setCmds | apply Kept.modRegion | apply Kept.undefineAll | apply Kept.bump
      | apply Kept.postAll | apply Kept.beginTeardown | apply Kept.signal | apply Kept.ite | apply Kept.ite
      | apply Kept.record0

theorem Kept.leaveService {s0 s : State} (h : Kept s0 s) (r : Rgn) (m e ticket : Nat) : Kept s0
    (State.leaveService s r m e ticket) := by
  unfold State.leaveService
  with_reducible
    repeat' first
      | assumption | apply Kept.put | apply Kept.killWhere | apply Kept.editIssued | apply Kept.setMe

theorem Kept.mismatch {s0 s : State} (h : Kept s0 s) (r : Rgn) (m : Nat) (col : BitVec 7) : Kept s0
    (State.mismatch s r m col) := by
  unfold State.mismatch
  with_reducible
    repeat' first
      | assumption | apply Kept.bump | apply Kept.put

theorem Kept.countSpares {s0 s : State} (h : Kept s0 s) (r m : Nat) : Kept s0 (State.countSpares s r m) := by
  unfold State.countSpares
  with_reducible
    repeat' first
      | assumption | apply Kept.put

theorem Kept.mapColumn {s0 s : State} (h : Kept s0 s) (r m j : Nat) (col : BitVec 7) : Kept s0 (State.mapColumn s
    r m j col) := by
  unfold State.mapColumn
  with_reducible
    repeat' first
      | assumption | apply Kept.put | apply Kept.countSpares | apply Kept.bump

theorem Kept.rerun {s0 s : State} (h : Kept s0 s) (r : Rgn) (m e ticket : Nat) (z : Rerun) : Kept s0 (State.rerun
    s r m e ticket z) := by
  unfold State.rerun
  try dsimp only
  with_reducible
    repeat' first
      | assumption | apply Kept.mismatch | apply Kept.bump | apply Kept.leaveService | split

theorem Kept.checkEngine {s0 s : State} (h : Kept s0 s) (r : Rgn) (m e ticket : Nat) (x : EngCheck) : Kept s0
    (State.checkEngine s r m e ticket x) := by
  unfold State.checkEngine
  with_reducible
    repeat' first
      | assumption | apply Kept.leaveService | apply Kept.bump | apply Kept.put | apply Kept.ite | apply Kept.rerun
      | apply Kept.mismatch | apply Kept.mapColumn | apply Kept.ite | split | split | dsimp only

theorem Kept.checkUnit {s0 s : State} (h : Kept s0 s) (r : Rgn) (e ticket : Nat) (x : EngCheck) : Kept s0
    (State.checkUnit s r e ticket x) := by
  unfold State.checkUnit
  try dsimp only
  with_reducible
    repeat' first
      | assumption | apply Kept.checkEngine | apply Kept.checkBlock | split

theorem Kept.checkPair {s0 s : State} (h : Kept s0 s) (r : Rgn) (k : Nat) (ticket : Nat) (x y : EngCheck) : Kept
    s0 (State.checkPair s r k ticket x y) := by
  unfold State.checkPair
  with_reducible
    repeat' first
      | assumption | apply Kept.checkEngine

theorem Kept.clearPoisonFlag {s0 s : State} (h : Kept s0 s) (r : Rgn) (g : Nat) : Kept s0 (State.clearPoisonFlag s
    r g) := by
  unfold State.clearPoisonFlag
  with_reducible
    repeat' first
      | assumption | apply Kept.modRegion

theorem Kept.clearPoisonAll {s0 s : State} (h : Kept s0 s) (r : Rgn) : Kept s0 (State.clearPoisonAll s r) := by
  unfold State.clearPoisonAll
  with_reducible
    repeat' first
      | assumption | apply Kept.modRegion

theorem Kept.votePoison {s0 s : State} (h : Kept s0 s) (v : BitVec 256) : Kept s0 (State.votePoison s v) := by
  unfold State.votePoison
  with_reducible
    repeat' first
      | assumption | apply Kept.modRegion | (apply Kept.foldl; intro _ _ _)

theorem Kept.notePoison {s0 s : State} (h : Kept s0 s) (g : Nat) : Kept s0 (State.notePoison s g) := by
  unfold State.notePoison
  with_reducible
    repeat' first
      | assumption | apply Kept.modHub

theorem Kept.reachMilestone {s0 s : State} (h : Kept s0 s) (p : Prt) (m : Nat) : Kept s0 (State.reachMilestone s p
    m) := by
  unfold State.reachMilestone
  with_reducible
    repeat' first
      | assumption | apply Kept.bump | apply Kept.modPart | apply Kept.put | split

theorem Kept.serveSample {s0 s : State} (h : Kept s0 s) (p : Prt) : Kept s0 (State.serveSample s p) := by
  unfold State.serveSample
  with_reducible
    repeat' first
      | assumption | apply Kept.put | apply Kept.modPart | apply Kept.ite | apply Kept.ite

theorem Kept.setFallback {s0 s : State} (h : Kept s0 s) (p : Prt) (v : Nat) : Kept s0 (State.setFallback s p v) :=
    by
  unfold State.setFallback
  with_reducible
    repeat' first
      | assumption | apply Kept.put | (apply Kept.foldl; intro _ _ _)

theorem Kept.serveBell {s0 s : State} (h : Kept s0 s) (p : Prt) : Kept s0 (State.serveBell s p) := by
  unfold State.serveBell
  with_reducible
    repeat' first
      | assumption | apply Kept.put | apply Kept.modPart | apply Kept.setFallback | apply Kept.ite | apply Kept.ite

theorem Kept.armBatch {s0 s : State} (h : Kept s0 s) (p : Prt) : Kept s0 (State.armBatch s p) := by
  unfold State.armBatch
  with_reducible
    repeat' first
      | assumption | apply Kept.put | split

theorem Kept.setSq {s0 s : State} (h : Kept s0 s) (r : Rgn) (n : BitVec 5) (v : Word64) : Kept s0 (State.setSq s r
    n v) := by
  unfold State.setSq
  with_reducible
    repeat' first
      | assumption | apply Kept.put | split

theorem Kept.scalarFault {s0 s : State} (h : Kept s0 s) (r : Rgn) : Kept s0 (State.scalarFault s r) := by
  unfold State.scalarFault
  with_reducible
    repeat' first
      | assumption | apply Kept.regionFault

theorem Kept.writeRd {s0 s : State} (h : Kept s0 s) (r : Rgn) (ok : Bool) (rd : BitVec 5) (v : Word64) : Kept s0
    (State.writeRd s r ok rd v) := by
  unfold State.writeRd
  with_reducible
    repeat' first
      | assumption | apply Kept.setSq | apply Kept.scalarFault | split

theorem Kept.branch {s0 s : State} (h : Kept s0 s) (r : Rgn) (off : BitVec 16) : Kept s0 (State.branch s r off).1
    := by
  unfold State.branch
  try dsimp only
  with_reducible
    repeat' first
      | assumption | apply Kept.put | apply Kept.modRegion | apply Kept.scalarFault | split

theorem Kept.branchIf {s0 s : State} (h : Kept s0 s) (r : Rgn) (ok taken : Bool) (off : BitVec 16) : Kept s0
    (State.branchIf s r ok taken off).1 := by
  unfold State.branchIf
  with_reducible
    repeat' first
      | assumption | apply Kept.scalarFault | apply Kept.branch | split

theorem Kept.doNop {s0 s : State} (h : Kept s0 s) (r : Rgn) (rd rs : BitVec 5) (imm : BitVec 16) : Kept s0
    (Sys2Proof.Machine.doNop r rd rs imm s) := by
  unfold Sys2Proof.Machine.doNop
  with_reducible
    repeat' first
      | assumption | apply Kept.scalarFault | split

theorem Kept.doLi {s0 s : State} (h : Kept s0 s) (r : Rgn) (rd _rs : BitVec 5) (imm : BitVec 16) : Kept s0
    (Sys2Proof.Machine.doLi r rd _rs imm s) := by
  unfold Sys2Proof.Machine.doLi
  with_reducible
    repeat' first
      | assumption | apply Kept.writeRd

theorem Kept.doLih {s0 s : State} (h : Kept s0 s) (r : Rgn) (rd rs : BitVec 5) (imm : BitVec 16) : Kept s0
    (Sys2Proof.Machine.doLih r rd rs imm s) := by
  unfold Sys2Proof.Machine.doLih
  with_reducible
    repeat' first
      | assumption | apply Kept.writeRd

theorem Kept.doAddi {s0 s : State} (h : Kept s0 s) (r : Rgn) (rd rs : BitVec 5) (imm : BitVec 16) : Kept s0
    (Sys2Proof.Machine.doAddi r rd rs imm s) := by
  unfold Sys2Proof.Machine.doAddi
  with_reducible
    repeat' first
      | assumption | apply Kept.writeRd

theorem Kept.doShli {s0 s : State} (h : Kept s0 s) (r : Rgn) (rd rs : BitVec 5) (imm : BitVec 16) : Kept s0
    (Sys2Proof.Machine.doShli r rd rs imm s) := by
  unfold Sys2Proof.Machine.doShli
  with_reducible
    repeat' first
      | assumption | apply Kept.writeRd

theorem Kept.doShri {s0 s : State} (h : Kept s0 s) (r : Rgn) (rd rs : BitVec 5) (imm : BitVec 16) : Kept s0
    (Sys2Proof.Machine.doShri r rd rs imm s) := by
  unfold Sys2Proof.Machine.doShri
  with_reducible
    repeat' first
      | assumption | apply Kept.writeRd

theorem Kept.doAdd {s0 s : State} (h : Kept s0 s) (r : Rgn) (rd rs rt : BitVec 5) (low : BitVec 11) : Kept s0
    (Sys2Proof.Machine.doAdd r rd rs rt low s) := by
  unfold Sys2Proof.Machine.doAdd
  with_reducible
    repeat' first
      | assumption | apply Kept.writeRd

theorem Kept.doSub {s0 s : State} (h : Kept s0 s) (r : Rgn) (rd rs rt : BitVec 5) (low : BitVec 11) : Kept s0
    (Sys2Proof.Machine.doSub r rd rs rt low s) := by
  unfold Sys2Proof.Machine.doSub
  with_reducible
    repeat' first
      | assumption | apply Kept.writeRd

theorem Kept.doMul {s0 s : State} (h : Kept s0 s) (r : Rgn) (rd rs rt : BitVec 5) (low : BitVec 11) : Kept s0
    (Sys2Proof.Machine.doMul r rd rs rt low s) := by
  unfold Sys2Proof.Machine.doMul
  with_reducible
    repeat' first
      | assumption | apply Kept.writeRd

theorem Kept.doAnd {s0 s : State} (h : Kept s0 s) (r : Rgn) (rd rs rt : BitVec 5) (low : BitVec 11) : Kept s0
    (Sys2Proof.Machine.doAnd r rd rs rt low s) := by
  unfold Sys2Proof.Machine.doAnd
  with_reducible
    repeat' first
      | assumption | apply Kept.writeRd

theorem Kept.doOr {s0 s : State} (h : Kept s0 s) (r : Rgn) (rd rs rt : BitVec 5) (low : BitVec 11) : Kept s0
    (Sys2Proof.Machine.doOr r rd rs rt low s) := by
  unfold Sys2Proof.Machine.doOr
  with_reducible
    repeat' first
      | assumption | apply Kept.writeRd

theorem Kept.doXor {s0 s : State} (h : Kept s0 s) (r : Rgn) (rd rs rt : BitVec 5) (low : BitVec 11) : Kept s0
    (Sys2Proof.Machine.doXor r rd rs rt low s) := by
  unfold Sys2Proof.Machine.doXor
  with_reducible
    repeat' first
      | assumption | apply Kept.writeRd

theorem Kept.doSlt {s0 s : State} (h : Kept s0 s) (r : Rgn) (rd rs rt : BitVec 5) (low : BitVec 11) : Kept s0
    (Sys2Proof.Machine.doSlt r rd rs rt low s) := by
  unfold Sys2Proof.Machine.doSlt
  with_reducible
    repeat' first
      | assumption | apply Kept.writeRd

theorem Kept.doBeq {s0 s : State} (h : Kept s0 s) (r : Rgn) (rs rt : BitVec 5) (off : BitVec 16) : Kept s0
    (Sys2Proof.Machine.doBeq r rs rt off s).1 := by
  unfold Sys2Proof.Machine.doBeq
  with_reducible
    repeat' first
      | assumption | apply Kept.branchIf

theorem Kept.doBne {s0 s : State} (h : Kept s0 s) (r : Rgn) (rs rt : BitVec 5) (off : BitVec 16) : Kept s0
    (Sys2Proof.Machine.doBne r rs rt off s).1 := by
  unfold Sys2Proof.Machine.doBne
  with_reducible
    repeat' first
      | assumption | apply Kept.branchIf

theorem Kept.doBlt {s0 s : State} (h : Kept s0 s) (r : Rgn) (rs rt : BitVec 5) (off : BitVec 16) : Kept s0
    (Sys2Proof.Machine.doBlt r rs rt off s).1 := by
  unfold Sys2Proof.Machine.doBlt
  with_reducible
    repeat' first
      | assumption | apply Kept.branchIf

theorem Kept.doLoop {s0 s : State} (h : Kept s0 s) (r : Rgn) (rs rt : BitVec 5) (off : BitVec 16) : Kept s0
    (Sys2Proof.Machine.doLoop r rs rt off s).1 := by
  unfold Sys2Proof.Machine.doLoop
  with_reducible
    repeat' first
      | assumption | apply Kept.scalarFault | apply Kept.setSq | apply Kept.branchIf | split

theorem Kept.doJmp {s0 s : State} (h : Kept s0 s) (r : Rgn) (rs rt : BitVec 5) (off : BitVec 16) : Kept s0
    (Sys2Proof.Machine.doJmp r rs rt off s).1 := by
  unfold Sys2Proof.Machine.doJmp
  with_reducible
    repeat' first
      | assumption | apply Kept.branchIf

theorem Kept.doBflag {s0 s : State} (h : Kept s0 s) (r : Rgn) (flag : BitVec 10) (off : BitVec 16) : Kept s0
    (Sys2Proof.Machine.doBflag r flag off s).1 := by
  unfold Sys2Proof.Machine.doBflag
  with_reducible
    repeat' first
      | assumption | apply Kept.branchIf

theorem Kept.doBnflag {s0 s : State} (h : Kept s0 s) (r : Rgn) (flag : BitVec 10) (off : BitVec 16) : Kept s0
    (Sys2Proof.Machine.doBnflag r flag off s).1 := by
  unfold Sys2Proof.Machine.doBnflag
  with_reducible
    repeat' first
      | assumption | apply Kept.branchIf

theorem Kept.doCmdw {s0 s : State} (h : Kept s0 s) (r : Rgn) (rd rs : BitVec 5) (imm : BitVec 16) : Kept s0
    (Sys2Proof.Machine.doCmdw r rd rs imm s) := by
  unfold Sys2Proof.Machine.doCmdw
  with_reducible
    repeat' first
      | assumption | apply Kept.scalarFault | apply Kept.modRegion | split

theorem Kept.doRdtok {s0 s : State} (h : Kept s0 s) (r : Rgn) (rd rs : BitVec 5) (imm : BitVec 16) : Kept s0
    (Sys2Proof.Machine.doRdtok r rd rs imm s) := by
  unfold Sys2Proof.Machine.doRdtok
  with_reducible
    repeat' first
      | assumption | apply Kept.writeRd

theorem Kept.doRdstat {s0 s : State} (h : Kept s0 s) (r : Rgn) (rd _rs : BitVec 5) (imm : BitVec 16) : Kept s0
    (Sys2Proof.Machine.doRdstat r rd _rs imm s) := by
  unfold Sys2Proof.Machine.doRdstat
  with_reducible
    repeat' first
      | assumption | apply Kept.writeRd

theorem Kept.go {s0 s : State} (h : Kept s0 s) (r : Rgn) : Kept s0 (State.go s r) := by
  unfold State.go
  with_reducible
    repeat' first
      | assumption | apply Kept.put | apply Kept.regionFault | split

theorem Kept.counted {s0 s : State} (h : Kept s0 s) (r : Rgn) : Kept s0 (State.counted s r) := by
  unfold State.counted
  with_reducible
    repeat' first
      | assumption | apply Kept.liveAdd | apply Kept.modRegion

theorem Kept.noteSignaller {s0 s : State} (h : Kept s0 s) (r : Rgn) (c : Cmd) : Kept s0 (State.noteSignaller s r
    c) := by
  unfold State.noteSignaller
  with_reducible
    repeat' first
      | assumption | apply Kept.put | apply Kept.ite | split

theorem Kept.seqCommand {s0 s : State} (h : Kept s0 s) (r : Rgn) (c : Cmd) (op : Nat) (codes : List Nat) (ready :
    Bool) (eff : State → Option State) (he : ∀ x y, Kept s0 x → eff x = some y → Kept s0 y) : Kept s0 (s.seqCommand
    r c op codes ready eff).1 := by
  unfold State.seqCommand
  dsimp only
  with_reducible
    repeat' first
      | assumption | apply Kept.regionFault | apply Kept.modRegion | apply Kept.noteSignaller | apply Kept.counted
      | apply Kept.consume | (refine Kept.signal ?_ _ _ _ _; refine he _ _ ?_ (by assumption)) | split

theorem Kept.doBellWait {s0 s : State} (h : Kept s0 s) (r : Rgn) (c : Cmd) : Kept s0 (Sys2Proof.Machine.doBellWait
    r c s).1 := by
  unfold Sys2Proof.Machine.doBellWait
  with_reducible
    repeat' first
      | assumption | apply Kept.seqCommand | apply Kept.setSeq | apply Kept.modRegion
      | (rename_i e; injection e with e; subst e) | (intro _)

theorem Kept.doSetStep {s0 s : State} (h : Kept s0 s) (r : Rgn) (c : Cmd) : Kept s0 (Sys2Proof.Machine.doSetStep r
    c s).1 := by
  unfold Sys2Proof.Machine.doSetStep
  with_reducible
    repeat' first
      | assumption | apply Kept.seqCommand | apply Kept.put | (rename_i e; injection e with e; subst e) | (intro _)

theorem Kept.doClearPoison {s0 s : State} (h : Kept s0 s) (r : Rgn) (c : Cmd) : Kept s0
    (Sys2Proof.Machine.doClearPoison r c s).1 := by
  unfold Sys2Proof.Machine.doClearPoison
  with_reducible
    repeat' first
      | assumption | apply Kept.seqCommand | apply Kept.clearPoisonAll | apply Kept.clearPoisonFlag | split
      | (rename_i e; injection e with e; subst e) | (intro _)

theorem Kept.doEnd {s0 s : State} (h : Kept s0 s) (r : Rgn) (c : Cmd) : Kept s0 (Sys2Proof.Machine.doEnd r c s).1
    := by
  unfold Sys2Proof.Machine.doEnd
  with_reducible
    repeat' first
      | assumption | apply Kept.seqCommand | apply Kept.setSeq | (rename_i e; injection e with e; subst e) | (intro _)

theorem Kept.doTokSet {s0 s : State} (h : Kept s0 s) (r : Rgn) (c : Cmd) : Kept s0 (Sys2Proof.Machine.doTokSet r c
    s).1 := by
  unfold Sys2Proof.Machine.doTokSet
  with_reducible
    repeat' first
      | assumption | apply Kept.seqCommand | apply Kept.put | (rename_i e; injection e with e; subst e) | (intro _)

theorem Kept.doTokRemote {s0 s : State} (h : Kept s0 s) (r : Rgn) (c : Cmd) : Kept s0
    (Sys2Proof.Machine.doTokRemote r c s).1 := by
  unfold Sys2Proof.Machine.doTokRemote
  with_reducible
    repeat' first
      | assumption | apply Kept.seqCommand | (refine Kept.addTok ?_ (by assumption)) | (intro _)

theorem Kept.doFence {s0 s : State} (h : Kept s0 s) (r : Rgn) (c : Cmd) : Kept s0 (Sys2Proof.Machine.doFence r c
    s).1 := by
  unfold Sys2Proof.Machine.doFence
  with_reducible
    repeat' first
      | assumption | apply Kept.seqCommand | (rename_i e; injection e with e; subst e) | (intro _)

theorem Kept.doPhase {s0 s : State} (h : Kept s0 s) (r : Rgn) (c : Cmd) : Kept s0 (Sys2Proof.Machine.doPhase r c
    s).1 := by
  unfold Sys2Proof.Machine.doPhase
  with_reducible
    repeat' first
      | assumption | apply Kept.seqCommand | apply Kept.modRegion | (rename_i e; injection e with e; subst e)
      | (intro _)

theorem Kept.doMilestone {s0 s : State} (h : Kept s0 s) (r : Rgn) (c : Cmd) :
    Kept s0 (Sys2Proof.Machine.doMilestone r c s).1 := by
  refine Kept.seqCommand h _ _ _ _ _ _ (fun x y hx e => ?_)
  injection e with e
  subst e
  cases x.partOf r
  · exact hx
  · exact hx.reachMilestone ..

theorem Kept.advance {s0 s : State} (h : Kept s0 s) (r : Rgn) : Kept s0 (State.advance s r) := by
  unfold State.advance
  with_reducible
    repeat' first
      | assumption | apply Kept.put | apply Kept.modRegion | apply Kept.scalarFault | split

theorem Kept.runScalar {s0 s : State} (h : Kept s0 s) (i : Instr) : Kept s0 (Sys2Proof.Machine.runScalar i s).1 :=
    by
  unfold Sys2Proof.Machine.runScalar
  with_reducible
    repeat' first
      | assumption | apply Kept.doNop | apply Kept.doLi | apply Kept.doLih | apply Kept.doAddi | apply Kept.doShli
      | apply Kept.doShri | apply Kept.doAdd | apply Kept.doSub | apply Kept.doMul | apply Kept.doAnd
      | apply Kept.doOr | apply Kept.doXor | apply Kept.doSlt | apply Kept.doBeq | apply Kept.doBne | apply Kept.doBlt
      | apply Kept.doLoop | apply Kept.doJmp | apply Kept.doBflag | apply Kept.doBnflag | apply Kept.doCmdw
      | apply Kept.doRdtok | apply Kept.doRdstat | split

theorem Kept.dispatchScalar {s0 s : State} (h : Kept s0 s) (r : Rgn) (v : Nat) : Kept s0 (State.dispatchScalar s r
    v) := by
  unfold State.dispatchScalar
  try dsimp only
  with_reducible
    repeat' first
      | assumption | apply Kept.regionFault | apply Kept.scalarFault | apply Kept.runScalar | apply Kept.modRegion
      | apply Kept.advance | split

theorem Kept.runSeq {s0 s : State} (h : Kept s0 s) (r : Rgn) (c : Cmd) : Kept s0 (Sys2Proof.Machine.runSeq r c
    s).1 := by
  unfold Sys2Proof.Machine.runSeq
  with_reducible
    repeat' first
      | assumption | apply Kept.doBellWait | apply Kept.doSetStep | apply Kept.doClearPoison | apply Kept.doEnd
      | apply Kept.doTokSet | apply Kept.doTokRemote | apply Kept.doFence | apply Kept.doPhase
      | apply Kept.doMilestone | split

theorem Kept.enqueue {s0 s : State} (h : Kept s0 s) (r : Rgn) (p : Prt) (c : Cmd) : Kept s0 (State.enqueue s r p
    c) := by
  unfold State.enqueue
  with_reducible
    repeat' first
      | assumption | apply Kept.put | apply Kept.modRegion | apply Kept.counted | apply Kept.noteSignaller | split

theorem Kept.dispatchEngines {s0 : State} (r : Rgn) (p : Prt) : ∀ (n : Nat) {s : State}, Kept s0 s →
    Kept s0 (s.dispatchEngines r p n)
  | 0, _, h => h
  | n + 1, s, h => by
    unfold State.dispatchEngines
    dsimp only
    repeat' first
      | with_reducible exact h
      | with_reducible assumption
      | with_reducible apply Kept.dispatchEngines
      | with_reducible apply Kept.regionFault
      | with_reducible apply Kept.liveAdd
      | with_reducible apply Kept.enqueue
      | with_reducible apply Kept.advance
      | with_reducible apply Kept.ite
      | with_reducible apply Kept.dite
      | split

theorem Kept.dispatch {s0 s : State} (h : Kept s0 s) (r : Rgn) : Kept s0 (State.dispatch s r) := by
  unfold State.dispatch
  with_reducible
    repeat' first
      | assumption | apply Kept.dispatchScalar | apply Kept.regionFault | apply Kept.runSeq | apply Kept.advance
      | apply Kept.dispatchEngines | apply Kept.ite | apply Kept.ite | split

theorem Kept.loadPair {s0 s : State} (h : Kept s0 s) (tag k p : Nat) : Kept s0 (State.loadPair s tag k p) := by
  unfold State.loadPair
  with_reducible
    repeat' first
      | assumption | apply Kept.put | apply Kept.ite | apply Kept.ite

theorem Kept.loadRegion {s0 s : State} (h : Kept s0 s) (tag : Nat) (r : Rgn) : Kept s0 (State.loadRegion s tag r)
    := by
  unfold State.loadRegion
  with_reducible
    repeat' first
      | assumption | apply Kept.recordZero | apply Kept.setSeq | apply Kept.put | apply Kept.clearAt
      | apply Kept.clearPoisonAll | apply Kept.modRegion | apply Kept.loadPair | (apply Kept.foldl; intro _ _ _)

theorem Kept.load {s0 s : State} (h : Kept s0 s) (p : Prt) : Kept s0 (State.load s p) := by
  unfold State.load
  with_reducible
    repeat' first
      | assumption | apply Kept.loadRegion | apply Kept.put | apply Kept.modPart | apply Kept.modHub | apply Kept.ite
      | apply Kept.ite | (apply Kept.foldl; intro _ _ _)

theorem Kept.dbgLock {s0 s : State} (h : Kept s0 s) (p : Prt) : Kept s0 (State.dbgLock s p) := by
  unfold State.dbgLock
  with_reducible
    repeat' first
      | assumption | apply Kept.put | split

theorem Kept.procTeardown {s0 s : State} (h : Kept s0 s) (p : Prt) : Kept s0 (State.procTeardown s p) := by
  unfold State.procTeardown
  with_reducible
    repeat' first
      | assumption | apply Kept.put | apply Kept.beginTeardown

theorem Kept.stopPart {s0 s : State} (h : Kept s0 s) (p : Prt) : Kept s0 (State.stopPart s p) := by
  unfold State.stopPart
  with_reducible
    repeat' first
      | assumption | apply Kept.put | apply Kept.modRegion | apply Kept.setSeq | apply Kept.killAll
      | (apply Kept.foldl; intro _ _ _)

theorem Kept.preemptReq {s0 s : State} (h : Kept s0 s) (p : Prt) : Kept s0 (State.preemptReq s p) := by
  unfold State.preemptReq
  with_reducible
    repeat' first
      | assumption | apply Kept.put | apply Kept.stopPart | apply Kept.ite | apply Kept.ite

theorem Kept.saveComplete {s0 s : State} (h : Kept s0 s) (p : Prt) : Kept s0 (State.saveComplete s p) := by
  unfold State.saveComplete
  with_reducible
    repeat' first
      | assumption | apply Kept.modPart | apply Kept.setCmds | apply Kept.undefineAll | apply Kept.put
      | apply Kept.bump | (apply Kept.foldl; intro _ _ _) | split

theorem Kept.resume {s0 s : State} (h : Kept s0 s) (p : Prt) : Kept s0 (State.resume s p) := by
  unfold State.resume
  with_reducible
    repeat' first
      | assumption | apply Kept.put | apply Kept.modPart | apply Kept.setSeq | (apply Kept.foldl; intro _ _ _) | split

theorem Kept.restoreRegion {s0 s : State} (h : Kept s0 s) (p : Prt) (im : Image) : Kept s0 (s.restoreRegion p im) := by
  unfold State.restoreRegion
  dsimp only
  apply Kept.modRegion
  refine h.mem rfl rfl rfl (fun w => ?_)
  exact Memory.wf_restore _ _ _ _ (Memory.wf_restore _ _ _ _ w)

theorem Kept.restoreComplete {s0 s : State} (h : Kept s0 s) (p : Prt) : Kept s0 (State.restoreComplete s p) := by
  unfold State.restoreComplete
  with_reducible
    repeat' first
      | assumption | apply Kept.restoreRegion | apply Kept.modPart | apply Kept.put | (apply Kept.foldl; intro _ _ _)
      | split

theorem Kept.preemptTimeout {s0 s : State} (h : Kept s0 s) (p : Prt) : Kept s0 (State.preemptTimeout s p) := by
  unfold State.preemptTimeout
  with_reducible
    repeat' first
      | assumption | apply Kept.beginTeardown | split

theorem Kept.contextTeardown {s0 s : State} (h : Kept s0 s) (p : Prt) (cause : Nat) : Kept s0
    (State.contextTeardown s p cause) := by
  unfold State.contextTeardown
  with_reducible
    repeat' first
      | assumption | apply Kept.beginTeardown | split

theorem Kept.isolateRegion {s0 s : State} (h : Kept s0 s) (r : Rgn) : Kept s0 (State.isolateRegion s r) := by
  unfold State.isolateRegion
  try dsimp only
  with_reducible
    repeat' first
      | assumption | apply Kept.modRegion | apply Kept.put | apply Kept.beginTeardown
      | (apply Kept.foldl; intro _ _ _) | split

theorem Kept.teardownNotice {s0 s : State} (h : Kept s0 s) (tag : Nat) : Kept s0 (State.teardownNotice s tag) :=
    by
  unfold State.teardownNotice
  with_reducible
    repeat' first
      | assumption | apply Kept.beginTeardown | split

theorem Kept.transmit {s0 s : State} (h : Kept s0 s) (l : Lnk) (f : Flit) : Kept s0 (State.transmit s l f) := by
  unfold State.transmit
  with_reducible
    repeat' first
      | assumption | apply Kept.modLink | apply Kept.emit

theorem Kept.pumpList {s0 : State} (l : Lnk) (count : Bool) : ∀ (q : List (Nat × Flit)) (blocked : List Nat) {s : State},
    Kept s0 s → Kept s0 (s.pumpList l count blocked q).1
  | [], _, _, h => h
  | b :: t, blocked, s, h => by
    unfold State.pumpList
    dsimp only
    repeat' first
      | with_reducible exact h
      | with_reducible assumption
      | with_reducible apply Kept.pumpList
      | with_reducible apply Kept.transmit
      | with_reducible apply Kept.returnCredit
      | with_reducible apply Kept.modHub
      | with_reducible apply Kept.liveAdd
      | with_reducible apply Kept.ite
      | with_reducible apply Kept.dite
      | split

theorem Kept.pump {s0 s : State} (h : Kept s0 s) (l : Lnk) (count : Bool) : Kept s0 (State.pump s l count) := by
  unfold State.pump
  with_reducible
    repeat' first
      | assumption | apply Kept.pumpList | apply Kept.modLink

theorem Kept.enqueueFlit {s0 s : State} (h : Kept s0 s) (l : Lnk) (f : Flit) (buffer : Nat) : Kept s0
    (State.enqueueFlit s l f buffer) := by
  unfold State.enqueueFlit
  with_reducible
    repeat' first
      | assumption | apply Kept.pumpList | apply Kept.modLink

theorem Kept.forward {s0 s : State} (h : Kept s0 s) (r : Rgn) (f : Flit) (buffer : Nat) : Kept s0 (State.forward s
    r f buffer).1 := by
  unfold State.forward
  with_reducible
    repeat' first
      | assumption | apply Kept.enqueueFlit | split

theorem Kept.failCopies {s0 s : State} (h : Kept s0 s) (h : FlitHdr) (detail : Nat) : Kept s0 (State.failCopies s
    h detail) := by
  unfold State.failCopies
  with_reducible
    repeat' first
      | assumption | apply Kept.setCmds | (apply Kept.foldl; intro _ _ _) | split

theorem Kept.started {s0 s : State} (h : Kept s0 s) (l : Lnk) (run : State → State) (hf : ∀ x, Kept s0 x → Kept s0
    (run x)) : Kept s0 (State.started s l run) := by
  unfold State.started
  with_reducible
    repeat' first
      | assumption | apply hf | apply Kept.bump | apply Kept.ite | split | (intro _)

theorem Kept.refuseFlit {s0 s : State} (h : Kept s0 s) (arrival : Option Lnk) (r : Rgn) (f : Flit) (code detail :
    Nat) : Kept s0 (State.refuseFlit s arrival r f code detail) := by
  unfold State.refuseFlit
  with_reducible
    repeat' first
      | assumption | apply Kept.bump | apply Kept.failCopies | apply Kept.forward | split

theorem Kept.send {s0 s : State} (h : Kept s0 s) (r : Rgn) (f : Flit) : Kept s0 (State.send s r f) := by
  unfold State.send
  with_reducible
    repeat' first
      | assumption | apply Kept.forward | apply Kept.refuseFlit | split
      | (rename_i e; replace e := congrArg Prod.fst e; dsimp only at e; subst e)

theorem Kept.sendAll {s0 : State} (r : Rgn) : ∀ (l : List Flit) {s : State}, Kept s0 s → Kept s0 (s.sendAll r l)
  | [], _, h => h
  | f :: t, _, h => Kept.sendAll r t (h.send r f)

theorem Kept.sendOutputs {s0 s : State} (h : Kept s0 s) (r : Rgn) (p : Prt) (e : Entry) : Kept s0
    (State.sendOutputs s r p e) := by
  unfold State.sendOutputs
  with_reducible
    repeat' first
      | assumption | apply Kept.setCmds | apply Kept.emit | apply Kept.sendAll | apply Kept.ite | apply Kept.ite
      | (apply Kept.foldl; intro _ _ _)

theorem Kept.sendReads {s0 s : State} (h : Kept s0 s) (r : Rgn) (p : Prt) (e : Entry) : Kept s0 (State.sendReads s
    r p e) := by
  unfold State.sendReads
  with_reducible
    repeat' first
      | assumption | apply Kept.emit | apply Kept.sendAll | (apply Kept.foldl; intro _ _ _) | split

theorem Kept.issueCopy {s0 s : State} (h : Kept s0 s) (r : Rgn) (k op : Nat) (codes : Ctx → List Nat) (run : Ctx →
    Effect) (y : EngCheck) : Kept s0 (State.issueCopy s r k op codes run y) := by
  unfold State.issueCopy
  try dsimp only
  with_reducible
    repeat' first
      | assumption | apply Kept.issue | apply Kept.sendOutputs | apply Kept.sendReads | apply Kept.checkBlock | split

theorem Kept.finishRemote {s0 s : State} (h : Kept s0 s) (r : Rgn) (p : Prt) (e : Entry) : Kept s0
    (State.finishRemote s r p e) := by
  unfold State.finishRemote
  with_reducible
    repeat' first
      | assumption | apply Kept.putEntry | apply Kept.sendOutputs | split

theorem Kept.completion {s0 s : State} (h : Kept s0 s) (r : Rgn) (k status : Nat) (bs : List Byte) : Kept s0
    (State.completion s r k status bs) := by
  unfold State.completion
  with_reducible
    repeat' first
      | assumption | apply Kept.putEntry | apply Kept.finishRemote | split

theorem Kept.readResp {s0 s : State} (h : Kept s0 s) (f : Flit) : Kept s0 (State.readResp s f) := by
  unfold State.readResp
  with_reducible
    repeat' first
      | assumption | apply Kept.discardTorn | apply Kept.finishRemote | (apply Kept.foldl; intro _ _ _) | split
      | split | dsimp only

theorem Kept.servePeer {s0 s : State} (h : Kept s0 s) (l : Lnk) (f : Flit) : Kept s0 (State.servePeer s l f) := by
  unfold State.servePeer
  try dsimp only
  with_reducible
    repeat' first
      | assumption | apply Kept.postAll | apply Kept.sendAll | apply Kept.refuseFlit | apply Kept.ite | split

theorem Kept.peerStep {s0 s : State} (h : Kept s0 s) (held : List PeerHeld) (l : Lnk) (buffer : Nat) (f : Flit)
    (needs : Option (List (Nat × Nat × Nat))) : Kept s0 (State.peerStep s held l buffer f needs).1 := by
  unfold State.peerStep
  try dsimp only
  repeat' first
    | with_reducible assumption
    | with_reducible apply Kept.returnCredit
    | with_reducible apply Kept.discardTorn
    | with_reducible apply Kept.servePeer
    | with_reducible apply Kept.takeHedge
    | split

theorem Kept.peerRequest {s0 s : State} (h : Kept s0 s) (l : Lnk) (buffer : Nat) (f : Flit) :
    Kept s0 (State.peerRequest s l buffer f) := by
  unfold State.peerRequest
  exact (h.peerStep s.hub.peerWait l buffer f none).modHub _

theorem Kept.peerBell {s0 s : State} (h : Kept s0 s) : Kept s0 (State.peerBell s) := by
  have all : ∀ (q : List PeerHeld) (t : State × List PeerHeld), Kept s0 t.1 →
      Kept s0 (q.foldl (fun (t : State × List PeerHeld) h => t.1.peerStep t.2 h.link h.buffer h.flit (some h.needs)) t).1 := by
    intro q
    induction q with
    | nil => exact fun _ h => h
    | cons a q ih => exact fun t h => ih _ (h.peerStep ..)
  unfold State.peerBell
  exact (all s.hub.peerWait (s, []) h).modHub _

theorem Kept.repairRow {s0 s : State} (h : Kept s0 s) (k : Stk) (bank row granule : Nat) : Kept s0
    (State.repairRow s k bank row granule) := by
  unfold State.repairRow
  with_reducible
    repeat' first
      | assumption | apply Kept.bump | apply Kept.modStack | apply Kept.put | apply Kept.ite | apply Kept.modHub
      | apply Kept.ite | (apply Kept.foldl; intro _ _ _)

theorem Kept.scrubbing {s0 s : State} (h : Kept s0 s) (k : Stk) (on : Bool) : Kept s0 (State.scrubbing s k on) :=
    by
  unfold State.scrubbing
  with_reducible
    repeat' first
      | assumption | apply Kept.put | apply Kept.ite | split

theorem Kept.patrol {s0 s : State} (h : Kept s0 s) (k : Stk) (offset badBits bank row : Nat) : Kept s0
    (State.patrol s k offset badBits bank row) := by
  unfold State.patrol
  with_reducible
    repeat' first
      | assumption | apply Kept.modStack | apply Kept.put | apply Kept.modHub | apply Kept.bump | apply Kept.repairRow
      | apply Kept.scrubbing | apply Kept.spoilWord | split | apply Kept.ite | apply Kept.record0

theorem Kept.keepTwin {s0 s : State} (h : Kept s0 s) (r : Rgn) (e : Entry) : Kept s0 (State.keepTwin s r e) := by
  unfold State.keepTwin
  with_reducible
    repeat' first
      | assumption | apply Kept.modRegion | split

theorem Kept.hideCopies {s0 s : State} (h : Kept s0 s) (r : Rgn) (p : Prt) (e : Entry) : Kept s0 (State.hideCopies
    s r p e) := by
  unfold State.hideCopies
  with_reducible
    repeat' first
      | assumption | apply Kept.modRegion | apply Kept.ite | split

theorem Kept.publish {s0 s : State} (h : Kept s0 s) : Kept s0 (State.publish s) := by
  unfold State.publish
  with_reducible
    repeat' first
      | assumption | apply Kept.modRegion | (apply Kept.foldl; intro _ _ _)

theorem Kept.commit {s0 s : State} (h : Kept s0 s) (r : Rgn) (e : Nat) : Kept s0 (State.commit s r e) := by
  unfold State.commit
  with_reducible
    repeat' first
      | assumption | apply Kept.takeHedge | apply Kept.setCmds | apply Kept.bump | apply Kept.modRegion
      | apply Kept.keepTwin | apply Kept.commitEntry | apply Kept.postAll | apply Kept.ite | apply Kept.hideCopies
      | apply Kept.ite | split

theorem Kept.setUnit {s0 s : State} (h : Kept s0 s) (kind region index v : Nat) : Kept s0 (State.setUnit s kind
    region index v) := by
  unfold State.setUnit
  with_reducible
    repeat' first
      | assumption | apply Kept.put | apply Kept.setMe | (apply Kept.foldl; intro _ _ _) | split

theorem Kept.hardenMismatch {s0 s : State} (h : Kept s0 s) : Kept s0 (State.hardenMismatch s) := by
  unfold State.hardenMismatch
  with_reducible
    repeat' first
      | assumption | apply Kept.bump | apply Kept.setUnit | apply Kept.put | apply Kept.modHub | apply Kept.ite
      | apply Kept.ite

theorem Kept.shadowCompare {s0 s : State} (h : Kept s0 s) (r : Rgn) : Kept s0 (State.shadowCompare s r) := by
  unfold State.shadowCompare
  try dsimp only
  with_reducible
    repeat' first
      | assumption | apply Kept.modRegion | apply Kept.bump | apply Kept.modHub | apply Kept.hardenMismatch | split

theorem Kept.copyRun {s0 s : State} (h : Kept s0 s) (src dst n : Nat) : Kept s0 (State.copyRun s src dst n) := by
  unfold State.copyRun
  with_reducible
    repeat' first
      | assumption | apply Kept.store

theorem Kept.putWork {s0 s : State} (h : Kept s0 s) (w : StoreWork) : Kept s0 (State.putWork s w) := by
  unfold State.putWork
  with_reducible
    repeat' first
      | assumption | apply Kept.modHub | apply Kept.store

theorem Kept.drainCommit {s0 s : State} (h : Kept s0 s) (m : DrainMsg) : Kept s0 (State.drainCommit s m) := by
  unfold State.drainCommit
  with_reducible
    repeat' first
      | assumption | apply Kept.putEntry | split

theorem Kept.drainReject {s0 s : State} (h : Kept s0 s) (m : DrainMsg) : Kept s0 (State.drainReject s m) := by
  unfold State.drainReject
  with_reducible
    repeat' first
      | assumption | apply Kept.putEntry | split

theorem Kept.storeReply {s0 s : State} (h : Kept s0 s) (r : Rgn) (kind : Nat) (dest tag q place step status : Nat)
    : Kept s0 (State.storeReply s r kind dest tag q place step status) := by
  unfold State.storeReply
  with_reducible
    repeat' first
      | assumption | apply Kept.drainCommit | apply Kept.drainReject | apply Kept.send | split

theorem Kept.replyEnds {s0 s : State} (h : Kept s0 s) (r : Rgn) (kind status tag : Nat) (w : StoreWork) : Kept s0
    (State.replyEnds s r kind status tag w) := by
  unfold State.replyEnds
  with_reducible
    repeat' first
      | assumption | apply Kept.storeReply | apply Kept.store | (apply Kept.foldl; intro _ _ _)

theorem Kept.beginWork {s0 s : State} (h : Kept s0 s) (q step : Nat) (full : Bool) : Kept s0 (State.beginWork s q
    step full).1 := by
  unfold State.beginWork
  with_reducible
    repeat' first
      | assumption | apply Kept.put | apply Kept.zeroFill | apply Kept.copyRun | apply Kept.store | apply Kept.ite
      | apply Kept.ite

theorem Kept.storeBegin {s0 s : State} (h : Kept s0 s) (r : Rgn) (m : DrainMsg) : Kept s0 (State.storeBegin s r m)
    := by
  unfold State.storeBegin
  with_reducible
    repeat' first
      | assumption | apply Kept.beginWork | apply Kept.copyRun | apply Kept.putWork | apply Kept.bump
      | apply Kept.replyEnds | apply Kept.ite | apply Kept.store | apply Kept.ite | split

theorem Kept.storeData {s0 s : State} (h : Kept s0 s) (m : DrainMsg) : Kept s0 (State.storeData s m) := by
  unfold State.storeData
  try dsimp only
  with_reducible
    repeat' first
      | assumption | apply Kept.store | apply Kept.putWork | split

theorem Kept.storeDigest {s0 s : State} (h : Kept s0 s) (m : DrainMsg) : Kept s0 (State.storeDigest s m) := by
  unfold State.storeDigest
  try dsimp only
  with_reducible
    repeat' first
      | assumption | apply Kept.store | apply Kept.putWork | split

theorem Kept.storeEnd {s0 s : State} (h : Kept s0 s) (r : Rgn) (m : DrainMsg) : Kept s0 (State.storeEnd s r m) :=
    by
  unfold State.storeEnd
  try dsimp only
  with_reducible
    repeat' first
      | assumption | apply Kept.storeReply | apply Kept.put | apply Kept.modHub | apply Kept.replyEnds
      | apply Kept.putWork | apply Kept.store | split

theorem Kept.unlessTorn {s0 s : State} (h : Kept s0 s) (m : DrainMsg) (f : State → State) (hf : ∀ x0, Kept s0 x0 →
    Kept s0 (f x0)) : Kept s0 (State.unlessTorn s m f) := by
  unfold State.unlessTorn
  with_reducible
    repeat' first
      | assumption | apply hf | apply Kept.discardTorn | split

theorem Kept.drainRow {s0 s : State} (h : Kept s0 s) (l : Lnk) (m : DrainMsg) (f : State → State) (hf : ∀ x, Kept
    s0 x → Kept s0 (f x)) : Kept s0 (State.drainRow s l m f) := by
  unfold State.drainRow
  with_reducible
    repeat' first
      | assumption | apply hf | apply Kept.started | apply Kept.unlessTorn | (intro _)

theorem Kept.sendFrame {s0 s : State} (h : Kept s0 s) (r : Rgn) (l : Lnk) (f : Frame) : Kept s0 (State.sendFrame s
    r l f) := by
  unfold State.sendFrame
  with_reducible
    repeat' first
      | assumption | apply Kept.storeBegin | apply Kept.storeData | apply Kept.storeDigest | apply Kept.storeEnd
      | apply Kept.enqueueFlit | split

theorem Kept.startDrain {s0 s : State} (h : Kept s0 s) (r : Rgn) (x : Ctx) : Kept s0 (State.startDrain s r x) :=
    by
  unfold State.startDrain
  with_reducible
    repeat' first
      | assumption | apply Kept.put | apply Kept.modHub | apply Kept.sendFrame | (apply Kept.foldl; intro _ _ _)
      | split

theorem Kept.commitNow {s0 s : State} (h : Kept s0 s) (r : Rgn) (e ticket : Nat) : Kept s0 (State.commitNow s r e
    ticket) := by
  unfold State.commitNow
  with_reducible
    repeat' first
      | assumption | apply Kept.commit | split

theorem Kept.restored {s0 s : State} (h : Kept s0 s) (x : Restore) : Kept s0 (State.restored s x) := by
  unfold State.restored
  with_reducible
    repeat' first
      | assumption | apply Kept.put | apply Kept.modHub | apply Kept.copyRun | apply Kept.ite | apply Kept.ite

theorem Kept.serveRestore {s0 s : State} (h : Kept s0 s) (r : Rgn) (m : DrainMsg) : Kept s0 (State.serveRestore s
    r m) := by
  unfold State.serveRestore
  with_reducible
    repeat' first
      | assumption | apply Kept.send | apply Kept.store | (apply Kept.foldl; intro _ _ _) | split

theorem Kept.putRestore {s0 s : State} (h : Kept s0 s) (x : Restore) : Kept s0 (State.putRestore s x) := by
  unfold State.putRestore
  with_reducible
    repeat' first
      | assumption | apply Kept.modHub

theorem Kept.restoreReq {s0 s : State} (h : Kept s0 s) (r : Rgn) (m : DrainMsg) : Kept s0 (State.restoreReq s r m)
    := by
  unfold State.restoreReq
  try dsimp only
  with_reducible
    repeat' first
      | assumption | apply Kept.copyRun | apply Kept.put | apply Kept.serveRestore | apply Kept.putRestore | apply Kept.send
      | (apply Kept.foldl; intro _ _ _) | apply Kept.store | split

theorem Kept.askOther {s0 s : State} (h : Kept s0 s) (x : Restore) (tile first n : Nat) : Kept s0 (State.askOther
    s x tile first n) := by
  unfold State.askOther
  with_reducible
    repeat' first
      | assumption | apply Kept.send | apply Kept.ite | apply Kept.ite | (apply Kept.foldl; intro _ _ _) | split

theorem Kept.checkTile {s0 s : State} (h : Kept s0 s) (x : Restore) (tile : Nat) : Kept s0 (State.checkTile s x
    tile) := by
  unfold State.checkTile
  with_reducible
    repeat' first
      | assumption | apply Kept.putRestore | apply Kept.restored | apply Kept.bump | apply Kept.modHub
      | apply Kept.askOther | apply Kept.ite | apply Kept.ite

theorem Kept.restoreData {s0 s : State} (h : Kept s0 s) (m : DrainMsg) : Kept s0 (State.restoreData s m) := by
  unfold State.restoreData
  try dsimp only
  with_reducible
    repeat' first
      | assumption | apply Kept.store | apply Kept.zeroFill | apply Kept.checkTile | split

theorem Kept.digestFrame {s0 s : State} (h : Kept s0 s) (m : DrainMsg) : Kept s0 (State.digestFrame s m) := by
  unfold State.digestFrame
  with_reducible
    repeat' first
      | assumption | apply Kept.checkTile | apply Kept.storeDigest | apply Kept.store
      | (apply Kept.foldl; intro _ _ _) | split

theorem Kept.pairDone {s0 s : State} (h : Kept s0 s) (r t result : Nat) : Kept s0 (State.pairDone s r t result) :=
    by
  unfold State.pairDone
  with_reducible
    repeat' first
      | assumption | apply Kept.put | apply Kept.modHub | apply Kept.bump | apply Kept.ite | apply Kept.ite

theorem Kept.pairRequest {s0 s : State} (h : Kept s0 s) (r : Rgn) (t : Nat) : Kept s0 (State.pairRequest s r t) :=
    by
  unfold State.pairRequest
  with_reducible
    repeat' first
      | assumption | apply Kept.put | apply Kept.modHub | apply Kept.send | apply Kept.ite | apply Kept.ite
      | (apply Kept.foldl; intro _ _ _)

theorem Kept.pair {s0 s : State} (h : Kept s0 s) (l : Lnk) (m : DrainMsg) : Kept s0 (State.pair s l m) := by
  unfold State.pair
  with_reducible
    repeat' first
      | assumption | apply Kept.send | apply Kept.store

theorem Kept.pairAnswer {s0 s : State} (h : Kept s0 s) (x : Pairing) (src feed status : Nat) : Kept s0
    (State.pairAnswer s x src feed status) := by
  unfold State.pairAnswer
  with_reducible
    repeat' first
      | assumption | apply Kept.modHub | apply Kept.pairDone | apply Kept.ite | apply Kept.ite

theorem Kept.pairAck {s0 s : State} (h : Kept s0 s) (m : DrainMsg) : Kept s0 (State.pairAck s m) := by
  unfold State.pairAck
  with_reducible
    repeat' first
      | assumption | apply Kept.pairAnswer | apply Kept.store | split

theorem Kept.pairTimeout {s0 s : State} (h : Kept s0 s) (r : Rgn) (t : Nat) : Kept s0 (State.pairTimeout s r t) :=
    by
  unfold State.pairTimeout
  with_reducible
    repeat' first
      | assumption | apply Kept.pairDone | split

theorem Kept.pairBell {s0 s : State} (h : Kept s0 s) : Kept s0 (State.pairBell s) := by
  unfold State.pairBell
  with_reducible
    repeat' first
      | assumption | apply Kept.modHub

theorem Kept.positionFailed {s0 s : State} (h : Kept s0 s) (addr : Nat) : Kept s0 (State.positionFailed s addr) :=
    by
  unfold State.positionFailed
  with_reducible
    repeat' first
      | assumption | apply Kept.emit | apply Kept.put | apply Kept.teardownNotice | apply Kept.ite | apply Kept.ite
      | (apply Kept.foldl; intro _ _ _)

theorem Kept.graftGo {s0 s : State} (h : Kept s0 s) : Kept s0 (State.graftGo s) := by
  unfold State.graftGo
  with_reducible
    repeat' first
      | assumption | apply Kept.put | split

theorem Kept.copyRoutes {s0 s : State} (h : Kept s0 s) (r : Rgn) : Kept s0 (State.copyRoutes s r) := by
  unfold State.copyRoutes
  with_reducible
    repeat' first
      | assumption | (apply Kept.foldl; intro _ _ _) | apply Kept.ite | split | apply Kept.record0

theorem Kept.graft {s0 s : State} (h : Kept s0 s) (addr : Nat) (spare : Bool) (via : Lnk) : Kept s0 (State.graft s
    addr spare via) := by
  unfold State.graft
  with_reducible
    repeat' first
      | assumption | apply Kept.put | apply Kept.graftGo | apply Kept.copyRoutes | (apply Kept.foldl; intro _ _ _)
      | split

theorem Kept.hardenReq {s0 s : State} (h : Kept s0 s) : Kept s0 (State.hardenReq s) := by
  unfold State.hardenReq
  with_reducible
    repeat' first
      | assumption | apply Kept.put | split

theorem Kept.unitAdmit {s0 s : State} (h : Kept s0 s) : Kept s0 (State.unitAdmit s) := by
  unfold State.unitAdmit
  with_reducible
    repeat' first
      | assumption | apply Kept.put | apply Kept.modHub | split

theorem Kept.hardenRetry {s0 s : State} (h : Kept s0 s) (kind region index : Nat) : Kept s0 (State.hardenRetry s
    kind region index) := by
  unfold State.hardenRetry
  with_reducible
    repeat' first
      | assumption | apply Kept.put | apply Kept.ite | apply Kept.ite

theorem Kept.hardenBell {s0 s : State} (h : Kept s0 s) : Kept s0 (State.hardenBell s) := by
  unfold State.hardenBell
  with_reducible
    repeat' first
      | assumption | apply Kept.setUnit | apply Kept.modHub | apply Kept.modRegion | apply Kept.bump | apply Kept.put
      | apply Kept.ite | apply Kept.ite

theorem Kept.recommendPair {s0 s : State} (h : Kept s0 s) (interval k p : Nat) : Kept s0 (State.recommendPair s
    interval k p) := by
  unfold State.recommendPair
  with_reducible
    repeat' first
      | assumption | apply Kept.put | apply Kept.modHub | apply Kept.ite | apply Kept.ite

theorem Kept.setInterval {s0 s : State} (h : Kept s0 s) (p atStep interval : Nat) : Kept s0 (State.setInterval s p
    atStep interval) := by
  unfold State.setInterval
  with_reducible
    repeat' first
      | assumption | apply Kept.modHub | apply Kept.put | split

theorem Kept.intervalUpdate {s0 s : State} (h : Kept s0 s) (p : Prt) (m : SecMeas) : Kept s0 (State.intervalUpdate
    s p m) := by
  unfold State.intervalUpdate
  with_reducible
    repeat' first
      | assumption | apply Kept.recommendPair | apply Kept.setInterval | apply Kept.emit | apply Kept.ite
      | apply Kept.ite | (apply Kept.foldl; intro _ _ _)

theorem Kept.countCheck {s0 s : State} (h : Kept s0 s) (l : Lnk) (z : FlitCheck) : Kept s0 (State.countCheck s l
    z) := by
  unfold State.countCheck
  with_reducible
    repeat' first
      | assumption | apply Kept.bump | split

theorem Kept.sendProbe {s0 s : State} (h : Kept s0 s) (l : Lnk) : Kept s0 (State.sendProbe s l) := by
  unfold State.sendProbe
  with_reducible
    repeat' first
      | assumption | apply Kept.enqueueFlit

theorem Kept.linkTraining {s0 s : State} (h : Kept s0 s) (l : Lnk) (passed polInv : Nat) (reversed permuted :
    Bool) : Kept s0 (State.linkTraining s l passed polInv reversed permuted) := by
  unfold State.linkTraining
  with_reducible
    repeat' first
      | assumption | apply Kept.put | apply Kept.modLink | apply Kept.sendProbe | split

theorem Kept.trainingRetry {s0 s : State} (h : Kept s0 s) (l : Lnk) : Kept s0 (State.trainingRetry s l) := by
  unfold State.trainingRetry
  with_reducible
    repeat' first
      | assumption | apply Kept.put | apply Kept.ite | apply Kept.ite

theorem Kept.timingFlit {s0 s : State} (h : Kept s0 s) (l : Lnk) (f : State → State) (hf : ∀ x0, Kept s0 x0 → Kept
    s0 (f x0)) : Kept s0 (State.timingFlit s l f) := by
  unfold State.timingFlit
  with_reducible
    repeat' first
      | assumption | apply hf | apply Kept.modLink | apply Kept.bump | split

theorem Kept.timingProbe {s0 s : State} (h : Kept s0 s) (l : Lnk) (time residence : Nat) : Kept s0
    (State.timingProbe s l time residence) := by
  unfold State.timingProbe
  with_reducible
    repeat' first
      | assumption | apply Kept.timingFlit | apply Kept.enqueueFlit | (intro _)

theorem Kept.probeEcho {s0 s : State} (h : Kept s0 s) (l : Lnk) (time residence arrival : Nat) : Kept s0
    (State.probeEcho s l time residence arrival) := by
  unfold State.probeEcho
  with_reducible
    repeat' first
      | assumption | apply Kept.timingFlit | apply Kept.modLink | apply Kept.sendProbe | apply Kept.put
      | apply Kept.ite | apply Kept.pump | apply Kept.ite | (intro _) | (apply Kept.foldl; intro _ _ _)

theorem Kept.applyAck {s0 s : State} (h : Kept s0 s) (l : Lnk) (h : FlitHdr) : Kept s0 (State.applyAck s l h) :=
    by
  unfold State.applyAck
  with_reducible
    repeat' first
      | assumption | apply Kept.modLink | apply Kept.pump

theorem Kept.applyHeader {s0 s : State} (h : Kept s0 s) (l : Lnk) (h : FlitHdr) : Kept s0 (State.applyHeader s l
    h) := by
  unfold State.applyHeader
  with_reducible
    repeat' first
      | assumption | apply Kept.modLink | apply Kept.pump

theorem Kept.replay {s0 s : State} (h : Kept s0 s) (l : Lnk) : Kept s0 (State.replay s l) := by
  unfold State.replay
  with_reducible
    repeat' first
      | assumption | apply Kept.bump | apply Kept.modLink | apply Kept.emit | (apply Kept.foldl; intro _ _ _)

theorem Kept.copyMismatch {s0 s : State} (h : Kept s0 s) (l : Lnk) : Kept s0 (State.copyMismatch s l) := by
  unfold State.copyMismatch
  with_reducible
    repeat' first
      | assumption | apply Kept.bump | apply Kept.put | apply Kept.modHub | apply Kept.ite | split

theorem Kept.laneFail {s0 s : State} (h : Kept s0 s) (l : Lnk) (surviving : Nat) : Kept s0 (State.laneFail s l
    surviving) := by
  unfold State.laneFail
  with_reducible
    repeat' first
      | assumption | apply Kept.put | apply Kept.bump | apply Kept.replay | apply Kept.modHub | apply Kept.ite
      | apply Kept.copyMismatch | apply Kept.modLink | apply Kept.ite

theorem Kept.replayOrFail {s0 s : State} (h : Kept s0 s) (l : Lnk) : Kept s0 (State.replayOrFail s l) := by
  unfold State.replayOrFail
  with_reducible
    repeat' first
      | assumption | apply Kept.replay | apply Kept.nextTicket | apply Kept.modLink | apply Kept.laneFail | split

theorem Kept.nak {s0 s : State} (h : Kept s0 s) (l : Lnk) (ack : Nat) (v : FlitCheck) : Kept s0 (State.nak s l ack
    v) := by
  unfold State.nak
  with_reducible
    repeat' first
      | assumption | apply Kept.modLink | apply Kept.replayOrFail | apply Kept.ite | apply Kept.countCheck
      | apply Kept.ite

theorem Kept.replayTimeout {s0 s : State} (h : Kept s0 s) (l : Lnk) : Kept s0 (State.replayTimeout s l) := by
  unfold State.replayTimeout
  with_reducible
    repeat' first
      | assumption | apply Kept.replayOrFail | split

theorem Kept.bareFlit {s0 s : State} (h : Kept s0 s) (l : Lnk) (type : Nat) : Kept s0 (State.bareFlit s l type) :=
    by
  unfold State.bareFlit
  with_reducible
    repeat' first
      | assumption | apply Kept.modLink | apply Kept.emit

theorem Kept.idle {s0 s : State} (h : Kept s0 s) (l : Lnk) : Kept s0 (State.idle s l) := by
  unfold State.idle
  with_reducible
    repeat' first
      | assumption | apply Kept.bareFlit | apply Kept.ite | apply Kept.ite

theorem Kept.idleFlit {s0 s : State} (h : Kept s0 s) (l : Lnk) (h : FlitHdr) (v : FlitCheck) : Kept s0
    (State.idleFlit s l h v) := by
  unfold State.idleFlit
  with_reducible
    repeat' first
      | assumption | apply Kept.countCheck | apply Kept.applyHeader | apply Kept.ite | split

theorem Kept.linkWiden {s0 s : State} (h : Kept s0 s) (l : Lnk) : Kept s0 (State.linkWiden s l) := by
  unfold State.linkWiden
  with_reducible
    repeat' first
      | assumption | apply Kept.put | apply Kept.pump | apply Kept.modLink | split | apply Kept.ite | split

theorem Kept.linkBell {s0 s : State} (h : Kept s0 s) (l : Lnk) (x : Sensors) : Kept s0 (State.linkBell s l x) :=
    by
  unfold State.linkBell
  with_reducible
    repeat' first
      | assumption | apply Kept.put | apply Kept.bump | apply Kept.modLink | apply Kept.pump | apply Kept.ite
      | apply Kept.copyMismatch | apply Kept.ite

theorem Kept.routeBell {s0 s : State} (h : Kept s0 s) : Kept s0 (State.routeBell s) := by
  unfold State.routeBell
  with_reducible
    repeat' first
      | assumption | apply Kept.put | (apply Kept.foldl; intro _ _ _) | split

theorem Kept.rollOn {s0 s : State} (h : Kept s0 s) (l : Lnk) (kind : Nat) (m : RollMsg) : Kept s0 (State.rollOn s
    l kind m) := by
  unfold State.rollOn
  try dsimp only
  repeat' first
  |
  with_reducible
    repeat' first
      | assumption | apply Kept.enqueueFlit | with_reducible exact h | with_reducible assumption
      | with_reducible apply Kept.enqueueFlit

theorem Kept.modRoll {s0 s : State} (h : Kept s0 s) (f : Roll → Roll) : Kept s0 (State.modRoll s f) := by
  unfold State.modRoll
  with_reducible
    repeat' first
      | assumption | apply Kept.modHub

theorem Kept.announce {s0 s : State} (h : Kept s0 s) (but : Option Lnk) (kind : Nat) (m : RollMsg) (residence :
    List Nat) : Kept s0 (State.announce s but kind m residence) := by
  unfold State.announce
  with_reducible
    repeat' first
      | assumption | apply Kept.modHub | apply Kept.rollOn | apply Kept.modRoll | (apply Kept.foldl; intro _ _ _)
      | split

theorem Kept.rollFail {s0 s : State} (h : Kept s0 s) (code : Nat) : Kept s0 (State.rollFail s code) := by
  unfold State.rollFail
  with_reducible
    repeat' first
      | assumption | apply Kept.put | (apply Kept.foldl; intro _ _ _) | split

theorem Kept.mergeSerials {s0 s : State} (h : Kept s0 s) (m : RollMsg) : Kept s0 (State.mergeSerials s m).1 := by
  unfold State.mergeSerials
  with_reducible
    repeat' first
      | assumption | apply Kept.modRoll

theorem Kept.rollFrame {s0 s : State} (h : Kept s0 s) (l : Lnk) (f : State → State) (hf : ∀ x0, Kept s0 x0 → Kept
    s0 (f x0)) : Kept s0 (State.rollFrame s l f) := by
  unfold State.rollFrame
  with_reducible
    repeat' first
      | assumption | apply hf | apply Kept.bump | apply Kept.modLink | apply Kept.ite | apply Kept.ite

theorem Kept.sendReady {s0 s : State} (h : Kept s0 s) : Kept s0 (State.sendReady s) := by
  unfold State.sendReady
  with_reducible
    repeat' first
      | assumption | apply Kept.modRoll | apply Kept.put | apply Kept.rollOn | split

theorem Kept.greet {s0 s : State} (h : Kept s0 s) (l : Lnk) : Kept s0 (State.greet s l) := by
  unfold State.greet
  with_reducible
    repeat' first
      | assumption | apply Kept.modRoll | apply Kept.put | apply Kept.rollOn | split

theorem Kept.restartRoll {s0 s : State} (h : Kept s0 s) : Kept s0 (State.restartRoll s) := by
  unfold State.restartRoll
  with_reducible
    repeat' first
      | assumption | apply Kept.put | apply Kept.modRoll | apply Kept.modHub | apply Kept.greet | apply Kept.ite
      | (apply Kept.foldl; intro _ _ _) | split

theorem Kept.writeRollCtrl {s0 s : State} (h : Kept s0 s) (v : Nat) : Kept s0 (State.writeRollCtrl s v) := by
  unfold State.writeRollCtrl
  with_reducible
    repeat' first
      | assumption | apply Kept.put | apply Kept.restartRoll | apply Kept.ite | split

theorem Kept.echoAndGreet {s0 s : State} (h : Kept s0 s) (l : Lnk) (time residence arrival : Nat) : Kept s0
    (State.echoAndGreet s l time residence arrival) := by
  unfold State.echoAndGreet
  with_reducible
    repeat' first
      | assumption | apply Kept.probeEcho | apply Kept.greet | apply Kept.ite | apply Kept.ite

theorem Kept.hello {s0 s : State} (h : Kept s0 s) (l : Lnk) (m : RollMsg) : Kept s0 (State.hello s l m) := by
  unfold State.hello
  with_reducible
    repeat' first
      | assumption | apply Kept.rollFrame | apply Kept.put | apply Kept.rollFail | apply Kept.modRoll
      | apply Kept.sendReady | apply Kept.mergeSerials | apply Kept.announce | apply Kept.ite | apply Kept.ite
      | (intro _)

theorem Kept.claim {s0 s : State} (h : Kept s0 s) (l : Lnk) (m : RollMsg) : Kept s0 (State.claim s l m) := by
  unfold State.claim
  with_reducible
    repeat' first
      | assumption | apply Kept.rollFrame | apply Kept.mergeSerials | apply Kept.put | apply Kept.announce
      | apply Kept.ite | apply Kept.ite | (intro _)

theorem Kept.bindAddr {s0 s : State} (h : Kept s0 s) : Kept s0 (State.bindAddr s) := by
  unfold State.bindAddr
  with_reducible
    repeat' first
      | assumption | apply Kept.put | split

theorem Kept.bindFrame {s0 s : State} (h : Kept s0 s) (l : Lnk) (m : RollMsg) (residence : List Nat) :
    Kept s0 (s.bindFrame l m residence) := by
  have last : ∀ y : State, Kept s0 y → Kept s0 (if m.second.toNat = y.serial then
      (y.announce none rkProbe (y.rollMsg 1 0 0 0 0 0 0)).sendReady else y.sendReady) :=
    fun y hy => Kept.ite (hy.announce ..).sendReady hy.sendReady
  refine Kept.rollFrame h _ _ (fun x hx => Kept.ite (Kept.ite hx ((hx.modRoll _).rollFail _)) (Kept.ite hx ?_))
  exact last _ ((((((((hx.modRoll _).bindAddr.put ..).put ..).put ..).put ..).modHub _).announce _ _ _ _))

theorem Kept.probeFrame {s0 s : State} (h : Kept s0 s) (l : Lnk) (m : RollMsg) (residence : List Nat) : Kept s0
    (State.probeFrame s l m residence) := by
  unfold State.probeFrame
  with_reducible
    repeat' first
      | assumption | apply Kept.rollFrame | apply Kept.modRoll | apply Kept.modHub | apply Kept.announce
      | apply Kept.sendReady | split | (intro _) | apply Kept.ite | split

theorem Kept.takeStart {s0 s : State} (h : Kept s0 s) (epoch f l : Nat) : Kept s0 (State.takeStart s epoch f l) :=
    by
  unfold State.takeStart
  with_reducible
    repeat' first
      | assumption | apply Kept.put | apply Kept.modHub | apply Kept.pump | (apply Kept.foldl; intro _ _ _) | split

theorem Kept.startFabric {s0 s : State} (h : Kept s0 s) : Kept s0 (State.startFabric s) := by
  unfold State.startFabric
  with_reducible
    repeat' first
      | assumption | apply Kept.announce | apply Kept.takeStart

theorem Kept.answerJoin {s0 s : State} (h : Kept s0 s) (r : Rgn) (m : RollMsg) : Kept s0 (State.answerJoin s r m)
    := by
  unfold State.answerJoin
  with_reducible
    repeat' first
      | assumption | apply Kept.send

theorem Kept.offer {s0 s : State} (h : Kept s0 s) : Kept s0 (State.offer s) := by
  unfold State.offer
  with_reducible
    repeat' first
      | assumption | apply Kept.send

theorem Kept.candidate {s0 s : State} (h : Kept s0 s) (m : RollMsg) : Kept s0 (State.candidate s m) := by
  unfold State.candidate
  with_reducible
    repeat' first
      | assumption | apply Kept.modRoll | apply Kept.ite | split

theorem Kept.nameDeputy {s0 s : State} (h : Kept s0 s) : Kept s0 (State.nameDeputy s) := by
  unfold State.nameDeputy
  try dsimp only
  with_reducible
    repeat' first
      | assumption | apply Kept.modRoll | apply Kept.send | split

theorem Kept.becomeDeputy {s0 s : State} (h : Kept s0 s) (m : RollMsg) : Kept s0 (State.becomeDeputy s m) := by
  unfold State.becomeDeputy
  with_reducible
    repeat' first
      | assumption | apply Kept.put | apply Kept.modRoll | apply Kept.modHub | apply Kept.announce | apply Kept.ite
      | split

theorem Kept.electBell {s0 s : State} (h : Kept s0 s) (m : BellMsg) : Kept s0 (State.electBell s m) := by
  unfold State.electBell
  with_reducible
    repeat' first
      | assumption | apply Kept.modRoll | apply Kept.offer | apply Kept.nameDeputy | apply Kept.ite | split

theorem Kept.readyFrame {s0 s : State} (h : Kept s0 s) (l : Lnk) (m : RollMsg) : Kept s0 (State.readyFrame s l m)
    := by
  unfold State.readyFrame
  with_reducible
    repeat' first
      | assumption | apply Kept.rollFrame | apply Kept.answerJoin | apply Kept.send | apply Kept.modLink
      | apply Kept.rollFail | apply Kept.startFabric | apply Kept.sendReady | apply Kept.ite | apply Kept.candidate
      | apply Kept.ite | (intro _)

theorem Kept.startFrame {s0 s : State} (h : Kept s0 s) (l : Lnk) (m : RollMsg) : Kept s0 (State.startFrame s l m)
    := by
  unfold State.startFrame
  with_reducible
    repeat' first
      | assumption | apply Kept.rollFrame | apply Kept.rollFail | apply Kept.modRoll | apply Kept.put
      | apply Kept.modHub | apply Kept.announce | apply Kept.takeStart | apply Kept.becomeDeputy | split | (intro _)

theorem Kept.master {s0 s : State} (h : Kept s0 s) : Kept s0 (State.master s) := by
  unfold State.master
  with_reducible
    repeat' first
      | assumption | apply Kept.bindAddr | apply Kept.modRoll | apply Kept.put | apply Kept.modHub

theorem Kept.becomeMaster {s0 s : State} (h : Kept s0 s) : Kept s0 (State.becomeMaster s) := by
  unfold State.becomeMaster
  with_reducible
    repeat' first
      | assumption | apply Kept.master | apply Kept.announce | apply Kept.ite | apply Kept.ite

theorem Kept.quietCompletion {s0 s : State} (h : Kept s0 s) : Kept s0 (State.quietCompletion s) := by
  unfold State.quietCompletion
  with_reducible
    repeat' first
      | assumption | apply Kept.startFabric | split

theorem Kept.frameRepeat {s0 s : State} (h : Kept s0 s) (l : Lnk) : Kept s0 (State.frameRepeat s l) := by
  unfold State.frameRepeat
  with_reducible
    repeat' first
      | assumption | apply Kept.rollOn | (apply Kept.foldl; intro _ _ _) | split

theorem Kept.rollTimeout {s0 s : State} (h : Kept s0 s) : Kept s0 (State.rollTimeout s) := by
  unfold State.rollTimeout
  with_reducible
    repeat' first
      | assumption | apply Kept.rollFail | apply Kept.ite | apply Kept.ite

theorem Kept.fabricOfOne {s0 s : State} (h : Kept s0 s) : Kept s0 (State.fabricOfOne s) := by
  unfold State.fabricOfOne
  with_reducible
    repeat' first
      | assumption | apply Kept.modRoll | apply Kept.master | apply Kept.takeStart | apply Kept.ite | apply Kept.ite

theorem Kept.putColl {s0 s : State} (h : Kept s0 s) (r : Rgn) (p : Prt) (e : Entry) (c : Coll) (finished : Bool) :
    Kept s0 (State.putColl s r p e c finished) := by
  unfold State.putColl
  with_reducible
    repeat' first
      | assumption | apply Kept.setCmds | apply Kept.meetBad | apply Kept.mismatch

theorem Kept.sendRanks {s0 s : State} (h : Kept s0 s) (r : Rgn) (x : Ctx) (c : Coll) (ps : List (Nat × Bool × List
    Byte)) : Kept s0 (State.sendRanks s r x c ps) := by
  unfold State.sendRanks
  with_reducible
    repeat' first
      | assumption | apply Kept.sendAll

theorem Kept.takeExchange {s0 s : State} (h : Kept s0 s) (r : Rgn) (p : Prt) (e : Entry) (c : Coll) (f : Flit) :
    Kept s0 (State.takeExchange s r p e c f) := by
  unfold State.takeExchange
  with_reducible
    repeat' first
      | assumption | apply Kept.putColl | apply Kept.send | apply Kept.ite | apply Kept.ite

theorem Kept.takeMessage {s0 s : State} (h : Kept s0 s) (r : Rgn) (p : Prt) (l : Lnk) (e : Entry) (c : Coll) (f :
    Flit) : Kept s0 (State.takeMessage s r p l e c f) := by
  unfold State.takeMessage
  with_reducible
    repeat' first
      | assumption | apply Kept.bump | apply Kept.putColl | apply Kept.mismatch | split

theorem Kept.takeGroup {s0 s : State} (h : Kept s0 s) (r : Rgn) (p : Prt) (l : Lnk) (e : Entry) (c : Coll) (f :
    Flit) : Kept s0 (State.takeGroup s r p l e c f) := by
  unfold State.takeGroup
  with_reducible
    repeat' first
      | assumption | apply Kept.bump | apply Kept.liveAdd | apply Kept.putColl | apply Kept.sendRanks | split

theorem Kept.freeBad {s0 s : State} (h : Kept s0 s) (l : Lnk) (f : Flit) : Kept s0 (State.freeBad s l f) := by
  unfold State.freeBad
  with_reducible
    repeat' first
      | assumption | apply Kept.modLink | apply Kept.later | apply Kept.bump | split | apply Kept.later

theorem Kept.tryTake {s0 s z : State} {l : Lnk} {f : Flit} (h : Kept s0 s) (e : s.tryTake l f = some z) : Kept s0 z
    := by
  unfold State.tryTake at e
  dsimp only at e
  with_reducible
    repeat' first
      | contradiction | (injection e with e; subst e) | exact h | apply Kept.freeBad | apply Kept.takeGroup | apply Kept.takeExchange
      | apply Kept.takeMessage | apply Kept.putColl | split at e

theorem Kept.takeDirect {s0 s z : State} {l : Lnk} {f : Flit} (h : Kept s0 s) (e : s.takeDirect l f = some z) :
    Kept s0 z := by
  unfold State.takeDirect at e
  split at e
  · split at e
    · cases e; exact Kept.tryTake h (by assumption)
    · cases e
  · cases e

theorem Kept.firstUse {s0 : State} {take : Flit → Option State} (ht : ∀ f z, take f = some z → Kept s0 z) :
    ∀ (q : List Flit) (i : Nat) (z : Nat × State), State.firstUse take i q = some z → Kept s0 z.2
  | [], _, _, e => by cases e
  | f :: t, i, z, e => by
    unfold State.firstUse at e
    split at e
    · cases e; exact ht _ _ (by assumption)
    · exact Kept.firstUse ht t _ z e

theorem Kept.answerLast {s0 s : State} (h : Kept s0 s) (l : Lnk) (f : Flit) : Kept s0 (State.answerLast s l f) := by
  have own : ∀ z : Option State, (∀ y, z = some y → Kept s0 y) → Kept s0 (z.getD s) := by
    intro z hz
    cases z with
    | none => exact h
    | some y => exact hz y rfl
  unfold State.answerLast
  with_reducible
    repeat' first
      | assumption | (refine own _ (fun y e => Kept.tryTake h e)) | apply Kept.send | apply Kept.ite

theorem Kept.rescan {s0 : State} (l : Lnk) : ∀ (n : Nat) {s : State}, Kept s0 s → Kept s0 (s.rescan l n)
  | 0, _, h => h
  | n + 1, s, h => by
    unfold State.rescan
    dsimp only
    split
    · rename_i e
      exact Kept.rescan l n (((Kept.firstUse (fun _ _ => Kept.tryTake h) _ _ _ e).modLink ..).stageLevel ..)
    · split
      · rename_i e
        exact Kept.rescan l n ((((Kept.firstUse (fun _ _ => Kept.takeDirect h) _ _ _ e).modLink ..).returnCredit ..).answerLast ..)
      · split
        · exact h
        · split
          · exact Kept.rescan l n ((((h.modLink ..).stageLevel ..).returnCredit ..).answerLast ..)
          · exact h

theorem Kept.rescanAll {s0 s : State} (h : Kept s0 s) (l : Lnk) : Kept s0 (State.rescanAll s l) := by
  unfold State.rescanAll
  with_reducible
    repeat' first
      | assumption | apply Kept.rescan

theorem Kept.noteStage {s0 s : State} (h : Kept s0 s) (f : Flit) (y : StageCheck) : Kept s0 (State.noteStage s f
    y) := by
  unfold State.noteStage
  with_reducible
    repeat' first
      | assumption | apply Kept.modLink | apply Kept.ite | split

theorem Kept.collective {s0 s : State} (h : Kept s0 s) (buffer : Nat) (f : Flit) (y : StageCheck) :
    Kept s0 (State.collective s buffer f y) := by
  have rest : ∀ z : State, Kept s0 z → Kept s0 (match (z.noteStage f (onArrival y)).takeDirect (tlinkOf f) f with
      | some s' => (((s'.returnCredit buffer).answerLast (tlinkOf f) f).rescanAll (tlinkOf f)).stageLevel (tlinkOf f)
      | none =>
        let s := z.noteStage f y
        if s.links[tlinkOf f].backlog.isEmpty && decide (s.stageUsed (tlinkOf f) < 16384) then
          (((s.modLink (tlinkOf f) (fun x => { x with stage := x.stage ++ [f] })).stageLevel (tlinkOf f)).returnCredit
            buffer).answerLast (tlinkOf f) f
        else s.modLink (tlinkOf f) (fun x => { x with backlog := x.backlog ++ [(buffer, f)] })) := by
    intro z hz
    split
    · rename_i e
      exact ((((Kept.takeDirect (hz.noteStage ..) e).returnCredit ..).answerLast ..).rescanAll ..).stageLevel ..
    · exact Kept.ite (((((hz.noteStage ..).modLink ..).stageLevel ..).returnCredit ..).answerLast ..) ((hz.noteStage ..).modLink ..)
  unfold State.collective
  exact Kept.ite ((h.discardTorn ..).returnCredit ..) (rest _ (Kept.ite h (h.rescanAll ..)))

theorem Kept.collArrive {s0 s : State} (h : Kept s0 s) (l : Lnk) (f : Flit) (buffer : Nat) (y : StageCheck) : Kept
    s0 (State.collArrive s l f buffer y) := by
  unfold State.collArrive
  with_reducible
    repeat' first
      | assumption | apply Kept.refuseFlit | apply Kept.returnCredit | apply Kept.collective | split

theorem Kept.startColl {s0 s : State} (h : Kept s0 s) (r : Rgn) (p : Prt) (l : Lnk) (e : Entry) (c : Coll) : Kept
    s0 (State.startColl s r p l e c) := by
  unfold State.startColl
  with_reducible
    repeat' first
      | assumption | apply Kept.putColl | apply Kept.sendRanks | apply Kept.collective | apply Kept.sendAll
      | apply Kept.ite | apply Kept.ite | (apply Kept.foldl; intro _ _ _)

theorem Kept.countQuantized {s0 s : State} (h : Kept s0 s) (r : Rgn) (p : Prt) (e : Entry) : Kept s0
    (State.countQuantized s r p e) := by
  unfold State.countQuantized
  with_reducible
    repeat' first
      | assumption | apply Kept.postAll | apply Kept.ite | split

theorem Kept.issueColl {s0 s : State} (h : Kept s0 s) (l : Lnk) (op : Nat) (codes : Ctx → List Nat) (y : EngCheck)
    : Kept s0 (State.issueColl s l op codes y) := by
  unfold State.issueColl
  try dsimp only
  with_reducible
    repeat' first
      | assumption | apply Kept.issue | apply Kept.startColl | apply Kept.rescanAll | apply Kept.checkBlock
      | apply Kept.countQuantized | apply Kept.stageLevel | split

theorem Kept.followRails {s0 s : State} (h : Kept s0 s) : Kept s0 (State.followRails s) := by
  unfold State.followRails
  with_reducible
    repeat' first
      | assumption | apply Kept.modRegion | (apply Kept.foldl; intro _ _ _)

theorem Kept.followEngines {s0 s : State} (h : Kept s0 s) (r : Rgn) : Kept s0 (State.followEngines s r) := by
  unfold State.followEngines
  with_reducible
    repeat' first
      | assumption | apply Kept.put | (apply Kept.foldl; intro _ _ _)

theorem Kept.resetDie {s0 s : State} (h : Kept s0 s) (kept : List Nat) (r : Rgn) : Kept s0 (State.resetDie s kept
    r) := by
  unfold State.resetDie
  with_reducible
    repeat' first
      | assumption | apply Kept.modRegion | apply Kept.undefineAll | apply Kept.followRails | apply Kept.followEngines
      | apply Kept.record0

theorem Kept.resetAll {s0 s : State} (h : Kept s0 s) (last : Nat) : Kept s0 (s.resetAll last) :=
  ⟨h.queue, Nat.le_add_right_of_le h.ticket, h.sent, fun _ => rfl⟩

theorem Kept.coldReset {s0 s : State} (h : Kept s0 s) : Kept s0 (State.coldReset s) := by
  unfold State.coldReset
  with_reducible
    repeat' first
      | assumption | apply Kept.modHub | apply Kept.resetAll

theorem Kept.moduleReset {s0 s : State} (h : Kept s0 s) (cause : Nat) : Kept s0 (State.moduleReset s cause) := by
  unfold State.moduleReset
  with_reducible
    repeat' first
      | assumption | apply Kept.resetAll | split

theorem Kept.warmReset {s0 s : State} (h : Kept s0 s) : Kept s0 (State.warmReset s) := by
  unfold State.warmReset
  with_reducible
    repeat' first
      | assumption | apply Kept.resetDie | apply Kept.put | apply Kept.followEngines | (apply Kept.foldl; intro _ _ _)
      | split | apply Kept.ite | apply Kept.record0

theorem Kept.regionReset {s0 s : State} (h : Kept s0 s) (r : Rgn) : Kept s0 (State.regionReset s r) := by
  unfold State.regionReset
  with_reducible
    repeat' first
      | assumption | apply Kept.isolateRegion | apply Kept.resetDie | apply Kept.modRegion | apply Kept.put
      | (apply Kept.foldl; intro _ _ _)

theorem Kept.badAccess {s0 s : State} (h : Kept s0 s) : Kept s0 (State.badAccess s) := by
  unfold State.badAccess
  with_reducible
    repeat' first
      | assumption | apply Kept.bump

theorem Kept.sequenceIn {s0 s : State} (h : Kept s0 s) : Kept s0 (State.sequenceIn s) := by
  unfold State.sequenceIn
  with_reducible
    repeat' first
      | assumption | apply Kept.modHub | split

theorem Kept.bootRom {s0 s : State} (h : Kept s0 s) : Kept s0 (State.bootRom s) := by
  unfold State.bootRom
  with_reducible
    repeat' first
      | assumption | apply Kept.put | apply Kept.modHub | apply Kept.sequenceIn | apply Kept.ite | apply Kept.ite
      | split

theorem Kept.doWake {s0 s : State} (h : Kept s0 s) : Kept s0 (State.doWake s) := by
  unfold State.doWake
  with_reducible
    repeat' first
      | assumption | apply Kept.put | apply Kept.modHub | split

theorem Kept.requestWake {s0 s : State} (h : Kept s0 s) : Kept s0 (State.requestWake s) := by
  unfold State.requestWake
  with_reducible
    repeat' first
      | assumption | apply Kept.doWake | apply Kept.modHub | apply Kept.ite | apply Kept.ite

theorem Kept.pwrEnAssert {s0 s : State} (h : Kept s0 s) (a b : Nat) : Kept s0 (State.pwrEnAssert s a b) := by
  unfold State.pwrEnAssert
  with_reducible
    repeat' first
      | assumption | apply Kept.put | apply Kept.modHub | apply Kept.requestWake | apply Kept.sequenceIn
      | apply Kept.ite | apply Kept.ite

theorem Kept.pwrEnDeassert {s0 s : State} (h : Kept s0 s) : Kept s0 (State.pwrEnDeassert s) := by
  unfold State.pwrEnDeassert
  with_reducible
    repeat' first
      | assumption | apply Kept.put | apply Kept.beginTeardown | apply Kept.ite | apply Kept.ite
      | (apply Kept.foldl; intro _ _ _)

theorem Kept.stackTraining {s0 s : State} (h : Kept s0 s) (failed : Nat) : Kept s0 (State.stackTraining s failed)
    := by
  unfold State.stackTraining
  with_reducible
    repeat' first
      | assumption | apply Kept.modStack | apply Kept.put | apply Kept.bump | apply Kept.ite | apply Kept.modHub
      | apply Kept.countSpares | apply Kept.ite | (apply Kept.foldl; intro _ _ _) | split

theorem Kept.hardenRepairs {s0 s : State} (h : Kept s0 s) : Kept s0 (State.hardenRepairs s) := by
  unfold State.hardenRepairs
  with_reducible
    repeat' first
      | assumption | apply Kept.bump | (apply Kept.foldl; intro _ _ _) | apply Kept.record0

theorem Kept.dormancyEntered {s0 s : State} (h : Kept s0 s) : Kept s0 (State.dormancyEntered s) := by
  unfold State.dormancyEntered
  with_reducible
    repeat' first
      | assumption | apply Kept.hardenRepairs | apply Kept.resetDie | apply Kept.put | apply Kept.modHub | apply Kept.doWake
      | (apply Kept.foldl; intro _ _ _) | split | apply Kept.ite | split | apply Kept.record0

theorem Kept.wake {s0 s : State} (h : Kept s0 s) (a : Actor) : Kept s0 (State.wake s a) := by
  unfold State.wake
  with_reducible
    repeat' first
      | assumption | apply Kept.put | apply Kept.requestWake | split

theorem Kept.standbyLoss {s0 s : State} (h : Kept s0 s) : Kept s0 (State.standbyLoss s) := by
  unfold State.standbyLoss
  with_reducible
    repeat' first
      | assumption | apply Kept.resetAll | apply Kept.modHub

theorem Kept.dieBell {s0 s : State} (h : Kept s0 s) (d t : Nat) : Kept s0 (State.dieBell s d t) := by
  unfold State.dieBell
  with_reducible
    repeat' first
      | assumption | apply Kept.put | apply Kept.bump | apply Kept.modRegion | apply Kept.ite | apply Kept.ite | split

theorem Kept.throttleBits {s0 s : State} (h : Kept s0 s) (hubTemp : Nat) : Kept s0 (State.throttleBits s hubTemp)
    := by
  unfold State.throttleBits
  with_reducible
    repeat' first
      | assumption | apply Kept.put | (apply Kept.foldl; intro _ _ _)

theorem Kept.allotBell {s0 s : State} (h : Kept s0 s) (x : Sensors) : Kept s0 (State.allotBell s x) := by
  unfold State.allotBell
  with_reducible
    repeat' first
      | assumption | apply Kept.put | apply Kept.modHub | (apply Kept.foldl; intro _ _ _) | apply Kept.record0
      | apply Kept.record

theorem Kept.powerBell {s0 s : State} (h : Kept s0 s) (x : Sensors) : Kept s0 (State.powerBell s x) := by
  unfold State.powerBell
  with_reducible
    repeat' first
      | assumption | apply Kept.dieBell | apply Kept.throttleBits | apply Kept.put | apply Kept.modHub
      | apply Kept.allotBell | (apply Kept.foldl; intro _ _ _)

theorem Kept.writeCap {s0 s : State} (h : Kept s0 s) (v : Nat) : Kept s0 (State.writeCap s v) := by
  unfold State.writeCap
  with_reducible
    repeat' first
      | assumption | apply Kept.modHub | apply Kept.put | split

theorem Kept.unpace {s0 s : State} (h : Kept s0 s) : Kept s0 (State.unpace s) := by
  unfold State.unpace
  with_reducible
    repeat' first
      | assumption | apply Kept.modRegion | apply Kept.modHub | (apply Kept.foldl; intro _ _ _)

theorem Kept.subInterval {s0 s : State} (h : Kept s0 s) (energy : List Nat) : Kept s0 (State.subInterval s energy)
    := by
  unfold State.subInterval
  with_reducible
    repeat' first
      | assumption | apply Kept.modHub | apply Kept.unpace | (apply Kept.foldl; intro _ _ _) | apply Kept.record0
      | apply Kept.record

theorem Kept.allotmentReached {s0 s : State} (h : Kept s0 s) (c : Nat) (plus5 : Bool) : Kept s0
    (State.allotmentReached s c plus5) := by
  unfold State.allotmentReached
  with_reducible
    repeat' first
      | assumption | apply Kept.liveAdd | apply Kept.modRegion | apply Kept.modHub | split

theorem Kept.dipReduce {s0 s : State} (h : Kept s0 s) (c : Nat) : Kept s0 (State.dipReduce s c) := by
  unfold State.dipReduce
  with_reducible
    repeat' first
      | assumption | apply Kept.modHub

theorem Kept.captureMin {s0 s : State} (h : Kept s0 s) (k level : Nat) : Kept s0 (State.captureMin s k level) :=
    by
  unfold State.captureMin
  with_reducible
    repeat' first
      | assumption | apply Kept.put

theorem Kept.dip {s0 s : State} (h : Kept s0 s) (k level : Nat) : Kept s0 (State.dip s k level) := by
  unfold State.dip
  with_reducible
    repeat' first
      | assumption | apply Kept.captureMin | apply Kept.bump | apply Kept.modHub | apply Kept.dipReduce
      | apply Kept.followRails | apply Kept.regionReset | apply Kept.moduleReset | (apply Kept.foldl; intro _ _ _)
      | split | apply Kept.ite | apply Kept.dite | apply Kept.record0 | apply Kept.record

theorem Kept.dipRecovery {s0 s : State} (h : Kept s0 s) (k : Nat) : Kept s0 (State.dipRecovery s k) := by
  unfold State.dipRecovery
  with_reducible
    repeat' first
      | assumption | apply Kept.modHub | apply Kept.followRails

theorem Kept.thermalTrip {s0 s : State} (h : Kept s0 s) (d : Nat) : Kept s0 (State.thermalTrip s d) := by
  unfold State.thermalTrip
  with_reducible
    repeat' first
      | assumption | apply Kept.bump | apply Kept.regionReset | apply Kept.moduleReset | split

theorem Kept.syncStrict {s0 s : State} (h : Kept s0 s) : Kept s0 (State.syncStrict s) := by
  unfold State.syncStrict
  with_reducible
    repeat' first
      | assumption | apply Kept.put

theorem Kept.phEnter {s0 s : State} (h : Kept s0 s) (i src addr : Nat) (msg : List Nat) : Kept s0 (State.phEnter s
    i src addr msg) := by
  unfold State.phEnter
  with_reducible
    repeat' first
      | assumption | apply Kept.put | (apply Kept.foldl; intro _ _ _) | split

theorem Kept.phPut {s0 s : State} (h : Kept s0 s) (i src addr : Nat) (msg : List Nat) : Kept s0 (State.phPut s i
    src addr msg).1 := by
  unfold State.phPut
  with_reducible
    repeat' first
      | assumption | apply Kept.phEnter | apply Kept.bump | apply Kept.put | split

theorem Kept.phDiscard {s0 s : State} (h : Kept s0 s) (i : Nat) : Kept s0 (State.phDiscard s i) := by
  unfold State.phDiscard
  with_reducible
    repeat' first
      | assumption | apply Kept.modHub

theorem Kept.setAsm {s0 s : State} (h : Kept s0 s) (src : Nat) (a : Option Asm) : Kept s0 (State.setAsm s src a)
    := by
  unfold State.setAsm
  with_reducible
    repeat' first
      | assumption | apply Kept.modHub

theorem Kept.assemblyWrite {s0 s : State} (h : Kept s0 s) (a : Actor) (n word : Nat) (v : Word64) : Kept s0
    (State.assemblyWrite s a n word v) := by
  unfold State.assemblyWrite
  with_reducible
    repeat' first
      | assumption | apply Kept.badAccess | apply Kept.phDiscard | apply Kept.setAsm | apply Kept.ite | apply Kept.ite

theorem Kept.reportUr {s0 s : State} (h : Kept s0 s) (fn n : Nat) : Kept s0 (State.reportUr s fn n) := by
  unfold State.reportUr
  with_reducible
    repeat' first
      | assumption | apply Kept.nextTicket | apply Kept.modHub | apply Kept.emit | apply Kept.ite | split

theorem Kept.phPost {s0 s : State} (h : Kept s0 s) (a : Actor) (n : Nat) (v : Word64) : Kept s0 (State.phPost s a
    n v) := by
  unfold State.phPost
  with_reducible
    repeat' first
      | assumption | apply Kept.badAccess | apply Kept.setAsm | apply Kept.phDiscard | apply Kept.phPut
      | apply Kept.emit | apply Kept.ite | apply Kept.reportUr | apply Kept.ite

theorem Kept.phTimeout {s0 s : State} (h : Kept s0 s) (i : Nat) : Kept s0 (State.phTimeout s i) := by
  unfold State.phTimeout
  with_reducible
    repeat' first
      | assumption | apply Kept.modHub | apply Kept.put | split

theorem Kept.fpostAnswer {s0 s : State} (h : Kept s0 s) (status : Nat) : Kept s0 (State.fpostAnswer s status) :=
    by
  unfold State.fpostAnswer
  with_reducible
    repeat' first
      | assumption | apply Kept.put | split

theorem Kept.phTake {s0 s : State} (h : Kept s0 s) (n src : Nat) (f : Flit) : Kept s0 (State.phTake s n src f).1 := by
  unfold State.phTake
  try dsimp only
  repeat' first
    | with_reducible assumption
    | with_reducible apply Kept.phPut
    | split

theorem Kept.fabricPost {s0 s : State} (h : Kept s0 s) : Kept s0 (State.fabricPost s) := by
  unfold State.fabricPost
  try dsimp only
  with_reducible
    repeat' first
      | assumption | apply Kept.put | apply Kept.modHub | apply Kept.forward | apply Kept.phTake | apply Kept.fpostAnswer
      | split | (rename_i e; replace e := congrArg Prod.fst e; dsimp only at e; subst e)

theorem Kept.phPostIn {s0 s : State} (h : Kept s0 s) (l : Lnk) (f : Flit) : Kept s0 (State.phPostIn s l f) := by
  unfold State.phPostIn
  have t := h.phTake (leAt f.payload 1 1) f.hdr.src.toNat f
  dsimp only
  split
  · rename_i e; rw [e] at t; exact t.send ..
  · rename_i e; rw [e] at t; exact t.refuseFlit ..

theorem Kept.phAck {s0 s : State} (h : Kept s0 s) (n : Nat) : Kept s0 (State.phAck s n) := by
  unfold State.phAck
  with_reducible
    repeat' first
      | assumption | apply Kept.fpostAnswer | split

theorem Kept.fabricPostTimeout {s0 s : State} (h : Kept s0 s) : Kept s0 (State.fabricPostTimeout s) := by
  unfold State.fabricPostTimeout
  with_reducible
    repeat' first
      | assumption | apply Kept.fpostAnswer | split

theorem Kept.phBell {s0 s : State} (h : Kept s0 s) : Kept s0 (State.phBell s) := by
  unfold State.phBell
  with_reducible
    repeat' first
      | assumption | apply Kept.modHub

theorem Kept.cxlServe {s0 s : State} (h : Kept s0 s) (q : Nat × Nat × Option (List Byte)) : Kept s0
    (State.cxlServe s q) := by
  unfold State.cxlServe
  with_reducible
    repeat' first
      | assumption | apply Kept.bump | apply Kept.emit | apply Kept.nextTicket | apply Kept.store | apply Kept.ite
      | apply Kept.ite | split

theorem Kept.cxlPump {s0 : State} : ∀ (q : List (Nat × Nat × Option (List Byte))) (blocked : List Nat) {s : State},
    Kept s0 s → Kept s0 (s.cxlPump blocked q).1
  | [], _, _, h => h
  | b :: t, blocked, s, h => by
    unfold State.cxlPump
    dsimp only
    repeat' first
      | with_reducible exact h
      | with_reducible assumption
      | with_reducible apply Kept.cxlPump
      | with_reducible apply Kept.cxlServe
      | with_reducible apply Kept.modHub
      | with_reducible apply Kept.liveAdd
      | with_reducible apply Kept.ite
      | with_reducible apply Kept.dite
      | split

theorem Kept.cxlAccess {s0 s : State} (h : Kept s0 s) (qs : List (Nat × Nat × Option (List Byte))) : Kept s0
    (State.cxlAccess s qs) := by
  unfold State.cxlAccess
  with_reducible
    repeat' first
      | assumption | apply Kept.cxlPump | apply Kept.modHub

theorem Kept.cxlBell {s0 s : State} (h : Kept s0 s) : Kept s0 (State.cxlBell s) := by
  unfold State.cxlBell
  with_reducible
    repeat' first
      | assumption | apply Kept.cxlPump | apply Kept.modHub

theorem Kept.flr {s0 s : State} (h : Kept s0 s) (f : Nat) : Kept s0 (State.flr s f) := by
  unfold State.flr
  with_reducible
    repeat' first
      | assumption | apply Kept.beginTeardown | apply Kept.put | (apply Kept.foldl; intro _ _ _) | split

theorem Kept.mirror {s0 s : State} (h : Kept s0 s) (seq : Nat) : Kept s0 (State.mirror s seq) := by
  unfold State.mirror
  with_reducible
    repeat' first
      | assumption | apply Kept.emit | (apply Kept.foldl; intro _ _ _) | split

theorem Kept.mctp {s0 s : State} (h : Kept s0 s) (q : MctpReq) : Kept s0 (State.mctp s q) := by
  unfold State.mctp
  with_reducible
    repeat' first
      | assumption | apply Kept.emit | apply Kept.nextTicket | split

theorem Kept.pldmUpdate {s0 s : State} (h : Kept s0 s) (x : SlotHdr) : Kept s0 (State.pldmUpdate s x) := by
  unfold State.pldmUpdate
  with_reducible
    repeat' first
      | assumption | apply Kept.modHub | split

theorem Kept.activate {s0 s : State} (h : Kept s0 s) : Kept s0 (State.activate s) := by
  unfold State.activate
  with_reducible
    repeat' first
      | assumption | apply Kept.put | apply Kept.modHub | split

theorem Kept.imageBell {s0 s : State} (h : Kept s0 s) : Kept s0 (State.imageBell s) := by
  unfold State.imageBell
  with_reducible
    repeat' first
      | assumption | apply Kept.put | apply Kept.modHub | split

theorem Kept.trialCommit {s0 s : State} (h : Kept s0 s) : Kept s0 (State.trialCommit s) := by
  unfold State.trialCommit
  with_reducible
    repeat' first
      | assumption | apply Kept.modHub | apply Kept.put | split

theorem Kept.trialFail {s0 s : State} (h : Kept s0 s) : Kept s0 (State.trialFail s) := by
  unfold State.trialFail
  with_reducible
    repeat' first
      | assumption | apply Kept.modHub | split

theorem Kept.ownReq {s0 s : State} (h : Kept s0 s) (g : Nat) : Kept s0 (State.ownReq s g) := by
  unfold State.ownReq
  with_reducible
    repeat' first
      | assumption | apply Kept.put | (apply Kept.foldl; intro _ _ _)

theorem Kept.hostOk {s0 s : State} (h : Kept s0 s) (a : Actor) (g : Nat) : Kept s0 (State.hostOk s a g) := by
  unfold State.hostOk
  with_reducible
    repeat' first
      | assumption | apply Kept.put | (apply Kept.foldl; intro _ _ _) | split

theorem Kept.fillComplete {s0 s : State} (h : Kept s0 s) (g : Nat) : Kept s0 (State.fillComplete s g) := by
  unfold State.fillComplete
  with_reducible
    repeat' first
      | assumption | apply Kept.zeroFill | apply Kept.modHub | apply Kept.put | split
      | (apply Kept.foldl; intro _ _ _) | apply Kept.ite | split

theorem Kept.setOwner {s0 s : State} (h : Kept s0 s) (g kind tag : Nat) : Kept s0 (State.setOwner s g kind tag) :=
    by
  unfold State.setOwner
  with_reducible
    repeat' first
      | assumption | apply Kept.put

theorem Kept.applyOwn {s0 s : State} (h : Kept s0 s) (g : Nat) : Kept s0 (State.applyOwn s g) := by
  unfold State.applyOwn
  with_reducible
    repeat' first
      | assumption | apply Kept.put | apply Kept.modHub | apply Kept.setOwner | apply Kept.ite | apply Kept.ite

theorem Kept.completeCxl {s0 s : State} (h : Kept s0 s) (g : Nat) : Kept s0 (State.completeCxl s g) := by
  unfold State.completeCxl
  with_reducible
    repeat' first
      | assumption | apply Kept.cxlServe | apply Kept.modHub | (apply Kept.foldl; intro _ _ _)

theorem Kept.ownBell {s0 s : State} (h : Kept s0 s) : Kept s0 (State.ownBell s) := by
  unfold State.ownBell
  with_reducible
    repeat' first
      | assumption | apply Kept.setOwner | apply Kept.modHub | apply Kept.applyOwn | apply Kept.completeCxl
      | (apply Kept.foldl; intro _ _ _) | split

theorem Kept.reply {s0 s : State} (h : Kept s0 s) (n op seq status : Nat) (body : List Byte) : Kept s0
    (State.reply s n op seq status body) := by
  unfold State.reply
  with_reducible
    repeat' first
      | assumption | apply Kept.phDiscard | apply Kept.phPut | split

theorem Kept.request {s0 s : State} (h : Kept s0 s) (n op : Nat) (pfOnly : Bool) (f : State → List Byte → State ×
    Nat × List Byte) (hf : ∀ x0 x1, Kept s0 x0 → Kept s0 (f x0 x1).1) : Kept s0 (State.request s n op pfOnly f) := by
  unfold State.request
  with_reducible
    repeat' first
      | assumption | apply hf | apply Kept.put | apply Kept.reply | apply Kept.ite | apply Kept.ite | split

theorem Kept.partRequest {s0 s : State} (h : Kept s0 s) (n op start : Nat) (f : State → List Byte → Prt → State ×
    Nat × List Byte) (hf : ∀ x0 x1 x2, Kept s0 x0 → Kept s0 (f x0 x1 x2).1) : Kept s0 (State.partRequest s n op start
    f) := by
  unfold State.partRequest
  try dsimp only
  with_reducible
    repeat' first
      | assumption | apply hf | apply Kept.request | split | (intro _)

theorem Kept.reqPreempt {s0 s : State} (h : Kept s0 s) (n : Nat) : Kept s0 (State.reqPreempt s n) := by
  unfold State.reqPreempt
  with_reducible
    repeat' first
      | assumption | apply Kept.partRequest | apply Kept.put | apply Kept.preemptReq | split | (intro _)

theorem Kept.writeRegions {s0 s : State} (h : Kept s0 s) (p : Prt) (mask : Nat) : Kept s0 (State.writeRegions s p
    mask) := by
  unfold State.writeRegions
  with_reducible
    repeat' first
      | assumption | apply Kept.put | split

theorem Kept.writeSeed {s0 s : State} (h : Kept s0 s) (p : Prt) (v : Nat) : Kept s0 (State.writeSeed s p v) := by
  unfold State.writeSeed
  with_reducible
    repeat' first
      | assumption | apply Kept.put | split

theorem Kept.reqResume {s0 s : State} (h : Kept s0 s) (n : Nat) : Kept s0 (State.reqResume s n) := by
  unfold State.reqResume
  with_reducible
    repeat' first
      | assumption | apply Kept.partRequest | apply Kept.writeRegions | apply Kept.writeSeed | apply Kept.put
      | apply Kept.resume | (intro _)

theorem Kept.askOwn {s0 s : State} (h : Kept s0 s) (g kind tag : Nat) (erase : Bool) : Kept s0 (State.askOwn s g
    kind tag erase) := by
  unfold State.askOwn
  with_reducible
    repeat' first
      | assumption | apply Kept.put | apply Kept.ownReq | (apply Kept.foldl; intro _ _ _)

theorem Kept.reqTeardown {s0 s : State} (h : Kept s0 s) (n : Nat) : Kept s0 (State.reqTeardown s n) := by
  unfold State.reqTeardown
  with_reducible
    repeat' first
      | assumption | apply Kept.partRequest | apply Kept.procTeardown | apply Kept.askOwn
      | (apply Kept.foldl; intro _ _ _) | split | (intro _)

theorem Kept.moveGranules {s0 s : State} (h : Kept s0 s) (m : List Byte) (kind tag : Nat) (erase : Bool) (may :
    State → Nat → Bool) : Kept s0 (State.moveGranules s m kind tag erase may).1 := by
  unfold State.moveGranules
  try dsimp only
  with_reducible
    repeat' first
      | assumption | apply Kept.askOwn | (apply Kept.foldl; intro _ _ _) | split

theorem Kept.reqLend {s0 s : State} (h : Kept s0 s) (n : Nat) : Kept s0 (State.reqLend s n) := by
  unfold State.reqLend
  with_reducible
    repeat' first
      | assumption | apply Kept.request | apply Kept.moveGranules | (intro _)

theorem Kept.reqReclaim {s0 s : State} (h : Kept s0 s) (n : Nat) : Kept s0 (State.reqReclaim s n) := by
  unfold State.reqReclaim
  try dsimp only
  with_reducible
    repeat' first
      | assumption | apply Kept.request | apply Kept.moveGranules | split | (intro _)

theorem Kept.reqSetK {s0 s : State} (h : Kept s0 s) (n : Nat) : Kept s0 (State.reqSetK s n) := by
  unfold State.reqSetK
  try dsimp only
  with_reducible
    repeat' first
      | assumption | apply Kept.partRequest | apply Kept.put | split | (intro _)

theorem Kept.reqDormant {s0 s : State} (h : Kept s0 s) (n : Nat) : Kept s0 (State.reqDormant s n) := by
  unfold State.reqDormant
  with_reducible
    repeat' first
      | assumption | apply Kept.request | apply Kept.put | split | (intro _)

theorem Kept.putBits {s0 s : State} (h : Kept s0 s) (fs : List Fld) (v i j k : Nat) : Kept s0 (State.putBits s fs
    v i j k) := by
  unfold State.putBits
  with_reducible
    repeat' first
      | assumption | apply Kept.put | (apply Kept.foldl; intro _ _ _)

theorem Kept.writeSection {s0 s : State} (h : Kept s0 s) (pkg : List Byte) (regs : List Rgn) (k : Nat) : Kept s0
    (State.writeSection s pkg regs k) := by
  unfold State.writeSection
  try dsimp only
  with_reducible
    repeat' first
      | assumption | apply Kept.store | apply Kept.put | apply Kept.putBits | (apply Kept.foldl; intro _ _ _) | split

theorem Kept.placeJob {s0 s : State} (h : Kept s0 s) (m pkg : List Byte) (p : Prt) (plan : List (BitVec 16)) (mask
    tag : Nat) (ks : List Nat) : Kept s0 (State.placeJob s m pkg p plan mask tag ks) := by
  unfold State.placeJob
  with_reducible
    repeat' first
      | assumption | apply Kept.put | apply Kept.modPart | apply Kept.writeSection | apply Kept.load
      | apply Kept.dbgLock | apply Kept.go | apply Kept.ite | apply Kept.ite | (apply Kept.foldl; intro _ _ _)

theorem Kept.reqLoadJob {s0 s : State} (h : Kept s0 s) (n : Nat) (pkg : List Byte) (plan : List (BitVec 16)) :
    Kept s0 (State.reqLoadJob s n pkg plan) := by
  unfold State.reqLoadJob
  try dsimp only
  with_reducible
    repeat' first
      | assumption | apply Kept.partRequest | apply Kept.nextTicket | apply Kept.askOwn | apply Kept.placeJob
      | (apply Kept.foldl; intro _ _ _) | split | (intro _)

theorem Kept.clearRc {s0 s : State} (h : Kept s0 s) (row : RegRow) (i j k : Nat) : Kept s0 (State.clearRc s row i
    j k) := by
  unfold State.clearRc
  with_reducible
    repeat' first
      | assumption | apply Kept.put | (apply Kept.foldl; intro _ _ _) | split

theorem Kept.readReg {s0 s : State} (h : Kept s0 s) (a : Actor) (off width : Nat) : Kept s0 (State.readReg s a off
    width) := by
  unfold State.readReg
  with_reducible
    repeat' first
      | assumption | apply Kept.emit | apply Kept.badAccess | apply Kept.clearRc | split

theorem Kept.writeFields {s0 s : State} (h : Kept s0 s) (fs : List Fld) (v i j k : Nat) (skip : Fld → Bool) : Kept
    s0 (State.writeFields s fs v i j k skip) := by
  unfold State.writeFields
  with_reducible
    repeat' first
      | assumption | apply Kept.put | (apply Kept.foldl; intro _ _ _) | split

theorem Kept.writePeriod {s0 s : State} (h : Kept s0 s) (v : Nat) : Kept s0 (State.writePeriod s v) := by
  unfold State.writePeriod
  with_reducible
    repeat' first
      | assumption | apply Kept.bump | apply Kept.put | apply Kept.emit | apply Kept.ite | apply Kept.ite

theorem Kept.periodWrite {s0 s : State} (h : Kept s0 s) (a : Actor) (v : Nat) : Kept s0 (State.periodWrite s a v)
    := by
  unfold State.periodWrite
  with_reducible
    repeat' first
      | assumption | apply Kept.badAccess | apply Kept.writePeriod | split

theorem Kept.writeOwn {s0 s : State} (h : Kept s0 s) (a : Actor) (v g : Nat) : Kept s0 (State.writeOwn s a v g) :=
    by
  unfold State.writeOwn
  with_reducible
    repeat' first
      | assumption | apply Kept.writeFields | apply Kept.ownReq | apply Kept.hostOk | (apply Kept.foldl; intro _ _ _)
      | split

theorem Kept.writeReset {s0 s : State} (h : Kept s0 s) (a : Actor) (v : Nat) : Kept s0 (State.writeReset s a v) :=
    by
  unfold State.writeReset
  with_reducible
    repeat' first
      | assumption | apply Kept.badAccess | apply Kept.moduleReset | apply Kept.regionReset | apply Kept.ite
      | apply Kept.ite

theorem Kept.writePartCfg {s0 s : State} (h : Kept s0 s) (a : Actor) (v : Nat) (p : Prt) : Kept s0
    (State.writePartCfg s a v p) := by
  unfold State.writePartCfg
  with_reducible
    repeat' first
      | assumption | apply Kept.writeRegions | apply Kept.put | apply Kept.load | apply Kept.dbgLock
      | apply Kept.procTeardown | apply Kept.ite | apply Kept.ite

theorem Kept.writePreempt {s0 s : State} (h : Kept s0 s) (v : Nat) (p : Prt) : Kept s0 (State.writePreempt s v p)
    := by
  unfold State.writePreempt
  with_reducible
    repeat' first
      | assumption | apply Kept.writeFields | apply Kept.preemptReq | apply Kept.resume | split

theorem Kept.writeHedge {s0 s : State} (h : Kept s0 s) (v o c : Nat) : Kept s0 (State.writeHedge s v o c) := by
  unfold State.writeHedge
  with_reducible
    repeat' first
      | assumption | apply Kept.put | apply Kept.modHub | split

theorem Kept.writeServe {s0 s : State} (h : Kept s0 s) (v : Nat) (p : Prt) : Kept s0 (State.writeServe s v p) :=
    by
  unfold State.writeServe
  with_reducible
    repeat' first
      | assumption | apply Kept.put | apply Kept.armBatch | apply Kept.ite | apply Kept.ite

theorem Kept.writeSecCtrl {s0 s : State} (h : Kept s0 s) (v p : Nat) : Kept s0 (State.writeSecCtrl s v p) := by
  unfold State.writeSecCtrl
  with_reducible
    repeat' first
      | assumption | apply Kept.put | apply Kept.setInterval | apply Kept.ite | apply Kept.ite

theorem Kept.writeHarden {s0 s : State} (h : Kept s0 s) (v : Nat) : Kept s0 (State.writeHarden s v) := by
  unfold State.writeHarden
  with_reducible
    repeat' first
      | assumption | apply Kept.writeFields | apply Kept.hardenReq | split

theorem Kept.writeColMap {s0 s : State} (h : Kept s0 s) (a : Actor) (row : RegRow) (v i e : Nat) : Kept s0
    (State.writeColMap s a row v i e) := by
  unfold State.writeColMap
  with_reducible
    repeat' first
      | assumption | apply Kept.writeFields | apply Kept.ite | apply Kept.countSpares | apply Kept.ite

theorem Kept.writeCred {s0 s : State} (h : Kept s0 s) (row : RegRow) (v l : Nat) : Kept s0 (State.writeCred s row
    v l) := by
  unfold State.writeCred
  with_reducible
    repeat' first
      | assumption | apply Kept.writeFields | apply Kept.ite | apply Kept.ite | (apply Kept.foldl; intro _ _ _)

theorem Kept.writePhStat {s0 s : State} (h : Kept s0 s) (a : Actor) (v n : Nat) : Kept s0 (State.writePhStat s a v
    n) := by
  unfold State.writePhStat
  with_reducible
    repeat' first
      | assumption | apply Kept.put | apply Kept.ite | apply Kept.ite

theorem Kept.writeFsend {s0 s : State} (h : Kept s0 s) (v : Nat) : Kept s0 (State.writeFsend s v) := by
  unfold State.writeFsend
  with_reducible
    repeat' first
      | assumption | apply Kept.put | apply Kept.fabricPost | split

theorem Kept.writePhWord {s0 s : State} (h : Kept s0 s) (a : Actor) (v n word : Nat) : Kept s0 (State.writePhWord
    s a v n word) := by
  unfold State.writePhWord
  with_reducible
    repeat' first
      | assumption | apply Kept.phPost | apply Kept.assemblyWrite | split

theorem Kept.writeHub {s0 s : State} (h : Kept s0 s) (a : Actor) (row : RegRow) (v i j k : Nat) : Kept s0
    (State.writeHub s a row v i j k) := by
  unfold State.writeHub
  with_reducible
    repeat' first
      | assumption | apply Kept.writeFields | apply Kept.writePeriod | apply Kept.writeSeed | apply Kept.writeOwn
      | apply Kept.writeSecCtrl | apply Kept.put | apply Kept.graftGo | apply Kept.writeHarden | apply Kept.writeReset
      | apply Kept.wake | apply Kept.writeCap | apply Kept.writePartCfg | apply Kept.writePreempt
      | apply Kept.writeHedge | apply Kept.writeServe | apply Kept.writePhWord | apply Kept.writePhStat
      | apply Kept.syncStrict | apply Kept.writeFsend | apply Kept.writeRollCtrl | (apply Kept.foldl; intro _ _ _)
      | split

theorem Kept.writeDie {s0 s : State} (h : Kept s0 s) (a : Actor) (row : RegRow) (v i j k : Nat) : Kept s0
    (State.writeDie s a row v i j k) := by
  unfold State.writeDie
  with_reducible
    repeat' first
      | assumption | apply Kept.writeFields | apply Kept.go | apply Kept.pairRequest | apply Kept.writeColMap
      | apply Kept.writeCred | split

theorem Kept.abortedWrite {s0 s : State} (h : Kept s0 s) (a : Actor) (off : Nat) : Kept s0 (State.abortedWrite s a
    off) := by
  unfold State.abortedWrite
  with_reducible
    repeat' first
      | assumption | apply Kept.phDiscard | split

theorem Kept.writeReg {s0 s : State} (h : Kept s0 s) (a : Actor) (off width v : Nat) : Kept s0 (State.writeReg s a
    off width v) := by
  unfold State.writeReg
  with_reducible
    repeat' first
      | assumption | apply Kept.abortedWrite | apply Kept.badAccess | apply Kept.writeHub | apply Kept.writeDie
      | split

theorem Kept.strapSample {s0 s : State} (h : Kept s0 s) (pos : Byte) (feed : BitVec 4) : Kept s0
    (State.strapSample s pos feed) := by
  unfold State.strapSample
  with_reducible
    repeat' first
      | assumption | apply Kept.put | apply Kept.modHub | split

theorem Kept.scanSram {s0 s : State} (h : Kept s0 s) (a : Nat) : Kept s0 (State.scanSram s a) := by
  unfold State.scanSram
  with_reducible
    repeat' first
      | assumption | apply Kept.emit | apply Kept.nextTicket | apply Kept.dite | apply Kept.dite | (intro _)

theorem Kept.scanReg {s0 s : State} (h : Kept s0 s) (off : Nat) : Kept s0 (State.scanReg s off) := by
  unfold State.scanReg
  with_reducible
    repeat' first
      | assumption | apply Kept.badAccess | apply Kept.emit | apply Kept.nextTicket | split

theorem Kept.jtag {s0 s : State} (h : Kept s0 s) (i : JtagInstr) : Kept s0 (State.jtag s i) := by
  unfold State.jtag
  with_reducible
    repeat' first
      | assumption | apply Kept.modHub | apply Kept.emit | apply Kept.nextTicket | apply Kept.scanSram
      | apply Kept.scanReg | split

theorem Kept.sendVc7 {s0 s : State} (h : Kept s0 s) (l : Lnk) (h : FlitHdr) (payload : List Byte) : Kept s0
    (State.sendVc7 s l h payload) := by
  unfold State.sendVc7
  with_reducible
    repeat' first
      | assumption | apply Kept.emit

theorem Kept.floodBell {s0 s : State} (h : Kept s0 s) (but : Option Lnk) (m : BellMsg) (residence : List Nat) :
    Kept s0 (State.floodBell s but m residence) := by
  unfold State.floodBell
  with_reducible
    repeat' first
      | assumption | apply Kept.emit | apply Kept.sendVc7 | (apply Kept.foldl; intro _ _ _) | split

theorem Kept.takeBell {s0 s : State} (h : Kept s0 s) (l : Lnk) (m : BellMsg) (residence : List Nat) : Kept s0
    (State.takeBell s l m residence) := by
  unfold State.takeBell
  with_reducible
    repeat' first
      | assumption | apply Kept.floodBell | apply Kept.put | apply Kept.modHub | apply Kept.ite | split

theorem Kept.vc7Frame {s0 s : State} (h : Kept s0 s) (l : Lnk) (type : Nat) (f : Flit) (v1 v2 : FlitCheck) (run :
    State → State) (hf : ∀ x, Kept s0 x → Kept s0 (run x)) : Kept s0 (State.vc7Frame s l type f v1 v2 run) := by
  unfold State.vc7Frame
  with_reducible
    repeat' first
      | assumption | apply hf | apply Kept.countCheck | apply Kept.bump | apply Kept.applyHeader
      | apply Kept.refuseFlit | apply Kept.ite | split | (intro _)

theorem Kept.sendBell {s0 s : State} (h : Kept s0 s) (m : BellMsg) : Kept s0 (State.sendBell s m) := by
  unfold State.sendBell
  with_reducible
    repeat' first
      | assumption | apply Kept.floodBell | apply Kept.modHub

theorem Kept.bellSend {s0 s : State} (h : Kept s0 s) : Kept s0 (State.bellSend s) := by
  unfold State.bellSend
  with_reducible
    repeat' first
      | assumption | apply Kept.sendBell | split

theorem Kept.bellZero {s0 s : State} (h : Kept s0 s) : Kept s0 (State.bellZero s) := by
  unfold State.bellZero
  with_reducible
    repeat' first
      | assumption | apply Kept.sendBell | split

theorem Kept.substituteBell {s0 s : State} (h : Kept s0 s) (elapsed : Nat) : Kept s0 (State.substituteBell s
    elapsed) := by
  unfold State.substituteBell
  with_reducible
    repeat' first
      | assumption | apply Kept.put | apply Kept.sendBell | apply Kept.modHub | split

theorem Kept.takeReport {s0 s : State} (h : Kept s0 s) (m : ReportMsg) : Kept s0 (State.takeReport s m) := by
  unfold State.takeReport
  with_reducible
    repeat' first
      | assumption | apply Kept.bump | apply Kept.modHub | split

theorem Kept.passReport {s0 s : State} (h : Kept s0 s) (r : Rgn) (h : FlitHdr) (m : ReportMsg) : Kept s0
    (State.passReport s r h m) := by
  unfold State.passReport
  try dsimp only
  with_reducible
    repeat' first
      | assumption | apply Kept.modHub | apply Kept.emit | apply Kept.sendVc7 | split

theorem Kept.report {s0 s : State} (h : Kept s0 s) (l : Lnk) (f : Flit) (v1 v2 : FlitCheck) : Kept s0
    (State.report s l f v1 v2) := by
  unfold State.report
  with_reducible
    repeat' first
      | assumption | apply Kept.bump | apply Kept.takeReport | apply Kept.passReport | apply Kept.vc7Frame | split
      | (intro _) | split | dsimp only

theorem Kept.sendReports {s0 s : State} (h : Kept s0 s) (late : BitVec 64) (poison : BitVec 256) : Kept s0
    (State.sendReports s late poison) := by
  unfold State.sendReports
  with_reducible
    repeat' first
      | assumption | apply Kept.takeReport | apply Kept.passReport | apply Kept.ite | apply Kept.ite

theorem Kept.sampleRegion {s0 s : State} (h : Kept s0 s) (r : Rgn) : Kept s0 (State.sampleRegion s r) := by
  unfold State.sampleRegion
  with_reducible
    repeat' first
      | assumption | apply Kept.bump | apply Kept.put | apply Kept.modRegion | apply Kept.nextTicket | apply Kept.ite
      | apply Kept.ite

theorem Kept.samplePart {s0 s : State} (h : Kept s0 s) (p : Prt) : Kept s0 (State.samplePart s p) := by
  unfold State.samplePart
  with_reducible
    repeat' first
      | assumption | apply Kept.sampleRegion | apply Kept.modPart | apply Kept.serveSample
      | (apply Kept.foldl; intro _ _ _) | split

theorem Kept.samplePoint {s0 s : State} (h : Kept s0 s) : Kept s0 (State.samplePoint s) := by
  unfold State.samplePoint
  with_reducible
    repeat' first
      | assumption | apply Kept.samplePart | apply Kept.modHub | apply Kept.sendReports | apply Kept.ite
      | apply Kept.ite | (apply Kept.foldl; intro _ _ _)

theorem Kept.overrunWarning {s0 s : State} (h : Kept s0 s) : Kept s0 (State.overrunWarning s) := by
  unfold State.overrunWarning
  with_reducible
    repeat' first
      | assumption | apply Kept.bump | (apply Kept.foldl; intro _ _ _) | split

theorem Kept.stall {s0 s : State} (h : Kept s0 s) (p : Prt) : Kept s0 (State.stall s p) := by
  unfold State.stall
  with_reducible
    repeat' first
      | assumption | apply Kept.put | apply Kept.beginTeardown | split

theorem Kept.latchBell {s0 s : State} (h : Kept s0 s) : Kept s0 (State.latchBell s) := by
  unfold State.latchBell
  with_reducible
    repeat' first
      | assumption | apply Kept.latch | apply Kept.put | (apply Kept.foldl; intro _ _ _) | split | apply Kept.ite
      | apply Kept.record0

theorem Kept.bellRegs {s0 s : State} (h : Kept s0 s) (m : BellMsg) : Kept s0 (State.bellRegs s m) := by
  unfold State.bellRegs
  with_reducible
    repeat' first
      | assumption | apply Kept.put | apply Kept.bump | apply Kept.modHub | split

theorem Kept.hedgeBell {s0 s : State} (h : Kept s0 s) : Kept s0 (State.hedgeBell s) := by
  unfold State.hedgeBell
  with_reducible
    repeat' first
      | assumption | apply Kept.modHub | (apply Kept.foldl; intro _ _ _)

theorem Kept.schedBell {s0 s : State} (h : Kept s0 s) : Kept s0 (State.schedBell s) := by
  unfold State.schedBell
  with_reducible
    repeat' first
      | assumption | apply Kept.record0

theorem Kept.recordRepairs {s0 s : State} (h : Kept s0 s) : Kept s0 (State.recordRepairs s) := by
  unfold State.recordRepairs
  with_reducible
    repeat' first
      | assumption | apply Kept.modHub | (apply Kept.foldl; intro _ _ _) | split

theorem Kept.graftBell {s0 s : State} (h : Kept s0 s) : Kept s0 (State.graftBell s) := by
  unfold State.graftBell
  with_reducible
    repeat' first
      | assumption | apply Kept.put | apply Kept.sendReady | split

theorem Kept.setHold {s0 s : State} (h : Kept s0 s) (p : Prt) (v : Nat) : Kept s0 (State.setHold s p v) := by
  unfold State.setHold
  with_reducible
    repeat' first
      | assumption | apply Kept.put | (apply Kept.foldl; intro _ _ _)

theorem Kept.noteHold {s0 s : State} (h : Kept s0 s) (p : Prt) (held other : Bool) : Kept s0 (State.noteHold s p
    held other) := by
  unfold State.noteHold
  with_reducible
    repeat' first
      | assumption | apply Kept.put | apply Kept.setHold | apply Kept.ite | split

theorem Kept.holdPart {s0 s : State} (h : Kept s0 s) (m : BellMsg) (p : Prt) : Kept s0 (State.holdPart s m p) :=
    by
  unfold State.holdPart
  with_reducible
    repeat' first
      | assumption | apply Kept.put | apply Kept.beginTeardown | apply Kept.bump | apply Kept.ite
      | apply Kept.noteHold | apply Kept.ite

theorem Kept.latchNf {s0 s : State} (h : Kept s0 s) (r : Rgn) : Kept s0 (State.latchNf s r) := by
  unfold State.latchNf
  with_reducible
    repeat' first
      | assumption | apply Kept.put | split

theorem Kept.beginRegion {s0 s : State} (h : Kept s0 s) (r : Rgn) : Kept s0 (State.beginRegion s r) := by
  unfold State.beginRegion
  with_reducible
    repeat' first
      | assumption | apply Kept.put | apply Kept.setSeq | apply Kept.modRegion

theorem Kept.nextBlock {s0 s : State} (h : Kept s0 s) (r : Rgn) : Kept s0 (State.nextBlock s r) := by
  unfold State.nextBlock
  with_reducible
    repeat' first
      | assumption | apply Kept.modRegion | apply Kept.setSeq | apply Kept.advance

theorem Kept.beginBlocks {s0 s : State} (h : Kept s0 s) (p : Prt) : Kept s0 (State.beginBlocks s p) := by
  unfold State.beginBlocks
  with_reducible
    repeat' first
      | assumption | apply Kept.beginRegion | apply Kept.put | apply Kept.bump | apply Kept.latchNf
      | apply Kept.nextBlock | apply Kept.ite | apply Kept.ite | (apply Kept.foldl; intro _ _ _)

theorem Kept.stopAtBell {s0 s : State} (h : Kept s0 s) (p : Prt) : Kept s0 (State.stopAtBell s p) := by
  unfold State.stopAtBell
  with_reducible
    repeat' first
      | assumption | apply Kept.stopPart | split

theorem Kept.resumeAtBell {s0 s : State} (h : Kept s0 s) (p : Prt) : Kept s0 (State.resumeAtBell s p) := by
  unfold State.resumeAtBell
  with_reducible
    repeat' first
      | assumption | apply Kept.put | apply Kept.modPart | apply Kept.setSeq | apply Kept.restored
      | (apply Kept.foldl; intro _ _ _) | split

theorem Kept.partBell {s0 s : State} (h : Kept s0 s) (m : BellMsg) (p : Prt) : Kept s0 (State.partBell s m p) :=
    by
  unfold State.partBell
  with_reducible
    repeat' first
      | assumption | apply Kept.holdPart | apply Kept.resumeAtBell | apply Kept.stopAtBell | apply Kept.serveBell
      | apply Kept.beginBlocks

theorem Kept.endStartup {s0 s : State} (h : Kept s0 s) : Kept s0 (State.endStartup s) := by
  unfold State.endStartup
  with_reducible
    repeat' first
      | assumption | apply Kept.put | apply Kept.syncStrict

theorem Kept.atBell {s0 s : State} (h : Kept s0 s) (m : BellMsg) (x : Sensors) : Kept s0 (State.atBell s m x) :=
    by
  unfold State.atBell
  with_reducible
    repeat' first
      | assumption | apply Kept.powerBell | apply Kept.ownBell | apply Kept.routeBell | apply Kept.hedgeBell
      | apply Kept.linkBell | apply Kept.cxlBell | apply Kept.schedBell | apply Kept.modRegion | apply Kept.partBell
      | apply Kept.endStartup | apply Kept.phBell | apply Kept.pairBell | apply Kept.hardenBell | apply Kept.graftBell
      | apply Kept.imageBell | apply Kept.recordRepairs | apply Kept.peerBell | apply Kept.publish
      | (apply Kept.foldl; intro _ _ _)

theorem Kept.bellFire {s0 s : State} (h : Kept s0 s) (x : Sensors) : Kept s0 (State.bellFire s x) := by
  unfold State.bellFire
  with_reducible
    repeat' first
      | assumption | apply Kept.latchBell | apply Kept.bellRegs | apply Kept.atBell | apply Kept.mirror
      | apply Kept.electBell | split

theorem Kept.bell {s0 s : State} (h : Kept s0 s) (l : Lnk) (f : Flit) (v1 v2 : FlitCheck) (residence : List Nat)
    (x : Sensors) : Kept s0 (State.bell s l f v1 v2 residence x) := by
  unfold State.bell
  with_reducible
    repeat' first
      | assumption | apply Kept.bump | apply Kept.put | apply Kept.modHub | apply Kept.vc7Frame | apply Kept.takeBell
      | apply Kept.bellFire | split | (intro _) | split | dsimp only

theorem Kept.missedBell {s0 s : State} (h : Kept s0 s) : Kept s0 (State.missedBell s) := by
  unfold State.missedBell
  with_reducible
    repeat' first
      | assumption | apply Kept.bump | apply Kept.put | apply Kept.beginTeardown | apply Kept.modHub
      | apply Kept.restartRoll | (apply Kept.foldl; intro _ _ _) | split

theorem Kept.localTick {s0 s : State} (h : Kept s0 s) : Kept s0 (State.localTick s) := by
  unfold State.localTick
  with_reducible
    repeat' first
      | assumption | apply Kept.modHub | apply Kept.phBell | apply Kept.mirror | split

theorem Kept.errorFrame {s0 s : State} (h : Kept s0 s) (m : ErrMsg) : Kept s0 (State.errorFrame s m) := by
  unfold State.errorFrame
  with_reducible
    repeat' first
      | assumption | apply Kept.failCopies | apply Kept.fpostAnswer | apply Kept.ite | apply Kept.ite

theorem Kept.rollCall {s0 s : State} (h : Kept s0 s) (l : Lnk) (f : Flit) (residence : List Nat) : Kept s0
    (State.rollCall s l f residence) := by
  unfold State.rollCall
  with_reducible
    repeat' first
      | assumption | apply Kept.hello | apply Kept.claim | apply Kept.bindFrame | apply Kept.probeFrame
      | apply Kept.readyFrame | apply Kept.startFrame | split | split

theorem Kept.mgmt {s0 s : State} (h : Kept s0 s) (l : Lnk) (f : Flit) : Kept s0 (State.mgmt s l f) := by
  unfold State.mgmt
  with_reducible
    repeat' first
      | assumption | apply Kept.timingProbe | apply Kept.echoAndGreet | apply Kept.phPostIn | apply Kept.phAck | split

theorem Kept.drain {s0 s : State} (h : Kept s0 s) (l : Lnk) (f : Flit) : Kept s0 (State.drain s l f) := by
  unfold State.drain
  with_reducible
    repeat' first
      | assumption | apply Kept.unlessTorn | apply Kept.storeBegin | apply Kept.storeData | apply Kept.digestFrame
      | apply Kept.storeEnd | apply Kept.drainCommit | apply Kept.drainReject | apply Kept.pair | apply Kept.pairAck
      | apply Kept.restoreReq | apply Kept.restoreData | apply Kept.refuseFlit | split | (intro _)

theorem Kept.deliver {s0 s : State} (h : Kept s0 s) (l : Lnk) (f : Flit) (residence : List Nat) : Kept s0
    (State.deliver s l f residence) := by
  unfold State.deliver
  with_reducible
    repeat' first
      | assumption | apply Kept.readResp | apply Kept.rollCall | apply Kept.mgmt | apply Kept.drain
      | apply Kept.errorFrame | split

theorem Kept.arrive {s0 s : State} (h : Kept s0 s) (l : Lnk) (f : Flit) (residence : List Nat) : Kept s0
    (State.arrive s l f residence) := by
  unfold State.arrive
  with_reducible
    repeat' first
      | assumption | apply Kept.bump | apply Kept.returnCredit | apply Kept.refuseFlit | apply Kept.collArrive
      | apply Kept.deliver | apply Kept.forward | apply Kept.ite | apply Kept.peerRequest | apply Kept.ite | split
      | (rename_i e; replace e := congrArg Prod.fst e; dsimp only at e; subst e)

theorem Kept.nakOnce {s0 s : State} (h : Kept s0 s) (l : Lnk) : Kept s0 (State.nakOnce s l) := by
  unfold State.nakOnce
  with_reducible
    repeat' first
      | assumption | apply Kept.bareFlit | apply Kept.modLink | split

theorem Kept.sequencedFlit {s0 s : State} (h : Kept s0 s) (l : Lnk) (f : Flit) (v : FlitCheck) (residence : List
    Nat) : Kept s0 (State.sequencedFlit s l f v residence) := by
  unfold State.sequencedFlit
  with_reducible
    repeat' first
      | assumption | apply Kept.bump | apply Kept.nakOnce | apply Kept.applyHeader | apply Kept.modLink
      | apply Kept.arrive | apply Kept.ite | apply Kept.countCheck | apply Kept.applyAck | apply Kept.ite | split

theorem Kept.icholtMessage {s0 s : State} (h : Kept s0 s) (m : IcholtMsg) : Kept s0 (State.icholtMessage s m) :=
    by
  unfold State.icholtMessage
  with_reducible
    repeat' first
      | assumption | apply Kept.writePeriod | apply Kept.emit | apply Kept.setInterval | apply Kept.teardownNotice
      | split

theorem Kept.tickRegion {s0 s : State} (h : Kept s0 s) (r : Rgn) : Kept s0 (State.tickRegion s r) := by
  unfold State.tickRegion
  with_reducible
    repeat' first
      | assumption | apply Kept.liveAdd | (apply Kept.foldl; intro _ _ _) | split

theorem Kept.tickLink {s0 s : State} (h : Kept s0 s) (l : Lnk) : Kept s0 (State.tickLink s l) := by
  unfold State.tickLink
  with_reducible
    repeat' first
      | assumption | apply Kept.rescanAll | apply Kept.liveAdd | apply Kept.ite | split

theorem Kept.tickLinks {s0 s : State} (h : Kept s0 s) : Kept s0 (State.tickLinks s) := by
  unfold State.tickLinks
  with_reducible
    repeat' first
      | assumption | apply Kept.liveAdd | apply Kept.tickLink | (apply Kept.foldl; intro _ _ _) | split

theorem Kept.tick {s0 s : State} (h : Kept s0 s) : Kept s0 (State.tick s) := by
  unfold State.tick
  with_reducible
    repeat' first
      | assumption | apply Kept.tickRegion | apply Kept.tickLinks | (apply Kept.foldl; intro _ _ _) | split
      | apply Kept.ite | apply Kept.record0 | apply Kept.record

end Sys2Proof.Machine
end

