-- ==== Sys2Proof/WellFormed.lean ====
section
/-!
DEFINITION. Well-formed commands: what the types of Syntax.lean leave open about the data that a row carries. The
meanings are total on ill-formed commands too; a sender sends well-formed ones.
-/
namespace Sys2Proof

/-- A flit carries the 240 payload bytes of Table 10.1. -/
def Flit.wf (f : Flit) : Bool := f.payload.length == 240

/-- Data of a drain frame fit behind its 16 bytes of fields (Table 13.2). -/
def DrainMsg.wf (m : DrainMsg) : Bool := decide (m.data.length ≤ 224)

/-- One reading per consumer and per die (R358, R364). -/
def Sensors.wf (x : Sensors) : Bool := x.draws.length == 10 && x.temps.length == 29

/-- A control-space access has 32 or 64 bits and is aligned to its width (R6). -/
def accessWf (offset width : Nat) : Bool :=
  (width == 32 && offset % 4 == 0) || (width == 64 && offset % 8 == 0)

/-- Whether the data of a command have the lengths and ranges that the spec gives them. -/
def wellFormed : Instr → Bool
  | .bell _ f _ _ _ x => f.wf && x.wf
  | .report _ f _ _ => f.wf
  | .bellFire x => x.wf
  | .cxlMemRead _ n => decide (1 ≤ n)
  | .cxlMemWrite _ bs => decide (1 ≤ bs.length)
  | .patrol _ offset bad _ _ => offset.toNat % 8 == 0 && decide (bad ≤ 72)
  | .sequencedFlit _ f _ _ => f.wf
  | .collective _ f _ => f.wf
  | .done _ f => f.wf
  | .write _ f => f.wf
  | .readReq _ f => f.wf
  | .readResp _ f => f.wf
  | .begin _ m => m.wf
  | .data _ m => m.wf
  | .digestFrame _ m => m.wf
  | .endFrame _ m => m.wf
  | .commit _ m => m.wf
  | .reject _ m => m.wf
  | .pair _ m => m.wf
  | .pairAck _ m => m.wf
  | .restoreReq _ m => m.wf
  | .restoreData _ m => m.wf
  | .contextTeardown _ cause => decide (1 ≤ cause.toNat) && decide (cause.toNat ≤ 8)
  | .moduleReset cause => decide (2 ≤ cause.toNat) && decide (cause.toNat ≤ 4)
  | .completion _ _ _ bs => decide (bs.length ≤ 4096)
  | .phPost _ _ _ msg => msg.length == 64
  | .loadJob _ pkg plan => decide (pkg.length < 2 ^ 32) && decide (plan.length < 65536)
  | .subInterval energy => energy.length == 10
  | .readClear _ offset width => accessWf offset.toNat width.toNat
  | .registerWrite _ offset width _ => accessWf offset.toNat width.toNat
  | _ => true

end Sys2Proof
end

