-- ==== Sys2Proof/Tests/Slice0.lean ====
section
/-!
SUPPORT. Tests: an ill-formed term for each check of well-formedness, words written out from the spec's encodings, small
runs with results from the spec's tables, and for every statement with hypotheses a state that meets them.
-/
namespace Sys2Proof.Tests
open Sys2Proof.Machine
set_option Elab.async false

/-! States and commands for the tests. -/

/-- Partition 0 runs a job with tag 7 in region 0, whose sequencer runs; the module is active, at address 9. -/
def job : State :=
  (((((State.reset.put PROC_PART_CFG.REGIONS 1 0).put PROC_PART_CFG.JOB_TAG 7 0).put PROC_PART_CFG.STATE 2 0).put
    RGN_SEQ_STAT.STATE 1 0).put HUB_PWR_STATE.STATE 1).put HUB_FAB.ADDR 9

/-- A state with a queue of commands in region 0. -/
def queued (s : State) (q : List Entry) : State := s.modRegion 0 (fun g => { g with cmds := q })

/-- A state with the hub changed is `s.modHub`; a wait entry that waits for nothing. -/
def noWait : WaitEntry := { token := 0, count := 0, consume := false }

/-- A command word with nothing but an opcode and an engine. -/
def cmd (op : BitVec 8) (eng : BitVec 6) : Cmd :=
  { opcode := op, engine := eng, shadow := false, rsv15 := false, sigToken := 0, sigAdd := 0, rsv28 := 0, d0 := 0, d1 := 0,
    d2 := 0, wait0 := noWait, wait1 := noWait, wait2 := noWait, wait3 := noWait, rsv84 := 0, word4 := 0, word5 := 0,
    word6 := 0, word7 := 0 }

/-- A dispatched command that has not issued. -/
def waiting (c : Cmd) : Entry :=
  { cmd := c, slot := 3, ord := 5, step := 0, seed := 0, beta := 0, issued := false, consumed := false, ticket := 0, descs := [],
    ins := [], outs := [], posts := [], work := .none, needs := [], failed := false, cause := 0, twin := none }

/-- A command that was killed and waits to run again (R136): its waits are consumed. -/
def killed (c : Cmd) : Entry := { waiting c with consumed := true }

/-- An issued command. -/
def issued (c : Cmd) : Entry := { waiting c with issued := true, consumed := true }

/-- A link that has completed training, at roll call. -/
def linked (s : State) : State := (s.put LNK_STAT.STATE 2 0).put LNK_STAT.WIDTH 4 0

/-- The next state of a command. -/
def next (i : Instr) (s : State) : State := match exec i s with
  | .next t => t
  | _ => s

def hdr0 : FlitHdr :=
  { type := 1, vc := 0, last := true, seq := 0, ack := 0, cvc := 0, cred := 0, cls := false, ccls := false, dest := 9, src := 8, tag := 7 }
def flit0 : Flit := { hdr := hdr0, payload := List.replicate 240 0 }
def drain0 : DrainMsg :=
  { src := 8, tag := 0, store := 1, flags := 0x20, status := 0, place := 0, offset := 0, count := 8, step := 4, data := [1, 2, 3, 4, 0, 0, 0, 0] }
/-- A flit of a type on a virtual channel, with its CRC. -/
def flitOf (type vc : Nat) (payload : List Byte) : Flit :=
  sealFlit { hdr := { hdr0 with type := BitVec.ofNat 4 type, vc := BitVec.ofNat 3 vc }, payload := padTo 240 payload }

/-- A flit with its CRC passes the check of a good arrival. -/
theorem sealed_good (f : Flit) (v : FlitCheck) : checkOf (sealFlit f) v = v := by simp [checkOf, sealFlit]

/-! Ill-formed terms (WellFormed.lean), one for each check. -/

theorem test_illformed_sensors : wellFormed (.bellFire { draws := [], lossW := 0, peakW := 0, temps := [] }) = false := by decide +kernel
theorem test_illformed_cxl_read : wellFormed (.cxlMemRead 0 0) = false := by decide +kernel
theorem test_illformed_cxl_write : wellFormed (.cxlMemWrite 0 []) = false := by decide +kernel
theorem test_illformed_patrol : wellFormed (.patrol 0 4 0 0 0) = false ∧ wellFormed (.patrol 0 8 73 0 0) = false := by decide +kernel
theorem test_illformed_flits : ∀ l : Fin 2, wellFormed (.sequencedFlit ⟨l, by omega⟩ { flit0 with payload := [] } .good []) = false ∧
    wellFormed (.collective 0 { flit0 with payload := [] } .good) = false ∧ wellFormed (.done 0 { flit0 with payload := [] }) = false := by
  decide +kernel
theorem test_illformed_peer : ∀ i ∈ [Instr.write 0, .readResp 0, .readReq 0, fun f => .report 0 f .good .good].map
    (· { flit0 with payload := List.replicate 241 0 }), wellFormed i = false := by decide +kernel
theorem test_illformed_bell : ∀ p ∈ [(240, 9), (239, 10)], wellFormed (.bell 0 { flit0 with payload := List.replicate p.1 0 } .good .good []
    { draws := List.replicate p.2 0, lossW := 0, peakW := 0, temps := List.replicate 29 0 }) = false := by decide +kernel
theorem test_illformed_drain : ∀ i ∈ [Instr.begin 0, .data 0, .digestFrame 0, .endFrame 0, .commit 0, .reject 0, .pair 0, .pairAck 0,
    .restoreReq 0, .restoreData 0].map (· { drain0 with data := List.replicate 225 0 }), wellFormed i = false := by decide +kernel
theorem test_illformed_teardown : wellFormed (.contextTeardown 0 0) = false ∧ wellFormed (.contextTeardown 0 9) = false := by decide +kernel
theorem test_illformed_reset : wellFormed (.moduleReset 1) = false ∧ wellFormed (.moduleReset 5) = false := by decide +kernel
theorem test_illformed_completion : wellFormed (.completion 0 0 0 (List.replicate 4097 0)) = false := by decide +kernel
theorem test_illformed_post : wellFormed (.phPost 0 0 0 []) = false := by decide +kernel
theorem test_illformed_interval : wellFormed (.subInterval []) = false := by decide +kernel
theorem test_illformed_access : wellFormed (.readClear .pf 2 32) = false ∧ wellFormed (.registerWrite .pf 4 64 0) = false ∧
    wellFormed (.readClear .pf 0 8) = false := by decide +kernel
theorem test_illformed_plan : ∀ plan : List (BitVec 16), plan.length = 65536 → wellFormed (.loadJob 0 [] plan) = false := by
  intro plan h; simp [wellFormed, h]
/-- A well-formed term for every check. -/
theorem test_wellformed : wellFormed (.sequencedFlit 0 flit0 .good [3]) = true ∧ wellFormed (.begin 0 drain0) = true ∧
    wellFormed (.write 0 flit0) = true ∧ wellFormed (.contextTeardown 0 8) = true ∧
    wellFormed (.readClear .pf 8 64) = true ∧ wellFormed (.patrol 0 8 72 0 0) = true ∧ wellFormed (.add 0 1 2 3 0) = true := by
  decide +kernel

/-! Words written out bit by bit from the encodings of chapter 5. -/

theorem test_decode_li : decodeScalar 2 0b000001_00101_00000_0000000000101010#32 = some (.li 2 5 0 42) := by decide +kernel
theorem test_decode_slt : decodeScalar 0 0b001110_00001_00010_00011_00000000000#32 = some (.slt 0 1 2 3 0) := by decide +kernel
theorem test_decode_beq : decodeScalar 0 0b010000_00001_00010_1111111111111101#32 = some (.beq 0 1 2 0xFFFD) := by decide +kernel
theorem test_decode_cmdw : decodeScalar 0 0b011000_00000_00111_0000000000001101#32 = some (.cmdw 0 0 7 13) := by decide +kernel
theorem test_decode_reserved : decodeScalar 0 0b111111_00000_00000_0000000000000000#32 = none := by decide +kernel
/-- MATMUL on engine 3 that waits for two of token 9, consuming, and signals one of token 4 (R124, R125): opcode in bits
7-0, engine 13-8, SIG_TOKEN 23-16, SIG_ADD 27-24, D0 43-32, wait 0 79-68. -/
theorem test_decode_cmd : decodeCmd (0x10 + 3 * 2 ^ 8 + 4 * 2 ^ 16 + 1 * 2 ^ 24 + 77 * 2 ^ 32 + (9 + 2 * 2 ^ 8 + 2 ^ 11) * 2 ^ 68) =
    { cmd 0x10 3 with sigToken := 4, sigAdd := 1, d0 := 77, wait0 := { token := 9, count := 2, consume := true } } := by decide +kernel
/-- The table gives no row bits: no word spells a command. -/
theorem test_no_word : decodeTableWord 32 0 = none ∧ (State.reset.withFetchWord 32 0).pending = [] := by decide +kernel

/-! States that meet the hypotheses of the statements, each theorem named after its statement. -/

/-- All memory reads as zero. -/
def zeroed (s : State) : State := { s with mem := { cells := [], layers := [{ lo := 0, hi := memEnd, free := none }] } }

/-- `job` with a timetable of 16 slots at the bottom of the SRAM of region 0 (Table 5.1), its sequencer at slot 3. -/
def timed : State := ((zeroed job).store (sramBase 0) ([1, 0, 128, 0, 16, 0, 0, 0])).put RGN_SEQ_STAT.SLOT 3 0

theorem test_meets_EmptyQueueTicks : State.reset.pending = [] := rfl

theorem test_meets_ScalarDecodesItsEncoding : encodeScalar (.addi 1 31 2 0xFFFF) = some (1, 0b000011_11111_00010_1111111111111111#32) := by
  decide +kernel

theorem test_meets_ScalarEncodesItsDecoding : decodeScalar 3 0b011010_00001_00000_0000000000001111#32 = some (.rdstat 3 1 0 15) := by
  decide +kernel

theorem test_meets_ScalarRegisterWrite : RGN_TOK.VALUE.home ≠ RGN_SEQ_SQ.VALUE.home := by decide +kernel

theorem test_meets_ScalarArithmetic : job.seqRuns 0 = true ∧ job.partOf 0 = some 0 ∧
    ∀ i ∈ [0, 1, 2, 3, 4, 5], (BitVec.ofNat 16 (65520 + i)).toNat % 16 = i := by decide +kernel

/-- A target at either end of the timetable, and one past each end. -/
theorem test_meets_BranchTarget : timed.slots 0 = 16 ∧ timed.slot 0 = 3 ∧
    ((0 : Nat) : Int) = timed.slot 0 + (0xFFFD : BitVec 16).toInt ∧ ((15 : Nat) : Int) = timed.slot 0 + (12 : BitVec 16).toInt ∧
    (timed.slot 0 : Int) + (0xFFFC : BitVec 16).toInt < 0 ∧ (timed.slots 0 : Int) ≤ timed.slot 0 + (13 : BitVec 16).toInt ∧
    timed.slot 0 + 1 < timed.slots 0 ∧ timed.slots 0 ≤ 8388600 ∧
    (timed.put RGN_SEQ_STAT.SLOT 15 0).slots 0 ≤ (timed.put RGN_SEQ_STAT.SLOT 15 0).slot 0 + 1 := by
  decide +kernel

theorem test_meets_ScalarBranchesAndPatches : timed.seqRuns 0 = true ∧ (255 : BitVec 10).toNat < 256 := by decide +kernel

theorem test_meets_ScalarFieldFaults : job.seqRuns 0 = true ∧ (1 : BitVec 5) ≠ 0 ∧ (1 : BitVec 11) ≠ 0 ∧ 258 ≤ (258 : BitVec 10).toNat ∧
    6 ≤ (6 : BitVec 16).toNat % 16 := by decide +kernel

theorem test_meets_FirstErrorIsRecorded : job.get RGN_SEQ_ERR.CODE 0 = 0 ∧ (job.put RGN_SEQ_ERR.CODE 255 0).get RGN_SEQ_ERR.CODE 0 ≠ 0 := by
  decide +kernel

/-- A command that waits for seven of token 9 with exactly seven there. -/
theorem test_meets_WaitsAreConsumed : (job.put RGN_TOK.VALUE 7 0 9).waitsMet 0
      { cmd 0x12 0 with wait3 := { token := 9, count := 7, consume := true } } = true ∧
    (job.put RGN_TOK.VALUE 7 0 9).tok 0 (9 : BitVec 8).toNat < 65536 := by decide +kernel

theorem test_meets_CommitSignalsToken : (job.put RGN_TOK.VALUE 65534 0 9).tok 0 9 + (1 : BitVec 4).toNat ≤ 65535 ∧
    65535 < (job.put RGN_TOK.VALUE 65535 0 9).tok 0 9 + (1 : BitVec 4).toNat := by decide +kernel

/-- A sequencer command that can run, from its parts. -/
theorem ready {s : State} {r : Rgn} {c : Cmd} {op : Nat} {codes : List Nat} (h : s.seqRuns r = true ∧ c.op = op ∧ c.eng = 63 ∧
    wordCodes c = [] ∧ codes = [] ∧ s.waitsMet r c = true ∧ s.outranked r 53 c = false) : SeqReady s r c op codes :=
  ⟨h.1, h.2.1, h.2.2.1, h.2.2.2.1, h.2.2.2.2.1, h.2.2.2.2.2.1, h.2.2.2.2.2.2⟩

theorem test_meets_SequencerCommandsRun_SetStep : SeqReady job 0 { cmd 0x91 63 with word4 := 0xFFFFFFFF } 0x91 (bad (0xFFFFFFFF / 2 ^ 32 != 0) 0x0C) :=
  ready (by decide +kernel)
theorem test_meets_SequencerCommandsRun_ClearPoison : SeqReady job 0 { cmd 0x92 63 with word4 := 0x1FF } 0x92 (bad (0x1FF / 2 ^ 9 != 0) 0x0C) :=
  ready (by decide +kernel)
theorem test_meets_SequencerCommandsRun_End : SeqReady job 0 (cmd 0x93 63) 0x93 (bad ((cmd 0x93 63).param != 0) 0x0C) := ready (by decide +kernel)
theorem test_meets_SequencerCommandsRun_TokSet : SeqReady job 0 (cmd 0xA0 63) 0xA0
    (bad (bitsAt (cmd 0xA0 63).w4 8 8 != 0 || (cmd 0xA0 63).param / 2 ^ 32 != 0) 0x0C) := ready (by decide +kernel)
theorem test_meets_SequencerCommandsRun_Fence : SeqReady job 0 (cmd 0xA2 63) 0xA2 (bad ((cmd 0xA2 63).param != 0) 0x0C) ∧ job.regions[0].cmds = [] :=
  ⟨ready (by decide +kernel), rfl⟩
theorem test_meets_SequencerCommandsRun_Phase : SeqReady job 0 { cmd 0xB0 63 with word4 := 5 } 0xB0 (bad (5 < { cmd 0xB0 63 with word4 := 5 }.param) 0x0C) :=
  ready (by decide +kernel)
theorem test_meets_SequencerCommandsRun_BellWait : SeqReady job 0 { cmd 0x90 63 with word4 := 0xFFFF } 0x90
    (bad ({ cmd 0x90 63 with word4 := 0xFFFF }.sigAdd != 0) 1 ++ bad ({ cmd 0x90 63 with word4 := 0xFFFF }.param / 65536 != 0) 0x0C) ∧
    { cmd 0x90 63 with word4 := 0xFFFF }.param % 65536 = 0xFFFF := ⟨ready (by decide +kernel), by decide +kernel⟩
/-- The same for entry 1, the last of the bell plan; the entries are zero. -/
def planned : State := timed.store (sramBase 0 + 16) ([0, 16, 0, 0, 0x00, 0x00, 0x02, 0x00, 2, 0].map (BitVec.ofNat 8))
theorem test_meets_SequencerCommandsRun_BellWait_plan : SeqReady planned 0 { cmd 0x90 63 with word4 := 1 } 0x90
    (bad ({ cmd 0x90 63 with word4 := 1 }.sigAdd != 0) 1 ++ bad ({ cmd 0x90 63 with word4 := 1 }.param / 65536 != 0) 0x0C) ∧
    { cmd 0x90 63 with word4 := 1 }.param % 65536 = 1 ∧ (planned.header 0).planCount = 2 ∧ planOk (planned.planEntry 0 1) = true :=
  ⟨ready (by decide +kernel), by decide +kernel⟩
/-- TOK_REMOTE of 15 to token 2 of the own region, at the last value that fits and one past it. -/
theorem test_meets_CommitSignalsToken_TokRemote : job.partOf 0 = some 0 ∧ bitsAt 0xF002 8 2 = (0 : Rgn).val ∧
    (∀ v, v = 65520 ∨ v = 65521 → SeqReady (job.put RGN_TOK.VALUE v 0 2) 0 { cmd 0xA1 63 with word4 := 0xF002 } 0xA1
      (bad (bitsAt 0xF002 12 4 == 0 || bitsAt 0xF002 10 2 != 0 || { cmd 0xA1 63 with word4 := 0xF002 }.param / 2 ^ 16 != 0) 0x0C)) ∧
    ∀ v ∈ [(65520, true), (65521, false)], decide ((seqTaken (job.put RGN_TOK.VALUE v.1 0 2) 0
      { cmd 0xA1 63 with word4 := 0xF002 }).tok 0 (0xF002 % 256) + bitsAt 0xF002 12 4 ≤ 65535) = v.2 := by
  refine ⟨by decide +kernel, by decide +kernel, ?_, by decide +kernel⟩
  rintro v (rfl | rfl) <;> exact ready (by decide +kernel)
theorem test_meets_SequencerCommandsRun_Milestone : SeqReady job 0 { cmd 0xB1 63 with word4 := 0xFFFF } 0xB1 (bad (0xFFFF / 2 ^ 16 != 0) 0x0C) ∧
    job.partOf 0 = some 0 := ⟨ready (by decide +kernel), by decide +kernel⟩

/-- A command that can issue, from its parts. -/
theorem canIssue {s : State} {r : Rgn} {e op : Nat} {ready : State → Entry → Bool}
    {ranges : Ctx → List (Nat × Nat) × List (Nat × Nat)} {codes : Ctx → List Nat} {p : Prt} {en : Entry}
    (h : s.partOf r = some p ∧ nextOf s.regions[r].cmds e = some en ∧ s.regionRuns r = true ∧ en.cmd.op = op ∧ ready s en = true ∧
      s.powerOk r en.cmd = true ∧ s.holdsFree r en.cmd = true ∧ (en.consumed = true ∨ (s.waitsMet r en.cmd = true ∧ s.outranked r e en.cmd = false)) ∧
      (en.consumed = true ∨ lowest ((issueCtx s r p en).sharedCodes (ranges (issueCtx s r p en)).1
        (ranges (issueCtx s r p en)).2 ++ codes (issueCtx s r p en)) = none) ∧
      (issueCtx s r p en).badIn ((issueCtx s r p en).touched (ranges (issueCtx s r p en)).1) = []) :
    CanIssue s r e op ready ranges codes p en :=
  ⟨h.1, h.2.1, h.2.2.1, h.2.2.2.1, h.2.2.2.2.1, h.2.2.2.2.2.1, h.2.2.2.2.2.2.1, h.2.2.2.2.2.2.2.1, h.2.2.2.2.2.2.2.2.1, h.2.2.2.2.2.2.2.2.2⟩

/-- A first issue that passes every check: ACC_CLEAR of slot 7 on engine 15. -/
theorem test_meets_first_issue : CanIssue (queued (zeroed job) [waiting { cmd 0x12 15 with word4 := 7 }]) 0 15 0x12 (matReady 0 15)
    Ctx.plainRanges accClearCodes 0 (waiting { cmd 0x12 15 with word4 := 7 }) := canIssue (by decide +kernel)

/-- The queue of region 0 holds one command that was killed and runs again. -/
def again (op : BitVec 8) (eng : BitVec 6) : State := queued (zeroed job) [killed (cmd op eng)]

theorem test_meets_MatrixCommandsIssue :
    CanIssue (again 0x10 15) 0 15 0x10 (matReady 0 15) Ctx.plainRanges matmulCodes 0 (killed (cmd 0x10 15)) ∧
    CanIssue (again 0x11 0) 0 0 0x11 (matReady 0 0) Ctx.plainRanges accOutCodes 0 (killed (cmd 0x11 0)) ∧
    CanIssue (again 0x12 3) 0 3 0x12 (matReady 0 3) Ctx.plainRanges accClearCodes 0 (killed (cmd 0x12 3)) :=
  ⟨canIssue (by decide +kernel), canIssue (by decide +kernel), canIssue (by decide +kernel)⟩

theorem test_meets_UnitCommandsIssue :
    CanIssue (again 0x20 23) 0 (16 + 7) 0x20 (attReady 0 7) Ctx.plainRanges attFwdCodes 0 (killed (cmd 0x20 23)) ∧
    CanIssue (again 0x21 16) 0 (16 + 0) 0x21 (attReady 0 0) Ctx.plainRanges attBwdCodes 0 (killed (cmd 0x21 16)) ∧
    CanIssue (again 0x30 29) 0 (28 + 1) 0x30 (convReady 0) Ctx.plainRanges convDirectCodes 0 (killed (cmd 0x30 29)) ∧
    CanIssue (again 0x31 28) 0 28 0x31 unitFree Ctx.plainRanges convFftCodes 0 (killed (cmd 0x31 28)) ∧
    CanIssue (again 0x32 28) 0 28 0x32 unitFree Ctx.plainRanges conv4stepCodes 0 (killed (cmd 0x32 28)) ∧
    CanIssue (again 0x50 30) 0 30 0x50 unitFree Ctx.plainRanges vocGatherCodes 0 (killed (cmd 0x50 30)) ∧
    CanIssue (again 0x51 30) 0 30 0x51 (vocXentReady 0) Ctx.plainRanges vocXentCodes 0 (killed (cmd 0x51 30)) ∧
    CanIssue (again 0x52 30) 0 30 0x52 (vocScatterReady 0) vocScatterRanges vocScatterCodes 0 (killed (cmd 0x52 30)) ∧
    CanIssue (again 0x40 27) 0 (24 + 3) 0x40 unitFree Ctx.plainRanges pwMapCodes 0 (killed (cmd 0x40 27)) ∧
    CanIssue (again 0x41 24) 0 24 0x41 unitFree Ctx.plainRanges pwNormCodes 0 (killed (cmd 0x41 24)) ∧
    CanIssue (again 0x42 24) 0 24 0x42 unitFree Ctx.plainRanges pwDropoutCodes 0 (killed (cmd 0x42 24)) ∧
    CanIssue (again 0x43 24) 0 24 0x43 unitFree Ctx.plainRanges pwMaskCodes 0 (killed (cmd 0x43 24)) ∧
    CanIssue (again 0x44 24) 0 24 0x44 unitFree Ctx.plainRanges pwReduceCodes 0 (killed (cmd 0x44 24)) ∧
    CanIssue (again 0x45 24) 0 24 0x45 unitFree Ctx.plainRanges pwConvertCodes 0 (killed (cmd 0x45 24)) := by
  refine ⟨canIssue ?_, canIssue ?_, canIssue ?_, canIssue ?_, canIssue ?_, canIssue ?_, canIssue ?_, canIssue ?_, canIssue ?_,
    canIssue ?_, canIssue ?_, canIssue ?_, canIssue ?_, canIssue ?_⟩ <;> decide +kernel

/-- COPY, COPY_T, DIGEST and DESC_LOAD; the DIGEST has nothing outside the module. -/
theorem test_meets_CopyCommandsIssue :
    CanIssue (again 0x60 38) 0 (31 + 7) 0x60 unitFree Ctx.plainRanges copyCodes 0 (killed (cmd 0x60 38)) ∧
    CanIssue (again 0x61 31) 0 31 0x61 unitFree Ctx.plainRanges copyTCodes 0 (killed (cmd 0x61 31)) ∧
    CanIssue (again 0x62 31) 0 31 0x62 unitFree Ctx.plainRanges digestCodes 0 (killed (cmd 0x62 31)) ∧
    CanIssue (again 0x63 31) 0 31 0x63 unitFree Ctx.plainRanges descLoadCodes 0 (killed (cmd 0x63 31)) ∧
    ∀ e ∈ (again 0x60 38).regions[0].cmds, e.issued = true → e.ticket ≠ (again 0x60 38).ticket :=
  ⟨canIssue (by decide +kernel), canIssue (by decide +kernel), canIssue (by decide +kernel), canIssue (by decide +kernel), by decide +kernel⟩

theorem test_meets_StackAndDrainCommandsIssue :
    CanIssue (again 0x70 44) (stackRegion 5) (seEng 5) 0x70 (seReady 5) updateRanges updateCodes 0 (killed (cmd 0x70 44)) ∧
    CanIssue (again 0x71 39) (stackRegion 0) (seEng 0) 0x71 (seReady 0) accumRanges accumCodes 0 (killed (cmd 0x71 39)) ∧
    CanIssue (again 0x72 39) (stackRegion 0) (seEng 0) 0x72 (seReady 0) appendRanges appendCodes 0 (killed (cmd 0x72 39)) ∧
    CanIssue (again 0x73 39) (stackRegion 0) (seEng 0) 0x73 (seReady 0) vocScatterRanges scatterAddCodes 0 (killed (cmd 0x73 39)) ∧
    CanIssue (again 0x75 39) (stackRegion 0) (seEng 0) 0x75 (seReady 0) Ctx.plainRanges flipCodes 0 (killed (cmd 0x75 39)) ∧
    CanIssue (again 0x76 39) (stackRegion 0) (seEng 0) 0x76 (seReady 0) Ctx.plainRanges fillCodes 0 (killed (cmd 0x76 39)) ∧
    CanIssue (again 0x74 39) (stackRegion 0) (seEng 0) 0x74 (seReady 0) drainRanges drainCodes 0 (killed (cmd 0x74 39)) ∧
    (issueCtx (again 0x74 39) (stackRegion 0) 0 (killed (cmd 0x74 39))).drSends = false ∧
    headOf (again 0x74 39).regions[stackRegion 0].cmds (seEng 0) = some (killed (cmd 0x74 39)) ∧ (cmd 0x74 39).shadow = false ∧
    job.partState 0 ≠ psEmpty ∧ job.partState 0 ≠ psTearing ∧ (cmd 0x74 39).sigAdd = 0 := by
  refine ⟨canIssue ?_, canIssue ?_, canIssue ?_, canIssue ?_, canIssue ?_, canIssue ?_, canIssue ?_, ?_⟩ <;> decide +kernel

/-- A drain that sends nothing behind an append that has issued, and one of a later step, which sends. -/
def behind : State := queued (zeroed job) [issued (cmd 0x72 39), killed (cmd 0x74 39)]
def sending : State := (again 0x74 39).put SE_BUF1.STEP 1 0 0
theorem test_meets_StackAndDrainCommandsIssue_drains :
    CanIssue behind (stackRegion 0) (seEng 0) 0x74 (seReady 0) drainRanges drainCodes 0 (killed (cmd 0x74 39)) ∧
    CanIssue sending (stackRegion 0) (seEng 0) 0x74 (seReady 0) drainRanges drainCodes 0 (killed (cmd 0x74 39)) ∧
    headOf behind.regions[stackRegion 0].cmds (seEng 0) ≠ some (killed (cmd 0x74 39)) ∧
    (issueCtx behind (stackRegion 0) 0 (killed (cmd 0x74 39))).drSends = false ∧
    (issueCtx sending (stackRegion 0) 0 (killed (cmd 0x74 39))).drSends = true ∧
    (∀ e ∈ behind.regions[stackRegion 0].cmds, e.issued = true → e.ticket ≠ behind.ticket) :=
  ⟨canIssue (by decide +kernel), canIssue (by decide +kernel), by decide +kernel⟩

theorem test_meets_LinkCommandsIssue :
    CanIssue (again 0x80 52) (linkRegion 7) (lcEng 7) 0x80 (lcReady (linkRegion 7) (lcEng 7)) collRanges reduceCodes 0 (killed (cmd 0x80 52)) ∧
    CanIssue (again 0x81 45) (linkRegion 0) (lcEng 0) 0x81 (lcReady (linkRegion 0) (lcEng 0)) collRanges gatherCodes 0 (killed (cmd 0x81 45)) ∧
    CanIssue (again 0x82 45) (linkRegion 0) (lcEng 0) 0x82 (lcReady (linkRegion 0) (lcEng 0)) collRanges gatherCodes 0 (killed (cmd 0x82 45)) ∧
    CanIssue (again 0x83 45) (linkRegion 0) (lcEng 0) 0x83 (lcReady (linkRegion 0) (lcEng 0)) collRanges allToAllCodes 0 (killed (cmd 0x83 45)) ∧
    CanIssue (again 0x84 45) (linkRegion 0) (lcEng 0) 0x84 (lcReady (linkRegion 0) (lcEng 0)) collRanges messageCodes 0 (killed (cmd 0x84 45)) ∧
    CanIssue (again 0x85 45) (linkRegion 0) (lcEng 0) 0x85 (lcReady (linkRegion 0) (lcEng 0)) collRanges messageCodes 0 (killed (cmd 0x85 45)) ∧
    CanIssue (again 0x86 45) (linkRegion 0) (lcEng 0) 0x86 (lcReady (linkRegion 0) (lcEng 0)) collRanges messageCodes 0 (killed (cmd 0x86 45)) := by
  refine ⟨canIssue ?_, canIssue ?_, canIssue ?_, canIssue ?_, canIssue ?_, canIssue ?_, canIssue ?_⟩ <;> decide +kernel

/-- A first issue of each of the four rows whose reserved PARAM bits are set. -/
def refusedAt (op : BitVec 8) (eng : BitVec 6) : State := queued (zeroed job) [waiting { cmd op eng with word7 := 1 }]
/-- The hypotheses of a refusal for that command. -/
def refusedOk (op : BitVec 8) (eng : BitVec 6) (ready : State → Entry → Bool) (codes : Ctx → List Nat) : Bool :=
  let s := refusedAt op eng
  let en := waiting { cmd op eng with word7 := 1 }
  let x := issueCtx s 0 0 en
  s.partOf 0 == some 0 && nextOf s.regions[0].cmds eng.toNat == some en && s.regionRuns 0 && en.cmd.op == op.toNat && ready s en &&
    s.powerOk 0 en.cmd && s.holdsFree 0 en.cmd && !en.consumed && s.waitsMet 0 en.cmd && !s.outranked 0 eng.toNat en.cmd &&
    (lowest (x.sharedCodes (x.ranges false) (x.ranges true) ++ codes x)).isSome
theorem test_meets_RefusedCommandFaults : refusedOk 0x12 0 (matReady 0 0) accClearCodes = true ∧
    refusedOk 0x30 28 (convReady 0) convDirectCodes = true ∧ refusedOk 0x40 24 unitFree pwMapCodes = true ∧
    refusedOk 0x50 30 unitFree vocGatherCodes = true := by decide +kernel

/-- A MATMUL issued on engine 15, with some spares of the engine used. -/
def checked (used : List Nat) : State :=
  used.foldl (fun s i => s.put (ME_COL_MAP.VALID i) 1 0 15) (queued job [issued (cmd 0x10 15)])
def shadow0 : Shadow := { engine := 0, digest := 6, twinOrd := 4 }
/-- Two shadows, of which the second has its twin. -/
def shadowed : State := job.modRegion 0 (fun g => { g with shadows := [{ shadow0 with twinOrd := 5 }, shadow0], twins := [(4, 6)] })
/-- The lowest and the highest spare are free; none is; a shadow whose twin has committed. -/
theorem test_meets_UnitChecks :
    (∀ u ∈ [[], [0, 1, 2], [0, 1, 2, 3]], (checked u).issuedAt 0 15 0 = true) ∧ (checked []).get (ME_COL_MAP.VALID 0) 0 15 = 0 ∧
    (∀ i < 3, (checked [0, 1, 2]).get (ME_COL_MAP.VALID i) 0 15 ≠ 0) ∧ (checked [0, 1, 2]).get (ME_COL_MAP.VALID 3) 0 15 = 0 ∧
    (∀ i < 4, (checked [0, 1, 2, 3]).get (ME_COL_MAP.VALID i) 0 15 ≠ 0) ∧ job.regions[0].shadows = [] ∧
    shadowed.regions[0].shadows = [{ shadow0 with twinOrd := 5 }] ++ shadow0 :: [] ∧
    (∀ y ∈ [{ shadow0 with twinOrd := 5 }], ∀ w ∈ shadowed.regions[0].twins, w.1 ≠ y.twinOrd) ∧
    (shadow0.twinOrd, 6) ∈ shadowed.regions[0].twins ∧
    (∀ w ∈ shadowed.regions[0].twins, w.1 = shadow0.twinOrd → w.2 = 6) := by decide +kernel

/-- A command that has not issued; one that commits; one that fails with the highest cause. -/
theorem test_meets_CommandCommits : job.partOf 0 = some 0 ∧
    (∀ en ∈ [waiting (cmd 0x10 52), issued (cmd 0x10 52), { issued (cmd 0x10 52) with failed := true, cause := 15 }],
      headOf (queued job [en]).regions[0].cmds 52 = some en ∧ en.needs = [] ∧ en.work.done = true ∧
      (queued job [en]).drainWaiting 0 en = false ∧ (queued job [en]).awaitsUnit 0 en = false ∧ en.cmd.shadow = false ∧ en.posts = [] ∧
      en.cmd.op ≠ 0x70 ∧ en.cause < 16) ∧
    job.partState 0 ≠ psTearing ∧ job.partState 0 ≠ psEmpty := by decide +kernel

theorem test_meets_EffectsReachMemory : State.reset.mem.wf = true := by decide +kernel

/-- The last word of stack 23, good and bad. -/
theorem test_meets_FlipsAndScrubs : (23 * 2 ^ 36 + (2 ^ 36 - 8 : BitVec 36).toNat) / 8 ∉ job.badWords ∧
    (23 * 2 ^ 36 + (2 ^ 36 - 8 : BitVec 36).toNat) / 8 ∈ ({ job with badWords := [24 * 2 ^ 33 - 1] }).badWords ∧
    (0 : Fin 64) ≠ 63 := by decide +kernel

/-- GO with the header of `timed`, and with no header (version 0). -/
theorem test_meets_GoChecksTheHeader : job.partOf 0 = some 0 ∧ job.partState 0 = psRunning ∧
    (timed.put RGN_SEQ_STAT.STATE 3 0).seqState 0 = sqEnded ∧
    headerOk timed 0 (timed.header 0) = true ∧ headerOk (zeroed job) 0 ((zeroed job).header 0) = false ∧
    (zeroed job).get RGN_SEQ_ERR.CODE 0 = 0 := by decide +kernel

/-- The slot that the sequencer stands at holds a word. -/
def atSlot (w : List Byte) : State := timed.store (sramBase 0 + 256 + 32 * 3) w
theorem test_meets_DispatchFillsQueues : timed.partOf 0 = some 0 ∧ timed.seqRuns 0 = true ∧
    -- a scalar slot with seven instructions, the first NOP
    (atSlot [1, 7]).slotWord 0 % 256 = 1 ∧ bitsAt ((atSlot [1, 7]).slotWord 0) 8 3 ≠ 0 ∧ bitsAt ((atSlot [1, 7]).slotWord 0) 11 21 = 0 ∧
    decodeScalar 0 (BitVec.ofNat 32 (bitsAt ((atSlot [1, 7]).slotWord 0) 32 32)) = some (.nop 0 0 0 0) ∧
    -- an engine command on its last engine, and a sequencer command
    (engineRange ((atSlot [0x12, 15]).slotWord 0 % 256)).isSome = true ∧
    engineRange (decodeCmd (patched ((atSlot [0x12, 15]).slotWord 0) [])).op = some (0, 15) ∧
    (decodeCmd (patched ((atSlot [0x12, 15]).slotWord 0) [])).eng = 15 ∧
    0x90 ≤ (decodeCmd (patched ((atSlot [0x93, 63]).slotWord 0) [])).op ∧ (engineRange 0x93).isSome = true ∧
    -- queues one short of full, and full
    (∀ n ∈ [31, 32], ((queued timed (List.replicate n (waiting (cmd 0x12 15)))).regions[0].cmds.filter (fun e => e.eng == 15)).length = n) := by
  decide +kernel

/-- Roll call is complete and link 0 is up; `h` changes the hub. -/
def fabric (h : Hub → Hub) : State := ((linked job).put HUB_RC_STAT.STATE 5).modHub h
def bell0 : BellMsg :=
  { periodNum := 1, flags := 15, lateVec := 0, poisonVote := 0, periodUs := 128, masterAddr := 8, fireDelay := 1000, masterSerial := 0,
    pathDelay := 8000 }
/-- The frame of a bell. -/
def bellFlit (m : BellMsg) : Flit := flitOf ftBell 7 (bellBytes m)
/-- F is 1,000 ns. -/
def delayed : State := (fabric id).put HUB_BELL_TIMING.FIRE_DELAY_NS 1000
/-- A bell of the next period at its fire delay and one past it; one of an old period; two bad copies; the three senders. -/
theorem test_meets_BellFramesTravel : delayed.trained 0 = true ∧ delayed.complete = true ∧ delayed.hub.pendingBell = none ∧
    (bellOf (bellFlit bell0).payload).pathDelay = 8000 ∧ (bellOf (bellFlit { bell0 with pathDelay := 8001 }).payload).pathDelay = 8001 ∧
    (bellOf (bellFlit bell0).payload).fireDelay.toNat = delayed.get HUB_BELL_TIMING.FIRE_DELAY_NS ∧
    (bellOf (bellFlit bell0).payload).flags.toNat < 16 ∧ delayed.newPeriod (bellOf (bellFlit bell0).payload).periodNum.toNat = true ∧
    delayed.newPeriod 0 = false ∧ 8 * delayed.get HUB_BELL_TIMING.FIRE_DELAY_NS = 8000 ∧
    (bellFlit bell0).hdr.type.toNat = ftBell ∧ (bellFlit bell0).hdr.vc = 7 ∧
    checkOf (bellFlit bell0) .badCrc ≠ .good ∧
    ((fabric id).put HUB_BELL_STATUS.IS_MASTER 1).bit HUB_BELL_STATUS.IS_MASTER = true ∧ (fabric id).hub.fresh = false ∧
    (fabric (fun h => { h with fresh := true })).hub.fresh = true ∧
    ((fabric id).put HUB_BELL_STATUS.IS_DEPUTY 1).bit HUB_BELL_STATUS.IS_DEPUTY = true := by decide +kernel
theorem test_meets_BellFramesTravel_good : checkOf (bellFlit bell0) .good = .good := sealed_good _ _

theorem test_meets_BellFiresAndLatches : (fabric id).hub.pendingBell = none ∧
    (fabric (fun h => { h with pendingBell := some bell0 })).hub.pendingBell = some bell0 ∧
    (fabric (fun h => { h with fired := true })).hub.fired = true ∧ (fabric (fun h => { h with fired := true })).live = [] := by
  decide +kernel

/-- A held, a desynchronized and an undisturbed partition. -/
def headed : State := (timed.store (sramBase 0 + 2) [128, 0]).put HUB_BELL_STATUS.CUR_PERIOD_US 128
theorem test_meets_HoldsAtBell : headed.partState 0 = psRunning ∧ ({ bell0 with lateVec := 1 }).lateVec.getLsbD (headed.bellPart 0) = true ∧
    bell0.lateVec.getLsbD (headed.bellPart 0) = false ∧ (headed.modPart 0 (fun x => { x with late := true })).parts[0].late = true ∧
    headed.parts[0].late = false ∧ (∀ r ∈ headed.regionsOf 0, headed.declaresOther 0 r = false) ∧ headed.regionsOf 0 = [0] := by
  decide +kernel

/-- A report for the module at address 9 or another. -/
def reportFlit (dest : BitVec 16) (period : Nat) : Flit :=
  let f := flitOf ftReport 7 (toLe 6 period ++ [1, 0, 1])
  sealFlit { f with hdr := { f.hdr with dest := dest } }
theorem test_meets_ReportsAndDeadlines : (let s := (fabric id).put HUB_BELL_STATUS.IS_MASTER 1
     s.trained 0 = true ∧ s.complete = true ∧ s.bit HUB_BELL_STATUS.IS_MASTER = true ∧ s.hub.sent = false ∧ s.hub.pendingBell = none ∧
      (reportOf 9 (reportFlit 9 0).payload).dest.toNat = s.addr ∧ (reportOf 9 (reportFlit 9 0).payload).periodNum.toNat = s.period ∧
      (reportOf 9 (reportFlit 9 1).payload).periodNum.toNat ≠ s.period) ∧
    (reportFlit 9 0).hdr.type.toNat = ftReport ∧ (reportFlit 9 0).hdr.vc = 7 ∧
    (let s := (fabric id).put (RGN_ROUTE.ENTRY 2) 128 0 0 1
     (reportOf 10 (reportFlit 10 0).payload).dest.toNat ≠ s.addr ∧ s.routeOf (linkRegion 0) 10 = some (0, false) ∧ s.trained 0 = true) ∧
    (fabric (fun h => { h with fired := true })).hub.fired = true ∧
    (fabric id).partState 0 = psRunning ∧ (0 : Rgn) ∈ (fabric id).regionsOf 0 ∧ (∀ q, (0 : Rgn) ∈ (fabric id).regionsOf q → q = 0) ∧
    ((fabric id).put RGN_SEQ_STAT.STATE 3 0).blockCommitted 0 = true ∧
    (queued ((fabric id).put RGN_SEQ_STAT.STATE 3 0) [issued (cmd 0x10 0)]).blockCommitted 0 = false ∧
    (let s := ((fabric id).put PROC_PART_STAT.CONSEC 64 0).put PROC_PART_STAT.HELD 1 0
     s.get PROC_HOLD_LIMIT.LIMIT ≤ s.get PROC_PART_STAT.CONSEC 0 ∧ s.bit PROC_PART_STAT.HELD 0 = true ∧
       s.partState 0 ≠ psEmpty ∧ s.partState 0 ≠ psTearing) ∧
    (fabric id).periodOk 15 = false ∧ (fabric id).periodOk 16 = true ∧ (fabric id).periodOk 4096 = true ∧ (fabric id).periodOk 4097 = false ∧
    (fabric id).bit HUB_BELL_STATUS.IS_MASTER = false ∧ (fabric id).hub.powered = true ∧ (fabric id).hub.fired = false := by
  decide +kernel
theorem test_meets_ReportsAndDeadlines_good : checkOf (reportFlit 9 0) .good = .good := sealed_good _ _

/-- The last granule of an interleaved region is being filled, and beside it another one of its unit or none. -/
def filling (others : List Bool) : State := (job.put HUB_STK_MODE.INTLV 1 3).modHub (fun h => { h with
  fills := { granule := 1535, kind := 3, tag := 7, filled := false } ::
    others.map (fun b => { granule := 1471, kind := 3, tag := 7, filled := b }) })
theorem test_meets_OwnershipRequests : Actor.icholt ≠ Actor.pf ∧ (∀ f ∈ job.hub.fills, f.granule = 1535 → f.filled = true) ∧
    (∃ f ∈ (filling []).hub.fills, f.granule = (1535 : Fin 1536).val ∧ f.filled = false) ∧
    (∀ f ∈ (filling [true]).hub.fills, f.granule ≠ 1535 → f.granule ∈ (filling [true]).ownUnit 1535 → f.filled = true) ∧
    (∃ f ∈ (filling [false]).hub.fills, f.granule ≠ 1535 ∧ f.granule ∈ (filling [false]).ownUnit 1535 ∧ f.filled = false) := by
  decide +kernel

/-- The host owns granule 0; a hedge for it, what is left of it, and requests that wait. -/
def hosted (on left : Nat) (held : List (Nat × Nat × Option (List Byte))) : State :=
  (job.put HUB_OWN.KIND 1 0).modHub (fun h => { h with hedgeOn := [(64, on)], hedge := [(64, left)], cxl := held })
/-- One byte at the end of a line: free, with a unit of the hedge left, behind a request, with no unit left; in memory of
nobody; in a dormant module. Two bytes across the line. -/
theorem test_meets_HostMemoryAccess : (255 : Word64).toNat / 256 = ((255 : Word64).toNat + 1 - 1) / 256 ∧
    64 = 64 + (255 : Word64).toNat / 0x6000000000 ∧
    (∀ s ∈ [hosted 0 0 [], hosted 1 1 [], hosted 1 0 [(0, 1, none)]], s.hostOwns 255 256 = true ∧ s.dormant = false) ∧
    kget (hosted 0 0 []).hub.hedgeOn 64 0 = 0 ∧ (∀ q ∈ (hosted 1 1 []).hub.cxl, 64 + q.1 / 0x6000000000 ≠ 64) ∧
    0 < kget (hosted 1 1 []).hub.hedge 64 0 ∧ kget (hosted 1 0 [(0, 1, none)]).hub.hedgeOn 64 0 ≠ 0 ∧
    (∃ q ∈ (hosted 1 0 [(0, 1, none)]).hub.cxl, 64 + q.1 / 0x6000000000 = 64) ∧
    kget (hosted 1 0 [(0, 1, none)]).hub.hedge 64 0 = 0 ∧ job.hostOwns 255 256 = false ∧
    ((hosted 0 0 []).put HUB_PWR_STATE.STATE 3).dormant = true ∧
    1 = 256 - (255 : Word64).toNat % 256 ∧ (255 : Word64).toNat + 2 < 2 ^ 64 := by decide +kernel

theorem test_meets_LinksTrainAndTime : job.get LNK_STAT.STATE 31 = lkDown ∧ widthOf (8 : BitVec 4).toNat = 1 ∧ widthOf (0 : BitVec 4).toNat = 0 ∧
    (linked job).get LNK_STAT.STATE 0 ≠ lkDown ∧ (linked job).get LNK_STAT.STATE 0 ≠ lkTraining ∧
    (∀ n ∈ [5184, 5185], (job.put LNK_STAT.LATENCY n 0).get LNK_STAT.LATENCY 0 = n) ∧
    (let t := (linked job).put LNK_STAT.WIDTH 2 0
     t.get LNK_STAT.STATE 0 = lkRollCall ∧ t.get LNK_WIDTH.PHASE 0 = 0 ∧ t.get LNK_STAT.WIDTH 0 < t.get LNK_WIDTH.TARGET 0 ∧
       t.attemptsOf (3, (0 : Lnk).val, 0) < 4 ∧ t.retryDue (3, (0 : Lnk).val, 0) = true ∧
       (t.modHub (fun h => { h with retries := [((3, 0, 0), 1)] })).retryDue (3, (0 : Lnk).val, 0) = false) ∧ (linked job).get LNK_WIDTH.TARGET 0 ≤ (linked job).get LNK_STAT.WIDTH 0 ∧
    ((linked job).modLink 0 (fun x => { x with timing := 32 })).timingOk 0 = false ∧ (linked job).timingOk 0 = true ∧
    ∀ n ∈ [14, 15], (let t := (job.put LNK_STAT.STATE 1 0).modLink 0 (fun x => { x with probes := List.replicate n 100 })
     t.get LNK_STAT.STATE 0 = lkTraining ∧ t.timingOk 0 = true ∧ t.links[0].probes.length = n) := by decide +kernel

/-- Unacknowledged flits at the eighth replay and past it; lanes in use and a lane that is not; the two ends of a return. -/
theorem test_meets_LinksRetryAndNarrow : unsequenced flit0.hdr = false ∧ (linked job).get LNK_STAT.STATE 0 = lkRollCall ∧
    checkOf flit0 (.badWord 1) = .badWord 1 ∧ checkOf flit0 .badCrc = .badCrc ∧ unsequenced (flitOf ftWrite 0 []).hdr = false ∧
    (flitOf ftWrite 0 []).hdr.seq.toNat = (linked job).links[0].rxSeq ∧
    (flitOf ftWrite 0 []).hdr.seq.toNat ≠ ((linked job).modLink 0 (fun x => { x with rxSeq := 1 })).links[0].rxSeq ∧
    (linked job).links[0].nakSent = false ∧ ((linked job).modLink 0 (fun x => { x with nakSent := true })).links[0].nakSent = true ∧
    (linked job).links[0].unacked = [] ∧ ((linked job).links[0].ackTo (16383 : BitVec 14).toNat).unacked = [] ∧
    (let t := (linked job).modLink 0 (fun x => { x with unacked := [flit0], replays := 7 })
     t.links[0].unacked ≠ [] ∧ t.links[0].replays < 8 ∧ (t.links[0].ackTo (16383 : BitVec 14).toNat).unacked ≠ [] ∧
       (t.links[0].ackTo (16383 : BitVec 14).toNat).replays < 8) ∧
    (let t := (linked job).modLink 0 (fun x => { x with unacked := [flit0], replays := 8 })
     t.links[0].unacked ≠ [] ∧ 8 ≤ t.links[0].replays) ∧
    (linked job).links[0].waiting = [] ∧ ({ hdr0 with cvc := 6 }).cvc.toNat < 7 ∧ (linked job).links[0].credits.length = 14 ∧
    (let t := ((linked job).put LNK_STAT.LANES_OK 7 0).modLink 0 (fun x => { x with lanes := 3 })
     t.links[0].lanes &&& (13 : BitVec 4).toNat ≠ t.links[0].lanes ∧ t.links[0].lanes &&& (11 : BitVec 4).toNat = t.links[0].lanes ∧
       (13 : BitVec 4) ≠ 15 ∧ (11 : BitVec 4) ≠ 15) ∧
    ((linked job).put LNK_WIDTH.PHASE 3 0).get LNK_WIDTH.PHASE 0 = 3 ∧ (linked job).get LNK_WIDTH.TARGET 0 < 8 ∧
    (linked job).get LNK_WIDTH.PHASE 0 ≠ 3 := by decide +kernel
theorem test_meets_LinksRetryAndNarrow_good : checkOf (flitOf ftWrite 0 []) .good = .good := sealed_good _ _

/-- A roll-call frame from the module at address 9, the own address of `job`. -/
def roll0 : RollMsg :=
  { hops := 32, epoch := 1, serial := 5, best := 5, second := 6, addr := 9, posId := 0, flags := 0, link := 0, reach := 0, pathM := 3,
    pathD := 4, count := 2, fNs := 1, lNs := 2, periodUs := 128 }
/-- A module in roll call, with its role, an expected count and the READY that its link has brought. -/
def rolling (state master expect : Nat) : State :=
  ((((linked job).put HUB_RC_STAT.STATE state).put HUB_BELL_STATUS.IS_MASTER master).put HUB_RC_CTRL.EXPECT expect)
/-- The state in which a READY of `roll0` is counted. -/
def counted (s : State) : State := s.modLink 0 (fun x => { x with
  rcLast := some s.now, ready := some (roll0.count.toNat, roll0.pathM.toNat, roll0.pathD.toNat, roll0.hops.toNat) })
theorem test_meets_RollCall : (linked job).rollLink 0 = true ∧ (linked job).complete = false ∧ (linked job).links[0].rcLast = none ∧
    (let t := (linked job).modLink 0 (fun x => { x with rcLast := some 0 })
     t.links[0].rcLast = some 0 ∧ t.now < 0 + 14400 ∧ 0 + 14400 ≤ ({ t with now := 14400 }).now) ∧
    job.addr ≠ 0xFFFF ∧ roll0.addr.toNat = job.addr ∧ 32 < ({ roll0 with hops := 33 }).hops.toNat ∧ roll0.hops.toNat ≤ 32 ∧
    (rolling 2 0 0).bindable roll0 = true ∧ (rolling 6 1 0).bindable roll0 = true ∧ (rolling 3 1 0).bindable roll0 = false ∧
    (rolling 2 0 0).probeable roll0 = true ∧
    ((rolling 2 0 0).modHub (fun h => { h with roll := { h.roll with pathD := some 1, probeEpoch := 1 } })).probeable roll0 = false ∧
    (rolling 2 0 0).bit HUB_BELL_STATUS.IS_MASTER = false ∧
    (∀ p ∈ [(2, 1), (3, 0), (4, 2)], (rolling 3 1 p.1).bit HUB_BELL_STATUS.IS_MASTER = true ∧ (rolling 3 1 p.1).get HUB_RC_CTRL.EXPECT = p.1 ∧
      p.1 ≠ 0) ∧ (counted (rolling 3 1 2)).aggregate.1 = 3 ∧
    roll0.fNs ≠ 0 ∧ ({ roll0 with fNs := 0 }).fNs = 0 ∧ (rolling 2 0 0).get HUB_RC_STAT.STATE ≠ 6 ∧ (rolling 6 0 0).get HUB_RC_STAT.STATE = 6 ∧
    (let t := (job.put HUB_RC_STAT.STATE 2).modHub (fun h => { h with roll := { h.roll with best := BitVec.ofNat 64 job.serial } })
     t.get HUB_RC_STAT.STATE = 2 ∧ t.hub.roll.best.toNat = t.serial) ∧ job.get HUB_RC_CTRL.EXPECT = 0 ∧
    (rolling 3 1 0).get HUB_RC_STAT.STATE = 3 ∧ (rolling 0 0 1).get HUB_RC_CTRL.EXPECT = 1 ∧ job.get HUB_RC_STAT.STATE = 0 ∧
    (rolling 4 0 0).get HUB_RC_STAT.STATE ≤ 4 ∧ 1 ≤ (rolling 4 0 0).get HUB_RC_STAT.STATE ∧
    (∃ x ∈ ((rolling 2 0 0).modHub (fun h => { h with roll := { h.roll with latest := [(rkClaim, roll0, [])] } })).hub.roll.latest,
      x.1 ≠ rkHello ∧ x.1 ≠ rkReady) := by decide +kernel

/-- A COLLECTIVE flit for link 7. -/
def collFlit (op : Byte) (last : Bool) : Flit :=
  { hdr := { hdr0 with type := BitVec.ofNat 4 ftCollective, last := last }, payload := [op, 0, 0, 0, 7] }
/-- The fabric with some flits staged at link 7. -/
def stagedAt (n : Nat) : State := (fabric id).modLink 7 (fun x => { x with stage := List.replicate n (collFlit 1 false) })
/-- An LC_SEND to module 8 that waits for its DONE. -/
def coll0 : Coll :=
  { ranks := [], own := 0, node := 0, shards := [], total := 0, unit := 0, base := 0, held := [], final := [], counts := [], rows := [],
    dones := [], message := [], closed := false, mismatch := false, uncorr := false }
def sender : State := queued (fabric id) [{ issued { cmd 0x85 52 with word6 := 8 } with work := .coll coll0 }]
theorem test_meets_CollectiveFlitIsStaged : (fabric id).complete = true ∧ (linked job).complete = false ∧
    (∀ o ∈ [1, 8, 9], collReserved (collFlit o false) = false) ∧ collReserved (collFlit 10 false) = true ∧
    (7 : Lnk).val = (collHdr (collFlit 1 false)).tlink % 32 ∧ (collHdr (collFlit 9 false)).op = opDone ∧
    (collHdr (collFlit 1 false)).op ≠ opDone ∧ (collHdr (collFlit 8 true)).op = opSend ∧ (collFlit 8 true).hdr.last = true ∧
    ¬ ((collFlit 1 true).hdr.last = true ∧ ((collHdr (collFlit 1 true)).op = opSend ∨ (collHdr (collFlit 1 true)).op = opAddFwd)) ∧
    (fabric (fun h => { h with tornTags := [7] })).torn (collFlit 1 false).hdr.tag.toNat = true ∧
    (fabric id).torn (collFlit 1 false).hdr.tag.toNat = false ∧ (collFlit 8 true).hdr.src.toNat ≠ (fabric id).addr ∧
    (∀ f ∈ [collFlit 1 false, collFlit 8 true], ∀ y ∈ [StageCheck.good, .flit 29, .sum 0],
      (((stagedAt 2).noteStage f (onArrival y)).takeDirect 7 f).isNone = true) ∧
    (stagedAt 2).links[7].backlog = [] ∧ (stagedAt 2).stageUsed 7 < 16384 ∧
    (∀ b ∈ (stagedAt 2).links[7].stageBad, b.1 ≠ collFlit 1 false) ∧
    ((fabric id).noteStage (collFlit 1 false) (.flit 29)).stageCheck 7 (collFlit 1 false) = .flit 29 ∧
    ((sender.noteStage (collFlit 9 false) (onArrival .good)).takeDirect 7 (collFlit 9 false)).isSome = true := by
  decide +kernel
/-- A full staging buffer. -/
theorem test_meets_CollectiveFlitIsStaged_full : 16384 ≤ (stagedAt 16384).stageUsed 7 := by
  have h : ∀ n, (stagedAt n).links[(7 : Lnk)].stage.length = n := fun n => by simp [stagedAt, State.modLink]
  rw [State.stageUsed, h]; exact Nat.le_add_right _ _

/-- A WRITE of the last two bytes of the SRAM of region 0, by a tag, and a READ_REQ for them. -/
def writeFlit (tag : BitVec 16) : Flit :=
  { hdr := { hdr0 with tag := tag }, payload := toLe 6 0x8000FFFFFFE ++ [2, 0, 1, 2] }
def readFlit (tag : BitVec 16) : Flit :=
  { hdr := { hdr0 with type := BitVec.ofNat 4 ftReadReq, tag := tag }, payload := toLe 6 0x8000FFFFFFE ++ [2, 0, 0, 0] }
theorem test_meets_PeerRequests : (fabric id).complete = true ∧ (linked job).complete = false ∧ (fabric id).hub.hedgeOn = [] ∧
    (fabric (fun h => { h with tornTags := [7] })).torn 7 = true ∧
    (writeFlit 7).hdr.type.toNat = ftWrite ∧ (readFlit 7).hdr.type.toNat = ftReadReq ∧ (writeFlit 7).hdr.vc ≠ 7 ∧
    behindPeer (fabric id).hub.peerWait (writeFlit 7) = false ∧ behindPeer (fabric id).hub.peerWait (readFlit 7) = false ∧
    (requestOf (writeFlit 7)).length = 2 ∧ (requestOf (readFlit 7)).length = 2 ∧ (requestOf (writeFlit 7)).data = [1, 2] ∧
    (requestOf (writeFlit 7)).offset = 0x8000FFFFFFE ∧ (requestOf (readFlit 7)).offset = 0x8000FFFFFFE ∧
    peerTarget (0x8000FFFFFFE % 2 ^ 44) = some 0x20000FFFFFFE ∧ (requestOf (writeFlit 7)).src.toNat ≠ (fabric id).addr ∧
    (fabric id).torn (requestOf (writeFlit 7)).tag.toNat = false ∧ (fabric id).peerRefusal 7 0x8000FFFFFFE 2 = none ∧
    (requestOf (writeFlit 8)).tag = 8 ∧ (requestOf (readFlit 8)).tag = 8 ∧ (fabric id).peerRefusal 8 0x8000FFFFFFE 2 = some 2 ∧
    (∀ i < 2, (fabric id).phys (0x20000FFFFFFE + i) = 0x20000FFFFFFE + i) := by decide +kernel

/-- A READ_RESP with two bytes for a local address. -/
def respFlit (local_ : Nat) : Flit :=
  { hdr := { hdr0 with type := BitVec.ofNat 4 ftReadResp }, payload := toLe 6 local_ ++ [2, 0, 1, 2] }
def peer8 : Nat := 2 ^ 63 + 8 * 2 ^ 44
/-- A copy that waits for four bytes of peer 8; one that waits for four from the host, of which two have come. -/
def awaiting : Entry := { issued (cmd 0x60 31) with work := .remote 0 [] [(sramBase 0, peer8, 4)] [] }
def hostWaits : Entry := { issued (cmd 0x60 31) with work := .remote 4 [1, 2] [] [] }
def errFor (f : FlitHdr) : ErrMsg := { dest := 9, code := 4, offender := f, detail := 0 }
theorem test_meets_AnswersReachTheirCommands : (fabric id).complete = true ∧ (linked job).complete = false ∧
    (respFlit 0).hdr.type.toNat = ftReadResp ∧ (fabric (fun h => { h with tornTags := [7] })).torn 7 = true ∧
    (fabric id).torn (requestOf (respFlit 0)).tag.toNat = false ∧
    (∀ x, (fabric id).regionOfTag x (requestOf (respFlit 0)).tag.toNat = (x == 0)) ∧ job.partOf 0 = some 0 ∧
    (queued (fabric id) [awaiting]).regions[0].cmds.find? (fun e => e.awaits 8 0x80000000002 [1, 2]) = some awaiting ∧
    (requestOf (respFlit 0x80000000002)).src = 8 ∧ (requestOf (respFlit 0x80000000002)).offset = 0x80000000002 ∧
    (requestOf (respFlit 0x80000000002)).data = [1, 2] ∧ answers [(sramBase 0, peer8, 4)] 8 0x80000000002 [1, 2] = [(peer8 + 2, 1), (peer8 + 3, 2)] ∧
    (Work.remote 0 [] [(sramBase 0, peer8, 4)] [(peer8 + 2, 1), (peer8 + 3, 2)]).done = false ∧
    (Work.remote 0 [] [(sramBase 0, peer8, 4)] [(peer8, 1), (peer8 + 1, 2), (peer8 + 2, 1), (peer8 + 3, 2)]).done = true ∧
    (queued job [hostWaits]).regions[0].cmds.find? (fun e => e.eng == 31 + (0 : Fin 8).val && e.issued) = some hostWaits ∧
    [1, 2].length < 4 ∧ (Work.remote 4 [1, 2, 3] [] []).done = false ∧ (Work.remote 4 [1, 2, 3, 4] [] []).done = true ∧
    (errFor hdr0).dest.toNat = job.addr ∧ ({ errFor hdr0 with dest := 8 }).dest.toNat ≠ job.addr ∧
    (errFor { hdr0 with type := BitVec.ofNat 4 ftMgmt, dest := 0xFFFF }).offender.type.toNat = ftMgmt ∧
    (errFor { hdr0 with type := BitVec.ofNat 4 ftMgmt, dest := 0xFFFF }).offender.dest.toNat = job.get PH_FSEND.DEST ∧
    (job.put PH_FSEND.STATUS 1).get PH_FSEND.STATUS = 1 ∧
    (errFor { hdr0 with type := BitVec.ofNat 4 ftWrite }).offender.type.toNat = ftWrite := by decide +kernel

theorem test_meets_LoadsAndLocks : (job.put PROC_PART_CFG.STATE 0 0).partState 0 = psEmpty ∧ job.get PROC_PART_CFG.JOB_TAG 0 ≠ 0 ∧
    job.partState 0 = psRunning ∧ job.partState 0 ≠ psEmpty ∧ job.partState 3 ≠ psLoaded ∧ job.partState 3 ≠ psRunning ∧
    job.get PROC_PART_CFG.JOB_TAG 3 = 0 ∧ job.get PROC_SERVE_STAT.ACTIVE 0 = 0 ∧
    (job.put PROC_SERVE_STAT.ACTIVE 1 0).get PROC_SERVE_STAT.ACTIVE 0 ≠ 0 := by decide +kernel

/-- Partition 0 in a state, with a save granule in the last stack of its region. -/
def inState (v : Nat) : State := ((job.put PROC_PART_CFG.STATE v 0).put (PROC_SAVE.GRANULE 0) 383 0).put HUB_OWN.KIND 2 383
/-- The same with a command in the queue. -/
def busy (v : Nat) (e : Entry) : State := queued (inState v) [e]
def saved (at_ : Nat) : State :=
  (((inState 0).put PROC_PART_CFG.SAVED 1 0).put PROC_PREEMPT.AT at_ 0).modPart 0 (fun x => { x with savedRegions := 1 })
def image0 : Image := { region := 0, sram := State.reset.mem, acc := State.reset.mem, regs := [], seq := Region.reset }
def imaged (done : Bool) : State := (inState 4).modPart 0 (fun x => { x with image := [image0], restored := done })
theorem test_meets_PreemptionAndResume : (inState 2).regionsOf 0 = [0] ∧ (inState 1).partState 0 ≠ psRunning ∧
    (inState 2).partState 0 = psRunning ∧ (inState 2).saveGranuleOk 0 0 = true ∧ ((inState 2).put HUB_OWN.KIND 3 383).saveGranuleOk 0 0 = false ∧
    (inState 2).get PROC_PREEMPT.MODE 0 = 0 ∧ (inState 2).get PROC_PREEMPT.AT 0 ≤ (inState 2).period ∧
    (inState 2).period < ((inState 2).put PROC_PREEMPT.AT 1 0).get PROC_PREEMPT.AT 0 ∧
    ((inState 2).put PROC_PREEMPT.MODE 1 0).get PROC_PREEMPT.MODE 0 ≠ 0 ∧ (inState 3).partState 0 = psSaving ∧
    (∀ e ∈ (busy 3 (waiting (cmd 0x10 0))).regions[0].cmds, e.issued = false) ∧
    (∃ e ∈ (busy 3 (issued (cmd 0x70 39))).regions[0].cmds, e.issued = true) ∧ (busy 3 (issued (cmd 0x70 39))).partState 0 = psSaving ∧
    (saved 1).partState 0 = psEmpty ∧ (saved 1).get PROC_PART_CFG.SAVED 0 ≠ 0 ∧
    (saved 1).get PROC_PART_CFG.REGIONS 0 = (saved 1).parts[0].savedRegions ∧ (saved 1).period < (saved 1).get PROC_PREEMPT.AT 0 ∧
    (saved 0).get PROC_PREEMPT.AT 0 ≤ (saved 0).period ∧ (imaged false).partState 0 = psRestoring ∧ (imaged false).parts[0].restored = false ∧
    ((imaged false).parts[0].image.map (·.region)).Nodup ∧ (∀ im ∈ (imaged false).parts[0].image, im.region < 4) ∧
    (imaged true).parts[0].restored = true := by decide +kernel

theorem test_meets_Teardowns : job.partState 0 ≠ psEmpty ∧ job.partState 0 ≠ psTearing ∧ 1 ≤ (1 : BitVec 4).toNat ∧ (8 : BitVec 4).toNat ≤ 8 ∧
    job.get PROC_PART_CFG.JOB_TAG 0 = (7 : BitVec 16).toNat ∧
    (∀ q : Prt, q ≠ 0 → job.partState q ≠ psEmpty → job.get PROC_PART_CFG.JOB_TAG q ≠ (7 : BitVec 16).toNat) ∧
    (inState 0).partState 0 = psEmpty ∧ (inState 5).partState 0 = psTearing ∧ (inState 5).regionsOf 0 = [0] ∧ (inState 5).regions[0].cmds = [] ∧
    (inState 5).bit PROC_PART_CFG.DBG_LOCK 0 = false ∧ (busy 5 (issued (cmd 0x70 39))).regions[0].cmds ≠ [] ∧
    job.partOf 0 = some 0 ∧ job.get PH_CFG.FUNC 15 = (0 : Fin 5).val ∧ (1 : Fin 5).val = (0 : Prt).val + 1 ∧ 8 < (9 : BitVec 4).toNat ∧
    (∀ q, job.partState q ≠ psEmpty → job.get PROC_PART_CFG.JOB_TAG q ≠ (6 : BitVec 16).toNat) := by decide +kernel

/-- Store 1 is a mirror of the pair of module 8 with one granule, or a parity store of group 0, which holds module 8. -/
def storing (kind : Nat) : State := (((((zeroed job).put HUB_RC_STAT.STATE 5).put HUB_SEC_STORE0.KIND kind 1).put HUB_SEC_STORE1.SRC 8 1).put
  HUB_SEC_STORE0.GRANULES 1 1).put (HUB_PGRP.ADDR 0) 8 0 0
def work0 : StoreWork :=
  { store := 1, step := 4, full := true, mixed := false, begun := [(8, 0, 1)], ends := [], received := [((8 * 2 ^ 20 + 0) * 4, 65536)],
    digests := [(8, 0)] }
/-- Step 4 is being received. -/
def receiving (kind : Nat) (w : StoreWork) : State := (storing kind).modHub (fun h => { h with stores := [w] })
/-- The entry that waits for the answer of module 8 to a final drain of pair 0 of stack 0 to store 1. -/
def drainEntry : Entry := { issued (cmd 0x74 39) with work := .drain [8] }
def draining : State := (queued ((storing 1).put SE_BUF1.STEP 4 0 0) [drainEntry]).put RGN_SEC_TGT.STORE 1 0 0
def drainAt (offset : BitVec 16) : DrainMsg := { drain0 with offset := offset }
/-- BEGIN of both forms in both kinds of store; DATA at the end of a granule, past it and in a mixed generation; END with
everything announced, and with a digest that has not come; answers to a drain and to none. -/
theorem test_meets_SecuringStores : (storing 1).complete = true ∧ job.complete = false ∧
    (fabric (fun h => { h with tornTags := [0] })).torn drain0.tag.toNat = true ∧ (storing 1).torn drain0.tag.toNat = false ∧
    (storing 0).storeTakes 1 8 = false ∧ (storing 1).storeTakes 1 8 = true ∧ (storing 2).storeTakes 1 8 = true ∧
    (storing 1).storeWork 1 4 = none ∧ drFull drain0 = true ∧ drFull { drain0 with flags := 0x18 } = false ∧
    (storing 1).get HUB_SEC_STORE0.KIND 1 = 1 ∧ (storing 2).get HUB_SEC_STORE0.KIND 1 = 2 ∧
    (receiving 2 work0).storeWork 1 4 = some work0 ∧ work0.full ≠ drFull { drain0 with flags := 0x18 } ∧ work0.mixed = false ∧
    drain0.place.toNat < (receiving 1 work0).get HUB_SEC_STORE0.GRANULES 1 ∧ (drainAt 65528).offset.toNat + drain0.count.toNat ≤ 65536 ∧
    65536 < (drainAt 65529).offset.toNat + drain0.count.toNat ∧ ({ work0 with mixed := true }).mixed = true ∧
    drP { drain0 with flags := 0x18 } = true ∧ drP { drain0 with flags := 0x10 } = false ∧ drQ { drain0 with flags := 0x10 } = true ∧
    (receiving 1 work0).hub.restores = [] ∧ (receiving 1 work0).get HUB_SEC_STORE0.PAIRS 1 = 0 ∧ work0.ends = [] ∧
    work0.endMet 1 (8, 0, 1, 1) = true ∧ work0.endMet 1 (8, 0, 1, 2) = false ∧ drain0.src.toNat ≠ (storing 2).addr ∧
    draining.drainFor { drain0 with tag := 7 } = some (0, drainEntry) ∧ draining.torn 7 = false ∧
    draining.drainFor { drain0 with tag := 7, store := 2 } = none := by decide +kernel

/-- Entry 2 of the securing table of region 0 names store 1 of module 8, a mirror, or of group 0, whose members are this module,
module 8 and six without an address. -/
def paired (partner : Nat) (x : Pairing) : State := ((((((fabric id).put RGN_SEC_TGT.STORE 1 0 2).put RGN_SEC_TGT.ADDR partner 0 2).put
  (HUB_PGRP.ADDR 0) 9 0 0).put (HUB_PGRP.ADDR 1) 8 0 0).put HUB_FAB.FEED_ID 1).modHub (fun h => { h with pairings := [x] })
def pairing (bells : Nat) (answers : List (Nat × Nat × Nat)) : Pairing := { region := 0, entry := 2, bells := bells, answers := answers }
def answer (status feed flags : Byte) : DrainMsg := { drain0 with status := status, data := [feed], flags := flags }
/-- An answer that pairs a mirror, one of the same feed, one of another member's feed, one that leaves a member to answer; an
answer to no pairing; the sixteenth bell. -/
theorem test_meets_PairingOutcome : (paired 8 (pairing 0 [])).complete = true ∧ (paired 8 (pairing 0 [])).torn drain0.tag.toNat = false ∧
    pairing 0 [] ∈ (paired 8 (pairing 0 [])).hub.pairings ∧ (∀ y ∈ (paired 8 (pairing 0 [])).hub.pairings, y = pairing 0 []) ∧
    (paired 8 (pairing 0 [])).get RGN_SEC_TGT.STORE 0 2 = drain0.store.toNat ∧
    (paired 8 (pairing 0 [])).tgtParity 0 2 = drP (answer 0 0 0) ∧ drain0.src.toNat ∈ (paired 8 (pairing 0 [])).holders 0 2 ∧
    (paired 0xFFFF (pairing 0 [])).tgtParity 0 2 = drP (answer 0 0 8) ∧ drain0.src.toNat ∈ (paired 0xFFFF (pairing 0 [])).holders 0 2 ∧
    leAt (answer 0 1 0).data 0 1 = (paired 8 (pairing 0 [])).get HUB_FAB.FEED_ID ∧
    leAt (answer 0 0 0).data 0 1 ≠ (paired 8 (pairing 0 [])).get HUB_FAB.FEED_ID ∧
    (∃ a ∈ (pairing 0 [(0xFFFF, 3, 0)]).answers, a.2.1 = leAt (answer 0 3 8).data 0 1) ∧
    (∀ a ∈ (paired 8 (pairing 0 [])).holders 0 2, a = drain0.src.toNat) ∧
    (∃ a ∈ (paired 0xFFFF (pairing 0 [])).holders 0 2, a ≠ 9 ∧ a ≠ drain0.src.toNat) ∧
    (∀ a ∈ (paired 0xFFFF (pairing 0 [(0xFFFF, 3, 0)])).holders 0 2, a = 9 ∨ a = drain0.src.toNat ∨
      ∃ y ∈ (pairing 0 [(0xFFFF, 3, 0)]).answers, y.1 = a) ∧
    (paired 8 (pairing 0 [])).get RGN_SEC_TGT.STORE 0 2 ≠ ({ drain0 with store := 2 }).store.toNat ∧
    16 ≤ (pairing 16 []).bells ∧ (pairing 15 []).bells < 16 := by decide +kernel

/-- Pair 5 of stack 0 is secured on entry 2, on module 8 or on group 0 of this module, module 8 and six without an address, with place 0
of one granule; no job is loaded. -/
def restoring (partner : Nat) : State := ((((((((zeroed (linked State.reset)).put HUB_RC_STAT.STATE 5).put RGN_SEC_TGT.STORE 1 0 2).put
  RGN_SEC_TGT.ADDR partner 0 2).put SE_SEC0.CLASS 1 0 5).put SE_BUF0.GRANULES 1 0 5).put HUB_FAB.ADDR 9).put (HUB_PGRP.ADDR 0) 9 0 0).put
  (HUB_PGRP.ADDR 1) 8 0 0
def restore0 (got digests : KMap) : Restore :=
  { stack := 0, pair := 5, target := 2, step := 4, got := got, digests := digests, second := [], done := [], own := false }
def restoresIn (s : State) (x : Restore) : State := s.modHub (fun h => { h with restores := [x] })
/-- A mirror that holds step 4 for module 8, with a link up to it. -/
def serving : State := (((((restoring 8).put HUB_SEC_STORE0.KIND 1 1).put HUB_SEC_STORE1.SRC 8 1).put HUB_SEC_STORE1.VALID 1 1).put
  HUB_SEC_STORE1.STEP 4 1).put (RGN_ROUTE.ENTRY 0) 128 0 0 1
/-- A request of the partner, of the own module for a parity pair, and of the own module for nothing; bytes of a mirror, and in a
group the P syndrome of this member's loss, P not being asked for where this member holds P; a tile whose granule has not come,
and one whose granule is whole, with its digest and with another. -/
theorem test_meets_RestoreMovesBytes : (restoring 8).complete = true ∧ (restoring 8).torn drain0.tag.toNat = false ∧
    drain0.src.toNat ≠ serving.addr ∧ serving.storeTakes 1 8 = true ∧ serving.bit HUB_SEC_STORE1.VALID 1 = true ∧
    serving.get HUB_SEC_STORE1.STEP 1 = 4 ∧ serving.routeOf (linkRegion 0) 8 = some (0, false) ∧ serving.trained 0 = true ∧
    ((restoring 0xFFFF).put SE_SEC1.SEC_STEP 4 0 5).restorePair 9 1 0 = some (0, 5, 2) ∧ (restoring 0xFFFF).tgtParity 0 2 = true ∧
    ((restoring 0xFFFF).put SE_SEC1.SEC_STEP 4 0 5).get SE_SEC1.SEC_STEP 0 5 = drain0.step.toNat ∧
    (restoring 8).restorePair 9 1 0 = none ∧ (restoring 8).restorePair 8 2 0 = none ∧ (restoring 8).restorePair 8 1 0 = some (0, 5, 2) ∧
    (restoring 8).regionLoaded 0 = false ∧ (restoring 8).get SE_BUF1.STEP 0 5 ≠ drain0.step.toNat ∧
    (drainAt 65528).offset.toNat + drain0.count.toNat ≤ 65536 ∧ (restoring 8).tgtParity 0 2 = false ∧
    (restoring 8).restoreOf 0 5 2 4 = restore0 [] [] ∧ 10 ∈ contributors false 0 0 false ∧ 9 ∈ contributors true 0 0 false ∧
    8 ∉ contributors true 0 0 false ∧ useQ 0 0 false = true ∧ kget (restore0 [] []).digests 0 (2 ^ 64) = 2 ^ 64 ∧
    Restore.whole (restore0 [(9, 4)] []) true 0 false 0 = false ∧ Restore.whole (restore0 [(10, 65536)] []) false 0 false 0 = true ∧
    Restore.whole (restore0 [(10, 65528)] []) false 0 false 0 = false ∧ ({ drain0 with count := 8 }).count.toNat / 8 = 1 ∧
    (restoresIn (restoring 8) (restore0 [] [])).hub.restores = [restore0 [] []] ∧ (restore0 [] []).done.contains 0 = false ∧
    0 + 1 = (1 + 15) / 16 ∧ 0 + 1 ≠ (17 + 15) / 16 ∧ (restoring 8).sourceOf (restore0 [] []) 0 = (2, false) ∧
    Restore.whole { restore0 [] [] with own := true } true 0 false 0 = true := by decide +kernel

/-- Link 0 leads to module 8, down for two bells; the job of partition 0 has module 8 and this module as members. -/
def failedPos : State := (((job.put LNK_PEER.VALID 1 0).put LNK_PEER.ADDR 8 0).modLink 0 (fun x => { x with downBells := 2 })).modPart 0
  (fun x => { x with members := [8, 10] })
def meas0 : SecMeas := { meanStepNs := 1000, meanExcessNs := 0, securingSteps := 0, failed := 0, windowS := 0 }
def hardening (n : Nat) : State := (((job.put HUB_HARDEN.STATE 1).put HUB_HARDEN.BELLS 64).put HUB_HARDEN.CLEAN n)
theorem test_meets_GraftsHardeningAndIntervals : failedPos.bit LNK_PEER.VALID 0 = true ∧ failedPos.get LNK_PEER.ADDR 0 = (8 : BitVec 16).toNat ∧
    (∀ k : Lnk, failedPos.bit LNK_PEER.VALID k = true → failedPos.get LNK_PEER.ADDR k = (8 : BitVec 16).toNat → 2 ≤ failedPos.links[k].downBells) ∧
    (¬ ∃ l : Lnk, job.bit LNK_PEER.VALID l = true) ∧
    (8 : BitVec 16).toNat ∈ failedPos.parts[0].members ∧ failedPos.partState 0 ≠ psEmpty ∧ 10 ∈ failedPos.parts[0].members ∧
    (job.put HUB_FAB.SPARE 1).bit HUB_FAB.SPARE = true ∧ job.bit HUB_FAB.SPARE = false ∧
    job.get HUB_HARDEN.STATE ≠ 1 ∧ (hardening 64).get HUB_HARDEN.STATE = 1 ∧ (hardening 64).get HUB_HARDEN.KIND ≠ 2 ∧
    ((hardening 0).put HUB_HARDEN.KIND 2).get HUB_HARDEN.KIND = 2 ∧
    (hardening 64).get HUB_HARDEN.BELLS ≤ (hardening 64).get HUB_HARDEN.CLEAN ∧ (hardening 63).get HUB_HARDEN.CLEAN < (hardening 63).get HUB_HARDEN.BELLS ∧
    (∀ n ∈ [1, 3], let s := job.modHub (fun h => { h with attempts := [((2, 3, 31), n)] })
      1 ≤ s.attemptsOf ((2 : BitVec 2).toNat, (3 : BitVec 2).toNat, (31 : BitVec 5).toNat) ∧
      s.attemptsOf ((2 : BitVec 2).toNat, (3 : BitVec 2).toNat, (31 : BitVec 5).toNat) < 4 ∧
      s.retryDue ((2 : BitVec 2).toNat, (3 : BitVec 2).toNat, (31 : BitVec 5).toNat) = true) ∧ (2 : BitVec 2) ≠ 3 ∧
    ¬ 1 ≤ job.attemptsOf ((2 : BitVec 2).toNat, (3 : BitVec 2).toNat, (31 : BitVec 5).toNat) ∧
    intervalOf (job.get HUB_SEC_CTRL.K 0) meas0 ≠ (job.put HUB_SEC_CTRL.INTERVAL 5 0).get HUB_SEC_CTRL.INTERVAL 0 ∧
    intervalOf (job.get HUB_SEC_CTRL.K 0) meas0 = job.get HUB_SEC_CTRL.INTERVAL 0 := by decide +kernel

theorem test_meets_MailboxAnswers : (∃ w ∈ ({ job with badWords := [2 ^ 27 - 1] }).badWords, (job.put HUB_OWN.KIND 1 0).get HUB_OWN.KIND (w / 2 ^ 27) = 1) := by
  decide +kernel

/-- A pigeonhole that is full, in strict and in fast mode; Icholt posts outbound, the PF inbound; a dormant domain; a virtual function
that does not reach the pigeonhole. -/
theorem test_meets_PigeonholePosts : Actor.pf ≠ Actor.jtag ∧ (31 : Nat) = postSide (actorSrc .icholt) 15 ∧ (15 : Nat) = postSide (actorSrc .pf) 15 ∧
    job.phReach (actorSrc .icholt) 31 = true ∧ job.phReach (actorSrc .pf) 15 = true ∧ job.phDormant 15 = false ∧
    (job.asmFor (actorSrc .pf) 15).words.length = 7 ∧ job.bit (phFull 15) 15 = false ∧
    (job.put PH_MODE.STRICT 0).bit PH_MODE.STRICT = false ∧ (job.put (phFull 15) 1 15).bit (phFull 15) 15 = true ∧
    job.bit PH_MODE.STRICT = true ∧ Actor.pf ≠ Actor.icholt ∧ ((job.put HUB_PWR_STATE.STATE 3).put PH_CFG.DOMAIN 1 15).phDormant 15 = true ∧
    ((job.put HUB_PWR_STATE.STATE 3).put PH_CFG.DOMAIN 1 15).phReach (actorSrc .pf) 15 = true ∧
    job.phReach (actorSrc (.vf 0)) 15 = false := by decide +kernel

/-- The pigeonhole for other modules; one that is full; PH_FSEND for this module. -/
def fpost (n : Nat) : State := ((((fabric id).put PH_CFG.FUNC 5 15).put PH_FSEND.DEST 9).put PH_FSEND.PH n)
theorem test_meets_FabricPosts : (job.put PH_FSEND.STATUS 1).get PH_FSEND.STATUS = 1 ∧ job.get PH_FSEND.STATUS ≠ 1 ∧
    job.get PH_FSEND.DEST ≠ job.addr ∧ job.get PH_FSEND.DEST < 65536 ∧
    (let s := ((fabric id).put PH_FSEND.DEST 10).put (RGN_ROUTE.ENTRY 2) 128 0 0 1
     s.get PH_FSEND.DEST ≠ s.addr ∧ s.routeOf 0 (s.get PH_FSEND.DEST) = some (0, false) ∧ s.get LNK_STAT.STATE 0 ≠ lkDown ∧
       s.get LNK_STAT.STATE 0 ≠ lkFailed) ∧ (job.routeOf 0 (job.get PH_FSEND.DEST)).isNone = true ∧
    (fpost 15).get PH_FSEND.DEST = (fpost 15).addr ∧ (fpost 15).get PH_FSEND.PH < 16 ∧ (fpost 15).get PH_CFG.FUNC 15 = 5 ∧
    (fpost 15).phDormant 15 = false ∧ (fpost 15).bit PH_IN_STAT.FULL 15 = false ∧ ((fpost 15).put PH_IN_STAT.FULL 1 15).bit PH_IN_STAT.FULL 15 = true ∧
    (fpost 15).bit PH_MODE.STRICT = true ∧ ((fpost 15).put PH_MODE.STRICT 0).bit PH_MODE.STRICT = false ∧
    (fpost 14).get PH_CFG.FUNC 14 ≠ 5 ∧
    (((fpost 15).put HUB_PWR_STATE.STATE 3).put PH_CFG.DOMAIN 1 15).phDormant 15 = true ∧ (fpost 15).complete = true ∧ job.complete = false ∧
    (15 : BitVec 8).toNat < 16 ∧ (List.replicate 64 (0 : Byte)).length = 64 ∧ (8 : BitVec 16).toNat ≠ (fpost 15).addr ∧
    (fpost 15).get PH_FSEND.PH = (15 : BitVec 8).toNat ∧ job.hub.fpostBells = 0 ∧
    (31, 0) ∈ (job.modHub (fun h => { h with phTouts := [(31, 0)] })).hub.phTouts ∧ (31, 0) ∉ job.hub.phTouts := by decide +kernel

/-- Pigeonhole 0 holds a request from a function with OP, partition 0, a byte 9, and a number from byte 10 on. -/
def asked (s : State) (src op b9 b10 : Nat) : State :=
  ((((s.modHub (fun h => { h with booted := true })).put PH_IN_STAT.FULL 1 0).put PH_IN_STAT.SRC src 0).put PH_IN.WORD op 0 0).put
    PH_IN.WORD (b9 * 2 ^ 8 + b10 * 2 ^ 16) 0 1
/-- PREEMPT with its modes and one past them; RESUME; TEARDOWN of a job and of none; SET_K; a VF for another partition and a
partition that is none; a number without a message. -/
theorem test_meets_RequestsToIcholt_partition :
    (let s := asked (inState 2) 1 2 0 1
     s.hub.booted = true ∧ s.bit PH_IN_STAT.FULL 0 = true ∧ s.get PH_IN_STAT.SRC 0 = (0 : Prt).val + 1 ∧ leAt (s.message 0) 0 2 = 2 ∧
     leAt (s.message 0) 8 1 = (0 : Prt).val ∧ leAt (s.message 0) 9 1 ≤ 1 ∧ s.partState 0 = psRunning ∧ s.saveGranuleOk 0 0 = true ∧
     s.period < leAt (s.message 0) 10 6) ∧
    1 < leAt ((asked job 1 2 2 0).message 0) 9 1 ∧
    (let s := asked (saved 0) 1 3 1 1
     leAt (s.message 0) 0 2 = 3 ∧ leAt (s.message 0) 8 1 = (0 : Prt).val ∧ s.partState 0 = psEmpty ∧
     ((((((s.put PH_IN_STAT.FULL 0 0).writeRegions 0 (leAt (s.message 0) 9 1 % 16)).writeSeed 0 (leAt (s.message 0) 16 8)).put
       PROC_PREEMPT.AT (leAt (s.message 0) 10 6) 0)).resume 0).partState 0 = psRestoring) ∧
    leAt ((asked job 1 4 1 0).message 0) 0 2 = 4 ∧ leAt ((asked job 1 4 1 0).message 0) 9 1 % 2 = 1 ∧ (asked job 1 4 1 0).partState 0 ≠ psEmpty ∧
    (asked (inState 0) 1 4 0 0).partState 0 = psEmpty ∧ leAt ((asked job 0 7 255 0).message 0) 0 2 = 7 ∧
    leAt ((asked job 0 7 255 0).message 0) 9 1 ≠ 0 ∧ leAt ((asked job 0 7 0 0).message 0) 9 1 = 0 ∧
    (asked job 5 2 0 0).get PH_IN_STAT.SRC 0 = 5 ∧ leAt ((asked job 2 2 0 0).message 0) 8 1 + 1 ≠ (asked job 2 2 0 0).get PH_IN_STAT.SRC 0 ∧
    leAt (((asked job 0 2 0 0).put PH_IN.WORD 4 0 1).message 0) 8 1 = 4 ∧ job.hub.booted = false ∧
    (asked job 0 9 0 0).bit PH_IN_STAT.FULL 0 = true ∧ leAt ((asked job 0 9 0 0).message 0) 0 2 = 9 := by decide +kernel
/-- LEND and RECLAIM of one granule, which may move, is worn out or is changing, and of none; DORMANT; and the same of a virtual
function. The granule is bytes 8 and 9. -/
theorem test_meets_RequestsToIcholt_pf :
    (let s := (asked job 0 5 5 1)
     leAt (s.message 0) 0 2 = 5 ∧ leAt (s.message 0) 8 2 = 1280 ∧ leAt (s.message 0) 10 2 = 1 ∧ s.get HUB_OWN.KIND 1280 = 0 ∧
     s.changing 1280 = false ∧ s.bit HUB_OWN.REQ 1280 = false ∧ s.get PH_IN_STAT.SRC 0 = 0 ∧ s.isWorn 1280 = false ∧
     (s.modHub (fun h => { h with worn := [1280] })).isWorn 1280 = true ∧ (s.put HUB_OWN.REQ 1 1280).bit HUB_OWN.REQ 1280 = true) ∧
    leAt ((asked job 0 5 5 0).message 0) 10 2 = 0 ∧
    (let s := (asked (job.put HUB_OWN.KIND 1 1280) 0 6 5 1)
     leAt (s.message 0) 0 2 = 6 ∧ leAt (s.message 0) 8 2 = 1280 ∧ leAt (s.message 0) 10 2 = 1 ∧ leAt (s.message 0) 12 1 = 0 ∧
     s.get HUB_OWN.KIND 1280 = 1 ∧ s.changing 1280 = false ∧ s.bit HUB_OWN.REQ 1280 = false ∧
     leAt ((s.put PH_IN.WORD (5 * 2 ^ 8 + 2 ^ 16 + 2 * 2 ^ 32) 0 1).message 0) 12 1 = 2) ∧
    (let s := asked (State.reset.put HUB_PWR_STATE.STATE 1) 0 8 0 0
     leAt (s.message 0) 0 2 = 8 ∧ (∀ q : Prt, s.partState q = psEmpty) ∧ (∀ x ∈ s.regs, keyHome x.1 ≠ HUB_OWN.KIND.home) ∧
     s.get HUB_PWR_STATE.STATE = 1) ∧
    (asked job 0 8 0 0).partState 0 ≠ psEmpty ∧
    (∀ op ∈ [5, 6, 8], (asked job 4 op 0 0).get PH_IN_STAT.SRC 0 ≠ 0 ∧ leAt ((asked job 4 op 0 0).message 0) 0 2 = op) ∧
    job.phDormant (16 + (0 : Fin 16).val) = false ∧ job.bit PH_OUT_STAT.FULL 0 = false := by decide +kernel

/-- A package of one build without sections, and LOAD_JOB for it: partition 0, region set 1, tag 7. -/
def package : List Byte :=
  let body := toLe 2 1 ++ toLe 2 1 ++ toLe 4 288
  let tail := List.replicate 240 0 ++ [1] ++ List.replicate 31 0
  toLe 4 0x4A504B31 ++ body ++ toLe 4 (crc32c (toLe 4 0x4A504B31 ++ body ++ [0, 0, 0, 0] ++ tail)) ++ tail
def loadAsked : State := ((((asked State.reset 0 1 0 0).put PH_IN.WORD 0x400000000000 0 1).put PH_IN.WORD
  (288 + 1 * 2 ^ 40 + 7 * 2 ^ 48) 0 2).put PH_IN.WORD 0 0 3).put PH_IN.WORD 63 0 4
set_option maxRecDepth 100000 in
/-- A good request and a bad package; an empty partition and one with a job; a build and none that fits; no section to check, and
one that does not; the partition of another function. -/
theorem test_meets_JobPackagesArePlaced : (let s := loadAsked
    let m := s.message 0
    s.hub.booted = true ∧ s.bit PH_IN_STAT.FULL 0 = true ∧ leAt m 0 2 = 1 ∧ s.get PH_IN_STAT.SRC 0 = 0 ∧ leAt m 20 1 = (0 : Prt).val ∧
    packageOk [] (leAt m 16 4) = false ∧ packageOk package (leAt m 16 4) = true ∧ leAt m 8 8 % 4096 = 0 ∧
    0x400000000000 ≤ leAt m 8 8 ∧ leAt m 8 8 + leAt m 16 4 ≤ 0x800000000000 ∧ leAt m 32 1 ≤ 63 ∧ s.partState 0 = psEmpty ∧
    (s.put PROC_PART_CFG.STATE 1 0).partState 0 ≠ psEmpty ∧
    7 = (s.put PH_IN_STAT.FULL 0 0).assignTag (leAt m 22 2) ∧
    (s.put PH_IN_STAT.FULL 0 0).chooseBuild (builds package) (leAt m 21 1 % 16) 7 = some (1, 0, 0) ∧
    (s.put PH_IN_STAT.FULL 0 0).chooseBuild (builds package) 2 7 = none ∧
    (List.range 0).map ((0 : Nat) + ·) = [] ∧ claimsOf package [] = [] ∧ sectionOk package 1 0 = false ∧
    (s.put PH_IN_STAT.SRC 5 0).get PH_IN_STAT.SRC 0 = 5 ∧ leAt m 20 1 + 1 ≠ (s.put PH_IN_STAT.SRC 2 0).get PH_IN_STAT.SRC 0 ∧
    leAt ((s.put PH_IN.WORD (4 * 2 ^ 32) 0 2).message 0) 20 1 = 4) := by decide +kernel
/-- A granule that the job may claim, and one of the host. -/
theorem test_meets_JobPackagesArePlaced_claims : loadAsked.changing 1535 = false ∧ loadAsked.get HUB_OWN.KIND 1535 = 0 ∧
    loadAsked.isWorn 1535 = false ∧ (loadAsked.put HUB_OWN.KIND 1 1535).get HUB_OWN.KIND 1535 = 1 := by decide +kernel

def slot0 : SlotHdr :=
  { magic := 0x4F4C4A31, seq := 1, svn := 0, keyIdx := 0, length := 67088384, bodyCrcOk := true, hdrCrcOk := true, keyOk := true, sigOk := true }
/-- The trial is over; it is not. -/
def trial (bells : Nat) : State := (job.put HUB_IMG.STATE 1).modHub (fun h => { h with trialBells := bells })
theorem test_meets_ManagementCommands : job.hub.powered = true ∧ (job.modHub (fun h => { h with powered := false })).hub.powered = false ∧
    job.hub.spiHub = true ∧ job.get HUB_IMG.SEQ ≠ 0xFFFFFFFF ∧
    slot0.length.toNat ≤ 67088384 ∧ ¬ ({ slot0 with length := 67088385 }).length.toNat ≤ 67088384 ∧
    (job.modHub (fun h => { h with booted := true })).hub.booted = true ∧ job.hub.booted = false ∧ job.get HUB_IMG.STATE = 0 ∧
    (trial 64).get HUB_IMG.STATE = 1 ∧ 64 ≤ (trial 64).hub.trialBells ∧ (trial 64).hub.revertPending = false ∧ (trial 64).hub.spiHub = true ∧
    (((trial 64).hub.slot ((trial 64).get HUB_IMG.SLOT)).hdr).isSome = true ∧ ¬ 64 ≤ (trial 63).hub.trialBells ∧
    (job.put HUB_BELL_STATUS.IS_MASTER 1).bit HUB_BELL_STATUS.IS_MASTER = true ∧ job.bit HUB_BELL_STATUS.IS_MASTER = false ∧
    job.periodOk (16 : Word32).toNat = true ∧ job.periodOk (15 : Word32).toNat = false ∧
    job.partOfTag (7 : BitVec 16).toNat = some 0 ∧ job.partOfTag (6 : BitVec 16).toNat = none ∧
    job.get PROC_PART_CFG.JOB_TAG 0 = (7 : BitVec 16).toNat ∧ job.partState 0 ≠ psEmpty ∧ job.partState 0 ≠ psTearing ∧
    (∀ q : Prt, q ≠ 0 → job.partState q ≠ psEmpty → job.get PROC_PART_CFG.JOB_TAG q ≠ (7 : BitVec 16).toNat) ∧
    (∀ q : Prt, job.partState q ≠ psEmpty → job.get PROC_PART_CFG.JOB_TAG q ≠ (6 : BitVec 16).toNat) := by decide +kernel

theorem test_meets_PowerAndPacing : 4 ≤ (4 : Fin 10).val ∧ (8 : Fin 10).val < 9 ∧ (8 : Fin 10).val ∉ job.hub.paced ∧
    (8 : Fin 10).val ∈ (job.modHub (fun h => { h with paced := [8] })).hub.paced ∧ (9 : Fin 10).val = 9 ∧
    620 ≤ (620 : BitVec 16).toNat ∧ (689 : BitVec 16).toNat < 690 ∧ (619 : BitVec 16).toNat < 620 ∧ (3 : Rgn).val ∉ job.hub.dipRails ∧
    (3 : Rgn).val ∈ (job.modHub (fun h => { h with dipRails := [3] })).hub.dipRails ∧
    690 ≤ (690 : BitVec 16).toNat ∧ 4200 ≤ (4200 : BitVec 16).toNat ∧ 3800 ≤ (4199 : BitVec 16).toNat ∧ (3799 : BitVec 16).toNat < 3800 ∧
    4 ∉ job.hub.dipRails ∧
    (3 : Rgn).val = (if (27 : Fin 29).val < 4 then 27 else (27 - 4) / 6) ∧ (27 : Fin 29).val < 28 := by decide +kernel

theorem test_meets_Resets : 2 ≤ (2 : BitVec 4).toNat ∧ (4 : BitVec 4).toNat ≤ 4 ∧ (1 : BitVec 4).toNat < 2 ∧ 4 < (5 : BitVec 4).toNat ∧
    job.partOf 0 = some 0 ∧ job.partState 0 ≠ psEmpty ∧ job.partOf 1 = none ∧
    job.partState 0 ≠ psTearing ∧ (0x5B : Byte) ≠ 0x5A ∧ Actor.icholt ≠ Actor.pf := by decide +kernel

/-- A module at a power state, with its image running, main power and good blades. -/
def atPower (n : Nat) : State := (State.reset.put HUB_PWR_STATE.STATE n).modHub (fun h =>
  { h with booted := true, mainPower := true, bladesOk := true })
theorem test_meets_PowerStates :
    (State.reset.hub.booted = false ∧ State.reset.hub.powered = true ∧ State.reset.hub.spiHub = true ∧ State.reset.hub.bootSlot = some 0) ∧
    (atPower 0).hub.booted = true ∧ (atPower 1).get HUB_PWR_STATE.STATE < 2 ∧ (atPower 0).hub.mainPower = true ∧
    (atPower 0).get HUB_PWR_STATE.STATE = 0 ∧ State.reset.hub.mainPower = false ∧ (atPower 2).get HUB_PWR_STATE.STATE = 2 ∧
    (∀ p : Prt, (atPower 2).partState p = psEmpty) ∧ (atPower 2).hub.wakePending = false ∧ (atPower 2).hub.bladesOk = true ∧
    ((atPower 2).modHub (fun h => { h with wakePending := true })).hub.wakePending = true ∧
    (atPower 2).bit HUB_PWR_STATE.PWR_EN = false ∧ (atPower 3).get HUB_PWR_STATE.STATE = 3 ∧ job.partState 0 ≠ psEmpty ∧
    ((atPower 3).put HUB_PWR_STATE.PWR_EN 1).bit HUB_PWR_STATE.PWR_EN = true ∧ State.reset.hub.bladesOk = false ∧
    (4400 ≤ (4400 : BitVec 16).toNat ∧ (5600 : BitVec 16).toNat ≤ 5600) ∧ Actor.icholt ≠ Actor.pf ∧ State.reset.hub.strapsDue = true ∧
    (State.reset.modHub (fun h => { h with strapsDue := false })).hub.strapsDue = false := by decide +kernel

/-- The register that an access finds. -/
def placeOf : Found → Option (Nat × List Fld × Nat × Nat × Nat)
  | .reg row i j k => some (row.base, row.fields, i, j, k)
  | _ => none
/-- Offset 0xFFFFF8 is no register; the first descriptor word of region 0 is at 0x1400000, PH_FDATA, a plain register, at 0x30A00; the debug lock hides
a descriptor and locks the table; a sleeping block, in which no access is a pigeonhole's. -/
theorem test_meets_RegisterAccesses : job.find .pf 0xFFFFF8 64 = .bad ∧
    placeOf (job.find .icholt 0x1400000 64) = some (0x1400000, [RGN_DESC.WORD], 0, 0, 0) ∧
    placeOf (job.find .pf 0x30A38 64) = some (0x30A00, [PH_FDATA.WORD], 7, 0, 0) ∧ PH_FDATA.WORD.acc = .rw ∧
    job.lockHides .icholt 0x1400000 0 = false ∧ ((job.put PROC_PART_CFG.DBG_LOCK 1 0).lockHides .icholt 0x1400000 0) = true ∧
    (job.put HUB_PWR_STATE.STATE 3).find .pf 0x1400000 64 = .abort ∧ ((findReg 0x1400000).map (fun x => pigeonOf x.1.base x.2.1)) = some none ∧
    State.reset.regionLoaded 0 = false ∧ State.reset.regionLocked 0 = false ∧ job.regionLoaded 0 = true ∧
    ((State.reset.put PROC_PART_CFG.DBG_LOCK 1 0).put PROC_PART_CFG.REGIONS 1 0).regionLocked 0 = true := by
  decide +kernel

theorem test_meets_PinsAndTap : JtagInstr.extest ∉ [JtagInstr.bypass, .idcode, .samplePreload] ∧ job.tapOpen = false ∧
    JtagInstr.idcode ∈ [JtagInstr.bypass, .idcode, .samplePreload] ∧ (State.reset.put PH_MODE.TEST 1).tapOpen = true ∧
    (findReg 0x1400000).isSome = true ∧ (State.reset.put PH_MODE.TEST 1).lockHides .jtag 0x1400000 0 = false ∧
    (let s := ((State.reset.put PH_MODE.TEST 1).put PROC_PART_CFG.DBG_LOCK 1 0).put PROC_PART_CFG.REGIONS 1 0
     s.tapOpen = true ∧ s.lockHides .jtag 0x1400000 0 = true) ∧ sramBase 0 ≤ (0x200000000000 : Word64).toNat ∧
    (0x20000FFFFFFF : Word64).toNat < sramBase 0 + 0x10000000 := by decide +kernel

theorem test_meets_EveryCommandKeeps : State.reset.mem.wf = true ∧ State.reset.pending = [] := by decide +kernel

/-- A vector of eight words at an address. -/
def vec (base : Nat) : Desc :=
  { base := base, scaleBase := 0, format := fmtINT32, layout := 0, stream := 0, tensorId := 0, round := 0, statEn := false, rank := 1,
    blk := 0, dir := false, rsv := 0, sizes := [8], strides := [1] }
/-- A copy that was killed and re-runs: its descriptors were latched. -/
def copying (src dst : Nat) : Entry := { killed { cmd 0x60 31 with d2 := 4 } with descs := [(0, vec src), (4, vec dst)] }
def copyCtx (src dst : Nat) : Ctx := issueCtx (queued (zeroed job) [copying src dst]) 0 0 (copying src dst)
/-- The three ways of a copy: inside the module, from the host window, to the host window. -/
theorem test_meets_CopyCommandsIssue_ways :
    (copyEffect (copyCtx (sramBase 0) (sramBase 0 + 32))).work = .none ∧
    (copyEffect (copyCtx (sramBase 0) (sramBase 0 + 32))).posts.head? = some (.bytes (sramBase 0 + 32) (List.replicate 32 0)) ∧
    (copyEffect (copyCtx 0x400000000000 (sramBase 0))).work = .remote 32 [] [] [] ∧
    (copyCtx 0x400000000000 (sramBase 0)).hostReads = [(sramBase 0, 0x400000000000, 32)] ∧
    (copyEffect (copyCtx (sramBase 0) 0x400000000000)).work = .none ∧ (copying (sramBase 0) 0x400000000000).cmd.shadow = false ∧
    (copyEffect (copyCtx (sramBase 0) 0x400000000000)).posts.head? = some (.bytes 0x400000000000 (List.replicate 32 0)) := by decide +kernel

/-! Results of the spec's tables and worked examples. -/

/-- Table 3.4: the block 3.1, -0.5, 250, 0.02, 1000, 7, -12.3, 0 in FP32, rounded from tenths and hundredths. -/
def table34 : List Machine.Num :=
  [quotient false 31 10 0, .fin true 1 (-1), .fin false 250 0, quotient false 2 100 0, .fin false 1000 0, .fin false 7 0,
    quotient true 123 10 0, .zero]
theorem test_table_3_4 : scaleByte 0x84 table34 = 0x81 ∧
    table34.map (fun x => encodeScaled 0x84 0x81 .rne (rnd32 x)) =
      [0x34, 0xA0, 0x68, 0x03, 0x78, 0x3E, 0xC4, 0x00].map (fun c => (c, false)) := by decide +kernel
theorem test_meets_FormatsAndBlockScales : isScaled 0x84 = true ∧ (∀ x ∈ table34, x.isFinite = true) ∧ 0 < scaleByte 0x84 table34 ∧
    scaleByte 0x84 table34 < 254 ∧ (decodeNum 0x04 0x7E).isFinite = true ∧ (decodeNum 0x04 0x7F).isFinite = false := by
  decide +kernel
/-- Table 3.2: the largest finite values 448, 57344 and 65504; R64: the canonical NaNs. -/
theorem test_table_3_2 : ((decodeNum 0x04 0x7E).eqv (.fin false 448 0) && (decodeNum 0x05 0x7B).eqv (.fin false 57344 0) &&
      (decodeNum 0x03 0x7BFF).eqv (.fin false 65504 0)) = true ∧
    [1, 2, 3, 4, 5].map (fun c => (encodeNum c .rne .nan).1) = [0x7FC00000, 0x7FC0, 0x7E00, 0x7F, 0x7E] := by decide +kernel
/-- Chapter 5, slot 9 of Table 5.10. -/
theorem test_slot_9 : decodeCmd (0x28064020010C1020 + 0x90A0 * 2 ^ 64 + 0x0004000032840000 * 2 ^ 128 +
      0x3DB504F300000000 * 2 ^ 192) =
    { cmd 0x20 16 with
      sigToken := 12, sigAdd := 1, d0 := 0x20, d1 := 0x64, d2 := 0x28, wait0 := { token := 10, count := 1, consume := true },
      word4 := 0x32840000, word5 := 0x00040000, word7 := 0x3DB504F3 } := by decide +kernel
/-- Chapter 5, slots 0 and 6: LI sq1, 4; LIH sq1, 0 gives 262,144; less 4,096 it is 258,048. -/
theorem test_slots_0_and_6 : (next (.lih 0 1 0 0) (next (.li 0 1 0 4) job)).sq 0 1 = 262144 ∧
    (next (.sub 0 3 1 2 0) ((job.setSq 0 1 262144).setSq 0 2 4096)).sq 0 3 = 258048 := by decide +kernel
theorem test_scalar_signs : (next (.addi 0 1 1 0xFFFF) job).sq 0 1 = 0xFFFFFFFFFFFFFFFF ∧
    (next (.slt 0 2 1 3 0) (job.setSq 0 1 0xFFFFFFFFFFFFFFFF)).sq 0 2 = 1 ∧
    (next (.shri 0 2 1 63) (job.setSq 0 1 0xFFFFFFFFFFFFFFFF)).sq 0 2 = 1 ∧
    (next (.li 0 0 0 9) job).sq 0 0 = 0 := by decide +kernel
/-- Chapter 10: F 5,943 ns and L 9,455 ns, with the half nanosecond of PATH_M rounded up. -/
theorem test_fire_and_lead : fireDelay 2431 2512 = 5943 ∧ leadOf 2431 2512 = 9455 := by decide +kernel
/-- Chapter 13: T 9.6 s, C 2.4 s, 59 failures in 30 days: INTERVAL 47 with K 64, 32 with K 32; pairs A, B and C. -/
def meas13 : SecMeas :=
  { meanStepNs := 9600000000, meanExcessNs := 2400000000, securingSteps := 16, failed := 59, windowS := 2592000 }
theorem test_chapter_13 : intervalOf 64 meas13 = 47 ∧ intervalOf 32 meas13 = 32 ∧ intervalOf 64 { meas13 with securingSteps := 15 } = 1 ∧
    recommend 327680 47 [(4, 1000)] = 2 ∧ recommend 1024 47 [(4, 1000)] = 1 ∧ recommend 131072 47 [(20, 1000)] = 1 := by
  decide +kernel
/-- Chapter 9: a cache of BF16 with eight heads of 128 in ST4 at stack offset 0x1_0000_0000; entries 3 and 4 are valid and
hold stack offsets 0x2_4008_0000 and 0x2_4010_0000; head 5 of position 1,000 lies at 0x42_400D_E800. -/
def cache9 : Desc :=
  { vec 0x4100000000 with format := fmtBF16, layout := 4, rank := 3, sizes := [128, 1040, 8], strides := [1, 1] }
def pages9 : Reader := fun a =>
  (toLe 16 (0x8000000240080000 + 0x8000000240100000 * 2 ^ 64)).getD (a - (0x4100000000 + 64 + 24)) 0
theorem test_chapter_9 : cellAddr pages9 cache9 0 1000 5 = 0x42400DE800 ∧
    pagedAddr pages9 cache9 (cache9.linear 0 1000 5) = 0x42400DE800 ∧
    cellAddr pages9 cache9 0 1024 0 = 0x4240100000 := by decide +kernel
/-- Chapter 11: M = 0.0123, HEAD 1, three hops: S0 = 0x73; sums of Table 11.7 that halve exactly need no draw. -/
theorem test_chapter_11 : baseScale (rnd32 (quotient false 123 10000 0)) 3 1 false = (0x73, false) ∧
    halfRound 22 0 = 11 ∧ halfRound 2 0 = 1 ∧ halfRound 21 0 = 10 ∧ halfRound 21 0xFFFFFFFF = 11 := by decide +kernel

end Sys2Proof.Tests
end

section
/-!
Accesses to the control space (R5-R7, R288, R369): what an access leaves of the register fields, field by field of its row,
and the settlement of O56. A read clears and a write changes the fields of one row one after the other; since the fields of
a row have distinct homes, each field sees only its own update.
-/
namespace Sys2Proof.Machine

/-! ### Register fields after a run of updates -/

theorem SameRegs.refl (s : State) (changed : List Fld) : SameRegs s s changed := fun _ _ _ _ _ _ _ _ => rfl

theorem SameRegs.trans {s t u : State} {changed : List Fld} (a : SameRegs s t changed) (b : SameRegs t u changed) :
    SameRegs s u changed := fun f i j k hi hj hk hf =>
  (b f i j k hi hj hk hf).trans (a f i j k hi hj hk hf)

theorem SameRegs.mono {s t : State} {c d : List Fld} (h : SameRegs s t c) (hcd : c ⊆ d) : SameRegs s t d :=
  fun f i j k hi hj hk hf => h f i j k hi hj hk fun g hg => hf g (hcd hg)

theorem SameRegs.put (s : State) (f : Fld) (v : Nat) {i j k : Nat} (hi : i < 65536) (hj : j < 65536) (hk : k < 65536) :
    SameRegs s (s.put f v i j k) [f] := fun g a b c ha hb hc hg =>
  State.get_put_ne _ _ _ _ _ _ _ _ _ _ (Fld.key_ne _ _ _ _ _ _ _ _ hi hj hk ha hb hc (hg f (by simp)))

theorem SameRegs.emit {s t : State} {changed : List Fld} (h : SameRegs s t changed) (o : Out) :
    SameRegs s (t.emit o) changed := h

theorem SameRegs.foldl {upd : State → Fld → State} {changed fs : List Fld}
    (h : ∀ s, ∀ f ∈ fs, SameRegs s (upd s f) changed) (s : State) : SameRegs s (fs.foldl upd s) changed := by
  induction fs generalizing s with
  | nil => exact .refl s _
  | cons f fs ih =>
    exact (h s f List.mem_cons_self).trans (ih (fun s g hg => h s g (List.mem_cons_of_mem f hg)) _)

/-- In a run of updates, each of one field and all of distinct homes, a field is updated once, at its value before the
run. -/
theorem get_foldl_of_mem {upd : State → Fld → State} (h : ∀ s f, SameRegs s (upd s f) [f]) {fs : List Fld}
    (hfs : (fs.map Fld.home).Nodup) {f : Fld} (hf : f ∈ fs) (s : State) {i j k : Nat} (hi : i < 65536) (hj : j < 65536)
    (hk : k < 65536) :
    ∃ u : State, u.get f i j k = s.get f i j k ∧ (fs.foldl upd s).get f i j k = (upd u f).get f i j k := by
  have others (gs : List Fld) (t : State) (hg : f.home ∉ gs.map Fld.home) :
      (gs.foldl upd t).get f i j k = t.get f i j k :=
    SameRegs.foldl (fun s g m => (h s g).mono (by simpa using m)) t f i j k hi hj hk
      fun g m e => hg (e ▸ List.mem_map_of_mem m)
  obtain ⟨before, after, rfl⟩ := List.append_of_mem hf
  rw [List.map_append, List.map_cons, List.nodup_append, List.nodup_cons] at hfs
  obtain ⟨-, ⟨ha, -⟩, hne⟩ := hfs
  have hb : f.home ∉ before.map Fld.home := fun m => hne _ m _ List.mem_cons_self rfl
  refine ⟨before.foldl upd s, others before s hb, ?_⟩
  rw [List.foldl_append, List.foldl_cons, others after _ ha]

/-! ### The row of an access -/

theorem regRows_homes_nodup : ∀ row ∈ regRows, (row.fields.map Fld.home).Nodup := by decide +kernel

theorem rowAt_row {row row' : RegRow} {off i j k : Nat} (h : rowAt row off = some (row', i, j, k)) : row' = row := by
  unfold rowAt at h
  split at h
  · cases h
  · split at h <;> cases h <;> rfl

theorem findReg_mem {row : RegRow} {off i j k : Nat} (h : findReg off = some (row, i, j, k)) : row ∈ regRows := by
  obtain ⟨row', hmem, hrow⟩ := List.exists_of_findSome?_eq_some h
  exact rowAt_row hrow ▸ hmem

/-- An access that finds a register finds the one of its offset; every other branch answers abort or bad. -/
theorem State.findReg_of_find {s : State} {a : Actor} {off w : Nat} {row : RegRow} {i j k : Nat}
    (h : s.find a off w = .reg row i j k) : findReg off = some (row, i, j, k) := by
  unfold State.find at h
  repeat' split at h
  all_goals cases h
  all_goals assumption

theorem State.homes_nodup_of_find {s : State} {a : Actor} {off w : Nat} {row : RegRow} {i j k : Nat}
    (h : s.find a off w = .reg row i j k) : (row.fields.map Fld.home).Nodup :=
  regRows_homes_nodup row (findReg_mem (State.findReg_of_find h))

/-! ### Bad accesses (R6) -/

theorem State.get_badAccess (s : State) : s.badAccess.get HUB_BAD_ACCESS_CNT.COUNT =
    min HUB_BAD_ACCESS_CNT.COUNT.max (s.get HUB_BAD_ACCESS_CNT.COUNT + 1) := State.get_bump_self ..

theorem SameRegs.badAccess (s : State) : SameRegs s s.badAccess [HUB_BAD_ACCESS_CNT.COUNT] :=
  .put s _ _ (by decide) (by decide) (by decide)

theorem OnlyRegs.badAccess (s : State) : OnlyRegs s s.badAccess := .bump ..

/-! ### Reads (R7) -/

/-- A read of one field clears it if its code is RC (Table 0.2). -/
def State.clearRcField (i j k : Nat) (s : State) (f : Fld) : State := if f.acc = .rc then s.put f 0 i j k else s

theorem State.clearRc_eq_foldl (s : State) (row : RegRow) (i j k : Nat) :
    s.clearRc row i j k = row.fields.foldl (State.clearRcField i j k) s := rfl

theorem State.clearRcField_of_rc {f : Fld} (h : f.acc = .rc) (s : State) (i j k : Nat) :
    s.clearRcField i j k f = s.put f 0 i j k := if_pos h

theorem State.clearRcField_of_ne {f : Fld} (h : f.acc ≠ .rc) (s : State) (i j k : Nat) :
    s.clearRcField i j k f = s := if_neg h

theorem SameRegs.clearRcField {i j k : Nat} (hi : i < 65536) (hj : j < 65536) (hk : k < 65536) (s : State) (f : Fld) :
    SameRegs s (s.clearRcField i j k f) [f] := by
  by_cases h : f.acc = .rc
  · rw [State.clearRcField_of_rc h]; exact .put s f 0 hi hj hk
  · rw [State.clearRcField_of_ne h]; exact .refl s _

theorem OnlyRegs.clearRc (s : State) (row : RegRow) (i j k : Nat) : OnlyRegs s (s.clearRc row i j k) :=
  OnlyRegs.foldl (fun s _ => .ite (.put s ..) (.refl s)) _ _

theorem SameRegs.clearRc (s : State) (row : RegRow) {i j k : Nat} (hi : i < 65536) (hj : j < 65536) (hk : k < 65536) :
    SameRegs s (s.clearRc row i j k) (row.fields.filter (fun f => f.acc == .rc)) := by
  refine SameRegs.foldl (upd := State.clearRcField i j k) (fun s f hf => ?_) s
  by_cases h : f.acc = .rc
  · exact (SameRegs.clearRcField hi hj hk s f).mono (by simp [hf, h])
  · rw [State.clearRcField_of_ne h]; exact .refl s _

theorem State.get_clearRc_of_rc (s : State) {row : RegRow} {i j k : Nat} (hi : i < 65536) (hj : j < 65536) (hk : k < 65536)
    (hrow : (row.fields.map Fld.home).Nodup) {f : Fld} (hf : f ∈ row.fields) (hrc : f.acc = .rc) :
    (s.clearRc row i j k).get f i j k = 0 := by
  obtain ⟨u, -, hu⟩ := get_foldl_of_mem (SameRegs.clearRcField hi hj hk) hrow hf s hi hj hk
  rw [State.clearRc_eq_foldl, hu, State.clearRcField_of_rc hrc, State.get_put_self, Nat.zero_mod]

/-! ### Writes under the access codes (R7) -/

/-- A word written to one field, by its code (Table 0.2). -/
def State.writeField (v i j k : Nat) (s : State) (f : Fld) : State :=
  match f.acc with
  | .rw => s.put f (f.ofWord v) i j k
  | .w1c => s.put f (s.get f i j k &&& (f.max - f.ofWord v)) i j k
  | .w1s => s.put f (s.get f i j k ||| f.ofWord v) i j k
  | _ => s

/-- A written word with no field skipped is written field by field. -/
theorem State.writeFields_eq_foldl (s : State) (fs : List Fld) (v i j k : Nat) :
    s.writeFields fs v i j k (fun _ => false) = fs.foldl (State.writeField v i j k) s := rfl

/-- Whether a field takes a written word. -/
def Fld.writable (f : Fld) : Bool := f.acc == .rw || f.acc == .w1c || f.acc == .w1s

theorem State.writeField_of_not_writable {f : Fld} (h : f.writable = false) (s : State) (v i j k : Nat) :
    s.writeField v i j k f = s := by
  unfold Fld.writable at h
  unfold State.writeField
  cases hacc : f.acc <;> simp_all

theorem SameRegs.writeField (v : Nat) {i j k : Nat} (hi : i < 65536) (hj : j < 65536) (hk : k < 65536) (s : State)
    (f : Fld) : SameRegs s (s.writeField v i j k f) [f] := by
  unfold State.writeField
  split
  case h_4 => exact .refl s _
  all_goals exact .put s f _ hi hj hk

theorem OnlyRegs.writeField (v i j k : Nat) (s : State) (f : Fld) : OnlyRegs s (s.writeField v i j k f) := by
  unfold State.writeField
  split
  case h_4 => exact .refl s
  all_goals exact .put s ..

theorem OnlyRegs.writeFields (s : State) (fs : List Fld) (v i j k : Nat) :
    OnlyRegs s (s.writeFields fs v i j k (fun _ => false)) := OnlyRegs.foldl (OnlyRegs.writeField v i j k) fs s

theorem SameRegs.writeFields (s : State) (fs : List Fld) (v : Nat) {i j k : Nat} (hi : i < 65536) (hj : j < 65536)
    (hk : k < 65536) : SameRegs s (s.writeFields fs v i j k (fun _ => false)) (fs.filter Fld.writable) := by
  refine SameRegs.foldl (upd := State.writeField v i j k) (fun s f hf => ?_) s
  cases h : f.writable with
  | true => exact (SameRegs.writeField v hi hj hk s f).mono (by simp [hf, h])
  | false => rw [State.writeField_of_not_writable h]; exact .refl s _

/-- What a field holds after a written word, by its code (Table 0.2). -/
def Fld.written (f : Fld) (v old : Nat) : Nat :=
  match f.acc with
  | .rw => f.ofWord v
  | .w1c => (old &&& (f.max - f.ofWord v)) % 2 ^ f.width
  | .w1s => (old ||| f.ofWord v) % 2 ^ f.width
  | _ => old

theorem Fld.ofWord_mod (f : Fld) (v : Nat) : f.ofWord v % 2 ^ f.width = f.ofWord v := Nat.mod_mod ..

theorem State.get_writeField_self (s : State) (f : Fld) (v i j k : Nat) :
    (s.writeField v i j k f).get f i j k = f.written v (s.get f i j k) := by
  unfold State.writeField Fld.written
  cases f.acc <;> simp [Fld.ofWord_mod]

theorem State.get_writeFields_of_mem (s : State) {fs : List Fld} (hfs : (fs.map Fld.home).Nodup) (v : Nat) {i j k : Nat}
    (hi : i < 65536) (hj : j < 65536) (hk : k < 65536) {f : Fld} (hf : f ∈ fs) :
    (s.writeFields fs v i j k (fun _ => false)).get f i j k = f.written v (s.get f i j k) := by
  obtain ⟨u, hsame, hu⟩ := get_foldl_of_mem (SameRegs.writeField v hi hj hk) hfs hf s hi hj hk
  rw [State.writeFields_eq_foldl, hu, State.get_writeField_self, hsame]

/-! ### Registers with and without a write rule of their own -/

/-- The registers whose writes have a rule of their own. -/
def ruledBases : List Nat :=
  [0x10000, 0x200, 0x410, 0x300, 0x2000, 0x5000, 0x5048, 0x5050, 0x500, 0x700, 0x20010, 0x20000, 0x40000,
    0x40008, 0x40200, 0x40220, 0x40400, 0x41000, 0x41100, 0x30000, 0x30400, 0x30800, 0x30880, 0x30900, 0x30980, 0x30A40,
    0x1400000, 0x1000000, 0x1000008, 0x10C0000, 0x10A0000, 0x1040008, 0x1050200, 0x1050400, 0x8000008, 0x8000038,
    0xC000018, 0xC000030]

theorem State.writeHub_plain {row : RegRow} (h : row.base ∉ ruledBases) (s : State) (a : Actor) (v i j k : Nat) :
    s.writeHub a row v i j k = s.writeFields row.fields v i j k (fun _ => false) := by
  unfold State.writeHub
  split
  case h_27 => rfl
  all_goals exact absurd (by simp only [*]; decide) h

theorem State.writeDie_plain {row : RegRow} (h : row.base ∉ ruledBases) (s : State) (a : Actor) (v i j k : Nat) :
    s.writeDie a row v i j k = s.writeFields row.fields v i j k (fun _ => false) := by
  unfold State.writeDie
  split
  case h_13 => rfl
  all_goals exact absurd (by simp only [*]; decide) h

theorem State.writeReg_plain {s : State} {a : Actor} {off w : Nat} {row : RegRow} {i j k : Nat}
    (hfind : s.find a off w = .reg row i j k) (h : row.base ∉ ruledBases) (v : Nat) :
    s.writeReg a off w v = s.writeFields row.fields v i j k (fun _ => false) := by
  simp only [State.writeReg, hfind, State.writeHub_plain h, State.writeDie_plain h, ite_self]

theorem State.writeReg_desc {s : State} {a : Actor} {off w : Nat} {row : RegRow} {i j k : Nat}
    (hfind : s.find a off w = .reg row i j k) (h : row.base = RGN_DESC.WORD.base) (v : Nat) :
    s.writeReg a off w v = if s.loadedAt i || s.regionLocked i then s
      else s.writeFields row.fields v i j k (fun _ => false) := by
  simp [State.writeReg, hfind, State.writeDie, h, RGN_DESC.WORD]

theorem State.loadedAt_region (s : State) (r : Rgn) : s.loadedAt r = s.regionLoaded r := dif_pos r.isLt

theorem State.writeFields_desc (s : State) (v i j k : Nat) :
    s.writeFields [RGN_DESC.WORD] v i j k (fun _ => false) = s.put RGN_DESC.WORD (RGN_DESC.WORD.ofWord v) i j k := rfl

theorem RGN_DESC.WORD_ofWord (v : Word64) : RGN_DESC.WORD.ofWord v.toNat = v.toNat := by
  have : v.toNat < 2 ^ 64 := v.isLt
  simp only [Fld.ofWord, bitsAt, RGN_DESC.WORD]
  omega

/-! ### What an access answers, by what it finds -/

theorem completes_readClear {s : State} {a : Actor} {off : Word32} {w : BitVec 8} {P : State → Prop}
    (h : P (s.readReg a off.toNat w.toNat)) : Completes (.readClear a off w) s P := ⟨_, rfl, h⟩

theorem completes_registerWrite {s : State} {a : Actor} {off : Word32} {w : BitVec 8} {v : Word64} {P : State → Prop}
    (h : P (s.writeReg a off.toNat w.toNat v.toNat)) : Completes (.registerWrite a off w v) s P := ⟨_, rfl, h⟩

section
variable {s : State} {a : Actor} {off w : Nat} {row : RegRow} {i j k : Nat}

theorem State.readReg_bad (h : s.find a off w = .bad) : s.readReg a off w = s.badAccess.emit (.value a 0) := by
  simp only [State.readReg, h]

theorem State.readReg_hidden (h : s.find a off w = .reg row i j k) (hhide : s.lockHides a row.base i = true) :
    s.readReg a off w = s.badAccess.emit (.value a 0) := by
  simp only [State.readReg, h, hhide, if_true]

theorem State.readReg_shown (h : s.find a off w = .reg row i j k) (hhide : s.lockHides a row.base i = false) :
    s.readReg a off w = (s.clearRc row i j k).emit (.value a (BitVec.ofNat 64 (s.word row i j k))) := by
  simp [State.readReg, h, hhide]

theorem State.readReg_abort (h : s.find a off w = .abort) : s.readReg a off w = s.emit (.completerAbort a) := by
  simp only [State.readReg, h]

theorem State.writeReg_bad (h : s.find a off w = .bad) (v : Nat) : s.writeReg a off w v = s.badAccess := by
  simp only [State.writeReg, h]

/-- An aborted write that is of no pigeonhole changes nothing. -/
theorem State.writeReg_abort (h : s.find a off w = .abort)
    (hph : ∀ row i j k, findReg off = some (row, i, j, k) → pigeonOf row.base i = none) (v : Nat) :
    s.writeReg a off w v = s := by
  simp only [State.writeReg, h, State.abortedWrite]
  split
  · rename_i row i j k hrow
    simp only [hph row i j k hrow]
  · rfl

end

/-- What a read leaves that draws a count in HUB_BAD_ACCESS_CNT and answers zero (R6, R288). -/
theorem badAccess_emit_zero (s : State) (a : Actor) :
    let t := s.badAccess.emit (.value a 0)
    t.get HUB_BAD_ACCESS_CNT.COUNT = min HUB_BAD_ACCESS_CNT.COUNT.max (s.get HUB_BAD_ACCESS_CNT.COUNT + 1) ∧
      SameRegs s t [HUB_BAD_ACCESS_CNT.COUNT] ∧ t.out = s.out ++ [.value a 0] ∧ t.mem = s.mem :=
  ⟨s.get_badAccess, (SameRegs.badAccess s).emit _, rfl, rfl⟩

/-- A write of one descriptor word leaves the table's other words alone. -/
theorem State.get_put_desc_ne (s : State) (x : Nat) {r n e q m d : Nat} (hr : r < 65536) (hn : n < 65536) (he : e < 65536)
    (hq : q < 65536) (hm : m < 65536) (hd : d < 65536) (h : (q, m, d) ≠ (r, n, e)) :
    (s.put RGN_DESC.WORD x r n e).get RGN_DESC.WORD q m d = s.get RGN_DESC.WORD q m d := by
  have hix : q ≠ r ∨ m ≠ n ∨ d ≠ e := by
    rw [ne_eq, Prod.mk.injEq, Prod.mk.injEq] at h
    omega
  exact State.get_put_ne _ _ _ _ _ _ _ _ _ _ (Fld.key_ne_ix _ _ _ _ _ _ _ hr hn he hq hm hd hix)

/-- Settles O56: by what the access finds. A bad or hidden read and a bad write are one counter event; a read or a plain write
runs through the fields of one row, whose homes are distinct; the descriptor table has one field. -/
theorem registerAccesses : Obligations.RegisterAccesses := by
  unfold Obligations.RegisterAccesses
  intro s a off w v
  refine ⟨?bad, ?hidden, ?shown, ?abort, ?plain, ?desc⟩
  case bad =>
    intro h
    constructor
    · apply completes_readClear
      rw [State.readReg_bad h]
      exact badAccess_emit_zero s a
    · apply completes_registerWrite
      rw [State.writeReg_bad h]
      exact ⟨s.get_badAccess, .badAccess s, .badAccess s⟩
  case hidden =>
    intro row i j k h hhide
    apply completes_readClear
    rw [State.readReg_hidden h hhide]
    exact badAccess_emit_zero s a
  case shown =>
    intro row i j k h hhide hi hj hk
    apply completes_readClear
    rw [State.readReg_shown h hhide]
    have honly := OnlyRegs.clearRc s row i j k
    exact ⟨congrArg (· ++ _) honly.out,
      fun f hf hrc => State.get_clearRc_of_rc s hi hj hk (State.homes_nodup_of_find h) hf hrc,
      (SameRegs.clearRc s row hi hj hk).emit _, honly.mem, honly.regions⟩
  case abort =>
    intro h
    exact ⟨congrArg Host.Outcome.next (State.readReg_abort h),
      fun hph => congrArg Host.Outcome.next (State.writeReg_abort h hph v.toNat)⟩
  case plain =>
    intro row i j k h hi hj hk hbase
    apply completes_registerWrite
    rw [State.writeReg_plain h hbase]
    refine ⟨.writeFields .., fun f hf => ?_, .writeFields s _ _ hi hj hk⟩
    rw [State.get_writeFields_of_mem s (State.homes_nodup_of_find h) _ hi hj hk hf]
    exact ⟨fun hrw => by simp only [Fld.written, hrw], fun hw1c => by simp only [Fld.written, hw1c],
      fun hw1s => by simp only [Fld.written, hw1s]⟩
  case desc =>
    intro row n e r hbase hfields hn he h
    have hwrite := State.writeReg_desc h hbase v.toNat
    rw [State.loadedAt_region] at hwrite
    constructor
    · intro hload hlock
      have hr : r.val < 65536 := by omega
      have hn' : n < 65536 := by omega
      have he' : e < 65536 := by omega
      apply completes_registerWrite
      rw [hwrite, hload, hlock, hfields, State.writeFields_desc, RGN_DESC.WORD_ofWord]
      exact ⟨(State.get_put_self ..).trans (Nat.mod_eq_of_lt v.isLt),
        fun q m d hne hq hm hd => State.get_put_desc_ne s _ hr hn' he' hq hm hd hne, .put s _ _ hr hn' he', .put ..⟩
    · intro hclosed
      exact congrArg Host.Outcome.next (hwrite.trans (if_pos (by simpa using hclosed)))

end Sys2Proof.Machine
end

section
/-!
Commands of the attention, convolution, vocabulary and pointwise engines issue (R116, R134), and the settlement of O17. A row
that runs an engine command is its issue followed by what the checks of its engine found; checks that found nothing change
nothing.
-/
namespace Sys2Proof.Machine

/-! ### Checks that found nothing -/

@[simp] theorem State.checkBlock_clean (s : State) (r : Rgn) (e ticket : Nat) : s.checkBlock r e ticket .clean = s := by
  unfold State.checkBlock
  split
  next h => cases h
  next => rfl

@[simp] theorem State.checkEngine_clean (s : State) (r : Rgn) (m e ticket : Nat) :
    s.checkEngine r m e ticket .clean = s := ite_self s

@[simp] theorem State.checkPair_clean (s : State) (r : Rgn) (k ticket : Nat) :
    s.checkPair r k ticket .clean .clean = s := by
  simp only [State.checkPair, State.checkEngine_clean]

@[simp] theorem State.checkUnit_clean (s : State) (r : Rgn) (e ticket : Nat) : s.checkUnit r e ticket .clean = s := by
  unfold State.checkUnit
  split
  next => rfl
  next y _ =>
    split
    next => exact s.checkEngine_clean ..
    next => exact s.checkBlock_clean ..

/-! ### A row that issues and then takes its checks -/

/-- A row that is the issue of a command followed by a change of the state issues the head command that can issue, and then
changes the state so. -/
theorem issuesThen_of_canIssue {i : Instr} {s : State} {r : Rgn} {e op : Nat} {ready : State → Entry → Bool}
    {ranges : Ctx → List (Nat × Nat) × List (Nat × Nat)} {codes : Ctx → List Nat} {run : Ctx → Effect} {p : Prt} {en : Entry}
    {after : State → State} (hexec : exec i s = .next (after (s.issue r e op ready ranges codes run)))
    (h : CanIssue s r e op ready ranges codes p en) :
    IssuesThen i s r e en (issuedEntry s r p en ranges run) after :=
  ⟨_, hexec, _, State.issued_of_canIssue run h, rfl⟩

/-- Settles O17: every row of these engines is the issue of its command followed by the checks of its engine. -/
theorem unitCommandsIssue : Obligations.UnitCommandsIssue := by
  unfold Obligations.UnitCommandsIssue
  refine ⟨fun s r p en => ⟨?attFwd, ?attBwd, ?convDirect, ?convFft, ?conv4step, ?vocGather, ?vocXent, ?vocScatter⟩,
    fun s r k p en x => ⟨?pwMap, ?pwNorm, ?pwDropout, ?pwMask, ?pwReduce, ?pwConvert⟩,
    fun s r k e ticket => ⟨s.checkPair_clean r k ticket, s.checkUnit_clean r e ticket, s.checkBlock_clean r e ticket⟩⟩
  case attFwd => exact fun k h x y => issuesThen_of_canIssue rfl h
  case attBwd => exact fun k h x y => issuesThen_of_canIssue rfl h
  case convDirect => exact fun k h x => issuesThen_of_canIssue rfl h
  case convFft => exact fun k h x => issuesThen_of_canIssue rfl h
  case conv4step => exact fun k h x => issuesThen_of_canIssue rfl h
  case vocGather => exact fun h x => issuesThen_of_canIssue rfl h
  case vocXent => exact fun h x => issuesThen_of_canIssue rfl h
  case vocScatter => exact fun h x => issuesThen_of_canIssue rfl h
  case pwMap => exact issuesThen_of_canIssue rfl
  case pwNorm => exact issuesThen_of_canIssue rfl
  case pwDropout => exact issuesThen_of_canIssue rfl
  case pwMask => exact issuesThen_of_canIssue rfl
  case pwReduce => exact issuesThen_of_canIssue rfl
  case pwConvert => exact issuesThen_of_canIssue rfl

end Sys2Proof.Machine
end

section
/-!
Copy commands issue and send what leaves the module (R17, R91, R337), and the settlement of O18. After the issue the row looks
its command up by engine and ticket; the ticket is fresh, so it finds the entry just issued, failed or not as the checks left
it, and everything sent follows from that entry's effect.
-/
namespace Sys2Proof.Machine

/-! ### The entry that an engine issued under a ticket -/

/-- What a search that only the new entry answers finds after a replacement. -/
theorem find?_replaceEntry {f g : Entry → Bool} {new en : Entry} {q : List Entry} (hf : q.find? f = some en)
    (hold : ∀ y ∈ q, g y = false) (hnew : g new = true) : (replaceEntry f new q).find? g = some new := by
  induction q with
  | nil => cases hf
  | cons y q ih =>
    rw [replaceEntry]
    by_cases hy : f y = true
    · rw [if_pos hy, List.find?_cons_of_pos hnew]
    · rw [List.find?_cons_of_neg hy] at hf
      rw [if_neg hy, List.find?_cons_of_neg (by simp [hold y List.mem_cons_self])]
      exact ih hf fun z hz => hold z (List.mem_cons_of_mem y hz)

/-- A search finds the changed entry after a change, which keeps what it looks at, of every entry that it answers to. -/
theorem find?_map_ite {g : Entry → Bool} {f : Entry → Entry} (hg : ∀ y, g (f y) = g y) (q : List Entry) :
    (q.map (fun y => if g y then f y else y)).find? g = (q.find? g).map f := by
  induction q with
  | nil => rfl
  | cons y q ih =>
    rw [List.map_cons]
    by_cases hy : g y = true
    · rw [if_pos hy, List.find?_cons_of_pos ((hg y).trans hy), List.find?_cons_of_pos hy, Option.map_some]
    · rw [if_neg hy, List.find?_cons_of_neg hy, List.find?_cons_of_neg hy, ih]

theorem State.issuedEntry_spec {s : State} {r : Rgn} {e ticket : Nat} {y : Entry} (h : s.issuedEntry r e ticket = some y) :
    y ∈ s.regions[r].cmds ∧ y.eng = e ∧ y.issued = true := by
  have hy := List.find?_some h
  simp only [Bool.and_eq_true, beq_iff_eq] at hy
  exact ⟨List.mem_of_find?_eq_some h, hy.1.1, hy.1.2⟩

theorem State.issuedEntry_editIssued_fail (s : State) (r : Rgn) (e ticket cause : Nat) :
    (s.editIssued r e ticket (·.fail cause)).issuedEntry r e ticket = (s.issuedEntry r e ticket).map (·.fail cause) := by
  unfold State.editIssued State.issuedEntry
  rw [State.setCmds_region]
  exact find?_map_ite (f := (·.fail cause)) (fun _ => rfl) _

/-- After an issue under a fresh ticket, the entry that its engine issued under the ticket is the new one. -/
theorem Issued.issuedEntry_eq {s u : State} {r : Rgn} {e : Nat} {en new : Entry} (h : Issued s u r e en new)
    (hhead : nextOf s.regions[r].cmds e = some en) (hfresh : ∀ y ∈ s.regions[r].cmds, y.issued = true → y.ticket ≠ s.ticket)
    (heng : new.eng = e) (hissued : new.issued = true) (hticket : new.ticket = s.ticket) :
    u.issuedEntry r e s.ticket = some new := by
  unfold State.issuedEntry
  rw [h.queue]
  refine find?_replaceEntry hhead (fun y hy => ?_) (by simp [heng, hissued, hticket])
  cases hi : y.issued with
  | false => simp
  | true => simp [hfresh y hy hi]

/-! ### The partition of a region through an issue and its checks -/

/-- The partition of a region is read from PROC_PART_CFG.REGIONS alone (R283). -/
theorem SameRegs.partOf {s t : State} {changed : List Fld} (h : SameRegs s t changed)
    (hc : ∀ g ∈ changed, PROC_PART_CFG.REGIONS.home ≠ g.home) (r : Rgn) : t.partOf r = s.partOf r := by
  have hp (p : Prt) : t.get PROC_PART_CFG.REGIONS p = s.get PROC_PART_CFG.REGIONS p :=
    h _ _ _ _ (by omega) (by decide) (by decide) hc
  simp only [State.partOf, hp]

theorem SameRegs.consume (s : State) (r : Rgn) (c : Cmd) : SameRegs s (s.consume r c) [RGN_TOK.VALUE] := by
  refine List.foldlRecOn (motive := (SameRegs s · _)) c.waits _ (.refl s _) fun t ht w _ => ht.trans ?_
  split
  · exact .put t _ _ (by omega) (by omega) (by decide)
  · exact .refl t _

theorem SameRegs.setCmds (s : State) (r : Rgn) (q : List Entry) :
    SameRegs s (s.setCmds r q) [SU_STAT.CLAIMED, SE_STAT.INFLIGHT, LNK_ADD_STAGE_LVL.INFLIGHT] :=
  fun f i j k hi hj hk hf => State.get_setCmds s r q f i j k hi hj hk (hf _ (by simp)) (hf _ (by simp)) (hf _ (by simp))

theorem State.partOf_setCmds (s : State) (r q : Rgn) (cs : List Entry) : (s.setCmds r cs).partOf q = s.partOf q :=
  (SameRegs.setCmds s r cs).partOf (by decide) q

section
variable {s : State} {r : Rgn} {e op : Nat} {ready : State → Entry → Bool}
  {ranges : Ctx → List (Nat × Nat) × List (Nat × Nat)} {codes : Ctx → List Nat} {p : Prt} {en : Entry}

theorem State.partOf_issue (run : Ctx → Effect) (h : CanIssue s r e op ready ranges codes p en) :
    (s.issue r e op ready ranges codes run).partOf r = some p := by
  rw [State.issue_of_canIssue run h, State.partOf_setCmds, ← h.part]
  split
  · rfl
  · exact (SameRegs.consume s r en.cmd).partOf (by decide) r

theorem State.issuedEntry_issue (run : Ctx → Effect) (h : CanIssue s r e op ready ranges codes p en)
    (hfresh : ∀ y ∈ s.regions[r].cmds, y.issued = true → y.ticket ≠ s.ticket) :
    (s.issue r e op ready ranges codes run).issuedEntry r e s.ticket =
      some (Sys2Proof.Machine.issuedEntry s r p en ranges run) := by
  have heng := List.find?_some h.head
  simp only [Bool.and_eq_true, beq_iff_eq] at heng
  exact (State.issued_of_canIssue run h).issuedEntry_eq h.head hfresh heng.1 rfl rfl

end

/-! ### What the checks of a block leave (R15, R17, R137) -/

/-- After checks, the entry that an engine issued under a ticket stands as `y`; the partition of the region, memory, links and
what has been sent are as before. -/
structure Checked (u t : State) (r : Rgn) (e ticket : Nat) (y : Entry) : Prop where
  entry : t.issuedEntry r e ticket = some y
  part : t.partOf r = u.partOf r
  mem : t.mem = u.mem
  links : t.links = u.links
  out : t.out = u.out

section
variable {u : State} {r : Rgn} {e ticket : Nat} {y : Entry}

theorem Checked.refl (h : u.issuedEntry r e ticket = some y) : Checked u u r e ticket y := ⟨h, rfl, rfl, rfl, rfl⟩

theorem Checked.bumpKilled (h : u.issuedEntry r e ticket = some y) :
    Checked u (u.bump RGN_SEQ_KILL.KILLED 1 r) r e ticket y :=
  ⟨h, (SameRegs.put u RGN_SEQ_KILL.KILLED _ (by omega) (by decide) (by decide)).partOf (by decide) r, rfl, rfl, rfl⟩

theorem Checked.fail {t : State} (h : Checked u t r e ticket y) (cause : Nat) :
    Checked u (t.editIssued r e ticket (·.fail cause)) r e ticket (y.fail cause) where
  entry := by rw [State.issuedEntry_editIssued_fail, h.entry, Option.map_some]
  part := (State.partOf_setCmds ..).trans h.part
  mem := (State.setCmds_mem ..).trans h.mem
  links := (State.setCmds_links ..).trans h.links
  out := (State.setCmds_out ..).trans h.out

/-- A word of the SRAM that the re-run meets again, or that a command meets which cannot be killed, fails the command. -/
theorem Checked.of_checkBlock_sram (h : u.issuedEntry r e ticket = some y) {ok : Bool}
    (hfails : ok = false ∨ y.cmd.killable = false) :
    Checked u (u.checkBlock r e ticket (.sram ok)) r e ticket (y.fail 6) := by
  simp only [State.checkBlock, h]
  rw [if_neg (by rcases hfails with hf | hf <;> simp [hf])]
  split
  · exact (Checked.bumpKilled h).fail 6
  · exact (Checked.refl h).fail 6

theorem Checked.of_checkBlock (h : u.issuedEntry r e ticket = some y) (x : EngCheck) :
    Checked u (u.checkBlock r e ticket x) r e ticket y ∨ Checked u (u.checkBlock r e ticket x) r e ticket (y.fail 6) := by
  by_cases hx : ∃ ok, x = .sram ok
  · obtain ⟨ok, rfl⟩ := hx
    by_cases hfails : ok = false ∨ y.cmd.killable = false
    · exact .inr (.of_checkBlock_sram h hfails)
    · obtain ⟨rfl, hk⟩ : ok = true ∧ y.cmd.killable = true := by simpa using hfails
      left
      simpa [State.checkBlock, h, hk] using Checked.bumpKilled h
  · left
    unfold State.checkBlock
    split
    next => simp at hx
    next => exact .refl h

end

/-! ### What leaves the module (R90, R91, R337) -/

/-- The address and bytes of a post outside the module. -/
def Post.away : Post → Option (Nat × List Byte)
  | .bytes key bs => if isRemote key then some (key, bs) else none
  | _ => none

/-- The write to the host window that a post outside the module is, where it names no peer (R91). -/
def Post.hostWrite (p : Prt) (q : Post) : Option Out :=
  q.away.map (fun a => .hostWrite (vfOf p) (a.1 - 0x400000000000) a.2)

theorem Post.hostWrite_bytes (p : Prt) (key : Nat) (bs : List Byte) : (Post.bytes key bs).hostWrite p =
    if isRemote key then some (.hostWrite (vfOf p) (key - 0x400000000000) bs) else none := by
  cases h : isRemote key <;> simp [Post.hostWrite, Post.away, h]

/-- An entry without its posts outside the module. -/
def Entry.staying (e : Entry) : Entry :=
  { e with posts := e.posts.filter (fun q => match q with | .bytes key _ => !isRemote key | _ => true) }

theorem Post.eq_bytes_of_away {q : Post} {a : Nat × List Byte} (h : q.away = some a) :
    q = .bytes a.1 a.2 ∧ isRemote a.1 = true := by
  unfold Post.away at h
  split at h
  case h_1 =>
    split at h
    next hr => cases h; exact ⟨rfl, hr⟩
    next => cases h
  case h_2 => cases h

theorem spaceOf_eq_host {da : Nat} (h : isRemote da = true) (hpeer : spaceOf da ≠ .peer) : spaceOf da = .host := by
  simpa [isRemote, hpeer] using h

/-- Sends a list of messages. -/
def State.emitAll (s : State) (os : List Out) : State := { s with out := s.out ++ os }

theorem State.emitAll_out (s : State) (os : List Out) : (s.emitAll os).out = s.out ++ os := rfl
theorem State.emitAll_mem (s : State) (os : List Out) : (s.emitAll os).mem = s.mem := rfl
theorem State.emitAll_links (s : State) (os : List Out) : (s.emitAll os).links = s.links := rfl
theorem State.emitAll_tok (s : State) (os : List Out) (r : Rgn) (n : Nat) : (s.emitAll os).tok r n = s.tok r n := rfl
theorem State.emitAll_nil (s : State) : s.emitAll [] = s := by simp [State.emitAll]
theorem State.emitAll_cons (s : State) (o : Out) (os : List Out) : s.emitAll (o :: os) = (s.emit o).emitAll os := by
  simp [State.emitAll, State.emit]

/-- Messages sent one after the other are sent as a list. -/
theorem State.foldl_eq_emitAll {α : Type} {f : State → α → State} {g : α → Out} {l : List α}
    (hf : ∀ s, ∀ a ∈ l, f s a = s.emit (g a)) (s : State) : l.foldl f s = s.emitAll (l.map g) := by
  induction l generalizing s with
  | nil => exact s.emitAll_nil.symm
  | cons a l ih =>
    rw [List.foldl_cons, hf s a List.mem_cons_self, ih fun s b hb => hf s b (List.mem_cons_of_mem a hb), List.map_cons,
      State.emitAll_cons]

section
variable {e : Entry} {r : Rgn} {p : Prt}

theorem State.sendOutputs_of_nil (h : e.posts.filterMap Post.away = []) (s : State) : s.sendOutputs r p e = s :=
  if_pos (List.isEmpty_iff.2 h)

/-- A command whose posts all stay in the module sends no output. -/
theorem State.sendOutputs_of_local (h : ∀ key bs, Post.bytes key bs ∈ e.posts → isRemote key = false) (s : State) :
    s.sendOutputs r p e = s := by
  refine s.sendOutputs_of_nil (List.filterMap_eq_nil_iff.2 fun q hq => Option.eq_none_iff_forall_ne_some.2 fun a ha => ?_)
  obtain ⟨rfl, hr⟩ := Post.eq_bytes_of_away ha
  exact absurd hr (by simp [h _ _ hq])

/-- A command with posts outside the module that all lie in the host window sends them as writes and keeps the others. -/
theorem State.sendOutputs_of_hosts (hsome : e.posts.filterMap Post.away ≠ []) (hshadow : e.cmd.shadow = false)
    (hpeer : ∀ key bs, Post.bytes key bs ∈ e.posts → spaceOf key ≠ .peer) (s : State) :
    ∃ q, s.sendOutputs r p e = (s.setCmds r q).emitAll (e.posts.filterMap (Post.hostWrite p)) := by
  have hhost : ∀ a ∈ e.posts.filterMap Post.away, spaceOf a.1 = .host := by
    intro a ha
    obtain ⟨x, hx, hxa⟩ := List.mem_filterMap.1 ha
    obtain ⟨rfl, hr⟩ := Post.eq_bytes_of_away hxa
    exact spaceOf_eq_host hr (hpeer _ _ hx)
  have hne : ¬ (e.posts.filterMap Post.away).isEmpty = true := mt List.isEmpty_iff.1 hsome
  refine ⟨replaceEntry (fun y => y.eng == e.eng && y.ord == e.ord && y.issued) e.staying s.regions[r].cmds, ?_⟩
  refine (if_neg hne).trans ((if_neg (by simp [hshadow])).trans ?_)
  refine (State.foldl_eq_emitAll (fun s a ha => if_pos (hhost a ha)) _).trans ?_
  rw [List.map_filterMap]
  rfl

/-- What a command leaves that sends to no peer: its writes to the host window in their order; memory, links and tokens stay. -/
theorem State.sendOutputs_leaves (hshadow : e.cmd.shadow = false)
    (hpeer : ∀ key bs, Post.bytes key bs ∈ e.posts → spaceOf key ≠ .peer) (s : State) :
    (s.sendOutputs r p e).out = s.out ++ e.posts.filterMap (Post.hostWrite p) ∧ (s.sendOutputs r p e).mem = s.mem ∧
    (s.sendOutputs r p e).links = s.links ∧ ∀ n < 65536, (s.sendOutputs r p e).tok r n = s.tok r n := by
  by_cases hnil : e.posts.filterMap Post.away = []
  · have hwrites : e.posts.filterMap (Post.hostWrite p) = [] := by
      unfold Post.hostWrite
      rw [← List.map_filterMap, hnil, List.map_nil]
    rw [s.sendOutputs_of_nil hnil, hwrites, List.append_nil]
    exact ⟨rfl, rfl, rfl, fun _ _ => rfl⟩
  · obtain ⟨q, hq⟩ := State.sendOutputs_of_hosts (r := r) (p := p) hnil hshadow hpeer s
    rw [hq]
    exact ⟨(State.emitAll_out ..).trans (congrArg (· ++ _) (s.setCmds_out r q)),
      (State.emitAll_mem ..).trans (s.setCmds_mem r q), (State.emitAll_links ..).trans (s.setCmds_links r q),
      fun n hn => (State.emitAll_tok ..).trans (s.tok_setCmds r r q n hn)⟩

theorem State.sendReads_of_none (h : e.work = .none) (s : State) : s.sendReads r p e = s := by
  simp only [State.sendReads, h]

/-- A command that asks no peer sends its reads of the host window. -/
theorem State.sendReads_of_hosts {need : Nat} (h : e.work = .remote need [] [] []) (s : State) : s.sendReads r p e =
    s.emitAll ((e.ctx s r p).hostReads.map (fun a => .hostRead (vfOf p) (a.2.1 - 0x400000000000) a.2.2)) := by
  simp only [State.sendReads, h, List.map_nil, State.sendAll]
  exact State.foldl_eq_emitAll (fun _ _ _ => rfl) s

end

/-! ### The rows of the copy engines -/

/-- A copy-family row sends for the entry that its checks left, unless they failed it. -/
theorem State.issueCopy_of_checked {s t : State} {r : Rgn} {k op : Nat} {codes : Ctx → List Nat} {run : Ctx → Effect}
    {p : Prt} {en y : Entry} (h : CanIssue s r (31 + k) op unitFree Ctx.plainRanges codes p en) {x : EngCheck}
    (ht : (s.issue r (31 + k) op unitFree Ctx.plainRanges codes run).checkBlock r (31 + k) s.ticket x = t)
    (hy : Checked (s.issue r (31 + k) op unitFree Ctx.plainRanges codes run) t r (31 + k) s.ticket y) :
    s.issueCopy r k op codes run x = if y.failed then t else (t.sendOutputs r p y).sendReads r p y := by
  simp only [State.issueCopy, ht, hy.entry, hy.part.trans (State.partOf_issue run h)]

/-- The rows of the copy engines issue their command, which fails in its checks only. -/
theorem exec_copyFamily {r : Rgn} {k : Fin 8} {i : EngCheck → Instr} {op : Nat} {codes : Ctx → List Nat} {run : Ctx → Effect}
    (h : (i, op, codes, run) ∈ [(Instr.copy r k, 0x60, copyCodes, copyEffect), (.copyT r k, 0x61, copyTCodes, copyEffect),
      (.digest r k, 0x62, digestCodes, copyEffect), (.descLoad r k, 0x63, descLoadCodes, descLoadEffect)]) :
    (∀ x s, exec (i x) s = .next (s.issueCopy r k.val op codes run x)) ∧ ∀ c, (run c).failed = false := by
  have hcopy (c : Ctx) : (copyEffect c).failed = false := by
    unfold copyEffect
    split <;> rfl
  simp only [List.mem_cons, Prod.mk.injEq, List.not_mem_nil, or_false] at h
  obtain ⟨rfl, rfl, rfl, rfl⟩ | ⟨rfl, rfl, rfl, rfl⟩ | ⟨rfl, rfl, rfl, rfl⟩ | ⟨rfl, rfl, rfl, rfl⟩ := h
  · exact ⟨fun _ _ => rfl, hcopy⟩
  · exact ⟨fun _ _ => rfl, hcopy⟩
  · exact ⟨fun _ _ => rfl, hcopy⟩
  · exact ⟨fun _ _ => rfl, fun _ => rfl⟩

section
variable {s : State} {r : Rgn} {k op : Nat} {codes : Ctx → List Nat} {run : Ctx → Effect} {p : Prt} {en : Entry}

/-- A copy-family command that its checks leave alone sends what leaves the module. -/
theorem State.issueCopy_clean (h : CanIssue s r (31 + k) op unitFree Ctx.plainRanges codes p en)
    (hfresh : ∀ y ∈ s.regions[r].cmds, y.issued = true → y.ticket ≠ s.ticket)
    (hrun : (run (issueCtx s r p en)).failed = false) :
    s.issueCopy r k op codes run .clean =
      ((s.issue r (31 + k) op unitFree Ctx.plainRanges codes run).sendOutputs r p
        (Sys2Proof.Machine.issuedEntry s r p en Ctx.plainRanges run)).sendReads r p
        (Sys2Proof.Machine.issuedEntry s r p en Ctx.plainRanges run) := by
  rw [State.issueCopy_of_checked h (State.checkBlock_clean ..) (.refl (State.issuedEntry_issue run h hfresh))]
  exact if_neg (by simp [Sys2Proof.Machine.issuedEntry, hrun])

/-- A copy-family command with nothing outside the module sends nothing, whatever its checks find. -/
theorem State.issueCopy_of_local (h : CanIssue s r (31 + k) op unitFree Ctx.plainRanges codes p en)
    (hfresh : ∀ y ∈ s.regions[r].cmds, y.issued = true → y.ticket ≠ s.ticket)
    (hposts : ∀ key bs, Post.bytes key bs ∈ (run (issueCtx s r p en)).posts → isRemote key = false)
    (hwork : (run (issueCtx s r p en)).work = .none) (x : EngCheck) :
    s.issueCopy r k op codes run x =
      (s.issue r (31 + k) op unitFree Ctx.plainRanges codes run).checkBlock r (31 + k) s.ticket x := by
  rcases Checked.of_checkBlock (State.issuedEntry_issue run h hfresh) x with hy | hy
  · rw [State.issueCopy_of_checked h rfl hy, State.sendOutputs_of_local hposts, State.sendReads_of_none hwork, ite_self]
  · exact (State.issueCopy_of_checked h rfl hy).trans (if_pos rfl)

end

/-- Settles O18: the row finds the entry just issued by its fresh ticket; sending follows from its posts and its work. -/
theorem copyCommandsIssue : Obligations.CopyCommandsIssue := by
  unfold Obligations.CopyCommandsIssue
  intro s r k p en i op codes run hrow h hfresh
  obtain ⟨hexec, hrun⟩ := exec_copyFamily hrow
  have hissued := State.issued_of_canIssue run h
  have hclean := (hexec .clean s).trans (congrArg Host.Outcome.next (State.issueCopy_clean h hfresh (hrun _)))
  refine ⟨?sends, fun hposts => ⟨fun hwork x => ?inside, fun need hwork => ?hostInput⟩, fun hwork hshadow hpeer => ?hostOutput,
    fun ok hfails => ?failed⟩
  case sends => rw [hclean, State.issue_of_canIssue run h]
  case inside =>
    refine issuesThen_of_canIssue ?_ h
    rw [hexec, State.issueCopy_of_local h hfresh hposts hwork]
  case hostInput =>
    refine ⟨_, hclean, ?_⟩
    rw [State.sendOutputs_of_local hposts, State.sendReads_of_hosts hwork]
    exact ⟨hissued.queue, congrArg (· ++ _) hissued.out, hissued.mem, hissued.links⟩
  case hostOutput =>
    refine ⟨_, hclean, ?_⟩
    rw [State.sendReads_of_none hwork]
    obtain ⟨hout, hmem, hlinks, htok⟩ := State.sendOutputs_leaves (r := r) (p := p)
      (e := issuedEntry s r p en Ctx.plainRanges run) hshadow hpeer
      (s.issue r (31 + k.val) op unitFree Ctx.plainRanges codes run)
    refine ⟨hout.trans ((congrArg (· ++ _) hissued.out).trans (congrArg (s.out ++ ·) ?_)), hmem.trans hissued.mem, hlinks.trans hissued.links,
      fun n hn => (htok n hn).trans (hissued.tokens n hn)⟩
    refine congrArg (List.filterMap · _) (funext fun q => ?_)
    cases q with
    | bytes key bs => exact Post.hostWrite_bytes p key bs
    | _ => rfl
  case failed =>
    have hy := Checked.of_checkBlock_sram (State.issuedEntry_issue run h hfresh) hfails
    refine ⟨_, hexec _ s, ?_⟩
    rw [State.issueCopy_of_checked h rfl hy]
    obtain ⟨hmem, heng, hiss⟩ := State.issuedEntry_spec hy.entry
    exact ⟨⟨_, hmem, heng, rfl, hiss, rfl, rfl⟩, hy.out.trans hissued.out, hy.mem.trans hissued.mem,
      hy.links.trans hissued.links⟩

end Sys2Proof.Machine
end

section
/-!
The refutation of O19. A field of a state is a number that no invariant keeps below its width, and the statement quantifies
over every state: where the one-bit SE_BUF1.DRAIN_PEND holds 2, a drain is under way (R215), and a further SE_DRAIN that is
not its last leaves the field as it is, not 1.
-/
namespace Sys2Proof.Machine

/-- An SE_DRAIN of engine 39 that waits: granule 0 of pair 0. -/
def drainOfOneGranule : Entry :=
  let noWait : WaitEntry := { token := 0, count := 0, consume := false }
  let c : Cmd :=
    { opcode := 0x74, engine := 39, shadow := false, rsv15 := false, sigToken := 0, sigAdd := 0, rsv28 := 0, d0 := 0, d1 := 0,
      d2 := 0, wait0 := noWait, wait1 := noWait, wait2 := noWait, wait3 := noWait, rsv84 := 0, word4 := 0, word5 := 0,
      word6 := 1, word7 := 0 }
  { cmd := c, slot := 0, ord := 0, step := 0, seed := 0, beta := 0, issued := false, consumed := false, ticket := 0,
    descs := [], ins := [], outs := [], posts := [], work := .none, needs := [], failed := false, cause := 0, twin := none }

/-- Partition 0 runs a job with tag 7 in region 0, which owns the first GiB of stack 0 and the two granules of pair 0 there;
a target is configured, and the drain is the head of its queue. -/
def drainReady : State :=
  let s := ((State.reset.put PROC_PART_CFG.REGIONS 1 0).put PROC_PART_CFG.JOB_TAG 7 0).put PROC_PART_CFG.STATE psRunning 0
  let s := (((s.put HUB_OWN.KIND 3 0).put HUB_OWN.TAG 7 0).put RGN_SEC_TGT.STATE 1 0 0).put RGN_SEC_TGT.ADDR 1 0 0
  (s.put SE_BUF0.GRANULES 2 0 0).modRegion 0 (fun g => { g with cmds := [drainOfOneGranule] })

/-- The same with 2 in DRAIN_PEND of pair 0, a value that `State.put` would have cut to the field's one bit. -/
def drainPendOfTwo : State :=
  { drainReady with regs := kset drainReady.regs (SE_BUF1.DRAIN_PEND.key 0 0 0) 2 }

theorem drainPendOfTwo_canIssue : CanIssue drainPendOfTwo (stackRegion 0) (seEng 0) 0x74 (seReady 0) drainRanges drainCodes 0
    drainOfOneGranule where
  part := by decide +kernel
  head := by decide +kernel
  runs := by decide +kernel
  opcode := by decide +kernel
  accepts := by decide +kernel
  power := by decide +kernel
  holds := by decide +kernel
  waits := .inr (by decide +kernel)
  passes := .inr (by decide +kernel)
  sound := by decide +kernel

theorem seDrain_leaves_drainPend_two : ∃ t, exec (.seDrain 0 .clean) drainPendOfTwo = .next t ∧
    t.get SE_BUF1.DRAIN_PEND 0 (drPair drainOfOneGranule.cmd) = 2 := by
  refine ⟨_, rfl, ?_⟩
  decide +kernel

/-- Refutes O19: a drain that is not the last of its pair does not write DRAIN_PEND where the field is not 0, so a state
whose field holds 2 still reads 2 after the commit, where the statement says 1. -/
theorem not_stackAndDrainCommandsIssue : ¬ Obligations.StackAndDrainCommandsIssue := by
  unfold Obligations.StackAndDrainCommandsIssue
  rintro ⟨-, hdrain⟩
  obtain ⟨hsilent, -, -⟩ := hdrain drainPendOfTwo 0 0 drainOfOneGranule drainPendOfTwo_canIssue (by decide +kernel)
  obtain ⟨hcommits, -⟩ := hsilent (by decide +kernel) (by decide +kernel) rfl (by decide +kernel) (by decide +kernel)
  obtain ⟨t, ht, -, -, hpend, -⟩ := hcommits (by decide +kernel)
  obtain ⟨u, hu, htwo⟩ := seDrain_leaves_drainPend_two
  obtain rfl : u = t := Host.Outcome.next.inj (hu.symm.trans ht)
  have notLast : ¬ drainPendOfTwo.get SE_BUF0.GRANULES 0 (drPair drainOfOneGranule.cmd) ≤
      drainOfOneGranule.cmd.w5 + drainOfOneGranule.cmd.w6 := by decide +kernel
  have hone := hpend.trans (if_neg notLast)
  exact absurd (htwo.symm.trans hone) (by decide)

end Sys2Proof.Machine
end

section
/-!
The settlement of O60. R78 rounds a magnitude up when F + u reaches 2^32, with F the discarded fraction and u a draw of
32 bits, so that a value without a fraction is never changed. `Rnd.sr` holds any natural number, and the last clause of the
statement, unlike its second, does not bound the draw: from 2^32 on the draw alone rounds up.
-/
namespace Sys2Proof.Machine

/-- Stochastic rounding keeps a zero exactly under the draws that R80 makes, those below 2^32. -/
theorem roundTo_sr_zero {e q : Int} (hq : e < q) (u : Nat) : roundTo (.sr u) 0 e q = if 2 ^ 32 ≤ u then 1 else 0 := by
  simp only [roundTo, if_neg (Int.not_le.mpr hq), Nat.zero_mod, Nat.zero_mul, Nat.zero_div, Nat.zero_add]

/-- The +0 of FP32 lies, under the scale byte 0x00, below the quantum of INT8, so its code is what the draw makes of it. -/
theorem encodeScaled_int8_zero (u : Nat) :
    encodeScaled 0x89 0 (.sr u) (decodeNum fmtFP32 0) = (if 2 ^ 32 ≤ u then 1 else 0, false) := by
  have int8 : format 0x89 = (8, .int) := rfl
  have value : (decodeNum fmtFP32 0).scale (127 - (0 : Nat)) = .fin false 0 (-22) := by decide
  rw [encodeScaled, if_neg (by decide), value, encodeNum, int8]
  simp only [encodeKind, roundTo_sr_zero (show (-22 : Int) < 0 by decide)]
  split <;> rfl

/-- Refutes O60: its last clause takes every draw. In a block of the one element +0 of FP32, written as block-scaled INT8
with the draw 2^32, which no generator word holds, the element gets the code 1 and reads back as one. -/
theorem not_formatsAndBlockScales : ¬ Obligations.FormatsAndBlockScales := by
  unfold Obligations.FormatsAndBlockScales
  rintro ⟨-, hblock⟩
  obtain ⟨-, -, -, hzeros⟩ := hblock 0x89 [decodeNum fmtFP32 0] _ (by decide) (by decide) rfl
  obtain ⟨-, helements⟩ := hzeros (by decide)
  have hzero := helements _ List.mem_cons_self (.sr (2 ^ 32))
  rw [encodeScaled_int8_zero, if_pos (Nat.le_refl _)] at hzero
  exact absurd hzero (by decide)

end Sys2Proof.Machine
end

section
/-!
The settlement of O59. Laws/Kept.lean says of every operation of the model what it keeps; every row of the dispatcher is one
such operation, or a short run of them.
-/
namespace Sys2Proof.Machine

/-- SE_DRAIN keeps what its issue, the start of its drain and its commit keep. -/
theorem Kept.seDrain {s : State} (h : Kept s s) (k : Stk) (x : EngCheck) :
    ∃ t, exec (.seDrain k x) s = .next t ∧ Kept s t := by
  refine ⟨_, rfl, ?_⟩
  have issued := (h.issue (stackRegion k) (seEng k) 0x74 (seReady k) drainRanges drainCodes drainEffect).checkStack k
    (seEng k) s.ticket x
  dsimp only
  split
  · exact .ite (.ite issued (issued.startDrain ..)) ((Kept.ite issued (issued.startDrain ..)).commitNow ..)
  · exact issued

/-- Every row of the table answers a next state that keeps what `Kept` says. -/
theorem exec_completes_kept (i : Instr) (s : State) : Completes i s (Kept s) :=
  have h := Kept.refl s
  match i with
  | .bell .. => ⟨_, rfl, h.bell ..⟩
  | .bellFire .. => ⟨_, rfl, h.bellFire ..⟩
  | .samplePoint => ⟨_, rfl, h.samplePoint⟩
  | .report .. => ⟨_, rfl, h.report ..⟩
  | .bellSend => ⟨_, rfl, h.bellSend⟩
  | .overrunWarning => ⟨_, rfl, h.overrunWarning⟩
  | .stall .. => ⟨_, rfl, h.stall ..⟩
  | .substituteBell .. => ⟨_, rfl, h.substituteBell ..⟩
  | .missedBellTimeout => ⟨_, rfl, h.missedBell⟩
  | .localTick => ⟨_, rfl, h.localTick⟩
  | .hubBellPeriodWrite .. => ⟨_, rfl, h.periodWrite ..⟩
  | .ownReq .. => ⟨_, rfl, h.ownReq ..⟩
  | .hostOk .. => ⟨_, rfl, h.hostOk ..⟩
  | .zeroFillComplete .. => ⟨_, rfl, h.fillComplete ..⟩
  | .cxlMemRead .. | .cxlMemWrite .. => ⟨_, rfl, h.cxlAccess ..⟩
  | .go .. => ⟨_, rfl, h.go ..⟩
  | .dispatch .. => ⟨_, rfl, h.dispatch ..⟩
  | .nop .. => ⟨_, rfl, h.doNop ..⟩
  | .li .. => ⟨_, rfl, h.doLi ..⟩
  | .lih .. => ⟨_, rfl, h.doLih ..⟩
  | .addi .. => ⟨_, rfl, h.doAddi ..⟩
  | .shli .. => ⟨_, rfl, h.doShli ..⟩
  | .shri .. => ⟨_, rfl, h.doShri ..⟩
  | .add .. => ⟨_, rfl, h.doAdd ..⟩
  | .sub .. => ⟨_, rfl, h.doSub ..⟩
  | .mul .. => ⟨_, rfl, h.doMul ..⟩
  | .and .. => ⟨_, rfl, h.doAnd ..⟩
  | .or .. => ⟨_, rfl, h.doOr ..⟩
  | .xor .. => ⟨_, rfl, h.doXor ..⟩
  | .slt .. => ⟨_, rfl, h.doSlt ..⟩
  | .beq .. => ⟨_, rfl, h.doBeq ..⟩
  | .bne .. => ⟨_, rfl, h.doBne ..⟩
  | .blt .. => ⟨_, rfl, h.doBlt ..⟩
  | .loop .. => ⟨_, rfl, h.doLoop ..⟩
  | .jmp .. => ⟨_, rfl, h.doJmp ..⟩
  | .bflag .. => ⟨_, rfl, h.doBflag ..⟩
  | .bnflag .. => ⟨_, rfl, h.doBnflag ..⟩
  | .cmdw .. => ⟨_, rfl, h.doCmdw ..⟩
  | .rdtok .. => ⟨_, rfl, h.doRdtok ..⟩
  | .rdstat .. => ⟨_, rfl, h.doRdstat ..⟩
  | .matmul .. | .accOut .. => ⟨_, rfl, (h.issue ..).checkEngine ..⟩
  | .accClear .. | .seFlip .. => ⟨_, rfl, h.issue ..⟩
  | .attFwd .. | .attBwd .. => ⟨_, rfl, (h.issue ..).checkPair ..⟩
  | .convDirect .. | .convFft .. | .conv4step .. | .vocGather .. | .vocXent ..
    | .vocScatter .. => ⟨_, rfl, (h.issue ..).checkUnit ..⟩
  | .pwMap .. | .pwNorm .. | .pwDropout .. | .pwMask .. | .pwReduce ..
    | .pwConvert .. => ⟨_, rfl, (h.issue ..).checkBlock ..⟩
  | .copy .. | .copyT .. | .digest .. | .descLoad .. => ⟨_, rfl, h.issueCopy ..⟩
  | .seUpdate .. | .seAccum .. | .seAppend .. | .seScatterAdd .. | .seFill .. => ⟨_, rfl, (h.issue ..).checkStack ..⟩
  | .seDrain .. => h.seDrain ..
  | .lcReduceScatter .. | .lcGather .. | .lcGatherHier .. | .lcAllToAll .. | .lcAddFwd .. | .lcSend ..
    | .lcRecv .. => ⟨_, rfl, h.issueColl ..⟩
  | .bellWait .. => ⟨_, rfl, h.doBellWait ..⟩
  | .setStep .. => ⟨_, rfl, h.doSetStep ..⟩
  | .clearPoison .. => ⟨_, rfl, h.doClearPoison ..⟩
  | .endCmd .. => ⟨_, rfl, h.doEnd ..⟩
  | .tokSet .. => ⟨_, rfl, h.doTokSet ..⟩
  | .tokRemote .. => ⟨_, rfl, h.doTokRemote ..⟩
  | .fence .. => ⟨_, rfl, h.doFence ..⟩
  | .phase .. => ⟨_, rfl, h.doPhase ..⟩
  | .milestone .. => ⟨_, rfl, h.doMilestone ..⟩
  | .commandCommit .. => ⟨_, rfl, h.commit ..⟩
  | .shadowCompare .. => ⟨_, rfl, h.shadowCompare ..⟩
  | .patrol .. => ⟨_, rfl, h.patrol ..⟩
  | .linkTraining .. => ⟨_, rfl, h.linkTraining ..⟩
  | .trainingRetry .. => ⟨_, rfl, h.trainingRetry ..⟩
  | .timingProbe .. => ⟨_, rfl, h.timingProbe ..⟩
  | .probeEcho .. => ⟨_, rfl, h.echoAndGreet ..⟩
  | .sequencedFlit .. => ⟨_, rfl, h.sequencedFlit ..⟩
  | .nak .. => ⟨_, rfl, h.nak ..⟩
  | .replayTimeout .. => ⟨_, rfl, h.replayTimeout ..⟩
  | .idle .. => ⟨_, rfl, h.idle ..⟩
  | .laneFail .. => ⟨_, rfl, h.laneFail ..⟩
  | .linkWiden .. => ⟨_, rfl, h.linkWiden ..⟩
  | .error .. => ⟨_, rfl, h.started _ _ fun _ k => .ite (k.errorFrame _) k⟩
  | .switch .. => ⟨_, rfl, h.put ..⟩
  | .hello .. => ⟨_, rfl, h.hello ..⟩
  | .claim .. => ⟨_, rfl, h.claim ..⟩
  | .bind .. => ⟨_, rfl, h.bindFrame ..⟩
  | .probe .. => ⟨_, rfl, h.probeFrame ..⟩
  | .ready .. => ⟨_, rfl, h.readyFrame ..⟩
  | .start .. => ⟨_, rfl, h.startFrame ..⟩
  | .becomeMaster => ⟨_, rfl, h.becomeMaster⟩
  | .quietCompletion => ⟨_, rfl, h.quietCompletion⟩
  | .bellZero => ⟨_, rfl, h.bellZero⟩
  | .frameRepeat .. => ⟨_, rfl, h.frameRepeat ..⟩
  | .timeout => ⟨_, rfl, h.rollTimeout⟩
  | .fabricOfOne => ⟨_, rfl, h.fabricOfOne⟩
  | .collective .. => ⟨_, rfl, h.started _ _ fun _ k => k.collArrive ..⟩
  | .done .. => ⟨_, rfl, h.started _ _ fun _ k => .ite (k.collArrive ..) k⟩
  | .write .. | .readReq .. => ⟨_, rfl, h.started _ _ fun _ k => .ite (k.peerRequest ..) k⟩
  | .readResp .. => ⟨_, rfl, h.started _ _ fun _ k => .ite (k.readResp _) k⟩
  | .load .. => ⟨_, rfl, h.load ..⟩
  | .dbgLock .. => ⟨_, rfl, h.dbgLock ..⟩
  | .procPartTeardown .. => ⟨_, rfl, h.procTeardown ..⟩
  | .procPreemptReq .. => ⟨_, rfl, h.preemptReq ..⟩
  | .procPreemptResume .. => ⟨_, rfl, h.resume ..⟩
  | .saveComplete .. => ⟨_, rfl, h.saveComplete ..⟩
  | .restoreComplete .. => ⟨_, rfl, h.restoreComplete ..⟩
  | .preemptTimeout .. => ⟨_, rfl, h.preemptTimeout ..⟩
  | .contextTeardown .. => ⟨_, rfl, h.contextTeardown ..⟩
  | .teardownEnd .. => ⟨_, rfl, h.endTeardown ..⟩
  | .regionIsolation .. => ⟨_, rfl, h.isolateRegion ..⟩
  | .teardownNotice .. => ⟨_, rfl, h.teardownNotice ..⟩
  | .arm .. => ⟨_, rfl, h.armBatch ..⟩
  | .flr .. => ⟨_, rfl, h.flr ..⟩
  | .begin .. => ⟨_, rfl, h.drainRow _ _ _ fun _ k => k.storeBegin ..⟩
  | .data .. => ⟨_, rfl, h.drainRow _ _ _ fun _ k => k.storeData ..⟩
  | .digestFrame .. => ⟨_, rfl, h.drainRow _ _ _ fun _ k => k.digestFrame ..⟩
  | .endFrame .. => ⟨_, rfl, h.drainRow _ _ _ fun _ k => k.storeEnd ..⟩
  | .commit .. => ⟨_, rfl, h.drainRow _ _ _ fun _ k => k.drainCommit ..⟩
  | .reject .. => ⟨_, rfl, h.drainRow _ _ _ fun _ k => k.drainReject ..⟩
  | .pairRequest .. => ⟨_, rfl, h.pairRequest ..⟩
  | .pair .. => ⟨_, rfl, h.drainRow _ _ _ fun _ k => k.pair ..⟩
  | .pairAck .. => ⟨_, rfl, h.drainRow _ _ _ fun _ k => k.pairAck ..⟩
  | .pairTimeout .. => ⟨_, rfl, h.pairTimeout ..⟩
  | .restoreReq .. => ⟨_, rfl, h.drainRow _ _ _ fun _ k => k.restoreReq ..⟩
  | .restoreData .. => ⟨_, rfl, h.drainRow _ _ _ fun _ k => k.restoreData ..⟩
  | .positionFailed .. => ⟨_, rfl, h.positionFailed ..⟩
  | .graft .. => ⟨_, rfl, h.graft ..⟩
  | .graftGo => ⟨_, rfl, h.graftGo⟩
  | .hardenReq => ⟨_, rfl, h.hardenReq⟩
  | .unitAdmit => ⟨_, rfl, h.unitAdmit⟩
  | .hardenRetry .. => ⟨_, rfl, h.hardenRetry ..⟩
  | .intervalUpdate .. => ⟨_, rfl, h.intervalUpdate ..⟩
  | .completion .. => ⟨_, rfl, h.completion ..⟩
  | .identifyMemoryDevice | .getPartitionInfo | .getEventRecords | .getSupportedLogs | .getLog .. | .getPoisonList
    | .getTimestamp | .unsupportedMailboxCommand .. => ⟨_, rfl, h.emit _⟩
  | .getHealthInfo => ⟨_, rfl, h.nextTicket.emit _⟩
  | .clearEventRecords | .setTimestamp .. => ⟨_, rfl, (h.modHub _).emit _⟩
  | .assemblyWrite .. => ⟨_, rfl, h.assemblyWrite ..⟩
  | .post .. => ⟨_, rfl, h.phPost ..⟩
  | .phTimeout .. => ⟨_, rfl, h.phTimeout ..⟩
  | .fabricPost => ⟨_, rfl, h.fabricPost⟩
  | .phPost .. => ⟨_, rfl, h.started _ _ fun _ k => k.phPostIn ..⟩
  | .phAck .. => ⟨_, rfl, h.started _ _ fun _ k => k.phAck ..⟩
  | .fabricPostTimeout => ⟨_, rfl, h.fabricPostTimeout⟩
  | .loadJob .. => ⟨_, rfl, h.reqLoadJob ..⟩
  | .preempt .. => ⟨_, rfl, h.reqPreempt ..⟩
  | .resume .. => ⟨_, rfl, h.reqResume ..⟩
  | .teardown .. => ⟨_, rfl, h.reqTeardown ..⟩
  | .lend .. => ⟨_, rfl, h.reqLend ..⟩
  | .reclaim .. => ⟨_, rfl, h.reqReclaim ..⟩
  | .setK .. => ⟨_, rfl, h.reqSetK ..⟩
  | .dormant .. => ⟨_, rfl, h.reqDormant ..⟩
  | .mctpRequest .. => ⟨_, rfl, h.mctp ..⟩
  | .pldmUpdate .. => ⟨_, rfl, h.pldmUpdate ..⟩
  | .activateFirmware => ⟨_, rfl, h.activate⟩
  | .trialCommit => ⟨_, rfl, h.trialCommit⟩
  | .trialFail => ⟨_, rfl, h.trialFail⟩
  | .subInterval .. => ⟨_, rfl, h.subInterval ..⟩
  | .allotmentReached .. => ⟨_, rfl, h.allotmentReached ..⟩
  | .dip .. => ⟨_, rfl, h.dip ..⟩
  | .dipRecovery .. => ⟨_, rfl, h.dipRecovery ..⟩
  | .thermalTrip .. => ⟨_, rfl, h.thermalTrip ..⟩
  | .coldReset => ⟨_, rfl, h.coldReset⟩
  | .moduleReset .. => ⟨_, rfl, h.moduleReset ..⟩
  | .warmReset => ⟨_, rfl, h.warmReset⟩
  | .regionReset .. => ⟨_, rfl, h.regionReset ..⟩
  | .hubResetModule .. => ⟨_, rfl, .ite (h.moduleReset _) h.badAccess⟩
  | .hubResetRegion .. => ⟨_, rfl, .ite (h.regionReset _) h.badAccess⟩
  | .bootRom => ⟨_, rfl, h.bootRom⟩
  | .pwrEnAssert .. => ⟨_, rfl, h.pwrEnAssert ..⟩
  | .pwrEnDeassert => ⟨_, rfl, h.pwrEnDeassert⟩
  | .stackTraining .. => ⟨_, rfl, h.stackTraining ..⟩
  | .dormancyEntered => ⟨_, rfl, h.dormancyEntered⟩
  | .wake .. => ⟨_, rfl, h.wake ..⟩
  | .strapSample .. => ⟨_, rfl, h.strapSample ..⟩
  | .spiOwnNFall | .spiOwnNRise | .pciePerstNRelease => ⟨_, rfl, h.modHub _⟩
  | .jtagInstruction .. => ⟨_, rfl, h.jtag ..⟩
  | .readClear .. => ⟨_, rfl, h.readReg ..⟩
  | .registerWrite .. => ⟨_, rfl, h.writeReg ..⟩
  | .idleFlit .. => ⟨_, rfl, h.idleFlit ..⟩
  | .standbyPowerLoss => ⟨_, rfl, h.standbyLoss⟩
  | .icholt .. => ⟨_, rfl, h.icholtMessage ..⟩

/-- A step keeps, from the state without the front command on, what `Kept` says. -/
theorem kept_of_step {s t : State} (hstep : step s = .next t) : Kept { s with pending := s.pending.tail } t := by
  unfold step at hstep
  split at hstep
  case h_1 c rest hpending =>
    obtain ⟨u, hu, kept⟩ := exec_completes_kept c { s with pending := rest }
    obtain rfl : u = t := Host.Outcome.next.inj (hu.symm.trans hstep)
    rwa [hpending]
  case h_2 hpending =>
    obtain rfl : s.tick = t := Host.Outcome.next.inj hstep
    have kept := (Kept.refl s).tick
    exact ⟨kept.queue.trans (by rw [hpending]; rfl), kept.ticket, kept.sent, kept.form⟩

/-- Settles O59: row by row of the dispatcher; a step is the row of the front command or the tick. -/
theorem everyCommandKeeps : Obligations.EveryCommandKeeps := by
  unfold Obligations.EveryCommandKeeps
  refine ⟨exec_completes_kept, fun s => (Kept.refl s).tick, fun s t hstep => ?_⟩
  obtain ⟨queue, ticket, sent, form⟩ := kept_of_step hstep
  exact ⟨queue, ticket, sent, form⟩

end Sys2Proof.Machine
end

section
/-!
The settlement of O32. A request for a unit writes one field at the index of each of its entries; the end of a zero fill
writes memory and the list of fills, and the field FILLING of the unit when no fill of it is left.
-/
namespace Sys2Proof.Machine

/-! ### One register field written at several indices -/

/-- A field after the same write at several indices below 65,536: written at those, as before at every other one. -/
theorem State.get_foldl_put_index (f : Fld) (v : Nat) {e : Nat} (he : e < 65536) (l : List Nat) (s : State)
    (hl : ∀ x ∈ l, x < 65536) :
    (l.foldl (fun s x => s.put f v x) s).get f e = if e ∈ l then v % 2 ^ f.width else s.get f e := by
  induction l generalizing s with
  | nil => rfl
  | cons x l ih =>
    have hx : x < 65536 := hl x List.mem_cons_self
    rw [List.foldl_cons, ih _ fun y hy => hl y (List.mem_cons_of_mem x hy)]
    by_cases hmem : e ∈ l
    · rw [if_pos hmem, if_pos (List.mem_cons_of_mem x hmem)]
    by_cases hex : e = x
    · subst hex
      rw [if_neg hmem, if_pos List.mem_cons_self, State.get_put_self]
    · rw [if_neg hmem, if_neg (by simp [hex, hmem])]
      exact State.get_put_ne _ _ _ _ _ _ _ _ _ _
        (Fld.key_ne_ix _ _ _ _ _ _ _ hx (by decide) (by decide) he (by decide) (by decide) (.inl hex))

theorem SameRegs.foldl_put_index (f : Fld) (v : Nat) (l : List Nat) (s : State) (hl : ∀ x ∈ l, x < 65536) :
    SameRegs s (l.foldl (fun s x => s.put f v x) s) [f] := by
  induction l generalizing s with
  | nil => exact .refl s _
  | cons x l ih =>
    exact (SameRegs.put s f v (hl x List.mem_cons_self) (by decide) (by decide)).trans
      (ih _ fun y hy => hl y (List.mem_cons_of_mem x hy))

/-! ### The unit of a granule (R108) -/

theorem State.ownUnit_lt (s : State) (g : Fin 1536) : ∀ e ∈ s.ownUnit g.val, e < 65536 := by
  have hg := g.isLt
  intro e he
  unfold State.ownUnit at he
  dsimp only at he
  split at he
  · obtain ⟨i, hi, rfl⟩ := List.mem_map.1 he
    have := List.mem_range.1 hi
    omega
  · obtain rfl := List.mem_singleton.1 he
    omega

/-- A one-bit field set at every entry of a unit reads 1 there, and no other register field changes. -/
theorem State.put_ownUnit (s : State) (g : Fin 1536) {f : Fld} (hf : f.width = 1) :
    (∀ e ∈ s.ownUnit g.val, ((s.ownUnit g.val).foldl (fun s x => s.put f 1 x) s).get f e = 1) ∧
      SameRegs s ((s.ownUnit g.val).foldl (fun s x => s.put f 1 x) s) [f] ∧
      OnlyRegs s ((s.ownUnit g.val).foldl (fun s x => s.put f 1 x) s) := by
  have hlt := s.ownUnit_lt g
  refine ⟨fun e he => ?_, .foldl_put_index _ _ _ _ hlt, .foldl (fun s _ => .put s ..) _ _⟩
  have hone : 1 % 2 ^ f.width = 1 := congrArg (1 % 2 ^ ·) hf
  exact (State.get_foldl_put_index f 1 (hlt e he) _ _ hlt).trans ((if_pos he).trans hone)

/-! ### The end of a zero fill (R108, R110) -/

/-- A granule zeroed and its fill noted as complete; what it does to its unit is left. -/
def State.noteFilled (s : State) (g : Nat) : State :=
  (s.zeroFill (g * 2 ^ 30) ((g + 1) * 2 ^ 30)).modHub (fun h => { h with
    fills := h.fills.map (fun f => if f.granule = g then { f with filled := true } else f) })

theorem State.fillComplete_of_running {s : State} {g : Nat} (h : ∃ f ∈ s.hub.fills, f.granule = g ∧ f.filled = false) :
    s.fillComplete g = if (s.noteFilled g).unitFilled g then
      (s.ownUnit g).foldl (fun s e => s.put HUB_OWN.FILLING 0 e) (s.noteFilled g) else s.noteFilled g := by
  have hany : s.hub.fills.any (fun f => f.granule == g && !f.filled) = true := by
    simpa [List.any_eq_true] using h
  exact if_pos hany

theorem State.fillComplete_of_idle {s : State} {g : Nat} (h : ∀ f ∈ s.hub.fills, f.granule = g → f.filled = true) :
    s.fillComplete g = s := by
  have hany : ¬ s.hub.fills.any (fun f => f.granule == g && !f.filled) = true := by
    simpa [List.any_eq_true] using h
  exact if_neg hany

/-- Once the fill of one granule is noted, the unit is filled when its other fills are. -/
theorem State.unitFilled_noteFilled (s : State) (g : Nat) : (s.noteFilled g).unitFilled g = true ↔
    ∀ f ∈ s.hub.fills, f.granule ≠ g → f.granule ∈ s.ownUnit g → f.filled = true := by
  simp only [State.unitFilled, State.noteFilled, State.modHub_hub, State.zeroFill_hub, List.all_map, List.all_eq_true]
  refine forall₂_congr fun f _ => ?_
  by_cases hg : f.granule = g
  · simp [hg]
  · simp only [Function.comp_apply, if_neg hg, Bool.or_eq_true, Bool.not_eq_true', List.contains_eq_mem,
      decide_eq_false_iff_not]
    exact ⟨fun h _ hu => h.resolve_right (fun hn => hn hu),
      fun h => (Decidable.em (f.granule ∈ s.ownUnit g)).elim (fun hu => .inl (h hg hu)) .inr⟩

theorem State.read_noteFilled (s : State) (g a : Nat) : (s.noteFilled g).mem.read a =
    if g * 2 ^ 30 ≤ a ∧ a < (g + 1) * 2 ^ 30 then 0 else s.mem.read a := by
  change (s.mem.zero (g * 2 ^ 30) ((g + 1) * 2 ^ 30)).read a = _
  split
  case isTrue h => exact Memory.read_zero_in _ _ _ _ h
  case isFalse h => exact Memory.read_layer_ne _ _ _ _ _ (by omega)

/-- What the end of a zero fill writes beside memory and the list of fills is FILLING of the unit. -/
theorem State.onlyRegs_fillComplete {s : State} {g : Nat} (h : ∃ f ∈ s.hub.fills, f.granule = g ∧ f.filled = false) :
    OnlyRegs (s.noteFilled g) (s.fillComplete g) := by
  rw [State.fillComplete_of_running h]
  exact .ite (.foldl (fun s _ => .put s ..) _ _) (.refl _)

/-- Settles O32: each request is one field written over the unit; a fill that ends clears FILLING when it is the last. -/
theorem ownershipRequests : Obligations.OwnershipRequests := by
  unfold Obligations.OwnershipRequests
  refine ⟨fun s g => ⟨_, rfl, s.put_ownUnit g rfl⟩, fun s g => ⟨_, rfl, s.put_ownUnit g rfl⟩,
    fun s g a ha => congrArg Host.Outcome.next (if_neg ha), fun s g => ⟨fun hrun => ⟨_, rfl, ?_⟩, fun hidle => ?_⟩⟩
  case refine_1 =>
    have honly := State.onlyRegs_fillComplete hrun
    refine ⟨fun a => by rw [honly.mem, State.read_noteFilled], honly.regions, honly.out, fun hlast => ?last, ?others⟩
    case last =>
      have hlt := s.ownUnit_lt g
      rw [State.fillComplete_of_running hrun, if_pos ((s.unitFilled_noteFilled g).2 hlast)]
      refine ⟨fun e he => ?_, SameRegs.foldl_put_index HUB_OWN.FILLING 0 _ _ hlt⟩
      rw [State.get_foldl_put_index _ _ (hlt e he) _ _ hlt, if_pos he, Nat.zero_mod]
    case others =>
      rintro ⟨f, hf, hne, hunit, hfilled⟩
      have hleft : ¬ (s.noteFilled g).unitFilled g = true := fun hall => by
        simp [(s.unitFilled_noteFilled g).1 hall f hf hne hunit] at hfilled
      rw [State.fillComplete_of_running hrun, if_neg hleft]
      rfl
  case refine_2 => exact congrArg Host.Outcome.next (State.fillComplete_of_idle hidle)

end Sys2Proof.Machine
end

section
/-!
The settlement of O33. A CXL.mem access is served line by line (Table 12.1); every line is served at once, refused, or waits
behind those of its class. The lines of a longer access are its first line and those of the rest, and pumping lines one after
the other is pumping them together, since no line looks at the list of those that wait except for their classes.
-/
namespace Sys2Proof.Machine

/-! ### The lines of an access (Table 12.1) -/

/-- An access within one 256-byte line is its one line. -/
theorem cxlLines_of_line {dpa n : Nat} (hn : 0 < n) (hline : dpa / 256 = (dpa + n - 1) / 256) {data : Option (List Byte)}
    (hdata : ∀ bs ∈ data, bs.length = n) : cxlLines dpa n data = [(dpa, n, data)] := by
  have hcount : (if n = 0 then 0 else (dpa + n - 1) / 256 - dpa / 256 + 1) = 1 := by
    rw [if_neg (by omega)]
    omega
  have hlo : max dpa (dpa / 256 * 256) = dpa := by omega
  have hhi : min (dpa + n) ((dpa / 256 + 1) * 256) = dpa + n := by omega
  have hwhole : data.map (fun bs => (bs.drop 0).take n) = data := by
    cases data with
    | none => rfl
    | some bs => rw [Option.map_some, List.drop_zero, ← hdata bs rfl, List.take_length]
  simp only [cxlLines, hcount, List.range_one, List.map_cons, List.map_nil, Nat.add_zero, hlo, hhi, Nat.sub_self,
    Nat.add_sub_cancel_left, hwhole]

/-- A longer access is its first line and the lines of the rest. -/
theorem cxlLines_split {dpa n : Nat} (hk : 256 - dpa % 256 < n) (data : Option (List Byte)) :
    cxlLines dpa n data = (dpa, 256 - dpa % 256, data.map (·.take (256 - dpa % 256))) ::
      cxlLines (dpa + (256 - dpa % 256)) (n - (256 - dpa % 256)) (data.map (·.drop (256 - dpa % 256))) := by
  generalize hkdef : 256 - dpa % 256 = k at hk ⊢
  have hnext : (dpa + k) / 256 = dpa / 256 + 1 := by omega
  have hcount : (if n = 0 then 0 else (dpa + n - 1) / 256 - dpa / 256 + 1) =
      (if n - k = 0 then 0 else (dpa + k + (n - k) - 1) / 256 - (dpa + k) / 256 + 1) + 1 := by
    rw [if_neg (by omega), if_neg (by omega)]
    omega
  simp only [cxlLines, hcount, List.range_succ_eq_map, List.map_cons, List.map_map]
  refine List.cons_eq_cons.2 ⟨?first, List.map_congr_left fun i _ => ?rest⟩
  case first =>
    have hlo : max dpa ((dpa / 256 + 0) * 256) = dpa := by omega
    have hhi : min (dpa + n) ((dpa / 256 + 0 + 1) * 256) = dpa + k := by omega
    simp only [hlo, hhi, Nat.sub_self, Nat.add_sub_cancel_left, List.drop_zero]
  case rest =>
    have hlo : max dpa ((dpa / 256 + i.succ) * 256) = max (dpa + k) (((dpa + k) / 256 + i) * 256) := by omega
    have hhi : min (dpa + n) ((dpa / 256 + i.succ + 1) * 256) =
        min (dpa + k + (n - k)) (((dpa + k) / 256 + i + 1) * 256) := by omega
    have hdrop : k + (max (dpa + k) (((dpa + k) / 256 + i) * 256) - (dpa + k)) =
        max (dpa + k) (((dpa + k) / 256 + i) * 256) - dpa := by omega
    simp only [Function.comp_apply, hlo, hhi, Option.map_map, Function.comp_def, List.drop_drop, hdrop]

/-! ### One line -/

/-- A line of the host: its DPA, its length, the data of a write. -/
abbrev CxlLine := Nat × Nat × Option (List Byte)

/-- The class of a line: its number among the hedges of the host (R289). -/
def cxlClass (q : CxlLine) : Nat := 64 + q.1 / 0x6000000000

/-- A line passes its hedge: one unit is used and counted (R290). -/
def State.useCxlHedge (s : State) (h : Nat) : State :=
  (s.modHub (fun u => { u with hedge := kput u.hedge h 0 (kget u.hedge h 0 - 1) })).liveAdd PROC_HEDGE_CNT.USED 1 4 (h % 16)

/-- A line does not pass its hedge: the wait is counted (R290). -/
def State.countCxlWait (s : State) (h : Nat) : State := s.liveAdd PROC_HEDGE_CNT.WAITS 1 4 (h % 16)

theorem State.cxlHedge_eq_none {s : State} {q : CxlLine} (h : s.dormant = true ∨ s.hostOwns q.1 (q.1 + q.2.1) = false ∨
    kget s.hub.hedgeOn (cxlClass q) 0 = 0) : s.cxlHedge q = none := by
  refine if_pos ?_
  rcases h with h | h | h
  · simp [h]
  · simp [h]
  · simp [show kget s.hub.hedgeOn (64 + q.1 / 0x6000000000) 0 = 0 from h]

theorem State.cxlHedge_eq_some {s : State} {q : CxlLine} (hdormant : s.dormant = false)
    (howns : s.hostOwns q.1 (q.1 + q.2.1) = true) (hon : kget s.hub.hedgeOn (cxlClass q) 0 ≠ 0) :
    s.cxlHedge q = some (cxlClass q) := by
  refine if_neg ?_
  simp [hdormant, howns, show kget s.hub.hedgeOn (64 + q.1 / 0x6000000000) 0 ≠ 0 from hon]

theorem State.eq_class_of_cxlHedge {s : State} {q : CxlLine} {h : Nat} (hq : s.cxlHedge q = some h) : h = cxlClass q := by
  unfold State.cxlHedge at hq
  dsimp only at hq
  split at hq
  · cases hq
  · exact (Option.some.inj hq).symm

/-- What the host does not own, or a dormant module holds, is refused and counted (R107, R369). -/
theorem State.cxlServe_refused {s : State} {q : CxlLine} (h : s.hostOwns q.1 (q.1 + q.2.1) = false ∨ s.dormant = true) :
    s.cxlServe q = match q.2.2 with
      | none => ((s.bump HUB_CXL_DENY_CNT.COUNT).emit
          (.cxlData ((List.range q.2.1).map (fun i => Config.freeByte s.ticket i)) true)).nextTicket
      | some _ => s.bump HUB_CXL_DENY_CNT.COUNT := by
  have hdeny : (s.dormant || !s.hostOwns q.1 (q.1 + q.2.1)) = true := by
    rcases h with h | h <;> simp [h]
  exact if_pos hdeny

/-- What the host owns is read or written. -/
theorem State.cxlServe_owned {s : State} {q : CxlLine} (howns : s.hostOwns q.1 (q.1 + q.2.1) = true)
    (hdormant : s.dormant = false) : s.cxlServe q = match q.2.2 with
      | none => s.emit (.cxlData ((List.range q.2.1).flatMap (fun i => s.bytes (s.phys (q.1 + i)) 1)) (s.lineBad q.1 q.2.1))
      | some bs => s.store (s.phys q.1) bs := by
  have hallow : ¬ (s.dormant || !s.hostOwns q.1 (q.1 + q.2.1)) = true := by simp [howns, hdormant]
  exact if_neg hallow

/-- Serving a line leaves the hub alone. -/
theorem State.cxlServe_hub (s : State) (q : CxlLine) : (s.cxlServe q).hub = s.hub := by
  by_cases h : s.hostOwns q.1 (q.1 + q.2.1) = false ∨ s.dormant = true
  · rw [State.cxlServe_refused h]
    split <;> rfl
  · rw [not_or, Bool.not_eq_false, Bool.not_eq_true] at h
    rw [State.cxlServe_owned h.1 h.2]
    split <;> rfl

/-! ### The lines that wait are only looked at for their classes -/

/-- The state with another list of waiting lines. -/
def State.withCxl (s : State) (qs : List CxlLine) : State := s.modHub (fun h => { h with cxl := qs })

theorem State.cxlServe_withCxl (s : State) (qs : List CxlLine) (q : CxlLine) :
    (s.withCxl qs).cxlServe q = (s.cxlServe q).withCxl qs := by
  have hown : (s.withCxl qs).hostOwns q.1 (q.1 + q.2.1) = s.hostOwns q.1 (q.1 + q.2.1) := rfl
  have hdorm : (s.withCxl qs).dormant = s.dormant := rfl
  by_cases h : s.hostOwns q.1 (q.1 + q.2.1) = false ∨ s.dormant = true
  · rw [State.cxlServe_refused h, State.cxlServe_refused (hown.symm ▸ hdorm.symm ▸ h)]
    split <;> rfl
  · rw [not_or, Bool.not_eq_false, Bool.not_eq_true] at h
    rw [State.cxlServe_owned h.1 h.2, State.cxlServe_owned (hown.trans h.1) (hdorm.trans h.2)]
    split <;> rfl

/-! ### The pump, line by line (R290) -/

section
variable {s : State} {blocked : List Nat} {q : CxlLine} {qs : List CxlLine} {h : Nat}

theorem State.cxlPump_free (hq : s.cxlHedge q = none) :
    s.cxlPump blocked (q :: qs) = (s.cxlServe q).cxlPump blocked qs := by
  simp only [State.cxlPump, hq]

theorem State.cxlPump_waits (hq : s.cxlHedge q = some h) (hwait : h ∈ blocked ∨ kget s.hub.hedge h 0 = 0) :
    s.cxlPump blocked (q :: qs) = (((s.countCxlWait h).cxlPump (h :: blocked) qs).1,
      q :: ((s.countCxlWait h).cxlPump (h :: blocked) qs).2) := by
  have hcond : (blocked.contains h || kget s.hub.hedge h 0 == 0) = true := by simpa using hwait
  simp only [State.cxlPump, hq, hcond, if_true]
  rfl

theorem State.cxlPump_passes (hq : s.cxlHedge q = some h) (hpass : ¬ (h ∈ blocked ∨ kget s.hub.hedge h 0 = 0)) :
    s.cxlPump blocked (q :: qs) = ((s.useCxlHedge h).cxlServe q).cxlPump blocked qs := by
  have hcond : ¬ (blocked.contains h || kget s.hub.hedge h 0 == 0) = true := by simpa using hpass
  simp only [State.cxlPump, hq, hcond]
  rfl

end

/-- The pump leaves the list of waiting lines to the access. -/
theorem State.cxlPump_cxl (qs : List CxlLine) (s : State) (blocked : List Nat) :
    (s.cxlPump blocked qs).1.hub.cxl = s.hub.cxl := by
  induction qs generalizing s blocked with
  | nil => rfl
  | cons q qs ih =>
    cases hq : s.cxlHedge q with
    | none => rw [State.cxlPump_free hq, ih, State.cxlServe_hub]
    | some h =>
      by_cases hw : h ∈ blocked ∨ kget s.hub.hedge h 0 = 0
      · rw [State.cxlPump_waits hq hw, ih]
        rfl
      · rw [State.cxlPump_passes hq hw, ih, State.cxlServe_hub]
        rfl

/-- The pump looks at no list of waiting lines. -/
theorem State.cxlPump_withCxl (c qs : List CxlLine) (s : State) (blocked : List Nat) : (s.withCxl c).cxlPump blocked qs =
    ((s.cxlPump blocked qs).1.withCxl c, (s.cxlPump blocked qs).2) := by
  induction qs generalizing s blocked with
  | nil => rfl
  | cons q qs ih =>
    cases hq : s.cxlHedge q with
    | none => rw [State.cxlPump_free hq, State.cxlPump_free (s := s.withCxl c) hq, State.cxlServe_withCxl, ih]
    | some h =>
      by_cases hw : h ∈ blocked ∨ kget s.hub.hedge h 0 = 0
      · have hcount : (s.withCxl c).countCxlWait h = (s.countCxlWait h).withCxl c := rfl
        rw [State.cxlPump_waits hq hw, State.cxlPump_waits (s := s.withCxl c) hq hw, hcount, ih]
      · have huse : (s.withCxl c).useCxlHedge h = (s.useCxlHedge h).withCxl c := rfl
        rw [State.cxlPump_passes hq hw, State.cxlPump_passes (s := s.withCxl c) hq hw, huse, State.cxlServe_withCxl, ih]

/-- Of the classes that are blocked only their set matters. -/
theorem State.cxlPump_congr (qs : List CxlLine) (s : State) {b c : List Nat} (hbc : ∀ h, h ∈ b ↔ h ∈ c) :
    s.cxlPump b qs = s.cxlPump c qs := by
  induction qs generalizing s b c with
  | nil => rfl
  | cons q qs ih =>
    cases hq : s.cxlHedge q with
    | none => rw [State.cxlPump_free hq, State.cxlPump_free hq, ih _ hbc]
    | some h =>
      have hcons : ∀ x, x ∈ h :: b ↔ x ∈ h :: c := fun x => by simp only [List.mem_cons, hbc]
      by_cases hw : h ∈ b ∨ kget s.hub.hedge h 0 = 0
      · rw [State.cxlPump_waits hq hw, State.cxlPump_waits hq (hw.imp_left (hbc h).1), ih _ hcons]
      · rw [State.cxlPump_passes hq hw, State.cxlPump_passes hq (mt (Or.imp_left (hbc h).2) hw), ih _ hbc]

/-- Pumping a line and then others: the first line goes, and if it waits its class is blocked for the others. -/
theorem State.cxlPump_cons (s : State) (blocked : List Nat) (q : CxlLine) (qs : List CxlLine) :
    s.cxlPump blocked (q :: qs) =
      (((s.cxlPump blocked [q]).1.cxlPump ((s.cxlPump blocked [q]).2.map cxlClass ++ blocked) qs).1,
        (s.cxlPump blocked [q]).2 ++
          ((s.cxlPump blocked [q]).1.cxlPump ((s.cxlPump blocked [q]).2.map cxlClass ++ blocked) qs).2) := by
  cases hq : s.cxlHedge q with
  | none => rw [State.cxlPump_free hq, State.cxlPump_free hq]; rfl
  | some h =>
    by_cases hw : h ∈ blocked ∨ kget s.hub.hedge h 0 = 0
    · rw [State.cxlPump_waits hq hw, State.cxlPump_waits hq hw, State.eq_class_of_cxlHedge hq]
      rfl
    · rw [State.cxlPump_passes hq hw, State.cxlPump_passes hq hw]
      rfl

/-! ### An access -/

theorem State.cxlAccess_eq (s : State) (qs : List CxlLine) : s.cxlAccess qs =
    (s.cxlPump (s.hub.cxl.map cxlClass) qs).1.withCxl (s.hub.cxl ++ (s.cxlPump (s.hub.cxl.map cxlClass) qs).2) := by
  unfold State.cxlAccess State.modHub
  dsimp only
  rw [State.cxlPump_cxl]
  rfl

/-- An access of several lines is that of the first and then that of the others. -/
theorem State.cxlAccess_cons (s : State) (q : CxlLine) (qs : List CxlLine) :
    s.cxlAccess (q :: qs) = (s.cxlAccess [q]).cxlAccess qs := by
  rw [s.cxlAccess_eq [q], State.cxlAccess_eq _ qs, s.cxlAccess_eq, s.cxlPump_cons, State.cxlPump_withCxl]
  generalize s.cxlPump (s.hub.cxl.map cxlClass) [q] = u
  have hcxl : (u.1.withCxl (s.hub.cxl ++ u.2)).hub.cxl = s.hub.cxl ++ u.2 := rfl
  have hblocked : ∀ h, h ∈ u.2.map cxlClass ++ s.hub.cxl.map cxlClass ↔ h ∈ (s.hub.cxl ++ u.2).map cxlClass :=
    fun h => by rw [List.map_append, List.mem_append, List.mem_append, or_comm]
  rw [hcxl, State.cxlPump_congr qs u.1 hblocked, List.append_assoc]
  rfl

section
variable {s : State} {q : CxlLine} {h : Nat}

/-- A line that no hedge regulates does not wait. -/
theorem State.cxlAccess_free (hq : s.cxlHedge q = none) : s.cxlAccess [q] = s.cxlServe q := by
  rw [State.cxlAccess_eq, State.cxlPump_free hq]
  change (s.cxlServe q).withCxl (s.hub.cxl ++ []) = _
  rw [List.append_nil, ← State.cxlServe_hub s q]
  rfl

theorem State.cxlAccess_passes (hq : s.cxlHedge q = some h)
    (hpass : ¬ (h ∈ s.hub.cxl.map cxlClass ∨ kget s.hub.hedge h 0 = 0)) :
    s.cxlAccess [q] = (s.useCxlHedge h).cxlServe q := by
  rw [State.cxlAccess_eq, State.cxlPump_passes hq hpass]
  change ((s.useCxlHedge h).cxlServe q).withCxl (s.hub.cxl ++ []) = _
  have hcxl : s.hub.cxl = ((s.useCxlHedge h).cxlServe q).hub.cxl := by rw [State.cxlServe_hub]; rfl
  rw [List.append_nil, hcxl]
  rfl

theorem State.cxlAccess_waits (hq : s.cxlHedge q = some h)
    (hwait : h ∈ s.hub.cxl.map cxlClass ∨ kget s.hub.hedge h 0 = 0) :
    s.cxlAccess [q] = (s.countCxlWait h).withCxl (s.hub.cxl ++ [q]) := by
  rw [State.cxlAccess_eq, State.cxlPump_waits hq hwait]
  rfl

end

/-- A line of the host's that passes leaves what serving it leaves, but for its hedge. -/
theorem State.cxlAccess_served {s : State} {q : CxlLine} (howns : s.hostOwns q.1 (q.1 + q.2.1) = true)
    (hdormant : s.dormant = false)
    (hpass : kget s.hub.hedgeOn (cxlClass q) 0 = 0 ∨
      ((∀ x ∈ s.hub.cxl, cxlClass x ≠ cxlClass q) ∧ 0 < kget s.hub.hedge (cxlClass q) 0)) :
    (s.cxlAccess [q]).mem = (s.cxlServe q).mem ∧ (s.cxlAccess [q]).out = (s.cxlServe q).out ∧
      (s.cxlAccess [q]).regs = (s.cxlServe q).regs ∧ (s.cxlAccess [q]).regions = (s.cxlServe q).regions ∧
      (s.cxlAccess [q]).hub.cxl = s.hub.cxl := by
  by_cases hon : kget s.hub.hedgeOn (cxlClass q) 0 = 0
  · rw [State.cxlAccess_free (State.cxlHedge_eq_none (.inr (.inr hon))), State.cxlServe_hub]
    exact ⟨rfl, rfl, rfl, rfl, rfl⟩
  · obtain ⟨hclass, hlevel⟩ := hpass.resolve_left hon
    have hopen : ¬ (cxlClass q ∈ s.hub.cxl.map cxlClass ∨ kget s.hub.hedge (cxlClass q) 0 = 0) := by
      rintro (hmem | hzero)
      · obtain ⟨x, hx, hxq⟩ := List.mem_map.1 hmem
        exact hclass x hx hxq
      · omega
    rw [State.cxlAccess_passes (State.cxlHedge_eq_some hdormant howns hon) hopen, State.cxlServe_hub,
      State.cxlServe_owned howns hdormant, State.cxlServe_owned (s := s.useCxlHedge (cxlClass q)) howns hdormant]
    split <;> exact ⟨rfl, rfl, rfl, rfl, rfl⟩

/-- A line of the host's that does not pass waits behind the others. -/
theorem State.cxlAccess_queued {s : State} {q : CxlLine} (howns : s.hostOwns q.1 (q.1 + q.2.1) = true)
    (hdormant : s.dormant = false) (hon : kget s.hub.hedgeOn (cxlClass q) 0 ≠ 0)
    (hwait : (∃ x ∈ s.hub.cxl, cxlClass x = cxlClass q) ∨ kget s.hub.hedge (cxlClass q) 0 = 0) :
    s.cxlAccess [q] = (s.countCxlWait (cxlClass q)).withCxl (s.hub.cxl ++ [q]) :=
  State.cxlAccess_waits (State.cxlHedge_eq_some hdormant howns hon) (hwait.imp_left List.mem_map.2)

/-- A line that the host does not own, or of a dormant module, is refused whatever its hedge. -/
theorem State.cxlAccess_refused {s : State} {q : CxlLine} (h : s.hostOwns q.1 (q.1 + q.2.1) = false ∨ s.dormant = true) :
    s.cxlAccess [q] = s.cxlServe q :=
  State.cxlAccess_free (State.cxlHedge_eq_none (h.symm.imp_right .inl))

/-- A run of bytes written to memory. -/
theorem wrote_of_mem_eq {s t : State} {a : Nat} {bs : List Byte} (h : t.mem = s.mem.writeBytes a bs) : Wrote s t a bs := by
  intro x
  rw [h]
  split
  case isTrue hx =>
    obtain ⟨i, rfl⟩ := Nat.exists_eq_add_of_le hx.1
    have hi : i < bs.length := by omega
    rw [Memory.read_writeBytes_at _ _ _ _ hi, Nat.add_sub_cancel_left, List.getD_eq_getElem?_getD, List.getElem?_eq_getElem hi,
      Option.getD_some]
  case isFalse hx => exact Memory.read_writeBytes_ne _ _ _ _ (by omega)

/-! ### The rows -/

theorem exec_cxlMemRead_line {dpa : Word64} {n : Nat} (hn : 0 < n) (hline : dpa.toNat / 256 = (dpa.toNat + n - 1) / 256)
    (s : State) : exec (.cxlMemRead dpa n) s = .next (s.cxlAccess [(dpa.toNat, n, none)]) :=
  congrArg (fun qs => Host.Outcome.next (s.cxlAccess qs)) (cxlLines_of_line (data := none) hn hline nofun)

theorem exec_cxlMemWrite_line {dpa : Word64} {bs : List Byte} (hn : 0 < bs.length)
    (hline : dpa.toNat / 256 = (dpa.toNat + bs.length - 1) / 256) (s : State) :
    exec (.cxlMemWrite dpa bs) s = .next (s.cxlAccess [(dpa.toNat, bs.length, some bs)]) :=
  congrArg (fun qs => Host.Outcome.next (s.cxlAccess qs)) (cxlLines_of_line (data := some bs) hn hline fun _ h => by
    rw [Option.some.inj h])

/-- The first line of a longer access, and where the rest begins. -/
theorem firstLine_of_lt {dpa : Word64} {k n : Nat} (hk : k = 256 - dpa.toNat % 256) (hkn : k < n)
    (hn : dpa.toNat + n < 2 ^ 64) :
    0 < k ∧ dpa.toNat / 256 = (dpa.toNat + k - 1) / 256 ∧ (dpa + BitVec.ofNat 64 k).toNat = dpa.toNat + k := by
  refine ⟨by omega, by omega, ?_⟩
  rw [BitVec.toNat_add, BitVec.toNat_ofNat]
  omega

/-- Settles O33: an access within a line is one line, served, refused or queued; a longer one is cut after its first line. -/
theorem hostMemoryAccess : Obligations.HostMemoryAccess := by
  unfold Obligations.HostMemoryAccess
  refine ⟨?line, ?longer⟩
  case line =>
    rintro s dpa n h bs hn rfl hline rfl
    have hread := exec_cxlMemRead_line hn hline s
    have hwrite := exec_cxlMemWrite_line hn hline s
    refine ⟨fun howns hdormant => ⟨fun hpass => ⟨?read, ?write⟩, fun hon hwait => ⟨?readWaits, ?writeWaits⟩⟩,
      fun hrefused => ⟨?readRefused, ?writeRefused⟩⟩
    case read =>
      obtain ⟨hmem, hout, hregs, hregions, hcxl⟩ :=
        State.cxlAccess_served (q := (dpa.toNat, bs.length, none)) howns hdormant hpass
      rw [State.cxlServe_owned howns hdormant] at hmem hout hregs hregions
      exact ⟨_, hread, hout, hmem, hregs, hregions, hcxl⟩
    case write =>
      obtain ⟨hmem, hout, hregs, hregions, hcxl⟩ :=
        State.cxlAccess_served (q := (dpa.toNat, bs.length, some bs)) howns hdormant hpass
      rw [State.cxlServe_owned howns hdormant] at hmem hout hregs hregions
      exact ⟨_, hwrite, wrote_of_mem_eq hmem, hout, hregs, hregions, hcxl⟩
    case readWaits =>
      rw [State.cxlAccess_queued (q := (dpa.toNat, bs.length, none)) howns hdormant hon hwait] at hread
      exact ⟨_, hread, rfl, rfl, rfl, rfl, rfl⟩
    case writeWaits =>
      rw [State.cxlAccess_queued (q := (dpa.toNat, bs.length, some bs)) howns hdormant hon hwait] at hwrite
      exact ⟨_, hwrite, rfl, rfl, rfl, rfl, rfl⟩
    case readRefused =>
      rw [State.cxlAccess_refused hrefused, State.cxlServe_refused hrefused] at hread
      refine ⟨_, hread, ⟨_, ?_, rfl⟩, State.get_bump_self .., ?_, rfl, rfl⟩
      · rw [List.length_map, List.length_range]
      · exact SameRegs.put s _ _ (by decide) (by decide) (by decide)
    case writeRefused =>
      rw [State.cxlAccess_refused hrefused, State.cxlServe_refused hrefused] at hwrite
      exact ⟨_, hwrite, State.get_bump_self .., .put s _ _ (by decide) (by decide) (by decide), .bump ..⟩
  case longer =>
    rintro s dpa k n bs hk hkn rfl hfits
    obtain ⟨hpos, hline, hrest⟩ := firstLine_of_lt hk hkn hfits
    have htake : (bs.take k).length = k := by rw [List.length_take]; omega
    have hdrop : (bs.drop k).length = bs.length - k := List.length_drop
    have hsplit := fun data => cxlLines_split (dpa := dpa.toNat) (hk ▸ hkn) data
    rw [← hk] at hsplit
    refine ⟨⟨_, exec_cxlMemRead_line hpos hline s, ?_⟩,
      ⟨_, exec_cxlMemWrite_line (htake.symm ▸ hpos) (htake.symm ▸ hline) s, ?_⟩⟩
    · change Host.Outcome.next (s.cxlAccess (cxlLines dpa.toNat bs.length none)) =
        .next (State.cxlAccess _ (cxlLines _ _ none))
      rw [hrest, hsplit none, State.cxlAccess_cons]
      rfl
    · change Host.Outcome.next (s.cxlAccess (cxlLines dpa.toNat bs.length (some bs))) =
        .next (State.cxlAccess _ (cxlLines _ (bs.drop k).length (some (bs.drop k))))
      rw [hrest, hsplit (some bs), State.cxlAccess_cons, htake, hdrop]
      rfl

end Sys2Proof.Machine
end

section
/-!
What the sending of flits leaves alone (R239, R241, R251, R253, R290): memory, the peer requests that wait, and every register
but those that follow the queues. One lemma per operation from the link up to a copy's end, as Laws/Kept.lean has them.
-/
namespace Sys2Proof.Machine

/-- The registers that follow the queues of the engines (R179, R234, R282). -/
def queueFields : List Fld := [SU_STAT.CLAIMED, SE_STAT.INFLIGHT, LNK_ADD_STAGE_LVL.INFLIGHT]

/-- What sending leaves alone. -/
structure Sends (s t : State) : Prop where
  mem : t.mem = s.mem
  peerWait : t.hub.peerWait = s.hub.peerWait
  regs : SameRegs s t queueFields

/-! ### The parts of a send -/

theorem Sends.refl (s : State) : Sends s s := ⟨rfl, rfl, .refl s _⟩

theorem Sends.trans {s t u : State} (a : Sends s t) (b : Sends t u) : Sends s u :=
  ⟨b.mem.trans a.mem, b.peerWait.trans a.peerWait, a.regs.trans b.regs⟩

/-- An update of other parts of the state. -/
theorem Sends.of_eq {s t : State} (hmem : t.mem = s.mem) (hwait : t.hub.peerWait = s.hub.peerWait) (hregs : t.regs = s.regs) :
    Sends s t := ⟨hmem, hwait, fun _ _ _ _ _ _ _ _ => State.get_of_regs hregs ..⟩

theorem Sends.ite {s a b : State} {c : Prop} [Decidable c] (x : Sends s a) (y : Sends s b) : Sends s (if c then a else b) := by
  split <;> assumption

theorem Sends.foldl {α : Type} {f : State → α → State} (hf : ∀ s a, Sends s (f s a)) (l : List α) (s : State) :
    Sends s (l.foldl f s) :=
  List.foldlRecOn (motive := (Sends s ·)) l _ (.refl s) fun t ht a _ => ht.trans (hf t a)

theorem Sends.emit (s : State) (o : Out) : Sends s (s.emit o) := .of_eq rfl rfl rfl
theorem Sends.liveAdd (s : State) (f : Fld) (n i j k : Nat) : Sends s (s.liveAdd f n i j k) := .of_eq rfl rfl rfl
theorem Sends.modLink (s : State) (l : Lnk) (g : Link → Link) : Sends s (s.modLink l g) := .of_eq rfl rfl rfl
theorem Sends.setCmds (s : State) (r : Rgn) (q : List Entry) : Sends s (s.setCmds r q) :=
  ⟨s.setCmds_mem r q, congrArg Hub.peerWait (s.setCmds_hub r q), .setCmds s r q⟩

/-- One unit of a hedge is used and counted (R290). -/
theorem Sends.useHedge (s : State) (h : Nat) : Sends s ((s.modHub (fun u => { u with
    hedge := kput u.hedge h 0 (kget u.hedge h 0 - 1) })).liveAdd PROC_HEDGE_CNT.USED 1 (h / 16) (h % 16)) := .of_eq rfl rfl rfl

/-! ### A link -/

theorem Sends.returnCredit (s : State) (buffer : Nat) : Sends s (s.returnCredit buffer) := by
  unfold State.returnCredit
  split
  · exact .modLink ..
  · exact .refl s

theorem Sends.transmit (s : State) (l : Lnk) (f : Flit) : Sends s (s.transmit l f) := .of_eq rfl rfl rfl

theorem Sends.pumpList (l : Lnk) (count : Bool) (q : List (Nat × Flit)) (s : State) (blocked : List Nat) :
    Sends s (s.pumpList l count blocked q).1 := by
  induction q generalizing s blocked with
  | nil => exact .refl s
  | cons b q ih =>
    have leaves (t : State) : Sends t (((t.transmit l b.2).returnCredit b.1).pumpList l count blocked q).1 :=
      ((Sends.transmit ..).trans (.returnCredit ..)).trans (ih ..)
    unfold State.pumpList
    dsimp only
    split
    case h_1 h _ =>
      split
      · exact (Sends.ite (.liveAdd ..) (.refl s)).trans (ih ..)
      · exact (Sends.useHedge s h).trans (leaves _)
    case h_2 =>
      split
      · exact ih ..
      · exact leaves s

theorem Sends.enqueueFlit (s : State) (l : Lnk) (f : Flit) (buffer : Nat) : Sends s (s.enqueueFlit l f buffer) := by
  unfold State.enqueueFlit
  exact (Sends.pumpList ..).trans (.modLink ..)

/-! ### Routes and refusals -/

theorem Sends.forward (s : State) (r : Rgn) (f : Flit) (buffer : Nat) : Sends s (s.forward r f buffer).1 := by
  unfold State.forward
  split
  · exact .refl s
  · split
    · exact .refl s
    · exact .enqueueFlit ..

theorem Sends.failCopies (s : State) (h : FlitHdr) (detail : Nat) : Sends s (s.failCopies h detail) :=
  .ite (.foldl (fun s _ => .ite (.setCmds s ..) (.refl s)) _ _) (.refl s)

/-- A flit of this module that is refused has no arrival to count at. -/
theorem Sends.refuseFlit (s : State) (r : Rgn) (f : Flit) (code detail : Nat) : Sends s (s.refuseFlit none r f code detail) := by
  unfold State.refuseFlit
  exact .ite (.ite (.refl s) (.refl s)) (.ite (.failCopies ..) (.forward ..))

theorem Sends.send (s : State) (r : Rgn) (f : Flit) : Sends s (s.send r f) := by
  have routed := Sends.forward s r f 512
  unfold State.send
  split
  case h_1 t h => rwa [h] at routed
  case h_2 t code h =>
    rw [h] at routed
    exact routed.trans (.refuseFlit ..)

theorem Sends.sendAll (r : Rgn) (fs : List Flit) (s : State) : Sends s (s.sendAll r fs) := by
  induction fs generalizing s with
  | nil => exact .refl s
  | cons f fs ih => exact (Sends.send s r f).trans (ih _)

/-! ### A copy whose bytes have come -/

theorem Sends.sendOutputs (s : State) (r : Rgn) (p : Prt) (e : Entry) : Sends s (s.sendOutputs r p e) := by
  unfold State.sendOutputs
  dsimp only
  refine .ite (.refl s) (.ite (.setCmds ..) ((Sends.setCmds ..).trans (.foldl (fun s a => ?_) _ _)))
  exact .ite (.emit ..) (.sendAll ..)

theorem Sends.putEntry (s : State) (r : Rgn) (e : Entry) : Sends s (s.putEntry r e) := .setCmds ..

theorem Sends.finishRemote (s : State) (r : Rgn) (p : Prt) (e : Entry) : Sends s (s.finishRemote r p e) :=
  .ite ((Sends.putEntry ..).trans (.sendOutputs ..)) (.putEntry ..)

/-! ### The tag of a region -/

/-- The tag that runs in a region is read from PROC_PART_CFG alone (R283). -/
theorem SameRegs.regionOfTag {s t : State} {changed : List Fld} (h : SameRegs s t changed)
    (hc : ∀ f ∈ [PROC_PART_CFG.REGIONS, PROC_PART_CFG.STATE, PROC_PART_CFG.JOB_TAG], ∀ g ∈ changed, f.home ≠ g.home)
    (r : Rgn) (tag : Nat) : t.regionOfTag r tag = s.regionOfTag r tag := by
  have hcfg (f : Fld) (hf : f ∈ [PROC_PART_CFG.REGIONS, PROC_PART_CFG.STATE, PROC_PART_CFG.JOB_TAG]) (p : Prt) :
      t.get f p = s.get f p := h f _ _ _ (by omega) (by decide) (by decide) (hc f hf)
  have htag : t.tagOf r = s.tagOf r := by
    unfold State.tagOf State.partState
    rw [h.partOf (hc PROC_PART_CFG.REGIONS (by simp)) r]
    cases s.partOf r with
    | none => rfl
    | some p => simp only [hcfg PROC_PART_CFG.STATE (by simp), hcfg PROC_PART_CFG.JOB_TAG (by simp)]
  simp only [State.regionOfTag, htag]

theorem Sends.regionOfTag {s t : State} (h : Sends s t) (r : Rgn) (tag : Nat) : t.regionOfTag r tag = s.regionOfTag r tag :=
  h.regs.regionOfTag (by decide) r tag

end Sys2Proof.Machine
end

section
/-!
The settlement of O38. A peer request of a complete module reaches its service at once while no hedge is on; it is refused,
stores its bytes run by run, or is answered. The runs of bytes that a WRITE stores are cut where the map may change the stack
(R92); between the cuts the map counts up with the address, so that together they write every byte at its own key.
-/
namespace Sys2Proof.Machine

/-! ### Bytes written at the keys of a map -/

/-- Writes bytes at the keys of successive addresses. -/
def Memory.writeAt (key : Nat → Nat) (m : Memory) (da : Nat) : List Byte → Memory
  | [] => m
  | b :: bs => (m.write (key da) b).writeAt key (da + 1) bs

/-- A map that counts up with the address within every 4 KiB granule (R92). -/
def CountsUp (key : Nat → Nat) : Prop := ∀ da i, da % 4096 + i < 4096 → key (da + i) = key da + i

theorem Memory.writeAt_append (key : Nat → Nat) (bs cs : List Byte) (m : Memory) (da : Nat) :
    m.writeAt key da (bs ++ cs) = (m.writeAt key da bs).writeAt key (da + bs.length) cs := by
  induction bs generalizing m da with
  | nil => rfl
  | cons b bs ih =>
    rw [List.cons_append, Memory.writeAt, ih, List.length_cons, Nat.add_right_comm, ← Nat.add_assoc]
    rfl

/-- Within a granule the keys of a run are a run of keys. -/
theorem Memory.writeBytes_eq_writeAt {key : Nat → Nat} (hkey : CountsUp key) (bs : List Byte) (m : Memory) {da : Nat}
    (hfits : da % 4096 + bs.length ≤ 4096) : m.writeBytes (key da) bs = m.writeAt key da bs := by
  induction bs generalizing m da with
  | nil => rfl
  | cons b bs ih =>
    rw [List.length_cons] at hfits
    cases bs with
    | nil => rfl
    | cons c bs =>
      rw [List.length_cons] at hfits
      rw [Memory.writeBytes, ← hkey da 1 (by omega), ih _ (by rw [List.length_cons]; omega)]
      rfl

theorem Memory.read_writeAt_ne (key : Nat → Nat) (bs : List Byte) (m : Memory) (da : Nat) {a : Nat}
    (ha : ∀ i < bs.length, a ≠ key (da + i)) : (m.writeAt key da bs).read a = m.read a := by
  induction bs generalizing m da with
  | nil => rfl
  | cons b bs ih =>
    rw [List.length_cons] at ha
    rw [Memory.writeAt, ih _ _ fun i hi => by rw [Nat.add_right_comm]; exact ha (i + 1) (by omega),
      Memory.read_write_ne _ _ _ _ (show a ≠ key da from ha 0 (by omega))]

/-- A byte whose key no other byte of the run has reads as written. -/
theorem Memory.read_writeAt_of_unique (key : Nat → Nat) (bs : List Byte) (m : Memory) (da : Nat) {i : Nat}
    (hi : i < bs.length) (hunique : ∀ j < bs.length, key (da + j) = key (da + i) → j = i) :
    (m.writeAt key da bs).read (key (da + i)) = bs.getD i 0 := by
  induction bs generalizing m da i with
  | nil => cases hi
  | cons b bs ih =>
    rw [List.length_cons] at hi hunique
    rw [Memory.writeAt]
    cases i with
    | zero =>
      rw [Memory.read_writeAt_ne _ _ _ _ fun j hj hsame => ?_]
      · exact Memory.read_write_self ..
      · have := hunique (j + 1) (by omega) (by rw [← Nat.add_assoc, Nat.add_right_comm]; exact hsame.symm)
        omega
    | succ i =>
      have hshift (j : Nat) : da + (j + 1) = da + 1 + j := by omega
      rw [hshift i, ih _ _ (i := i) (by omega) fun j hj hsame => ?_]
      · rfl
      · have := hunique (j + 1) (by omega) (by rw [hshift j, hshift i]; exact hsame)
        omega

/-- The map of stack addresses counts up within a granule, interleaved or not (R92). -/
theorem State.countsUp_phys (s : State) : CountsUp s.phys := by
  intro da i hi
  have hregion : (da + i) / 0x6000000000 = da / 0x6000000000 := by omega
  have hstack : da + i < 0x18000000000 ↔ da < 0x18000000000 := by omega
  unfold State.phys
  rw [hregion]
  simp only [hstack]
  split
  · have hoffset : (da + i) % 0x6000000000 = da % 0x6000000000 + i := by omega
    have hgranule : (da % 0x6000000000 + i) / 4096 = da % 0x6000000000 / 4096 := by omega
    have hbyte : (da % 0x6000000000 + i) % 4096 = da % 0x6000000000 % 4096 + i := by omega
    simp only [interleave, hregion, hoffset, hgranule, hbyte]
    omega
  · rfl

/-! ### The posts of a run of bytes -/

theorem runPosts_of_ne_nil (key : Nat → Nat) (fuel da : Nat) {bs : List Byte} (h : bs ≠ []) :
    runPosts key (fuel + 1) da bs = if bs.length ≤ 4096 - da % 4096 then [.bytes (key da) bs]
      else .bytes (key da) (bs.take (4096 - da % 4096)) ::
        runPosts key fuel (da + (4096 - da % 4096)) (bs.drop (4096 - da % 4096)) := by
  cases bs with
  | nil => exact absurd rfl h
  | cons b bs => rfl

/-- The posts of a run store its bytes at their keys and change nothing else. -/
theorem State.postAll_runPosts (r : Rgn) {key : Nat → Nat} (hkey : CountsUp key) (fuel : Nat) (s : State) (da : Nat)
    (bs : List Byte) (hfuel : bs.length ≤ 4096 * fuel - da % 4096) : ∃ bad,
    s.postAll r (runPosts key fuel da bs) = { s with mem := s.mem.writeAt key da bs, badWords := bad } := by
  induction fuel generalizing s da bs with
  | zero =>
    obtain rfl : bs = [] := List.eq_nil_of_length_eq_zero (by omega)
    exact ⟨_, rfl⟩
  | succ fuel ih =>
    by_cases hnil : bs = []
    · subst hnil
      exact ⟨_, rfl⟩
    rw [runPosts_of_ne_nil key fuel da hnil]
    by_cases hlast : bs.length ≤ 4096 - da % 4096
    · rw [if_pos hlast, ← Memory.writeBytes_eq_writeAt hkey bs s.mem (by omega)]
      exact ⟨_, rfl⟩
    · rw [if_neg hlast]
      have htake : (bs.take (4096 - da % 4096)).length = 4096 - da % 4096 := by rw [List.length_take]; omega
      have hdrop : (bs.drop (4096 - da % 4096)).length = bs.length - (4096 - da % 4096) := List.length_drop
      obtain ⟨bad, hrest⟩ := ih (s.store (key da) (bs.take (4096 - da % 4096))) (da + (4096 - da % 4096))
        (bs.drop (4096 - da % 4096)) (by omega)
      refine ⟨bad, hrest.trans ?_⟩
      have hmem : s.mem.writeAt key da bs = (s.mem.writeAt key da (bs.take (4096 - da % 4096))).writeAt key
          (da + (4096 - da % 4096)) (bs.drop (4096 - da % 4096)) := by
        have happend := Memory.writeAt_append key (bs.take (4096 - da % 4096)) (bs.drop (4096 - da % 4096)) s.mem da
        rwa [List.take_append_drop, htake] at happend
      rw [State.store_mem, Memory.writeBytes_eq_writeAt hkey _ _ (by omega), hmem]
      rfl

theorem State.postAll_bytePosts (r : Rgn) {key : Nat → Nat} (hkey : CountsUp key) (s : State) (da : Nat) (bs : List Byte) :
    ∃ bad, s.postAll r (bytePosts key da bs) = { s with mem := s.mem.writeAt key da bs, badWords := bad } := by
  cases bs with
  | nil => exact ⟨_, rfl⟩
  | cons b bs => exact State.postAll_runPosts r hkey _ s da (b :: bs) (by omega)

/-! ### Before and after START (R246) -/

theorem State.started_of_complete {s : State} (h : s.complete = true) (l : Lnk) (run : State → State) :
    s.started l run = run s := if_pos (beq_iff_eq.1 h)

theorem State.started_of_not_complete {s : State} (h : s.complete = false) (l : Lnk) (run : State → State) :
    s.started l run = s.bump LNK_RC.NONRC 1 l := if_neg (by simpa [State.complete] using h)

/-- A row that waits for START drops its flit before and counts it. -/
theorem completes_before_start {i : Instr} {s : State} {l : Lnk} {run : State → State}
    (hexec : exec i s = .next (s.started l run)) (h : s.complete = false) : Completes i s (fun t =>
      t.get LNK_RC.NONRC l = min LNK_RC.NONRC.max (s.get LNK_RC.NONRC l + 1) ∧ SameRegs s t [LNK_RC.NONRC] ∧
      OnlyRegs s t) := by
  rw [State.started_of_not_complete h] at hexec
  exact ⟨_, hexec, State.get_bump_self .., .put s _ _ (by omega) (by decide) (by decide), .bump ..⟩

/-! ### The service of a request (R90, R107) -/

/-- No flit occupies the receive buffer 512. -/
theorem State.returnCredit_none (s : State) : s.returnCredit 512 = s := dif_neg (by decide)

/-- While no hedge is on, every line passes (R290). -/
theorem State.takeHedge_of_off {s : State} (h : s.hub.hedgeOn = []) (p : Prt) (rs : List (Nat × Nat × Nat)) :
    s.takeHedge p rs = (s, []) := by
  induction rs with
  | nil => rfl
  | cons a rs ih => simp only [State.takeHedge, h, kget, if_true, ih]

section
variable {s : State} {l : Lnk} {f : Flit} {da code : Nat}

/-- A WRITE of a torn-down tag is discarded and counted (R302). -/
theorem State.peerRequest_torn (hwrite : f.hdr.type.toNat = ftWrite) (htorn : s.torn f.hdr.tag.toNat = true) :
    s.peerRequest l 512 f = s.discardTorn f.hdr.tag.toNat := by
  have hub : (s.discardTorn f.hdr.tag.toNat).hub = s.hub := by
    unfold State.discardTorn
    split <;> rfl
  have hstep : s.peerStep s.hub.peerWait l 512 f none = (s.discardTorn f.hdr.tag.toNat, s.hub.peerWait) := by
    unfold State.peerStep
    rw [if_pos ⟨hwrite, htorn⟩, State.returnCredit_none]
  unfold State.peerRequest
  rw [hstep, ← hub]
  rfl

/-- With no hedge on and no request of its channel before it a request is served at once. -/
theorem State.peerRequest_served (hlive : f.hdr.type.toNat = ftWrite → s.torn f.hdr.tag.toNat = false)
    (hoff : s.hub.hedgeOn = []) (hfirst : behindPeer s.hub.peerWait f = false)
    (hwait : (s.servePeer l f).hub.peerWait = s.hub.peerWait) : s.peerRequest l 512 f = s.servePeer l f := by
  have hstep : s.peerStep s.hub.peerWait l 512 f none = (s.servePeer l f, s.hub.peerWait) := by
    have hkeep : ¬ (f.hdr.type.toNat = ftWrite ∧ s.torn f.hdr.tag.toNat = true) := by
      rintro ⟨hwrite, htorn⟩
      exact absurd (htorn.symm.trans (hlive hwrite)) (by decide)
    unfold State.peerStep
    rw [if_neg hkeep]
    split
    · rw [State.returnCredit_none]
    · simp only [hfirst, State.takeHedge_of_off hoff, State.returnCredit_none, List.isEmpty_nil, if_true]
      rfl
  unfold State.peerRequest
  rw [hstep, ← hwait]
  rfl

section
variable (hlength : (requestOf f).length ≠ 0)
include hlength

theorem length_toNat_ne_zero : (requestOf f).length.toNat ≠ 0 := fun h => hlength (BitVec.eq_of_toNat_eq h)

/-- A request that the tag may not make is refused. -/
theorem State.servePeer_refused (href : s.peerRefusal (requestOf f).tag.toNat ((requestOf f).offset.toNat % 2 ^ 44)
    (requestOf f).length.toNat = some code) :
    s.servePeer l f = s.refuseFlit (some l) (linkRegion l) f code ((requestOf f).offset.toNat % 2 ^ 44) := by
  unfold State.servePeer
  dsimp only
  rw [if_neg (length_toNat_ne_zero hlength), href]

/-- A WRITE that it may make posts its bytes. -/
theorem State.servePeer_write (href : s.peerRefusal (requestOf f).tag.toNat ((requestOf f).offset.toNat % 2 ^ 44)
    (requestOf f).length.toNat = none) (hda : peerTarget ((requestOf f).offset.toNat % 2 ^ 44) = some da)
    (hwrite : f.hdr.type.toNat = ftWrite) :
    s.servePeer l f = s.postAll (linkRegion l) (bytePosts s.phys da (requestOf f).data) := by
  unfold State.servePeer
  dsimp only
  rw [if_neg (length_toNat_ne_zero hlength), href, hda]
  exact if_pos hwrite

/-- A READ_REQ that it may make is answered with the bytes. -/
theorem State.servePeer_read (href : s.peerRefusal (requestOf f).tag.toNat ((requestOf f).offset.toNat % 2 ^ 44)
    (requestOf f).length.toNat = none) (hda : peerTarget ((requestOf f).offset.toNat % 2 ^ 44) = some da)
    (hread : f.hdr.type.toNat = ftReadReq) :
    s.servePeer l f = s.sendAll (linkRegion l) (s.dataFlits ftReadResp (requestOf f).vc.toNat (requestOf f).src.toNat
      (requestOf f).tag.toNat (ownOffset (requestOf f).returnDA.toNat % 2 ^ 44)
      ((List.range (requestOf f).length.toNat).map (fun i => readOpen s.mem s.openOuts (s.phys (da + i))))) := by
  unfold State.servePeer
  dsimp only
  rw [if_neg (length_toNat_ne_zero hlength), href, hda]
  exact if_neg (by rw [hread]; decide)

end

theorem answerable_of_request (htype : f.hdr.type.toNat = ftWrite ∨ f.hdr.type.toNat = ftReadReq) (hvc : f.hdr.vc ≠ 7) :
    answerable f.hdr = true := by
  have hlisted : [ftIdle, ftNak, ftError].contains f.hdr.type.toNat = false := by
    rcases htype with h | h <;> rw [h] <;> rfl
  unfold answerable
  rw [hlisted, bne_iff_ne.2 hvc]
  rfl

/-- A flit that an error frame may answer is answered, and the frame counts at its arrival link (R253). -/
theorem State.refuseFlit_of_answerable {r : Rgn} {detail : Nat} (hans : answerable f.hdr = true)
    (hsrc : f.hdr.src.toNat ≠ s.addr) : Sends (s.bump LNK_RC.ERR_SENT 1 l) (s.refuseFlit (some l) r f code detail) := by
  have hanswer : ¬ (!answerable f.hdr) = true := by simp [hans]
  have hother : ¬ (f.hdr.src.toNat == s.addr) = true := by simpa using hsrc
  unfold State.refuseFlit
  rw [if_neg hanswer, if_neg hother]
  exact .forward ..

end

/-- The row of a request in a complete module is the arrival of the request. -/
theorem exec_request {s : State} {l : Lnk} {f : Flit} {i : Instr} (hcomplete : s.complete = true)
    (hi : i = .write l f ∧ f.hdr.type.toNat = ftWrite ∨ i = .readReq l f ∧ f.hdr.type.toNat = ftReadReq) :
    exec i s = .next (s.peerRequest l 512 f) := by
  obtain ⟨rfl, htype⟩ | ⟨rfl, htype⟩ := hi <;>
    exact congrArg Host.Outcome.next ((State.started_of_complete hcomplete ..).trans (if_pos htype))

/-- Settles O38: before START, of a torn-down tag, stored, refused or answered. -/
theorem peerRequests : Obligations.PeerRequests := by
  unfold Obligations.PeerRequests
  rintro s l f q da rfl
  refine ⟨?before, fun hcomplete hwrite htorn => ?torn, fun hcomplete hoff hfirst hlength hda =>
    ⟨fun hwrite htorn hdata href => ?stored, fun code i hi href hsrc hvc => ?refused, fun hread href => ?answered⟩⟩
  case before =>
    rintro hcomplete i (rfl | rfl)
    · exact completes_before_start rfl hcomplete
    · exact completes_before_start rfl hcomplete
  case torn => rw [exec_request hcomplete (.inl ⟨rfl, hwrite⟩), State.peerRequest_torn hwrite htorn]; rfl
  case stored =>
    rw [hdata] at href
    have hserve := State.servePeer_write (l := l) hlength href hda hwrite
    obtain ⟨bad, hpost⟩ := State.postAll_bytePosts (linkRegion l) s.countsUp_phys s da (requestOf f).data
    rw [hpost] at hserve
    have hexec := exec_request (l := l) (i := .write l f) hcomplete (.inl ⟨rfl, hwrite⟩)
    rw [State.peerRequest_served (fun _ => htorn) hoff hfirst (by rw [hserve]), hserve] at hexec
    exact ⟨_, hexec, fun i hi hunique => Memory.read_writeAt_of_unique _ _ _ _ hi hunique,
      fun a ha => Memory.read_writeAt_ne _ _ _ _ ha, rfl, rfl, rfl⟩
  case refused =>
    have hrow : i = .write l f ∧ f.hdr.type.toNat = ftWrite ∨ i = .readReq l f ∧ f.hdr.type.toNat = ftReadReq :=
      hi.imp (fun h => ⟨h.1, h.2.1⟩) id
    have hlive (hwrite : f.hdr.type.toNat = ftWrite) : s.torn f.hdr.tag.toNat = false := by
      obtain ⟨-, -, htorn⟩ | ⟨-, hread⟩ := hi
      · exact htorn
      · exact absurd (hwrite.symm.trans hread) (by decide)
    have hans := answerable_of_request (hrow.imp And.right And.right) hvc
    have hserve := State.servePeer_refused (l := l) hlength href
    obtain ⟨hmem, hwait, hregs⟩ := State.refuseFlit_of_answerable (l := l) (r := linkRegion l) (code := code)
      (detail := (requestOf f).offset.toNat % 2 ^ 44) hans hsrc
    have hexec := exec_request hcomplete hrow
    rw [State.peerRequest_served hlive hoff hfirst (by rw [hserve]; exact hwait), hserve] at hexec
    exact ⟨_, hexec, hmem, (hregs _ _ _ _ (by omega) (by decide) (by decide) (by decide)).trans (State.get_bump_self ..)⟩
  case answered =>
    have hserve := State.servePeer_read (l := l) hlength href hda hread
    have hnoWrite (hwrite : f.hdr.type.toNat = ftWrite) : s.torn f.hdr.tag.toNat = false :=
      absurd (hwrite.symm.trans hread) (by decide)
    rw [exec_request hcomplete (.inr ⟨rfl, hread⟩), State.peerRequest_served hnoWrite hoff hfirst
      (by rw [hserve]; exact (Sends.sendAll ..).peerWait), hserve]

end Sys2Proof.Machine
end

section
/-!
The settlement of O39. An answer changes the entry that waits for it, in the one region that runs its tag; what its end sends
leaves the tags of the regions alone. An error frame fails copies region by region, each region once.
-/
namespace Sys2Proof.Machine

/-! ### A pass over all regions -/

theorem mem_allRegions (r : Rgn) : r ∈ allRegions := by decide +revert

theorem allRegions_nodup : allRegions.Nodup := by decide

theorem foldl_of_fixed {α β : Type} {f : β → α → β} {s : β} {l : List α} (h : ∀ x ∈ l, f s x = s) : l.foldl f s = s := by
  induction l with
  | nil => rfl
  | cons x l ih => rw [List.foldl_cons, h x List.mem_cons_self, ih fun y hy => h y (List.mem_cons_of_mem x hy)]

/-- A pass in which one element alone acts, before and after its turn, is its action. -/
theorem foldl_of_only {α β : Type} {f : β → α → β} {s t : β} {l : List α} {a : α} (hl : l.Nodup) (ha : a ∈ l)
    (hact : f s a = t) (hbefore : ∀ x, x ≠ a → f s x = s) (hafter : ∀ x, x ≠ a → f t x = t) : l.foldl f s = t := by
  obtain ⟨b, c, rfl⟩ := List.append_of_mem ha
  rw [List.nodup_append, List.nodup_cons] at hl
  obtain ⟨-, ⟨hc, -⟩, hb⟩ := hl
  rw [List.foldl_append, List.foldl_cons, foldl_of_fixed fun x hx => hbefore x (hb x hx a List.mem_cons_self), hact,
    foldl_of_fixed fun x hx => hafter x fun h => hc (h ▸ hx)]

/-! ### The entry of a copy -/

theorem State.putEntry_cmds (s : State) (r : Rgn) (e : Entry) : (s.putEntry r e).regions[r].cmds =
    replaceEntry (fun y => y.eng == e.eng && y.ord == e.ord && y.issued) e s.regions[r].cmds :=
  congrArg Region.cmds (s.setCmds_region r _)

theorem State.putEntry_out (s : State) (r : Rgn) (e : Entry) : (s.putEntry r e).out = s.out := s.setCmds_out r _

/-- A copy that still waits for bytes keeps those it has. -/
theorem State.finishRemote_of_not_done {e : Entry} (h : e.work.done = false) (s : State) (r : Rgn) (p : Prt) :
    s.finishRemote r p e = s.putEntry r e := if_neg (by simp [h])

/-! ### Responses (R90, R302) -/

section
variable {s : State} {f : Flit}

theorem exec_readResp (hcomplete : s.complete = true) (htype : f.hdr.type.toNat = ftReadResp) (l : Lnk) :
    exec (.readResp l f) s = .next (s.readResp f) :=
  congrArg Host.Outcome.next ((State.started_of_complete hcomplete ..).trans (if_pos htype))

theorem State.readResp_torn (htorn : s.torn (requestOf f).tag.toNat = true) :
    s.readResp f = s.discardTorn (requestOf f).tag.toNat := if_pos htorn

/-- A response reaches the copy that asked for its bytes, in the region that runs its tag. -/
theorem State.readResp_answers {r : Rgn} {p : Prt} {e : Entry} {host : Nat} {hostGot : List Byte}
    {need : List (Nat × Nat × Nat)} {got got' : KMap} (htorn : s.torn (requestOf f).tag.toNat = false)
    (htag : ∀ x, s.regionOfTag x (requestOf f).tag.toNat = (x == r)) (hpart : s.partOf r = some p)
    (hfind : s.regions[r].cmds.find? (fun e => e.awaits (requestOf f).src.toNat (requestOf f).offset.toNat
      (requestOf f).data) = some e) (hwork : e.work = .remote host hostGot need got)
    (hgot : got' = (answers need (requestOf f).src.toNat (requestOf f).offset.toNat (requestOf f).data).foldl
      (fun m a => kset m a.1 a.2.toNat) got) :
    s.readResp f = s.finishRemote r p { e with work := .remote host hostGot need got' } := by
  have hother (x : Rgn) (hx : x ≠ r) : ¬ s.regionOfTag x (requestOf f).tag.toNat = true := by simp [htag, hx]
  have hown : s.regionOfTag r (requestOf f).tag.toNat = true := by simp [htag]
  refine (if_neg (by simp [htorn])).trans (foldl_of_only allRegions_nodup (mem_allRegions r) ?acts (fun x hx => ?before)
    fun x hx => ?after)
  case acts =>
    refine (if_pos hown).trans ?_
    simp only [hpart, hfind, hwork, hgot]
  case before => exact if_neg (hother x hx)
  case after => exact if_neg fun h => hother x hx (((Sends.finishRemote ..).regionOfTag x _).symm.trans h)

end

/-! ### Error frames (R253, R346) -/

/-- A copy of the region that names the byte which drew an error frame fails; another entry is as before. -/
def Entry.failIfNames (h : FlitHdr) (detail : Nat) (e : Entry) : Entry :=
  if e.issued && e.cmd.op / 16 == 6 && e.descs.any (fun d => namesPeer d.2 h.dest.toNat detail) then e.fail 6 else e

/-- An error frame in one region. -/
def State.failCopiesAt (s : State) (h : FlitHdr) (detail : Nat) (r : Rgn) : State :=
  if s.regionOfTag r h.tag.toNat then s.setCmds r (s.regions[r].cmds.map (Entry.failIfNames h detail)) else s

theorem State.failCopies_of_request {h : FlitHdr} (htype : h.type.toNat = ftWrite ∨ h.type.toNat = ftReadReq) (s : State)
    (detail : Nat) : s.failCopies h detail = allRegions.foldl (fun s r => s.failCopiesAt h detail r) s :=
  if_pos (by simpa using htype)

theorem State.failCopies_of_other {h : FlitHdr} (htype : ¬ (h.type.toNat = ftWrite ∨ h.type.toNat = ftReadReq)) (s : State)
    (detail : Nat) : s.failCopies h detail = s := if_neg (by simpa using htype)

theorem Sends.failCopiesAt (s : State) (h : FlitHdr) (detail : Nat) (r : Rgn) : Sends s (s.failCopiesAt h detail r) :=
  .ite (.setCmds ..) (.refl s)

theorem State.failCopiesAt_same (s : State) (h : FlitHdr) (detail : Nat) (r : Rgn) :
    (s.failCopiesAt h detail r).regions[r].cmds = if s.regionOfTag r h.tag.toNat then
      s.regions[r].cmds.map (Entry.failIfNames h detail) else s.regions[r].cmds := by
  unfold State.failCopiesAt
  split
  · exact congrArg Region.cmds (s.setCmds_region r _)
  · rfl

theorem State.failCopiesAt_ne (s : State) (h : FlitHdr) (detail : Nat) {r q : Rgn} (hq : q ≠ r) :
    (s.failCopiesAt h detail r).regions[q] = s.regions[q] := by
  unfold State.failCopiesAt
  split
  · exact s.setCmds_ne r q _ hq
  · rfl

/-- A pass over some regions fails the copies of those among them that run the tag. -/
theorem State.cmds_foldl_failCopiesAt (h : FlitHdr) (detail : Nat) (q : Rgn) (l : List Rgn) (hl : l.Nodup) (s : State) :
    (l.foldl (fun s r => s.failCopiesAt h detail r) s).regions[q].cmds = if q ∈ l ∧ s.regionOfTag q h.tag.toNat = true then
      s.regions[q].cmds.map (Entry.failIfNames h detail) else s.regions[q].cmds := by
  induction l generalizing s with
  | nil => rfl
  | cons r l ih =>
    obtain ⟨hr, hl⟩ := List.nodup_cons.1 hl
    rw [List.foldl_cons, ih hl, (Sends.failCopiesAt s h detail r).regionOfTag]
    by_cases hq : q = r
    · subst hq
      simp only [hr, false_and, if_false, List.mem_cons_self, true_and]
      exact s.failCopiesAt_same h detail q
    · rw [s.failCopiesAt_ne h detail hq]
      simp only [List.mem_cons, hq, false_or]

/-- The queues of a region after an error frame that names a WRITE or a READ_REQ. -/
theorem State.cmds_failCopies {h : FlitHdr} (htype : h.type.toNat = ftWrite ∨ h.type.toNat = ftReadReq) (s : State)
    (detail : Nat) (q : Rgn) : (s.failCopies h detail).regions[q].cmds = if s.regionOfTag q h.tag.toNat then
      s.regions[q].cmds.map (Entry.failIfNames h detail) else s.regions[q].cmds := by
  rw [State.failCopies_of_request htype, State.cmds_foldl_failCopiesAt _ _ _ _ allRegions_nodup]
  simp only [mem_allRegions, true_and]

/-- An issued copy that names the byte has failed. -/
theorem failed_of_failIfNames {h : FlitHdr} {detail : Nat} {y : Entry}
    (hissued : (y.failIfNames h detail).issued = true) (hop : (y.failIfNames h detail).cmd.op / 16 = 6)
    (hnames : (y.failIfNames h detail).descs.any (fun d => namesPeer d.2 h.dest.toNat detail) = true) :
    y.failIfNames h detail = y.fail 6 := by
  by_cases hy : (y.issued && y.cmd.op / 16 == 6 && y.descs.any (fun d => namesPeer d.2 h.dest.toNat detail)) = true
  · exact if_pos hy
  · rw [show y.failIfNames h detail = y from if_neg hy] at hissued hop hnames
    exact absurd (by simp [hissued, hop, hnames]) hy

section
variable {s : State} {m : ErrMsg}

theorem exec_error (hcomplete : s.complete = true) (l : Lnk) :
    exec (.error l m) s = .next (if m.dest.toNat = s.addr then s.errorFrame m else s) :=
  congrArg Host.Outcome.next (State.started_of_complete hcomplete ..)

/-- The error frame that a WRITE or a READ_REQ drew fails copies. -/
theorem State.errorFrame_of_request (htype : m.offender.type.toNat = ftWrite ∨ m.offender.type.toNat = ftReadReq) :
    s.errorFrame m = s.failCopies m.offender m.detail.toNat := by
  refine if_neg fun h => ?_
  have hmgmt : m.offender.type.toNat = ftMgmt := by
    simp only [Bool.and_eq_true, beq_iff_eq] at h
    exact h.1
  rcases htype with ht | ht <;> exact absurd (ht.symm.trans hmgmt) (by decide)

/-- The error frame that the running fabric post drew answers it. -/
theorem State.errorFrame_of_post (htype : m.offender.type.toNat = ftMgmt)
    (hdest : m.offender.dest.toNat = s.get PH_FSEND.DEST) (hstatus : s.get PH_FSEND.STATUS = 1) :
    s.errorFrame m = s.put PH_FSEND.STATUS (fpostStatus m.code.toNat) := by
  have hnone : s.failCopies m.offender m.detail.toNat = s := State.failCopies_of_other (by rw [htype]; decide) s _
  unfold State.errorFrame
  rw [hnone]
  refine (if_pos (by simp [htype, hdest])).trans (if_pos hstatus)

end

theorem fpostStatus_mod (code : Nat) : fpostStatus code % 2 ^ PH_FSEND.STATUS.width = fpostStatus code := by
  unfold fpostStatus
  split
  · rfl
  · split <;> rfl

/-! ### Completions of host reads (R337) -/

section
variable {s : State} {r : Rgn} {k : Nat} {p : Prt} {e : Entry} {need : Nat} {got : List Byte}
  {peers : List (Nat × Nat × Nat)} {peerGot : KMap} (hpart : s.partOf r = some p)
  (hfind : s.regions[r].cmds.find? (fun e => e.eng == 31 + k && e.issued) = some e)
  (hwork : e.work = .remote need got peers peerGot) (hleft : got.length < need)
include hpart hfind hwork hleft

/-- Data join what a copy has. -/
theorem State.completion_data (bs : List Byte) : s.completion r k 0 bs =
    s.finishRemote r p { e with work := .remote need ((got ++ bs).take need) peers peerGot } := by
  simp only [State.completion, hpart, hfind, hwork, if_pos hleft]
  rfl

/-- A status of UR or CA fails the copy. -/
theorem State.completion_failed {status : Nat} (hstatus : status = 1 ∨ status = 4) (bs : List Byte) :
    s.completion r k status bs = s.putEntry r (e.fail 6) := by
  simp only [State.completion, hpart, hfind, hwork, if_pos hleft, if_pos hstatus]

end

/-- Settles O39: a response or a completion by the entry that waits, an error frame by the flit that drew it. -/
theorem answersReachTheirCommands : Obligations.AnswersReachTheirCommands := by
  unfold Obligations.AnswersReachTheirCommands
  refine ⟨⟨?response, fun s l m hcomplete hdest => ⟨?post, ?copies⟩, ?elsewhere, ?before⟩, ?completion⟩
  case response =>
    rintro s l f q r p e host hostGot need got got' rfl hcomplete htype
    rw [exec_readResp hcomplete htype]
    refine ⟨fun htorn => by rw [State.readResp_torn htorn], ?_⟩
    intro htorn htag hpart hfind hwork hgot
    have hanswer := State.readResp_answers htorn htag hpart hfind hwork hgot
    refine ⟨fun hopen => ?_, fun _ => by rw [hanswer]⟩
    rw [State.finishRemote_of_not_done hopen] at hanswer
    refine ⟨_, (exec_readResp hcomplete htype l).trans (congrArg _ hanswer), State.putEntry_cmds .., ?_, State.putEntry_out ..⟩
    exact (Sends.putEntry ..).mem
  case post =>
    intro htype hto hstatus
    have hexec := exec_error (m := m) hcomplete l
    rw [if_pos hdest, State.errorFrame_of_post htype hto hstatus] at hexec
    exact ⟨_, hexec, (State.get_put_self ..).trans (fpostStatus_mod _), .put s _ _ (by decide) (by decide) (by decide), .put ..⟩
  case copies =>
    intro htype
    have hexec := exec_error (m := m) hcomplete l
    rw [if_pos hdest, State.errorFrame_of_request htype] at hexec
    refine ⟨_, hexec, fun r htag e he hissued hop hnames => ?_, fun r htag => ?_, (Sends.failCopies ..).mem⟩
    · rw [State.cmds_failCopies htype, if_pos htag] at he
      obtain ⟨y, -, rfl⟩ := List.mem_map.1 he
      rw [failed_of_failIfNames hissued hop hnames]
      exact ⟨rfl, rfl, rfl⟩
    · rw [State.cmds_failCopies htype, if_neg (by simp [htag])]
  case elsewhere => exact fun s l m hcomplete hdest => (exec_error hcomplete l).trans (by rw [if_neg hdest])
  case before =>
    rintro s l f m i hcomplete (rfl | rfl)
    · exact completes_before_start rfl hcomplete
    · exact completes_before_start rfl hcomplete
  case completion =>
    rintro s r k p e need got bs peers peerGot w hpart hfind hwork hleft rfl
    have hdata := State.completion_data hpart hfind hwork hleft bs
    refine ⟨fun hopen => ?_, fun _ => congrArg Host.Outcome.next hdata, fun status hstatus => ?_⟩
    · rw [State.finishRemote_of_not_done hopen] at hdata
      exact ⟨_, congrArg Host.Outcome.next hdata, State.putEntry_cmds .., (Sends.putEntry ..).mem, State.putEntry_out ..,
        (Sends.putEntry ..).regs⟩
    · have hnat : status.toNat = 1 ∨ status.toNat = 4 := hstatus.imp (congrArg BitVec.toNat) (congrArg BitVec.toNat)
      exact ⟨_, congrArg Host.Outcome.next (State.completion_failed hpart hfind hwork hleft hnat bs), State.putEntry_cmds ..,
        (Sends.putEntry ..).mem, State.putEntry_out .., (Sends.putEntry ..).regs⟩

end Sys2Proof.Machine
end

section
/-!
What the checks of a matrix engine find (R154-R156) and what a comparison of shadow digests leaves (R329, R330), and the
settlement of O22. An engine that leaves service does so by one operation, whatever the finding that takes it out, so what
that operation leaves is said once. A unit in hardening-off is named by registers of any content; its state lies at a higher
home than HUB_HARDEN, so a write of it reaches no field of HUB_HARDEN.
-/
namespace Sys2Proof.Machine

/-! ### Register fields -/

theorem SameRegs.bump (s : State) (f : Fld) (n : Nat) {i j k : Nat} (hi : i < 65536) (hj : j < 65536) (hk : k < 65536) :
    SameRegs s (s.bump f n i j k) [f] := .put s f _ hi hj hk

/-- A field read where a field of another home was written. -/
theorem State.get_put_of_home_ne (s : State) {f g : Fld} (h : f.home ≠ g.home) (v : Nat) {i j : Nat} (hi : i < 65536)
    (hj : j < 65536) : (s.put g v i j).get f i j = s.get f i j :=
  State.get_put_home _ _ _ _ _ _ _ _ _ _ h hi hj (by decide) hi hj (by decide)

/-- A write of a field, at whatever indices, leaves every field of a lower home alone. -/
theorem State.get_put_of_home_lt (s : State) {f g : Fld} (h : g.home < f.home) (v i j k : Nat) {a b c : Nat}
    (ha : a < 65536) (hb : b < 65536) (hc : c < 65536) : (s.put f v i j k).get g a b c = s.get g a b c :=
  State.get_put_ne _ _ _ _ _ _ _ _ _ _ (by unfold Fld.home at h; unfold Fld.key; omega)

/-! ### A residue mismatch and its column (R154, R155) -/

section
variable (s : State) (r : Rgn) (m : Fin 16) (col : BitVec 7)

theorem SameRegs.mismatch : SameRegs s (s.mismatch r m.val col) [ME_ERR_CNT.RESIDUE, ME_STAT.LAST_COL] :=
  ((SameRegs.bump s ME_ERR_CNT.RESIDUE 1 (by omega) (by omega) (by decide)).mono (by simp)).trans
    ((SameRegs.put _ ME_STAT.LAST_COL _ (by omega) (by omega) (by decide)).mono (by simp))

theorem OnlyRegs.mismatch : OnlyRegs s (s.mismatch r m.val col) := (OnlyRegs.bump ..).trans (.put ..)

theorem State.get_mismatch_residue : (s.mismatch r m.val col).get ME_ERR_CNT.RESIDUE r m.val =
    min ME_ERR_CNT.RESIDUE.max (s.get ME_ERR_CNT.RESIDUE r m.val + 1) :=
  (State.get_put_of_home_ne _ (by decide) _ (by omega) (by omega)).trans (State.get_bump_self ..)

theorem State.get_mismatch_lastCol : (s.mismatch r m.val col).get ME_STAT.LAST_COL r m.val = col.toNat :=
  (State.get_put_self ..).trans (Nat.mod_eq_of_lt col.isLt)

/-- A mismatch of a command that is killed for its re-run. -/
def State.killedByMismatch (s : State) (r : Rgn) (m : Nat) (col : BitVec 7) : State :=
  (s.mismatch r m col).bump RGN_SEQ_KILL.KILLED 1 r

theorem SameRegs.killedByMismatch :
    SameRegs s (s.killedByMismatch r m.val col) [ME_ERR_CNT.RESIDUE, ME_STAT.LAST_COL, RGN_SEQ_KILL.KILLED] :=
  ((SameRegs.mismatch s r m col).mono (by simp)).trans
    ((SameRegs.bump _ RGN_SEQ_KILL.KILLED 1 (by omega) (by decide) (by decide)).mono (by simp))

theorem OnlyRegs.killedByMismatch : OnlyRegs s (s.killedByMismatch r m.val col) := (OnlyRegs.mismatch ..).trans (.bump ..)

theorem State.get_killedByMismatch :
    (s.killedByMismatch r m.val col).get ME_ERR_CNT.RESIDUE r m.val =
      min ME_ERR_CNT.RESIDUE.max (s.get ME_ERR_CNT.RESIDUE r m.val + 1) ∧
    (s.killedByMismatch r m.val col).get ME_STAT.LAST_COL r m.val = col.toNat ∧
    (s.killedByMismatch r m.val col).get RGN_SEQ_KILL.KILLED r =
      min RGN_SEQ_KILL.KILLED.max (s.get RGN_SEQ_KILL.KILLED r + 1) := by
  have hkill := SameRegs.bump (s.mismatch r m.val col) RGN_SEQ_KILL.KILLED 1 (i := r) (j := 0) (k := 0) (by omega) (by decide)
    (by decide)
  refine ⟨(hkill _ _ _ _ (by omega) (by omega) (by decide) (by decide)).trans (s.get_mismatch_residue r m col),
    (hkill _ _ _ _ (by omega) (by omega) (by decide) (by decide)).trans (s.get_mismatch_lastCol r m col), ?_⟩
  rw [State.killedByMismatch, State.get_bump_self,
    SameRegs.mismatch s r m col _ _ _ _ (by omega) (by decide) (by decide) (by decide)]

/-- Neither a mismatch nor the kill touches the use of a spare. -/
theorem valid_home : ∀ j < 4, ∀ g ∈ [ME_ERR_CNT.RESIDUE, ME_STAT.LAST_COL, RGN_SEQ_KILL.KILLED],
    (ME_COL_MAP.VALID j).home ≠ g.home := by decide

theorem State.get_mismatch_valid {j : Nat} (hj : j < 4) :
    (s.mismatch r m.val col).get (ME_COL_MAP.VALID j) r m.val = s.get (ME_COL_MAP.VALID j) r m.val :=
  (SameRegs.mismatch s r m col).mono (by simp) _ _ _ _ (by omega) (by omega) (by decide) (valid_home j hj)

theorem State.get_killedByMismatch_valid {j : Nat} (hj : j < 4) :
    (s.killedByMismatch r m.val col).get (ME_COL_MAP.VALID j) r m.val = s.get (ME_COL_MAP.VALID j) r m.val :=
  SameRegs.killedByMismatch s r m col _ _ _ _ (by omega) (by omega) (by decide) (valid_home j hj)

/-- The lowest spare that is free is the next one. -/
theorem State.freeSpare_eq_some {s : State} {r m j : Nat} (hj : j < 4) (hused : ∀ i < j, s.get (ME_COL_MAP.VALID i) r m ≠ 0)
    (hfree : s.get (ME_COL_MAP.VALID j) r m = 0) : s.freeSpare r m = some j := by
  have hlist : [0, 1, 2, 3] = List.range 4 := rfl
  rw [State.freeSpare, hlist, List.find?_range_eq_some]
  exact ⟨by simpa using hfree, List.mem_range.2 hj, fun i hi => by simpa using hused i hi⟩

theorem State.freeSpare_eq_none {s : State} {r m : Nat} (hused : ∀ j < 4, s.get (ME_COL_MAP.VALID j) r m ≠ 0) :
    s.freeSpare r m = none := by
  have hlist : [0, 1, 2, 3] = List.range 4 := rfl
  rw [State.freeSpare, hlist, List.find?_range_eq_none]
  exact fun i hi => by simpa using hused i hi

/-- The registers that the mapping of a column to spare j writes. -/
def mapFields (j : Nat) : List Fld := [ME_COL_MAP.COL j, ME_COL_MAP.VALID j, ME_STAT.SPARES_USED, ME_ERR_CNT.REPAIRS]

theorem SameRegs.mapColumn (j : Nat) : SameRegs s (s.mapColumn r m.val j col) (mapFields j) :=
  have put (f : Fld) (hf : f ∈ mapFields j) (u : State) (v : Nat) : SameRegs u (u.put f v r m.val) (mapFields j) :=
    (SameRegs.put u f v (by omega) (by omega) (by decide)).mono (by simpa using hf)
  (((put _ (by simp [mapFields]) _ _).trans (put _ (by simp [mapFields]) _ _)).trans (put _ (by simp [mapFields]) _ _)).trans
    (put _ (by simp [mapFields]) _ _)

theorem OnlyRegs.mapColumn (j : Nat) : OnlyRegs s (s.mapColumn r m.val j col) :=
  (((OnlyRegs.put ..).trans (.put ..)).trans (.put ..)).trans (.bump ..)

section
variable {j : Nat} (hj : j < 4)
include hj

/-- A spare is in use after a mapping when it was before or is the one mapped to. -/
theorem State.get_putSpare_valid (c : Nat) {i : Nat} (hi : i < 4) :
    ((s.put (ME_COL_MAP.COL j) c r m.val).put (ME_COL_MAP.VALID j) 1 r m.val).get (ME_COL_MAP.VALID i) r m.val =
      if i = j then 1 else s.get (ME_COL_MAP.VALID i) r m.val := by
  split
  case isTrue h =>
    subst h
    exact State.get_put_self ..
  case isFalse h =>
    have hhomes : ∀ j < 4, ∀ i < 4, i ≠ j → ∀ g ∈ [ME_COL_MAP.COL j, ME_COL_MAP.VALID j],
        (ME_COL_MAP.VALID i).home ≠ g.home := by decide
    have hne := hhomes j hj i hi h
    exact (State.get_put_of_home_ne _ (hne _ (by simp)) _ (by omega) (by omega)).trans
      (State.get_put_of_home_ne _ (hne _ (by simp)) _ (by omega) (by omega))

/-- What the mapping of a column to spare j shows (R155, R158). -/
theorem State.get_mapColumn : (s.mapColumn r m.val j col).get (ME_COL_MAP.COL j) r m.val = col.toNat ∧
    (s.mapColumn r m.val j col).get (ME_COL_MAP.VALID j) r m.val = 1 ∧
    (s.mapColumn r m.val j col).get ME_ERR_CNT.REPAIRS r m.val =
      min ME_ERR_CNT.REPAIRS.max (s.get ME_ERR_CNT.REPAIRS r m.val + 1) ∧
    (s.mapColumn r m.val j col).get ME_STAT.SPARES_USED r m.val =
      ([0, 1, 2, 3].filter (fun i => i == j || s.get (ME_COL_MAP.VALID i) r m.val != 0)).length := by
  have hhomes : ∀ j < 4, (ME_COL_MAP.COL j).home ≠ (ME_COL_MAP.VALID j).home ∧
      (∀ f ∈ [ME_COL_MAP.COL j, ME_COL_MAP.VALID j], ∀ g ∈ [ME_STAT.SPARES_USED, ME_ERR_CNT.REPAIRS], f.home ≠ g.home) ∧
      ∀ g ∈ [ME_COL_MAP.COL j, ME_COL_MAP.VALID j, ME_STAT.SPARES_USED], ME_ERR_CNT.REPAIRS.home ≠ g.home := by decide
  obtain ⟨hcol, hcounts, hrepairs⟩ := hhomes j hj
  have kept (u : State) {f g : Fld} (v : Nat) (h : f.home ≠ g.home) : (u.put g v r m.val).get f r m.val = u.get f r m.val :=
    State.get_put_of_home_ne u h v (by omega) (by omega)
  unfold State.mapColumn State.countSpares
  refine ⟨?col, ?valid, ?repairs, ?spares⟩
  case col =>
    rw [State.bump, kept _ _ (hcounts _ (by simp) _ (by simp)), kept _ _ (hcounts _ (by simp) _ (by simp)), kept _ _ hcol,
      State.get_put_self]
    exact Nat.mod_eq_of_lt col.isLt
  case valid =>
    rw [State.bump, kept _ _ (hcounts _ (by simp) _ (by simp)), kept _ _ (hcounts _ (by simp) _ (by simp)), State.get_put_self]
    rfl
  case repairs =>
    rw [State.get_bump_self, kept _ _ (hrepairs _ (by simp)), kept _ _ (hrepairs _ (by simp)), kept _ _ (hrepairs _ (by simp))]
  case spares =>
    rw [State.bump, kept _ _ (by decide), State.get_put_self]
    refine (Nat.mod_eq_of_lt (Nat.lt_of_le_of_lt (List.length_filter_le ..) (by decide))).trans ?_
    refine congrArg List.length (List.filter_congr fun i hi => ?_)
    have hlt : i < 4 := List.mem_range.1 (hi : i ∈ List.range 4)
    rw [State.get_putSpare_valid s r m hj _ hlt]
    by_cases h : i = j <;> simp [h]

/-- What a mismatch leaves whose column is mapped to spare j and whose command is killed. -/
theorem State.get_repaired {t : State} (ht : t = (s.killedByMismatch r m.val col).mapColumn r m.val j col) :
    t.get ME_ERR_CNT.RESIDUE r m.val = min ME_ERR_CNT.RESIDUE.max (s.get ME_ERR_CNT.RESIDUE r m.val + 1) ∧
    t.get ME_STAT.LAST_COL r m.val = col.toNat ∧ t.get (ME_COL_MAP.COL j) r m.val = col.toNat ∧
    t.get (ME_COL_MAP.VALID j) r m.val = 1 ∧
    t.get ME_ERR_CNT.REPAIRS r m.val = min ME_ERR_CNT.REPAIRS.max (s.get ME_ERR_CNT.REPAIRS r m.val + 1) ∧
    t.get ME_STAT.SPARES_USED r m.val = ([0, 1, 2, 3].filter (fun i =>
      i == j || s.get (ME_COL_MAP.VALID i) r m.val != 0)).length ∧
    t.get RGN_SEQ_KILL.KILLED r = min RGN_SEQ_KILL.KILLED.max (s.get RGN_SEQ_KILL.KILLED r + 1) ∧
    t.get ME_STAT.STATE r m.val = s.get ME_STAT.STATE r m.val ∧ t.regions = s.regions ∧ t.mem = s.mem := by
  subst ht
  have hhomes : ∀ j < 4, ∀ f ∈ [ME_ERR_CNT.RESIDUE, ME_STAT.LAST_COL, RGN_SEQ_KILL.KILLED, ME_STAT.STATE],
      ∀ g ∈ mapFields j, f.home ≠ g.home := by decide
  have hmap (f : Fld) (i : Nat) (hi : i < 65536)
      (hf : f ∈ [ME_ERR_CNT.RESIDUE, ME_STAT.LAST_COL, RGN_SEQ_KILL.KILLED, ME_STAT.STATE]) :=
    SameRegs.mapColumn (s.killedByMismatch r m.val col) r m col j f r i 0 (by omega) hi (by decide) (hhomes j hj f hf)
  have hkept := SameRegs.killedByMismatch s r m col
  obtain ⟨hresidue, hlast, hkilled⟩ := s.get_killedByMismatch r m col
  obtain ⟨hcol, hvalid, hrepairs, hspares⟩ := State.get_mapColumn (s.killedByMismatch r m.val col) r m col hj
  have honly := (OnlyRegs.killedByMismatch s r m col).trans (.mapColumn _ r m col j)
  refine ⟨(hmap _ _ (by omega) (by simp)).trans hresidue, (hmap _ _ (by omega) (by simp)).trans hlast, hcol, hvalid, ?repairs,
    ?spares, (hmap _ _ (by decide) (by simp)).trans hkilled, ?state, honly.regions, honly.mem⟩
  case repairs => rw [hrepairs, hkept _ _ _ _ (by omega) (by omega) (by decide) (by decide)]
  case state =>
    exact (hmap _ _ (by omega) (by simp)).trans (hkept _ _ _ _ (by omega) (by omega) (by decide) (by decide))
  case spares =>
    rw [hspares]
    refine congrArg List.length (List.filter_congr fun i hi => ?_)
    rw [s.get_killedByMismatch_valid r m col (List.mem_range.1 (hi : i ∈ List.range 4))]

end

end

/-! ### An engine leaves service (R156) -/

section
variable (s : State) (r : Rgn) (m : Fin 16)

/-- An engine set out of service shows so, and so does its pair, whatever the pair's other engine shows. -/
theorem State.get_setMe_out : (s.setMe r m.val 1).get ME_STAT.STATE r m.val = 1 ∧
    (s.setMe r m.val 1).get SU_STAT.STATE r (m.val / 2) = 1 := by
  have hset : (s.put ME_STAT.STATE 1 r m.val).get ME_STAT.STATE r m.val = 1 := State.get_put_self ..
  refine ⟨?_, ?_⟩
  · exact (State.get_put_home _ _ _ _ _ _ _ _ _ _ (by decide) (by omega) (by omega) (by decide) (by omega) (by omega)
      (by decide)).trans hset
  · refine (State.get_put_self ..).trans ?_
    have hpair : (s.put ME_STAT.STATE 1 r m.val).pairState r (m.val / 2) = 1 := by
      refine if_neg fun ⟨heq, hne⟩ => ?_
      obtain h | h : 2 * (m.val / 2) = m.val ∨ 2 * (m.val / 2) + 1 = m.val := by omega
      · rw [h] at hne
        exact hne hset
      · rw [heq, h] at hne
        exact hne hset
    rw [hpair]
    rfl

theorem State.setMe_regions (v : Nat) : (s.setMe r m.val v).regions = s.regions := rfl

theorem State.undefineAll_regs (xs : List Extent) : (s.undefineAll xs).regs = s.regs :=
  List.foldlRecOn (motive := fun t : State => t.regs = s.regs) xs _ rfl fun _ ht _ _ => ht

theorem State.undefineAll_regions (xs : List Extent) : (s.undefineAll xs).regions = s.regions :=
  List.foldlRecOn (motive := fun t : State => t.regions = s.regions) xs _ rfl fun _ ht _ _ => ht

/-- A kill writes KILLED and what follows the queues (R136). -/
theorem SameRegs.killWhere (f : Entry → Bool) : SameRegs s (s.killWhere r f) (RGN_SEQ_KILL.KILLED :: queueFields) :=
  have undefined (xs : List Extent) : SameRegs s (s.undefineAll xs) (RGN_SEQ_KILL.KILLED :: queueFields) :=
    fun _ _ _ _ _ _ _ _ => State.get_of_regs (s.undefineAll_regs xs) ..
  ((undefined _).trans ((SameRegs.bump _ RGN_SEQ_KILL.KILLED _ (by omega) (by decide) (by decide)).mono (by simp))).trans
    ((SameRegs.setCmds _ r _).mono (List.subset_cons_self ..))

theorem State.killWhere_ne (f : Entry → Bool) {q : Rgn} (hq : q ≠ r) : (s.killWhere r f).regions[q] = s.regions[q] := by
  unfold State.killWhere
  rw [State.setCmds_ne _ _ _ _ hq, State.bump_regions, State.undefineAll_regions]

/-- After the change of STATE, an engine that leaves service writes KILLED and what follows the queues. -/
theorem SameRegs.leaveService (m e ticket : Nat) :
    SameRegs (s.setMe r m 1) (s.leaveService r m e ticket) (RGN_SEQ_KILL.KILLED :: queueFields) := by
  unfold State.leaveService State.editIssued
  exact (SameRegs.killWhere _ r _).trans ((SameRegs.setCmds _ r _).mono (List.subset_cons_self ..))

/-- An engine that leaves service sets STATE of itself and of its pair, and fails the command of the ticket with CAUSE 4. -/
theorem State.leaveService_spec (e ticket : Nat) :
    (s.leaveService r m.val e ticket).get ME_STAT.STATE r m.val = 1 ∧
    (s.leaveService r m.val e ticket).get SU_STAT.STATE r (m.val / 2) = 1 ∧
    (∀ x ∈ (s.leaveService r m.val e ticket).regions[r].cmds, x.eng = e → x.issued = true → x.ticket = ticket →
      x.failed = true ∧ x.cause = 4 ∧ x.posts = []) ∧
    ∀ q, q ≠ r → (s.leaveService r m.val e ticket).regions[q] = s.regions[q] := by
  have hregs := SameRegs.leaveService s r m.val e ticket
  obtain ⟨hengine, hpair⟩ := s.get_setMe_out r m
  refine ⟨?engine, ?pair, ?failed, ?others⟩
  case engine => exact (hregs _ _ _ _ (by omega) (by omega) (by decide) (by decide)).trans hengine
  case pair => exact (hregs _ _ _ _ (by omega) (by omega) (by decide) (by decide)).trans hpair
  case failed =>
    intro x hx heng hissued hticket
    unfold State.leaveService State.editIssued at hx
    rw [State.setCmds_region] at hx
    obtain ⟨y, -, rfl⟩ := List.mem_map.1 hx
    by_cases h : (y.eng == e && y.issued && y.ticket == ticket) = true
    · rw [if_pos h]
      exact ⟨rfl, rfl, rfl⟩
    · rw [if_neg h] at heng hissued hticket
      simp [heng, hissued, hticket] at h
  case others =>
    intro q hq
    unfold State.leaveService State.editIssued
    rw [State.setCmds_ne _ _ _ _ hq, State.killWhere_ne _ _ _ hq, State.setMe_regions]

/-! ### The findings of a matrix engine -/

/-- A re-run that meets a mismatch again. -/
theorem State.rerun_mismatch (e ticket : Nat) (col : BitVec 7) : s.rerun r m.val e ticket (.mismatch col) =
    ((s.mismatch r m.val col).bump ME_ERR_CNT.RERUN_FAIL 1 r m.val).leaveService r m.val e ticket := rfl

section
variable {s r m} {ticket : Nat} (h : s.issuedAt r m.val ticket = true)
include h

theorem State.checkEngine_corrected (n : Nat) :
    s.checkEngine r m.val m.val ticket (.corrected n) = s.bump ME_ERR_CNT.ACC_CORR n r m.val := by
  simp [State.checkEngine, h]

theorem State.checkEngine_uncorr : s.checkEngine r m.val m.val ticket .uncorr = s.leaveService r m.val m.val ticket := by
  simp [State.checkEngine, h]

/-- With a spare free, the column is mapped and the command runs again. -/
theorem State.checkEngine_residue_mapped {col : BitVec 7} {j : Nat} (hfree : (s.mismatch r m.val col).freeSpare r m.val = some j)
    (again : Rerun) : s.checkEngine r m.val m.val ticket (.residue col again) =
      ((s.killedByMismatch r m.val col).mapColumn r m.val j col).rerun r m.val m.val ticket again := by
  simp [State.checkEngine, h, hfree, State.killedByMismatch]

theorem State.checkEngine_residue_none {col : BitVec 7} (hfree : (s.mismatch r m.val col).freeSpare r m.val = none)
    (again : Rerun) : s.checkEngine r m.val m.val ticket (.residue col again) =
      (s.mismatch r m.val col).leaveService r m.val m.val ticket := by
  simp [State.checkEngine, h, hfree]

/-- The findings that take an engine out of service: a mismatch with no spare free or met again by the re-run, and an
uncorrectable accumulator word. -/
theorem State.checkEngine_leaves {x : EngCheck} {col col2 : BitVec 7}
    (hx : (∀ j < 4, s.get (ME_COL_MAP.VALID j) r m.val ≠ 0) ∧ x = .residue col .passed ∨
      x = .residue col (.mismatch col2) ∨ x = .uncorr) :
    ∃ u : State, s.checkEngine r m.val m.val ticket x = u.leaveService r m.val m.val ticket ∧ u.regions = s.regions := by
  have hmismatch := OnlyRegs.mismatch s r m col
  rcases hx with ⟨hused, rfl⟩ | rfl | rfl
  · have hnone : (s.mismatch r m.val col).freeSpare r m.val = none := State.freeSpare_eq_none fun j hj => by
      rw [State.get_mismatch_valid s r m col hj]
      exact hused j hj
    exact ⟨_, State.checkEngine_residue_none h hnone _, hmismatch.regions⟩
  · cases hspare : (s.mismatch r m.val col).freeSpare r m.val with
    | none => exact ⟨_, State.checkEngine_residue_none h hspare _, hmismatch.regions⟩
    | some j =>
      refine ⟨_, (State.checkEngine_residue_mapped h hspare _).trans (State.rerun_mismatch ..), ?_⟩
      exact ((((hmismatch.trans (.bump ..)).trans (.mapColumn ..)).trans (.mismatch ..)).trans (.bump ..)).regions
  · exact ⟨s, State.checkEngine_uncorr h, rfl⟩

/-- A residue mismatch with a spare free whose re-run passes. -/
theorem State.checkEngine_repairs (col : BitVec 7) {j : Nat} (hj : j < 4)
    (hused : ∀ i < j, s.get (ME_COL_MAP.VALID i) r m.val ≠ 0) (hfree : s.get (ME_COL_MAP.VALID j) r m.val = 0) :
    s.checkEngine r m.val m.val ticket (.residue col .passed) =
      (s.killedByMismatch r m.val col).mapColumn r m.val j col := by
  refine State.checkEngine_residue_mapped h (State.freeSpare_eq_some hj (fun i hi => ?_) ?_) .passed
  · rw [State.get_mismatch_valid s r m col (Nat.lt_trans hi hj)]
    exact hused i hi
  · rw [State.get_mismatch_valid s r m col hj]
    exact hfree

end
end

/-! ### A comparison of shadow digests (R329, R330) -/

/-- STATE of a unit is kept above HUB_HARDEN, at any indices that HUB_HARDEN may hold. -/
theorem State.get_setUnit_harden (s : State) (kind region index v : Nat) {g : Fld}
    (hg : g ∈ [HUB_HARDEN.COMPARED, HUB_HARDEN.MISMATCH]) :
    (s.setUnit kind region index v).get g = s.get g := by
  have hhomes : ∀ g ∈ [HUB_HARDEN.COMPARED, HUB_HARDEN.MISMATCH], ∀ f ∈ [ME_STAT.STATE, SU_STAT.STATE, SE_STAT.STATE],
      g.home < f.home := by decide
  have put (u : State) {f : Fld} (hf : f ∈ [ME_STAT.STATE, SU_STAT.STATE, SE_STAT.STATE]) (v i j : Nat) :
      (u.put f v i j).get g = u.get g :=
    State.get_put_of_home_lt _ (hhomes g hg f hf) _ _ _ _ (by decide) (by decide) (by decide)
  have setMe (u : State) (m : Nat) : (u.setMe region m v).get g = u.get g :=
    (put _ (by simp) _ _ _).trans (put _ (by simp) _ _ _)
  unfold State.setUnit
  split
  · exact setMe ..
  · exact (setMe ..).trans (setMe ..)
  · exact List.foldlRecOn (motive := fun t : State => t.get g = s.get g) _ _ rfl fun t ht _ _ => (put t (by simp) ..).trans ht

theorem State.get_bump_mismatch_state (s : State) :
    (s.bump HUB_HARDEN.MISMATCH 1).get HUB_HARDEN.STATE = s.get HUB_HARDEN.STATE :=
  State.get_put_of_home_ne s (by decide) _ (by decide) (by decide)

theorem OnlyRegs.setMe (s : State) (r m v : Nat) : OnlyRegs s (s.setMe r m v) := (OnlyRegs.put ..).trans (.put ..)

theorem OnlyRegs.setUnit (s : State) (kind region index v : Nat) : OnlyRegs s (s.setUnit kind region index v) := by
  unfold State.setUnit
  split
  · exact .setMe ..
  · exact (OnlyRegs.setMe ..).trans (.setMe ..)
  · exact .foldl (fun s _ => .put s ..) _ _

section
variable {s : State} {r : Rgn}

/-- A mismatch fails the attempt of the unit that HUB_HARDEN names, which leaves service again. -/
theorem State.hardenMismatch_of_hardening (h : s.get HUB_HARDEN.STATE = 1) : ∃ (kind region index : Nat) (g : Hub → Hub),
    s.hardenMismatch = (((s.bump HUB_HARDEN.MISMATCH 1).setUnit kind region index 1).put HUB_HARDEN.STATE 3).modHub g :=
  ⟨_, _, _, _, if_pos (s.get_bump_mismatch_state.trans h)⟩

/-- With no unit in hardening-off a mismatch only counts. -/
theorem State.hardenMismatch_of_idle (h : s.get HUB_HARDEN.STATE ≠ 1) : s.hardenMismatch = s.bump HUB_HARDEN.MISMATCH 1 :=
  if_neg (by rwa [State.get_bump_mismatch_state])

/-- A mismatch counts, and fails the attempt of a unit in hardening-off. -/
theorem State.hardenMismatch_spec (s : State) :
    s.hardenMismatch.get HUB_HARDEN.MISMATCH = min HUB_HARDEN.MISMATCH.max (s.get HUB_HARDEN.MISMATCH + 1) ∧
    s.hardenMismatch.get HUB_HARDEN.STATE = (if s.get HUB_HARDEN.STATE = 1 then 3 else s.get HUB_HARDEN.STATE) ∧
    s.hardenMismatch.get HUB_HARDEN.COMPARED = s.get HUB_HARDEN.COMPARED ∧
    s.hardenMismatch.regions = s.regions ∧ s.hardenMismatch.mem = s.mem ∧ s.hardenMismatch.out = s.out := by
  have kept (u : State) {f g : Fld} (v : Nat) (h : f.home ≠ g.home) : (u.put g v).get f = u.get f :=
    State.get_put_of_home_ne u h v (by decide) (by decide)
  by_cases h : s.get HUB_HARDEN.STATE = 1
  · obtain ⟨kind, region, index, g, heq⟩ := State.hardenMismatch_of_hardening h
    have hunit := OnlyRegs.setUnit (s.bump HUB_HARDEN.MISMATCH 1) kind region index 1
    rw [heq, if_pos h]
    simp only [State.get_modHub]
    refine ⟨?mismatch, State.get_put_self .., ?compared, hunit.regions, hunit.mem, hunit.out⟩
    case mismatch => rw [kept _ _ (by decide), State.get_setUnit_harden _ _ _ _ _ (by simp), State.get_bump_self]
    case compared =>
      rw [kept _ _ (by decide), State.get_setUnit_harden _ _ _ _ _ (by simp), State.bump, kept _ _ (by decide)]
  · rw [State.hardenMismatch_of_idle h, if_neg h]
    exact ⟨State.get_bump_self .., kept _ _ (by decide), kept _ _ (by decide), rfl, rfl, rfl⟩

/-- A shadow of whose ordinal no twin has committed is not found. -/
theorem not_any_twin {twins : List (Nat × Nat)} {ord : Nat} (h : ∀ w ∈ twins, w.1 ≠ ord) :
    ¬ twins.any (fun t => t.1 == ord) = true := fun hany => by
  obtain ⟨w, hw, heq⟩ := List.any_eq_true.1 hany
  exact h w hw (beq_iff_eq.1 heq)

theorem State.shadowCompare_of_none (h : ∀ x ∈ s.regions[r].shadows, ∀ w ∈ s.regions[r].twins, w.1 ≠ x.twinOrd) :
    s.shadowCompare r = s := by
  have hnone : s.regions[r].shadows.find? (fun x => s.regions[r].twins.any (fun t => t.1 == x.twinOrd)) = none :=
    List.find?_eq_none.2 fun x hx => not_any_twin (h x hx)
  unfold State.shadowCompare
  simp only [hnone]

/-- A region that has forgotten a shadow and the twins of its ordinal. -/
def Region.forgetShadow (x : Shadow) (g : Region) : Region :=
  { g with shadows := g.shadows.erase x, twins := g.twins.filter (fun t => t.1 != x.twinOrd) }

/-- The state in which a shadow and its twin have been compared and are forgotten (R329). -/
def State.comparedShadow (s : State) (r : Rgn) (x : Shadow) : State :=
  ((s.modRegion r (Region.forgetShadow x)).bump HUB_HARDEN.COMPARED 1).modHub (fun h => { h with compared := h.compared + 1 })

theorem SameRegs.comparedShadow (s : State) (r : Rgn) (x : Shadow) : SameRegs s (s.comparedShadow r x) [HUB_HARDEN.COMPARED] :=
  .bump (s.modRegion r _) HUB_HARDEN.COMPARED 1 (by decide) (by decide) (by decide)

theorem State.get_comparedShadow_compared (s : State) (r : Rgn) (x : Shadow) :
    (s.comparedShadow r x).get HUB_HARDEN.COMPARED = min HUB_HARDEN.COMPARED.max (s.get HUB_HARDEN.COMPARED + 1) :=
  State.get_bump_self (s.modRegion r _) ..

theorem State.comparedShadow_region (s : State) (r : Rgn) (x : Shadow) :
    (s.comparedShadow r x).regions[r] = s.regions[r].forgetShadow x := s.modRegion_at r _

section
variable {x : Shadow} {pre post : List Shadow} {d : Nat} (hshadows : s.regions[r].shadows = pre ++ x :: post)
  (hpre : ∀ y ∈ pre, ∀ w ∈ s.regions[r].twins, w.1 ≠ y.twinOrd) (htwin : (x.twinOrd, d) ∈ s.regions[r].twins)
include hshadows hpre htwin

/-- The oldest shadow whose twin has committed goes out of the list, the others stay. -/
theorem erase_shadow : s.regions[r].shadows.erase x = pre ++ post := by
  have hx : x ∉ pre := fun hx => hpre x hx _ htwin rfl
  rw [hshadows, List.erase_append_right _ hx, List.erase_cons_head]

/-- The digest of a shadow is compared with that of its twin. -/
theorem State.shadowCompare_of_twin (honly : ∀ w ∈ s.regions[r].twins, w.1 = x.twinOrd → w.2 = d) :
    s.shadowCompare r = if d = x.digest then s.comparedShadow r x else (s.comparedShadow r x).hardenMismatch := by
  have hfind : s.regions[r].shadows.find? (fun y => s.regions[r].twins.any (fun t => t.1 == y.twinOrd)) = some x := by
    rw [hshadows, List.find?_append, List.find?_eq_none.2 (fun y hy => not_any_twin (hpre y hy)), Option.none_or]
    exact List.find?_cons_of_pos (List.any_eq_true.2 ⟨_, htwin, beq_self_eq_true _⟩)
  have hsame : s.regions[r].twins.any (fun t => t.1 == x.twinOrd && t.2 == x.digest) = decide (d = x.digest) := by
    rw [Bool.eq_iff_iff, List.any_eq_true, decide_eq_true_iff]
    simp only [Bool.and_eq_true, beq_iff_eq]
    exact ⟨fun ⟨w, hw, hord, hdigest⟩ => (honly w hw hord).symm.trans hdigest, fun h => ⟨_, htwin, rfl, h⟩⟩
  unfold State.shadowCompare
  simp only [hfind, hsame, decide_eq_true_eq]
  rfl

end
end

/-- Settles O22: a finding of a matrix engine by what it does to the engine, a comparison by whether the digests agree. -/
theorem unitChecks : Obligations.UnitChecks := by
  unfold Obligations.UnitChecks
  refine ⟨fun s r m ticket h => ⟨?corrected, ?repaired, ?leaves⟩, fun s r => ⟨?nothing, ?compared⟩⟩
  case corrected =>
    intro n
    rw [State.checkEngine_corrected h]
    exact ⟨State.get_bump_self .., .bump s _ _ (by omega) (by omega) (by decide), .bump ..⟩
  case repaired =>
    intro col j t hj hused hfree ht
    exact State.get_repaired s r m col hj (ht.trans (State.checkEngine_repairs h col hj hused hfree))
  case leaves =>
    rintro col col2 x t rfl hx
    obtain ⟨u, heq, hregions⟩ := State.checkEngine_leaves h hx
    obtain ⟨hengine, hpair, hfailed, hothers⟩ := u.leaveService_spec r m m.val ticket
    rw [heq]
    exact ⟨hengine, hpair, hfailed, fun q hq => (hothers q hq).trans (by rw [hregions])⟩
  case nothing => exact fun hnone => congrArg Host.Outcome.next (State.shadowCompare_of_none hnone)
  case compared =>
    intro x pre post d hshadows hpre htwin honly
    refine ⟨_, congrArg Host.Outcome.next (State.shadowCompare_of_twin hshadows hpre htwin honly), ?_⟩
    have hregion := s.comparedShadow_region r x
    have hcount := s.get_comparedShadow_compared r x
    have hregs := SameRegs.comparedShadow s r x
    split
    case isTrue hsame =>
      dsimp only
      rw [hregion]
      exact ⟨erase_shadow hshadows hpre htwin, rfl, hcount, fun _ => hregs, fun hne => absurd hsame hne, rfl, rfl⟩
    case isFalse hdiffer =>
      obtain ⟨hmismatch, hstate, hcompared, hregions, hmem, hout⟩ := (s.comparedShadow r x).hardenMismatch_spec
      rw [hregs HUB_HARDEN.MISMATCH 0 0 0 (by decide) (by decide) (by decide) (by decide)] at hmismatch
      rw [hregs HUB_HARDEN.STATE 0 0 0 (by decide) (by decide) (by decide) (by decide)] at hstate
      dsimp only
      rw [hregions, hregion]
      exact ⟨erase_shadow hshadows hpre htwin, rfl, hcompared.trans hcount, fun heq => absurd heq hdiffer,
        fun _ => ⟨hmismatch, hstate⟩, hmem, hout⟩

end Sys2Proof.Machine
end

section
/-!
A flip of a pair (R214, R222) and the words that a patrol reads (R231, R232), and the settlement of O25. A patrol reaches its
word, corrects or spoils it, and then notes it with its row, which may be repaired; what each of the three writes is said once.
-/
namespace Sys2Proof.Machine

/-! ### What a patrol of one stack leaves -/

/-- Register fields but some named ones, memory, the queues, what has been sent and the other stacks are as before. -/
structure Scrubs (k : Stk) (s t : State) (changed : List Fld) : Prop where
  regs : SameRegs s t changed
  mem : t.mem = s.mem
  regions : t.regions = s.regions
  out : t.out = s.out
  others : ∀ j, j ≠ k → t.stks[j] = s.stks[j]

section
variable {k : Stk} {s t u : State} {c d : List Fld}

theorem Scrubs.refl (k : Stk) (s : State) (c : List Fld) : Scrubs k s s c := ⟨.refl s c, rfl, rfl, rfl, fun _ _ => rfl⟩

theorem Scrubs.trans (a : Scrubs k s t c) (b : Scrubs k t u c) : Scrubs k s u c :=
  ⟨a.regs.trans b.regs, b.mem.trans a.mem, b.regions.trans a.regions, b.out.trans a.out,
    fun j hj => (b.others j hj).trans (a.others j hj)⟩

theorem Scrubs.mono (h : Scrubs k s t c) (hcd : c ⊆ d) : Scrubs k s t d :=
  ⟨h.regs.mono hcd, h.mem, h.regions, h.out, h.others⟩

theorem Scrubs.put (k : Stk) (s : State) (v : Nat) {f : Fld} (hf : f ∈ c) : Scrubs k s (s.put f v k) c :=
  ⟨(SameRegs.put s f v (by omega) (by decide) (by decide)).mono (by simpa using hf), rfl, rfl, rfl, fun _ _ => rfl⟩

theorem Scrubs.bump (k : Stk) (s : State) (n : Nat) {f : Fld} (hf : f ∈ c) : Scrubs k s (s.bump f n k) c := .put k s _ hf

theorem Scrubs.modStack (k : Stk) (s : State) (g : Stack → Stack) (c : List Fld) : Scrubs k s (s.modStack k g) c :=
  ⟨.refl s c, rfl, rfl, rfl, fun j hj => s.modStack_ne k j g hj⟩

theorem Scrubs.modHub (k : Stk) (s : State) (g : Hub → Hub) (c : List Fld) : Scrubs k s (s.modHub g) c :=
  ⟨.refl s c, rfl, rfl, rfl, fun _ _ => rfl⟩

theorem Scrubs.ite {a b : State} {p : Prop} [Decidable p] (x : Scrubs k s a c) (y : Scrubs k s b c) :
    Scrubs k s (if p then a else b) c := by
  split <;> assumption

/-- A field of the stack that a patrol does not write. -/
theorem Scrubs.get (h : Scrubs k s t c) {f : Fld} (hf : ∀ g ∈ c, f.home ≠ g.home) : t.get f k = s.get f k :=
  h.regs f k 0 0 (by omega) (by decide) (by decide) hf

end

/-! ### The three parts of a patrol (R231, R232) -/

/-- The patrol reaches a word: PROGRESS and the scrubber's bit of INFLIGHT follow it, and a patrol that starts over forgets the
rows of the last one. -/
def State.reachWord (s : State) (k : Stk) (offset : Nat) : State :=
  ((if offset / 4096 < s.get SE_SCRUB.PROGRESS k then s.modStack k (fun x => { x with rowErrors := [] }) else s).put
    SE_SCRUB.PROGRESS (offset / 4096) k).scrubbing k (offset / 8 + 1 != 2 ^ 33)

/-- A word with one or two bad bits is corrected and counted. -/
def State.correctWord (s : State) (k : Stk) (badBits : Nat) : State :=
  if badBits = 2 then (s.bump SE_SCRUB.CORR 1 k).bump SE_SCRUB.DOUBLE 1 k else s.bump SE_SCRUB.CORR 1 k

/-- The bad words `e` of a row are noted, and the row is repaired if they call for it. -/
def State.noteRow (s : State) (k : Stk) (bank row granule : Nat) (e : List (Nat × Nat)) : State :=
  let t := s.modStack k (fun x => { x with
    rowErrors := x.rowErrors.filter (fun y => !(y.1 == bank && y.2.1 == row)) ++ [(bank, row, e)] })
  if needsRepair e then t.repairRow k bank row granule else t

section
variable (s : State) (k : Stk)

theorem Scrubs.reachWord (offset : Nat) :
    Scrubs k s (s.reachWord k offset) [SE_SCRUB.PROGRESS, SE_STAT.INFLIGHT] :=
  ((Scrubs.ite (.modStack k s _ _) (.refl k s _)).trans (.put k _ _ (by simp))).trans (.put k _ _ (by simp))

theorem State.reachWord_badWords (offset : Nat) : (s.reachWord k offset).badWords = s.badWords := by
  unfold State.reachWord State.scrubbing
  split <;> rfl

theorem State.get_reachWord_progress (o : BitVec 36) :
    (s.reachWord k o.toNat).get SE_SCRUB.PROGRESS k = o.toNat / 4096 := by
  have ho : o.toNat / 4096 < 2 ^ 24 := by omega
  unfold State.reachWord State.scrubbing
  rw [State.get_put_of_home_ne _ (by decide) _ (by omega) (by decide), State.get_put_self]
  exact Nat.mod_eq_of_lt ho

theorem Scrubs.correctWord (n : Nat) : Scrubs k s (s.correctWord k n) [SE_SCRUB.CORR, SE_SCRUB.DOUBLE] :=
  .ite (.trans (.bump k s 1 (by simp)) (.bump k _ 1 (by simp))) (.bump k s 1 (by simp))

theorem State.correctWord_badWords (n : Nat) : (s.correctWord k n).badWords = s.badWords := by
  unfold State.correctWord
  split <;> rfl

theorem State.get_correctWord_corr (n : Nat) : (s.correctWord k n).get SE_SCRUB.CORR k =
    min SE_SCRUB.CORR.max (s.get SE_SCRUB.CORR k + 1) := by
  unfold State.correctWord
  split
  · exact (State.get_put_of_home_ne _ (by decide) _ (by omega) (by decide)).trans (State.get_bump_self ..)
  · exact State.get_bump_self ..

theorem State.get_correctWord_double (n : Nat) : (s.correctWord k n).get SE_SCRUB.DOUBLE k =
    if n = 2 then min SE_SCRUB.DOUBLE.max (s.get SE_SCRUB.DOUBLE k + 1) else s.get SE_SCRUB.DOUBLE k := by
  have hcorr : (s.bump SE_SCRUB.CORR 1 k).get SE_SCRUB.DOUBLE k = s.get SE_SCRUB.DOUBLE k :=
    State.get_put_of_home_ne _ (by decide) _ (by omega) (by decide)
  unfold State.correctWord
  split
  · rw [State.get_bump_self, hcorr]
  · exact hcorr

theorem Scrubs.noteRow (bank row granule : Nat) (e : List (Nat × Nat)) :
    Scrubs k s (s.noteRow k bank row granule e) [SE_REPAIR.SOFT, SE_REPAIR.NO_SPARE, SE_REPAIR.SPARES_LEFT] := by
  have hrepair (t : State) : Scrubs k t (t.repairRow k bank row granule)
      [SE_REPAIR.SOFT, SE_REPAIR.NO_SPARE, SE_REPAIR.SPARES_LEFT] :=
    .ite (.trans (.bump k t 1 (by simp)) (.modHub k _ _ _))
      (((Scrubs.modStack k t _ _).trans (.bump k _ 1 (by simp))).trans (.put k _ _ (by simp)))
  have hnoted := Scrubs.modStack k s (fun x => { x with
    rowErrors := x.rowErrors.filter (fun y => !(y.1 == bank && y.2.1 == row)) ++ [(bank, row, e)] })
  exact .ite ((hnoted _).trans (hrepair _)) (hnoted _)

theorem State.noteRow_badWords (bank row granule : Nat) (e : List (Nat × Nat)) :
    (s.noteRow k bank row granule e).badWords = s.badWords := by
  unfold State.noteRow State.repairRow
  dsimp only
  repeat' split
  all_goals rfl

end

/-! ### A word that is lost (R231, R234) -/

theorem mem_addOnce (xs : List Nat) (x y : Nat) : y ∈ addOnce xs x ↔ y = x ∨ y ∈ xs := by
  unfold addOnce
  split
  case isTrue h =>
    have hx : x ∈ xs := List.contains_iff_mem.1 h
    exact ⟨.inr, fun hy => hy.elim (· ▸ hx) id⟩
  case isFalse => simp [or_comm]

section
variable (s : State) {k : Stk} {o : BitVec 36} {w : Nat} (hw : w = (k.val * 2 ^ 36 + o.toNat) / 8)
include hw

/-- A lost word of the stack counts in SE_ERR and stands in SE_ERR_ADDR. -/
theorem State.meetBad_word : s.meetBad [w] =
    ((s.bump SE_ERR.UNCORR 1 k).put SE_ERR_ADDR.OFFSET (o.toNat / 8 * 8) k).put SE_ERR_ADDR.VALID 1 k := by
  have hstack : w * 8 / 2 ^ 36 = k.val := by omega
  have hoffset : w * 8 % 2 ^ 36 = o.toNat / 8 * 8 := by omega
  simp only [State.meetBad, List.foldl_cons, List.foldl_nil, hstack, hoffset]

theorem Scrubs.spoilWord : Scrubs k s (s.spoilWord w) [SE_ERR_ADDR.VALID, SE_ERR_ADDR.OFFSET, SE_ERR.UNCORR] := by
  have hmeet (t : State) : Scrubs k t (t.meetBad [w]) [SE_ERR_ADDR.VALID, SE_ERR_ADDR.OFFSET, SE_ERR.UNCORR] := by
    rw [State.meetBad_word t hw]
    exact ((Scrubs.bump k t 1 (by simp)).trans (.put k _ _ (by simp))).trans (.put k _ _ (by simp))
  have hmark (t : State) (ws : List Nat) (c : List Fld) : Scrubs k t { t with badWords := ws } c :=
    ⟨.refl t c, rfl, rfl, rfl, fun _ _ => rfl⟩
  exact ((Scrubs.ite (.modHub k s _ _) (.refl k s _)).trans (hmark _ _ _)).trans (hmeet _)

theorem State.mem_badWords_spoilWord (v : Nat) : v ∈ (s.spoilWord w).badWords ↔ v = w ∨ v ∈ s.badWords := by
  rw [State.spoilWord, State.meetBad_word _ hw, ← mem_addOnce]
  dsimp only [State.put_badWords, State.bump_badWords]
  split <;> rfl

theorem State.get_spoilWord :
    (s.spoilWord w).get SE_ERR_ADDR.VALID k = 1 ∧ (s.spoilWord w).get SE_ERR_ADDR.OFFSET k = o.toNat / 8 * 8 ∧
    (s.spoilWord w).get SE_ERR.UNCORR k = min SE_ERR.UNCORR.max (s.get SE_ERR.UNCORR k + 1) := by
  have hsame {f g : Fld} (h : f.home ≠ g.home) (t : State) (v : Nat) : (t.put g v k).get f k = t.get f k :=
    State.get_put_of_home_ne t h v (by omega) (by decide)
  have hoffset : o.toNat / 8 * 8 < 2 ^ 36 := by omega
  rw [State.spoilWord, State.meetBad_word _ hw]
  refine ⟨State.get_put_self .., ?_, ?_⟩
  · rw [hsame (by decide), State.get_put_self]
    exact Nat.mod_eq_of_lt hoffset
  · rw [hsame (by decide), hsame (by decide), State.get_bump_self]
    split <;> rfl

end

/-! ### A patrol, by what it finds -/

theorem ite_eq_of_iff {α : Type} {p q : Prop} [Decidable p] [Decidable q] {a b c d : α} (h : p ↔ q) (hac : a = c)
    (hbd : b = d) : (if p then a else b) = if q then c else d :=
  ite_congr (propext h) (fun _ => hac) fun _ => hbd

/-- The bad words of a row once a word with its number of bad bits is noted, each word once. -/
def Stack.withWord (x : Stack) (bank row w bits : Nat) : List (Nat × Nat) :=
  (x.errorsOf bank row).filter (fun y => y.1 != w) ++ [(w, bits)]

theorem State.patrol_eq (s : State) (k : Stk) {offset n w : Nat} (hw : w = (k.val * 2 ^ 36 + offset) / 8)
    (bank row : Nat) : ∃ granule e, s.patrol k offset n bank row =
      if n = 0 ∧ w ∉ s.badWords then s.reachWord k offset
      else (if 3 ≤ n ∨ w ∈ s.badWords then (s.reachWord k offset).spoilWord w
        else (s.reachWord k offset).correctWord k n).noteRow k bank row granule e := by
  let lost := decide (3 ≤ n) || (s.reachWord k offset).badWords.contains w
  have hlost : lost = true ↔ 3 ≤ n ∨ w ∈ s.badWords := by
    simp [lost, s.reachWord_badWords]
  have hgood : (decide (n = 0) && !lost) = true ↔ n = 0 ∧ w ∉ s.badWords := by
    rw [Bool.and_eq_true, Bool.not_eq_true', ← Bool.not_eq_true, hlost, decide_eq_true_eq, not_or]
    exact ⟨fun ⟨hn, _, hw⟩ => ⟨hn, hw⟩, fun ⟨hn, hw⟩ => ⟨hn, by omega, hw⟩⟩
  refine ⟨64 * k.val + offset / 2 ^ 30, (s.reachWord k offset).stks[k].withWord bank row w (if lost then 3 else n), ?_⟩
  refine Eq.trans ?_ (ite_eq_of_iff hgood rfl (congrArg (State.noteRow · k bank row _ _)
    (ite_eq_of_iff hlost rfl rfl)))
  subst hw
  rfl

section
variable (s : State) (k : Stk) {offset n w : Nat} (hw : w = (k.val * 2 ^ 36 + offset) / 8) (bank row : Nat)
include hw

theorem State.patrol_good (hgood : w ∉ s.badWords) : s.patrol k offset 0 bank row = s.reachWord k offset := by
  obtain ⟨granule, e, h⟩ := s.patrol_eq k (n := 0) hw bank row
  exact h.trans (if_pos ⟨rfl, hgood⟩)

theorem State.patrol_corrects (hn : n = 1 ∨ n = 2) (hgood : w ∉ s.badWords) : ∃ granule e,
    s.patrol k offset n bank row = ((s.reachWord k offset).correctWord k n).noteRow k bank row granule e := by
  obtain ⟨granule, e, h⟩ := s.patrol_eq k (n := n) hw bank row
  refine ⟨granule, e, h.trans ?_⟩
  rw [if_neg (fun hclean => by omega), if_neg (not_or_intro (by omega) hgood)]

theorem State.patrol_spoils (hlost : 3 ≤ n ∨ w ∈ s.badWords) : ∃ granule e,
    s.patrol k offset n bank row = ((s.reachWord k offset).spoilWord w).noteRow k bank row granule e := by
  obtain ⟨granule, e, h⟩ := s.patrol_eq k (n := n) hw bank row
  refine ⟨granule, e, h.trans ?_⟩
  rw [if_neg (fun ⟨hn, hgood⟩ => hlost.elim (by omega) hgood), if_pos hlost]

end

/-- What a patrol writes once it has reached its word. -/
theorem Scrubs.patrol (s : State) (k : Stk) (o : BitVec 36) (n bank row : Nat) :
    Scrubs k (s.reachWord k o.toNat) (s.patrol k o.toNat n bank row)
      ([SE_SCRUB.CORR, SE_SCRUB.DOUBLE] ++ [SE_ERR_ADDR.VALID, SE_ERR_ADDR.OFFSET, SE_ERR.UNCORR] ++
        [SE_REPAIR.SOFT, SE_REPAIR.NO_SPARE, SE_REPAIR.SPARES_LEFT]) := by
  obtain ⟨granule, e, h⟩ := s.patrol_eq k (offset := o.toNat) (n := n) rfl bank row
  rw [h]
  refine .ite (.refl ..) (.trans (.ite ?_ ?_) ((Scrubs.noteRow ..).mono (List.subset_append_right ..)))
  · exact (Scrubs.spoilWord _ rfl).mono (by simp)
  · exact (Scrubs.correctWord ..).mono (by simp)

/-! ### A flip (R214, R222) -/

theorem State.get_flipPair (s : State) (k : Stk) (p : Fin 64) (step : Nat) :
    (s.flipPair k p step).get SE_BUF1.CUR k p = 1 - s.get SE_BUF1.CUR k p ∧
    (s.flipPair k p step).get SE_BUF1.STEP k p = step % 2 ^ 32 ∧
    ∀ q : Fin 64, q ≠ p → (s.flipPair k p step).get SE_BUF1.CUR k q = s.get SE_BUF1.CUR k q := by
  have hsame {f g : Fld} (h : f.home ≠ g.home) (t : State) (v : Nat) (q : Fin 64) :
      (t.put g v k p).get f k q = t.get f k q :=
    State.get_put_home _ _ _ _ _ _ _ _ _ _ h (by omega) (by omega) (by decide) (by omega) (by omega) (by decide)
  have hcur : (1 - s.get SE_BUF1.CUR k p) % 2 ^ SE_BUF1.CUR.width = 1 - s.get SE_BUF1.CUR k p :=
    Nat.mod_eq_of_lt (by change _ < 2; omega)
  unfold State.flipPair
  simp only [State.get_modHub]
  refine ⟨?cur, ?step, fun q hq => ?others⟩
  case cur => rw [hsame (by decide), hsame (by decide), State.get_put_self, hcur]
  case step => exact (hsame (by decide) ..).trans (State.get_put_self ..)
  case others =>
    rw [hsame (by decide), hsame (by decide)]
    exact State.get_put_ne _ _ _ _ _ _ _ _ _ _ (Fld.key_ne_ix _ _ _ _ _ _ _ (by omega) (by omega) (by decide) (by omega)
      (by omega) (by decide) (.inr (.inl fun h => hq (Fin.ext h))))

/-- Settles O25: a patrol reaches its word, corrects or spoils it if it must, and notes it with its row. -/
theorem flipsAndScrubs : Obligations.FlipsAndScrubs := by
  unfold Obligations.FlipsAndScrubs
  refine ⟨fun s k p step => ?flip, fun s k o n bank row w hw => ⟨_, rfl, ?patrol⟩⟩
  case flip =>
    obtain ⟨hcur, hstep, hothers⟩ := s.get_flipPair k p step
    exact ⟨hcur, hstep, rfl, hothers⟩
  case patrol =>
    have hreach := Scrubs.reachWord s k o.toNat
    have hpatrol := Scrubs.patrol s k o n bank row
    refine ⟨(hpatrol.get (by decide)).trans (s.get_reachWord_progress k o), hpatrol.mem.trans hreach.mem,
      hpatrol.regions.trans hreach.regions, hpatrol.out.trans hreach.out,
      fun j hj => (hpatrol.others j hj).trans (hreach.others j hj), ?good, ?corrected, ?lost⟩
    case good =>
      rintro rfl hgood
      rw [s.patrol_good k hw bank row hgood]
      exact ⟨s.reachWord_badWords k _, hreach.regs⟩
    case corrected =>
      intro hn hgood
      obtain ⟨granule, e, heq⟩ := s.patrol_corrects k hw bank row hn hgood
      have hcorrect := Scrubs.correctWord (s.reachWord k o.toNat) k n
      have hnote := Scrubs.noteRow ((s.reachWord k o.toNat).correctWord k n) k bank row granule e
      rw [heq]
      refine ⟨?_, ?_, ?_, ((hreach.mono (by simp)).trans ((hcorrect.mono (by simp)).trans (hnote.mono (by simp)))).regs⟩
      · rw [State.noteRow_badWords, State.correctWord_badWords, State.reachWord_badWords]
      · rw [hnote.get (by decide), State.get_correctWord_corr, hreach.get (by decide)]
      · rw [hnote.get (by decide), State.get_correctWord_double, hreach.get (by decide)]
    case lost =>
      intro hlost
      obtain ⟨granule, e, heq⟩ := s.patrol_spoils k hw bank row hlost
      have hspoil := Scrubs.spoilWord (s.reachWord k o.toNat) hw
      have hnote := Scrubs.noteRow ((s.reachWord k o.toNat).spoilWord w) k bank row granule e
      obtain ⟨hvalid, hoffset, huncorr⟩ := State.get_spoilWord (s.reachWord k o.toNat) hw
      rw [heq]
      refine ⟨fun v => ?_, ?_, ?_, ?_,
        ((hreach.mono (by simp)).trans ((hspoil.mono (by simp)).trans (hnote.mono (by simp)))).regs⟩
      · rw [State.noteRow_badWords, State.mem_badWords_spoilWord _ hw, State.reachWord_badWords]
      · rw [hnote.get (by decide), hvalid]
      · rw [hnote.get (by decide), hoffset]
      · rw [hnote.get (by decide), huncorr, hreach.get (by decide)]

end Sys2Proof.Machine
end

section
/-!
Little-endian fields of a byte list (R4), and the reply of Icholt in an outbound pigeonhole (R340, R341, R347): the eight
words of the pigeonhole are the words of the reply's 64 bytes.
-/
namespace Sys2Proof.Machine

/-! ### Little-endian fields -/

theorem ofLe_append (bs cs : List Byte) : ofLe (bs ++ cs) = ofLe bs + 256 ^ bs.length * ofLe cs := by
  induction bs with
  | nil => simp [ofLe]
  | cons b bs ih =>
    rw [List.cons_append, ofLe, ih, ofLe, List.length_cons, Nat.pow_succ', Nat.mul_add, Nat.mul_assoc, Nat.add_assoc]

theorem ofLe_replicate_zero (n : Nat) : ofLe (List.replicate n 0) = 0 := by
  induction n with
  | zero => rfl
  | succ n ih => rw [List.replicate_succ, ofLe, ih]; rfl

theorem ofLe_lt (bs : List Byte) : ofLe bs < 256 ^ bs.length := by
  induction bs with
  | nil => exact Nat.one_pos
  | cons b bs ih =>
    have hb : b.toNat < 256 := b.isLt
    rw [ofLe, List.length_cons, Nat.pow_succ]
    omega

@[simp] theorem length_toLe (n v : Nat) : (toLe n v).length = n := by
  induction n generalizing v with
  | zero => rfl
  | succ n ih => rw [toLe, List.length_cons, ih]

/-- A number that n bytes hold is what they read as. -/
theorem ofLe_toLe {n v : Nat} (h : v < 256 ^ n) : ofLe (toLe n v) = v := by
  induction n generalizing v with
  | zero => exact (Nat.lt_one_iff.1 h).symm
  | succ n ih =>
    rw [Nat.pow_succ] at h
    rw [toLe, ofLe, ih (Nat.div_lt_of_lt_mul (by omega)), BitVec.toNat_ofNat]
    omega

theorem leAt_lt (bs : List Byte) (a n : Nat) : leAt bs a n < 256 ^ n :=
  Nat.lt_of_lt_of_le (ofLe_lt _) (Nat.pow_le_pow_right (by decide) (List.length_take_le ..))

/-- Bytes past the end of a list read as zero. -/
theorem leAt_append_zeros (bs : List Byte) (a n z : Nat) : leAt (bs ++ List.replicate z 0) a n = leAt bs a n := by
  rw [leAt, List.drop_append, List.take_append, List.drop_replicate, List.take_replicate, ofLe_append, ofLe_replicate_zero,
    Nat.mul_zero, Nat.add_zero, leAt]

theorem leAt_padTo {bs : List Byte} {n : Nat} (h : bs.length ≤ n) (a k : Nat) : leAt (padTo n bs) a k = leAt bs a k := by
  rw [padTo, List.take_of_length_le h, leAt_append_zeros]

theorem leAt_append_right {bs cs : List Byte} {a b : Nat} (h : a = bs.length + b) (n : Nat) :
    leAt (bs ++ cs) a n = leAt cs b n := by
  rw [leAt, h, List.drop_append, List.drop_of_length_le (by omega), List.nil_append, Nat.add_sub_cancel_left, leAt]

theorem leAt_append_left {bs cs : List Byte} {n : Nat} (h : bs.length = n) : leAt (bs ++ cs) 0 n = ofLe bs := by
  rw [leAt, List.drop_zero, ← h, List.take_left]

/-! ### Registers of a pigeonhole -/

/-- A run of writes of one field, each at its own second index. -/
theorem State.get_foldl_put_second (f : Fld) (v : Nat → Nat) {i j : Nat} (hi : i < 65536) (hj : j < 65536) (l : List Nat)
    (s : State) (hl : ∀ x ∈ l, x < 65536) :
    (l.foldl (fun s x => s.put f (v x) i x) s).get f i j = if j ∈ l then v j % 2 ^ f.width else s.get f i j := by
  induction l generalizing s with
  | nil => rfl
  | cons x l ih =>
    have hx : x < 65536 := hl x List.mem_cons_self
    rw [List.foldl_cons, ih _ fun y hy => hl y (List.mem_cons_of_mem x hy)]
    by_cases hmem : j ∈ l
    · rw [if_pos hmem, if_pos (List.mem_cons_of_mem x hmem)]
    by_cases hjx : j = x
    · subst hjx
      rw [if_neg hmem, if_pos List.mem_cons_self, State.get_put_self]
    · rw [if_neg hmem, if_neg (by simp [hjx, hmem])]
      exact State.get_put_ne _ _ _ _ _ _ _ _ _ _
        (Fld.key_ne_ix _ _ _ _ _ _ _ hi hx (by decide) hi hj (by decide) (.inr (.inl hjx)))

section
variable (s : State) (n : Fin 16) (msg : List Nat)

/-- The eight words of a message in outbound pigeonhole n. -/
def State.putWords (s : State) (n : Nat) (msg : List Nat) : State :=
  (List.range 8).foldl (fun s j => s.put PH_OUT.WORD (msg.getD j 0) n j) s

/-- What a message of Icholt leaves in outbound pigeonhole n (R340, R341). -/
theorem State.phEnter_outbound : s.phEnter (16 + n) 6 0 msg =
    (((s.putWords n msg).put PH_OUT_STAT.FULL 1 n).put PH_OUT_STAT.POSTS
      ((s.putWords n msg).get PH_OUT_STAT.POSTS n + 1) n).put PH_OUT_STAT.SRC 6 n := by
  have hout : ¬ 16 + n.val < 16 := by omega
  have hmod : (16 + n.val) % 16 = n.val := by omega
  simp only [State.phEnter, phWord, phFull, phPosts, phSrc, if_neg hout, hmod]
  rfl

theorem State.get_phEnter_outbound :
    (∀ j < 8, (s.phEnter (16 + n) 6 0 msg).get PH_OUT.WORD n j = msg.getD j 0 % 2 ^ 64) ∧
    (s.phEnter (16 + n) 6 0 msg).get PH_OUT_STAT.FULL n = 1 := by
  rw [State.phEnter_outbound]
  have hsame {f g : Fld} (h : f.home ≠ g.home) (t : State) (v : Nat) {j : Nat} (hj : j < 65536) :
      (t.put g v n).get f n j = t.get f n j :=
    State.get_put_home _ _ _ _ _ _ _ _ _ _ h (by omega) hj (by decide) (by omega) (by decide) (by decide)
  refine ⟨fun j hj => ?_, ?_⟩
  · rw [hsame (by decide) _ _ (by omega), hsame (by decide) _ _ (by omega), hsame (by decide) _ _ (by omega), State.putWords,
      State.get_foldl_put_second PH_OUT.WORD (msg.getD · 0) (by omega) (by omega) _ _ (by simp; omega),
      if_pos (List.mem_range.2 hj)]
    rfl
  · rw [hsame (by decide) _ _ (by decide), hsame (by decide) _ _ (by decide), State.get_put_self]
    rfl

theorem OnlyRegs.phEnter_outbound : OnlyRegs s (s.phEnter (16 + n) 6 0 msg) := by
  rw [State.phEnter_outbound]
  exact (((OnlyRegs.foldl (fun s _ => .put s ..) _ _).trans (.put ..)).trans (.put ..)).trans (.put ..)

/-- An outbound pigeonhole that is empty, or full in fast mode, takes the message (R342). -/
theorem State.phPut_outbound (hfree : s.bit PH_OUT_STAT.FULL n = false ∨ s.bit PH_MODE.STRICT = false) :
    ∃ t, OnlyRegs s t ∧ (s.phPut (16 + n) 6 0 msg).1 = t.phEnter (16 + n) 6 0 msg := by
  have hfull : phFull (16 + n.val) = PH_OUT_STAT.FULL := if_neg (by omega)
  have hmod : (16 + n.val) % 16 = n.val := by omega
  unfold State.phPut
  rw [hfull, hmod]
  by_cases hempty : s.bit PH_OUT_STAT.FULL n = false
  · exact ⟨s, .refl s, by rw [hempty]; rfl⟩
  · exact ⟨_, .put s .., by rw [hfree.resolve_left hempty, if_neg (by simpa using hempty)]; rfl⟩

end

/-! ### A reply (R347) -/

/-- The 64 bytes of a reply. -/
theorem reply_words {op seq st : Nat} (hop : op < 65536) (hseq : seq < 65536) (hst : st < 65536) {body : List Byte}
    (hbody : body.length ≤ 56) :
    let m := padTo 64 (toLe 2 op ++ toLe 2 seq ++ toLe 2 st ++ [0, 0] ++ body)
    leAt m 0 8 = op + 65536 * seq + 65536 ^ 2 * st ∧ ∀ j, 1 ≤ j → leAt m (8 * j) 8 = leAt body (8 * (j - 1)) 8 := by
  intro m
  have hhead : (toLe 2 op ++ toLe 2 seq ++ toLe 2 st ++ [0, 0]).length = 8 := by simp
  have hm (a n : Nat) : leAt m a n = leAt (toLe 2 op ++ toLe 2 seq ++ toLe 2 st ++ [0, 0] ++ body) a n :=
    leAt_padTo (by rw [List.length_append, hhead]; omega) a n
  refine ⟨?_, fun j hj => ?_⟩
  · rw [hm, leAt_append_left hhead]
    simp only [ofLe_append, List.length_append, length_toLe, ofLe_toLe (show op < 256 ^ 2 from hop),
      ofLe_toLe (show seq < 256 ^ 2 from hseq), ofLe_toLe (show st < 256 ^ 2 from hst)]
    change op + 256 ^ 2 * seq + 256 ^ (2 + 2) * st + 256 ^ 6 * 0 = _
    omega
  · rw [hm]
    exact leAt_append_right (by rw [hhead]; omega) 8

/-- A reply is the message of Icholt in the outbound pigeonhole of the number, unless its domain is dormant (R344). -/
theorem State.reply_spec {s : State} {n : Fin 16} {op seq st : Nat} {body : List Byte} (hbody : body.length ≤ 56)
    (hop : op < 65536) (hseq : seq < 65536) (hst : st < 65536) (hawake : s.phDormant (16 + n) = false)
    (hfree : s.bit PH_OUT_STAT.FULL n = false ∨ s.bit PH_MODE.STRICT = false) :
    (∀ j, 1 ≤ j → j < 8 → (s.reply n op seq st body).get PH_OUT.WORD n j = leAt body (8 * (j - 1)) 8) ∧
    (s.reply n op seq st body).get PH_OUT.WORD n 0 = op + 65536 * seq + 65536 ^ 2 * st ∧
    (s.reply n op seq st body).get PH_OUT_STAT.FULL n = 1 ∧ OnlyRegs s (s.reply n op seq st body) := by
  obtain ⟨hfirst, hothers⟩ := reply_words hop hseq hst hbody
  unfold State.reply
  dsimp only at hfirst hothers ⊢
  generalize padTo 64 _ = m at hfirst hothers ⊢
  rw [hawake, if_neg (by decide)]
  obtain ⟨t, honly, heq⟩ := s.phPut_outbound n ((List.range 8).map (fun j => leAt m (8 * j) 8)) hfree
  obtain ⟨hword, hfull⟩ := t.get_phEnter_outbound n ((List.range 8).map (fun j => leAt m (8 * j) 8))
  have hm {j : Nat} (hj : j < 8) : ((List.range 8).map (fun j => leAt m (8 * j) 8)).getD j 0 % 2 ^ 64 = leAt m (8 * j) 8 := by
    rw [List.getD_eq_getElem?_getD, List.getElem?_map, List.getElem?_range hj]
    exact Nat.mod_eq_of_lt (leAt_lt ..)
  rw [heq]
  refine ⟨fun j h1 hj => ?_, ?_, hfull, honly.trans (.phEnter_outbound ..)⟩
  · rw [hword j hj, hm hj, hothers j h1]
  · rw [hword 0 (by decide), hm (by decide), Nat.mul_zero, hfirst]

end Sys2Proof.Machine
end

section
/-!
Pre-emption as a request sees it (R293): what it asks of the partition, which registers that looks at, and what a request that
is taken leaves of STATE, REQ and SAVED.
-/
namespace Sys2Proof.Machine

/-! ### A request for pre-emption (R293, R294) -/

/-- What R293 asks of a pre-emption in a mode and at a bell. -/
def State.canPreempt (s : State) (p : Prt) (mode bell : Nat) : Prop :=
  s.partState p = psRunning ∧ (∀ r ∈ s.regionsOf p, s.saveGranuleOk p r = true) ∧ (mode = 1 ∨ s.period < bell)

/-- The registers that this looks at. -/
def preemptInputs : List Fld :=
  [PROC_PART_CFG.STATE, PROC_PART_CFG.REGIONS, HUB_BELL_STATUS.PERIOD_NUM, HUB_OWN.KIND] ++
    (List.range 4).map PROC_SAVE.GRANULE

theorem granule_mem_preemptInputs (r : Rgn) : PROC_SAVE.GRANULE r.val ∈ preemptInputs :=
  List.mem_append_right _ (List.mem_map_of_mem (List.mem_range.2 r.isLt))

section
variable {s t : State} {changed : List Fld} (h : SameRegs s t changed)
include h

theorem SameRegs.partState (hc : ∀ g ∈ changed, PROC_PART_CFG.STATE.home ≠ g.home) (p : Prt) :
    t.partState p = s.partState p := h _ _ _ _ (by omega) (by decide) (by decide) hc

theorem SameRegs.regionsOf (hc : ∀ g ∈ changed, PROC_PART_CFG.REGIONS.home ≠ g.home) (p : Prt) :
    t.regionsOf p = s.regionsOf p := by
  rw [State.regionsOf, State.regionsOf, h _ _ _ _ (by omega) (by decide) (by decide) hc]

/-- A granule past the last is none, so that the owner register is read below its 1,536 entries only. -/
theorem SameRegs.saveGranuleOk (hc : ∀ f ∈ preemptInputs, ∀ g ∈ changed, f.home ≠ g.home) (p : Prt) (r : Rgn) :
    t.saveGranuleOk p r = s.saveGranuleOk p r := by
  have hgranule : t.get (PROC_SAVE.GRANULE r.val) p = s.get (PROC_SAVE.GRANULE r.val) p :=
    h _ _ _ _ (by omega) (by decide) (by decide) (hc _ (granule_mem_preemptInputs r))
  unfold State.saveGranuleOk
  dsimp only
  rw [hgranule]
  by_cases hlast : s.get (PROC_SAVE.GRANULE r.val) p < 1536
  · rw [h HUB_OWN.KIND _ 0 0 (by omega) (by decide) (by decide) (hc _ (by simp [preemptInputs]))]
  · simp [hlast]

theorem SameRegs.canPreempt (hc : ∀ f ∈ preemptInputs, ∀ g ∈ changed, f.home ≠ g.home) (p : Prt) (mode bell : Nat) :
    t.canPreempt p mode bell ↔ s.canPreempt p mode bell := by
  have hperiod : t.period = s.period :=
    h _ _ _ _ (by decide) (by decide) (by decide) (hc _ (by simp [preemptInputs]))
  unfold State.canPreempt
  rw [h.partState (hc _ (by simp [preemptInputs])), h.regionsOf (hc _ (by simp [preemptInputs])), hperiod]
  simp only [h.saveGranuleOk hc]

end

section
variable (s : State) (p : Prt)

/-- The stop writes STATE of the sequencers and what a kill writes, once REQ and STATE of the partition are set (R294). -/
theorem SameRegs.stopPart :
    SameRegs ((s.put PROC_PREEMPT.REQ 0 p).put PROC_PART_CFG.STATE psSaving p) (s.stopPart p)
      (RGN_SEQ_STAT.STATE :: RGN_SEQ_KILL.KILLED :: queueFields) := by
  unfold State.stopPart
  refine List.foldlRecOn (motive := fun t => SameRegs ((s.put PROC_PREEMPT.REQ 0 p).put PROC_PART_CFG.STATE psSaving p) t
    (RGN_SEQ_STAT.STATE :: RGN_SEQ_KILL.KILLED :: queueFields)) _ _ (.refl _ _) fun t ht r _ => ?_
  have hsaved : SameRegs t (t.modRegion r (fun g => { g with savedSeq := t.seqState r })) [] := .refl _ _
  exact ht.trans (((hsaved.mono (by simp)).trans
    ((SameRegs.put _ RGN_SEQ_STAT.STATE sqPreempted (by omega) (by decide) (by decide)).mono (by simp))).trans
    ((SameRegs.killWhere _ r _).mono (List.subset_cons_self ..)))

theorem State.partState_stopPart : (s.stopPart p).partState p = psSaving :=
  ((SameRegs.stopPart s p).partState (by decide) p).trans (State.get_put_self ..)

section
variable {s p} {mode bell : Nat} (hmode : s.get PROC_PREEMPT.MODE p = mode) (hle : mode ≤ 1)
  (hbell : s.get PROC_PREEMPT.AT p = bell)
include hmode hle hbell

/-- A request is refused, noted for its bell, or stops the partition at once. -/
theorem State.preemptReq_cases :
    ¬ s.canPreempt p mode bell ∧ s.preemptReq p = (s.put PROC_PREEMPT.REFUSED 1 p).put PROC_PREEMPT.REQ 0 p ∨
    s.canPreempt p mode bell ∧ s.preemptReq p = s.put PROC_PREEMPT.REQ 1 p ∨
    s.canPreempt p mode bell ∧ s.preemptReq p = s.stopPart p := by
  have hgranted : (s.partState p != psRunning || !(s.regionsOf p).all (s.saveGranuleOk p) ||
      (mode == 0 && decide (bell ≤ s.period))) = false ↔ s.canPreempt p mode bell := by
    have hdue : (mode = 0 → s.period < bell) ↔ (mode = 1 ∨ s.period < bell) := by omega
    simp [State.canPreempt, hdue, and_assoc]
  unfold State.preemptReq
  dsimp only
  rw [hmode, hbell]
  split
  case isTrue h => exact .inl ⟨fun hcan => Bool.false_ne_true ((hgranted.2 hcan).symm.trans h), rfl⟩
  case isFalse h =>
    have hcan := hgranted.1 (Bool.eq_false_iff.2 h)
    split
    · exact .inr (.inl ⟨hcan, rfl⟩)
    · exact .inr (.inr ⟨hcan, rfl⟩)

/-- A request is taken when it stays noted for its bell or the partition begins to save. -/
theorem State.preemptReq_taken : ((s.preemptReq p).bit PROC_PREEMPT.REQ p ||
    (s.preemptReq p).partState p == psSaving && s.partState p != psSaving) = true ↔ s.canPreempt p mode bell := by
  obtain ⟨hnot, heq⟩ | ⟨hcan, heq⟩ | ⟨hcan, heq⟩ := State.preemptReq_cases hmode hle hbell <;> rw [heq]
  case inl =>
    have hreq : ((s.put PROC_PREEMPT.REFUSED 1 p).put PROC_PREEMPT.REQ 0 p).bit PROC_PREEMPT.REQ p = false := by
      rw [State.bit, State.get_put_self]
      rfl
    have hstate : ((s.put PROC_PREEMPT.REFUSED 1 p).put PROC_PREEMPT.REQ 0 p).partState p = s.partState p :=
      (State.get_put_of_home_ne _ (by decide) _ (by omega) (by decide)).trans
        (State.get_put_of_home_ne _ (by decide) _ (by omega) (by decide))
    simp [hreq, hstate, hnot]
  case inr.inl =>
    have hreq : (s.put PROC_PREEMPT.REQ 1 p).bit PROC_PREEMPT.REQ p = true := by
      rw [State.bit, State.get_put_self]
      rfl
    simp [hreq, hcan]
  case inr.inr =>
    have hrunning : (s.partState p != psSaving) = true := by rw [hcan.1]; rfl
    simp [s.partState_stopPart p, hrunning, hcan]

end

/-- No answer to a request changes SAVED. -/
theorem State.get_preemptReq_saved : (s.preemptReq p).get PROC_PART_CFG.SAVED p = s.get PROC_PART_CFG.SAVED p := by
  have hput {f : Fld} (h : PROC_PART_CFG.SAVED.home ≠ f.home) (t : State) (v : Nat) :
      (t.put f v p).get PROC_PART_CFG.SAVED p = t.get PROC_PART_CFG.SAVED p :=
    State.get_put_of_home_ne t h v (by omega) (by decide)
  unfold State.preemptReq
  dsimp only
  split
  · rw [hput (by decide), hput (by decide)]
  split
  · exact hput (by decide) ..
  · rw [SameRegs.stopPart s p _ _ _ _ (by omega) (by decide) (by decide) (by decide), hput (by decide), hput (by decide)]

end

end Sys2Proof.Machine
end

section
/-!
Requests to Icholt (R347), and the settlement of O50. A request is taken out of its pigeonhole, done or refused, and answered
in one way for all of them; what is left of each row is what it does to the state with the message taken.
-/
namespace Sys2Proof.Machine

/-! ### A request is taken and answered -/

/-- A request with an OP waits in an inbound pigeonhole for Icholt, whose image runs. -/
structure State.Asks (s : State) (n op : Nat) : Prop where
  booted : s.hub.booted = true
  full : s.bit PH_IN_STAT.FULL n = true
  opcode : leAt (s.message n) 0 2 = op

theorem SameRegs.takeMessage (s : State) (n : Fin 16) : SameRegs s (s.put PH_IN_STAT.FULL 0 n) [PH_IN_STAT.FULL] :=
  .put s _ _ (by omega) (by decide) (by decide)

section
variable {s : State} {n op : Nat} {pfOnly : Bool} {f : State → List Byte → State × Nat × List Byte}

theorem State.request_ignored
    (h : s.hub.booted = false ∨ s.bit PH_IN_STAT.FULL n = false ∨ leAt (s.message n) 0 2 ≠ op) :
    s.request n op pfOnly f = s := by
  refine if_pos ?_
  rcases h with h | h | h <;> simp [h]

theorem State.request_of_asks (h : s.Asks n op) {t : State} {st : Nat} {body : List Byte}
    (ht : (if 4 < s.get PH_IN_STAT.SRC n || (pfOnly && s.get PH_IN_STAT.SRC n != 0) then
      (s.put PH_IN_STAT.FULL 0 n, rpNotPermitted, []) else f (s.put PH_IN_STAT.FULL 0 n) (s.message n)) = (t, st, body)) :
    s.request n op pfOnly f = t.reply n op (leAt (s.message n) 2 2) st body := by
  obtain ⟨hbooted, hfull, hop⟩ := h
  unfold State.request
  dsimp only
  rw [if_neg (by simp [hbooted, hfull, hop]), ht]

theorem State.request_permitted (h : s.Asks n op) (hsrc : s.get PH_IN_STAT.SRC n ≤ 4)
    (hpf : pfOnly = false ∨ s.get PH_IN_STAT.SRC n = 0) {t : State} {st : Nat} {body : List Byte}
    (ht : f (s.put PH_IN_STAT.FULL 0 n) (s.message n) = (t, st, body)) :
    s.request n op pfOnly f = t.reply n op (leAt (s.message n) 2 2) st body := by
  refine State.request_of_asks h (.trans (if_neg ?_) ht)
  have hsrc' : ¬ 4 < s.get PH_IN_STAT.SRC n := by omega
  rcases hpf with hpf | hpf <;> simp [hsrc', hpf]

theorem State.request_notPermitted (h : s.Asks n op)
    (hsrc : 4 < s.get PH_IN_STAT.SRC n ∨ pfOnly = true ∧ s.get PH_IN_STAT.SRC n ≠ 0) :
    s.request n op pfOnly f = (s.put PH_IN_STAT.FULL 0 n).reply n op (leAt (s.message n) 2 2) rpNotPermitted [] :=
  State.request_of_asks h (if_pos (by simpa using hsrc))

end

section
variable {s : State} {n op start : Nat} {f : State → List Byte → Prt → State × Nat × List Byte}

theorem State.partRequest_eq : s.partRequest n op start f = s.request n op false (fun u m =>
    if s.get PH_IN_STAT.SRC n ≠ 0 ∧ leAt m start 1 ≠ s.get PH_IN_STAT.SRC n - 1 then (u, rpNotPermitted, [])
    else if h : leAt m start 1 < 4 then f u m ⟨leAt m start 1, h⟩ else (u, rpBad, [])) := rfl

/-- The VF of a partition, and the PF, may ask about it. -/
theorem State.partRequest_permitted (h : s.Asks n op) {p : Prt}
    (hsrc : s.get PH_IN_STAT.SRC n = 0 ∨ s.get PH_IN_STAT.SRC n = p.val + 1) (hp : leAt (s.message n) start 1 = p.val)
    {t : State} {st : Nat} {body : List Byte} (ht : f (s.put PH_IN_STAT.FULL 0 n) (s.message n) p = (t, st, body)) :
    s.partRequest n op start f = t.reply n op (leAt (s.message n) 2 2) st body := by
  rw [State.partRequest_eq]
  refine State.request_permitted h (by omega) (.inl rfl) ?_
  rw [if_neg (by omega), dif_pos (show leAt (s.message n) start 1 < 4 by omega), ← ht]
  exact congrArg (f _ _) (Fin.ext hp)

/-- A VF may not ask about another partition. -/
theorem State.partRequest_notPermitted (h : s.Asks n op) (hsrc : 4 < s.get PH_IN_STAT.SRC n ∨
      s.get PH_IN_STAT.SRC n ≠ 0 ∧ leAt (s.message n) start 1 + 1 ≠ s.get PH_IN_STAT.SRC n) :
    s.partRequest n op start f = (s.put PH_IN_STAT.FULL 0 n).reply n op (leAt (s.message n) 2 2) rpNotPermitted [] := by
  rw [State.partRequest_eq]
  by_cases hlarge : 4 < s.get PH_IN_STAT.SRC n
  · exact State.request_notPermitted h (.inl hlarge)
  · refine State.request_permitted h (by omega) (.inl rfl) (if_pos ?_)
    omega

/-- The PF may not ask about a partition that is none. -/
theorem State.partRequest_none (h : s.Asks n op) (hsrc : s.get PH_IN_STAT.SRC n = 0)
    (hp : 4 ≤ leAt (s.message n) start 1) :
    s.partRequest n op start f = (s.put PH_IN_STAT.FULL 0 n).reply n op (leAt (s.message n) 2 2) rpBad [] := by
  rw [State.partRequest_eq]
  refine State.request_permitted h (by omega) (.inl rfl) ?_
  rw [if_neg (by omega), dif_neg (by omega)]

end

/-! ### The requests about a partition (R293, R297, R299, R319) -/

theorem SameRegs.ite {s a b : State} {c : List Fld} {q : Prop} [Decidable q] (x : SameRegs s a c) (y : SameRegs s b c) :
    SameRegs s (if q then a else b) c := by
  split <;> assumption

section
variable {s : State} {n : Fin 16} {p : Prt} (hsrc : s.get PH_IN_STAT.SRC n = 0 ∨ s.get PH_IN_STAT.SRC n = p.val + 1)
  (hp : leAt (s.message n) 8 1 = p.val)
include hsrc hp

theorem State.reqPreempt_bad (h : s.Asks n 2) (hmode : 1 < leAt (s.message n) 9 1) :
    s.reqPreempt n = (s.put PH_IN_STAT.FULL 0 n).reply n 2 (leAt (s.message n) 2 2) rpBad [] :=
  State.partRequest_permitted h hsrc hp (if_pos hmode)

theorem State.reqPreempt_answer (h : s.Asks n 2) (hmode : leAt (s.message n) 9 1 ≤ 1) {v : State}
    (hv : v = ((s.put PH_IN_STAT.FULL 0 n).put PROC_PREEMPT.MODE (leAt (s.message n) 9 1) p).put PROC_PREEMPT.AT
      (leAt (s.message n) 10 6) p) {taken : Prop} [Decidable taken]
    (htaken : taken ↔ s.canPreempt p (leAt (s.message n) 9 1) (leAt (s.message n) 10 6)) :
    s.reqPreempt n = (v.preemptReq p).reply n 2 (leAt (s.message n) 2 2) (if taken then rpOk else rpRefused)
      [BitVec.ofNat 8 p.val, BitVec.ofNat 8 (s.get PROC_PART_CFG.SAVED p)] := by
  have hregs : SameRegs s v [PH_IN_STAT.FULL, PROC_PREEMPT.MODE, PROC_PREEMPT.AT] := by
    rw [hv]
    exact (((SameRegs.takeMessage s n).mono (by simp)).trans
      ((SameRegs.put _ PROC_PREEMPT.MODE _ (by omega) (by decide) (by decide)).mono (by simp))).trans
      ((SameRegs.put _ PROC_PREEMPT.AT _ (by omega) (by decide) (by decide)).mono (by simp))
  have hat : v.get PROC_PREEMPT.AT p = leAt (s.message n) 10 6 := by
    rw [hv, State.get_put_self]
    exact Nat.mod_eq_of_lt (leAt_lt ..)
  have hm : v.get PROC_PREEMPT.MODE p = leAt (s.message n) 9 1 := by
    rw [hv, State.get_put_of_home_ne _ (by decide) _ (by omega) (by decide), State.get_put_self]
    exact Nat.mod_eq_of_lt (by change _ < 2; omega)
  have hsaved : (v.preemptReq p).get PROC_PART_CFG.SAVED p = s.get PROC_PART_CFG.SAVED p :=
    (v.get_preemptReq_saved p).trans (hregs _ _ _ _ (by omega) (by decide) (by decide) (by decide))
  refine State.partRequest_permitted h hsrc hp ((if_neg (by omega)).trans ?_)
  dsimp only
  rw [← hv, hsaved]
  refine congrArg (fun st => (v.preemptReq p, st, _)) (ite_eq_of_iff ?_ rfl rfl)
  rw [htaken, ← hregs.canPreempt (by decide) p]
  exact State.preemptReq_taken hm hmode hat

theorem State.reqResume_answer (h : s.Asks n 3) {v : State}
    (hv : v = (((s.put PH_IN_STAT.FULL 0 n).writeRegions p (leAt (s.message n) 9 1 % 16)).writeSeed p
      (leAt (s.message n) 16 8)).put PROC_PREEMPT.AT (leAt (s.message n) 10 6) p) :
    s.reqResume n = (v.resume p).reply n 3 (leAt (s.message n) 2 2)
      (if s.partState p = psEmpty ∧ (v.resume p).partState p = psRestoring then rpOk else rpRefused)
      [BitVec.ofNat 8 p.val] := by
  have hregs : SameRegs s v [PH_IN_STAT.FULL, PROC_PART_CFG.REGIONS, HUB_JOB_SEED.SEED, PROC_PREEMPT.AT] := by
    have hput (t : State) (x : Nat) {f : Fld}
        (hf : f ∈ [PH_IN_STAT.FULL, PROC_PART_CFG.REGIONS, HUB_JOB_SEED.SEED, PROC_PREEMPT.AT]) :
        SameRegs t (t.put f x p) [PH_IN_STAT.FULL, PROC_PART_CFG.REGIONS, HUB_JOB_SEED.SEED, PROC_PREEMPT.AT] :=
      (SameRegs.put t f x (by omega) (by decide) (by decide)).mono (by simpa using hf)
    rw [hv]
    exact ((((SameRegs.takeMessage s n).mono (by simp)).trans (.ite (hput _ _ (by simp)) (.refl _ _))).trans
      (.ite (hput _ _ (by simp)) (.refl _ _))).trans (hput _ _ (by simp))
  refine State.partRequest_permitted h hsrc hp ?_
  dsimp only
  rw [← hv, hregs.partState (by decide) p]
  refine congrArg (fun st => (v.resume p, st, _)) (ite_eq_of_iff ?_ rfl rfl)
  simp

theorem State.reqTeardown_empty (h : s.Asks n 4) (hempty : s.partState p = psEmpty) :
    s.reqTeardown n = (s.put PH_IN_STAT.FULL 0 n).reply n 4 (leAt (s.message n) 2 2) rpRefused [BitVec.ofNat 8 p.val] := by
  refine State.partRequest_permitted h hsrc hp (if_pos ?_)
  rw [(SameRegs.takeMessage s n).partState (by decide), hempty]
  rfl

theorem State.reqTeardown_answer (h : s.Asks n 4) (hjob : s.partState p ≠ psEmpty) {u v : State}
    (hu : u = s.put PH_IN_STAT.FULL 0 n)
    (hv : v = if leAt (s.message n) 9 1 % 2 = 1 then
      (u.granulesOf (s.get PROC_PART_CFG.JOB_TAG p)).foldl (fun v g => v.askOwn g 0 0 true) (u.procTeardown p)
      else u.procTeardown p) :
    s.reqTeardown n = v.reply n 4 (leAt (s.message n) 2 2) rpOk
      ([BitVec.ofNat 8 p.val, 0] ++ toLe 6 (v.get PROC_TEAR_STAT.PERIOD p)) := by
  have htag : u.get PROC_PART_CFG.JOB_TAG p = s.get PROC_PART_CFG.JOB_TAG p :=
    hu ▸ SameRegs.takeMessage s n _ _ _ _ (by omega) (by decide) (by decide) (by decide)
  have hstate : u.partState p = s.partState p := hu ▸ (SameRegs.takeMessage s n).partState (by decide) p
  subst hv
  refine State.partRequest_permitted h hsrc hp ?_
  dsimp only
  rw [← hu, htag, hstate, if_neg (by simpa using hjob)]

theorem State.reqSetK_bad (h : s.Asks n 7) (hk : leAt (s.message n) 9 1 = 0) :
    s.reqSetK n = (s.put PH_IN_STAT.FULL 0 n).reply n 7 (leAt (s.message n) 2 2) rpBad [] :=
  State.partRequest_permitted h hsrc hp (if_pos hk)

theorem State.reqSetK_answer (h : s.Asks n 7) (hk : leAt (s.message n) 9 1 ≠ 0) :
    s.reqSetK n = ((s.put PH_IN_STAT.FULL 0 n).put HUB_SEC_CTRL.K (leAt (s.message n) 9 1) p).reply n 7
      (leAt (s.message n) 2 2) rpOk
      [BitVec.ofNat 8 p.val, BitVec.ofNat 8 (leAt (s.message n) 9 1), BitVec.ofNat 8 (s.get HUB_SEC_CTRL.INTERVAL p)] := by
  refine State.partRequest_permitted h hsrc hp ((if_neg hk).trans ?_)
  dsimp only
  rw [State.get_put_of_home_ne _ (by decide) _ (by omega) (by decide),
    SameRegs.takeMessage s n HUB_SEC_CTRL.INTERVAL _ _ _ (by omega) (by decide) (by decide) (by decide)]

end

/-! ### Runs of granules (R109, R232) -/

section
variable (s : State) (n : Fin 16) {g : Nat} (hg : g < 1536)
include hg

theorem State.isWorn_takeMessage : (s.put PH_IN_STAT.FULL 0 n).isWorn g = s.isWorn g := by
  have hmode : (s.put PH_IN_STAT.FULL 0 n).bit HUB_STK_MODE.INTLV (g / 384) = s.bit HUB_STK_MODE.INTLV (g / 384) :=
    congrArg (· != 0) (SameRegs.takeMessage s n HUB_STK_MODE.INTLV _ _ _ (by omega) (by decide) (by decide) (by decide))
  unfold State.isWorn State.ownUnit
  dsimp only
  rw [hmode, State.put_hub]

theorem State.get_own_takeMessage {f : Fld} (hf : f.home ≠ PH_IN_STAT.FULL.home) :
    (s.put PH_IN_STAT.FULL 0 n).get f g = s.get f g :=
  SameRegs.takeMessage s n f _ _ _ (by omega) (by decide) (by decide) (by simpa using hf)

end

/-- What LEND and RECLAIM answer, by the granules of their run. -/
theorem State.moveGranules_eq (u : State) (m : List Byte) (kind tag : Nat) (erase : Bool) (may : State → Nat → Bool)
    {first count : Nat} (hfirst : first = leAt m 8 2) (hcount : count = leAt m 10 2) :
    u.moveGranules m kind tag erase may =
      if count = 0 ∨ 1536 < first + count ∨ ∃ j < count, ¬ may u (first + j) = true then
        (u, rpBad, toLe 2 first ++ toLe 2 count ++ [0])
      else if kind ≠ 0 ∧ ∃ j < count, u.isWorn (first + j) = true then (u, rpRefused, toLe 2 first ++ toLe 2 count ++ [0])
      else if ∃ j < count, u.changing (first + j) = true ∨ u.bit HUB_OWN.REQ (first + j) = true then
        (u, rpBusy, toLe 2 first ++ toLe 2 count ++ [0])
      else ((List.range count).foldl (fun v j => v.askOwn (first + j) kind tag erase) u, rpOk,
        toLe 2 first ++ toLe 2 count ++ [1]) := by
  subst hfirst hcount
  unfold State.moveGranules
  dsimp only
  refine ite_eq_of_iff ?_ rfl (ite_eq_of_iff ?_ rfl (ite_eq_of_iff ?_ rfl ?_))
  · simp
  · simp
  · simp
  · rw [List.foldl_map]

/-- The same for a run that is asked for in pigeonhole n, by the granules as the message found them. -/
theorem State.moveGranules_takeMessage (s : State) (n : Fin 16) (m : List Byte) (kind tag : Nat) (erase : Bool)
    {allows : State → Nat → Bool} {may : Nat → Prop} [DecidablePred may]
    (hmay : ∀ g < 1536, allows (s.put PH_IN_STAT.FULL 0 n) g = true ↔ may g) {first count : Nat} (hfirst : first = leAt m 8 2)
    (hcount : count = leAt m 10 2) :
    (s.put PH_IN_STAT.FULL 0 n).moveGranules m kind tag erase allows =
      if count = 0 ∨ 1536 < first + count ∨ ∃ j < count, ¬ may (first + j) then
        (s.put PH_IN_STAT.FULL 0 n, rpBad, toLe 2 first ++ toLe 2 count ++ [0])
      else if kind ≠ 0 ∧ ∃ j < count, s.isWorn (first + j) = true then
        (s.put PH_IN_STAT.FULL 0 n, rpRefused, toLe 2 first ++ toLe 2 count ++ [0])
      else if ∃ j < count, s.changing (first + j) = true ∨ s.bit HUB_OWN.REQ (first + j) = true then
        (s.put PH_IN_STAT.FULL 0 n, rpBusy, toLe 2 first ++ toLe 2 count ++ [0])
      else ((List.range count).foldl (fun v j => v.askOwn (first + j) kind tag erase) (s.put PH_IN_STAT.FULL 0 n), rpOk,
        toLe 2 first ++ toLe 2 count ++ [1]) := by
  rw [State.moveGranules_eq _ m kind tag erase allows hfirst hcount]
  by_cases hrun : 1536 < first + count
  · rw [if_pos (.inr (.inl hrun)), if_pos (.inr (.inl hrun))]
  have hgranules {P Q : Nat → Prop} (h : ∀ g < 1536, P g ↔ Q g) :
      (∃ j < count, P (first + j)) ↔ ∃ j < count, Q (first + j) :=
    exists_congr fun j => and_congr_right fun hj => h _ (by omega)
  refine ite_eq_of_iff ?_ rfl (ite_eq_of_iff ?_ rfl (ite_eq_of_iff ?_ rfl rfl))
  · rw [hgranules (P := fun g => ¬ allows _ g = true) fun g hg => not_congr (hmay g hg)]
  · rw [hgranules (P := fun g => State.isWorn _ g = true) fun g hg => by rw [s.isWorn_takeMessage n hg]]
  · refine hgranules (P := fun g => State.changing _ g = true ∨ State.bit _ HUB_OWN.REQ g = true)
      (Q := fun g => s.changing g = true ∨ s.bit HUB_OWN.REQ g = true) fun g hg => ?_
    rw [State.bit, s.get_own_takeMessage n hg (by decide)]
    rfl

/-- A granule that LEND may give to the host: of nobody, of Icholt, or of the job that the request names. -/
def lendable (m : List Byte) (s : State) (g : Nat) : Bool :=
  s.get HUB_OWN.KIND g == 0 || s.get HUB_OWN.KIND g == 2 ||
    (leAt m 12 1 % 2 == 1 && s.get HUB_OWN.KIND g == 3 && s.get HUB_OWN.TAG g == leAt m 14 2)

/-- A granule that RECLAIM may take: one of the host. -/
def reclaimable (s : State) (g : Nat) : Bool := s.get HUB_OWN.KIND g == 1

section
variable {s : State} {n : Fin 16} {t : State} {st : Nat} {body : List Byte}

theorem lendable_takeMessage (s : State) (n : Fin 16) (m : List Byte) {g : Nat} (hg : g < 1536) :
    lendable m (s.put PH_IN_STAT.FULL 0 n) g = true ↔ s.get HUB_OWN.KIND g = 0 ∨ s.get HUB_OWN.KIND g = 2 ∨
      leAt m 12 1 % 2 = 1 ∧ s.get HUB_OWN.KIND g = 3 ∧ s.get HUB_OWN.TAG g = leAt m 14 2 := by
  rw [lendable, s.get_own_takeMessage n hg (by decide), s.get_own_takeMessage n hg (by decide)]
  simp [or_assoc, and_assoc]

theorem reclaimable_takeMessage (s : State) (n : Fin 16) {g : Nat} (hg : g < 1536) :
    reclaimable (s.put PH_IN_STAT.FULL 0 n) g = true ↔ s.get HUB_OWN.KIND g = 1 := by
  rw [reclaimable, s.get_own_takeMessage n hg (by decide), beq_iff_eq]

/-- LEND of the PF answers what the move of its run gives. -/
theorem State.reqLend_answer (h : s.Asks n 5) (hsrc : s.get PH_IN_STAT.SRC n = 0)
    (ht : (s.put PH_IN_STAT.FULL 0 n).moveGranules (s.message n) 1 0 false (lendable (s.message n)) = (t, st, body)) :
    s.reqLend n = t.reply n 5 (leAt (s.message n) 2 2) st body :=
  State.request_permitted (f := fun s m => s.moveGranules m 1 0 false (lendable m)) h (by omega) (.inr hsrc) ht

/-- RECLAIM of the PF, for nobody or for a job, answers what the move of its run gives. -/
theorem State.reqReclaim_answer (h : s.Asks n 6) (hsrc : s.get PH_IN_STAT.SRC n = 0)
    (hkind : leAt (s.message n) 12 1 = 0 ∨ leAt (s.message n) 12 1 = 3)
    (ht : (s.put PH_IN_STAT.FULL 0 n).moveGranules (s.message n) (leAt (s.message n) 12 1)
      (if leAt (s.message n) 12 1 = 3 then leAt (s.message n) 14 2 else 0) (leAt (s.message n) 13 1 % 2 == 1) reclaimable =
        (t, st, body)) :
    s.reqReclaim n = t.reply n 6 (leAt (s.message n) 2 2) st body :=
  State.request_permitted h (by omega) (.inr hsrc) ((if_neg (by omega)).trans ht)

/-- RECLAIM for an owner that it does not know. -/
theorem State.reqReclaim_bad (h : s.Asks n 6) (hsrc : s.get PH_IN_STAT.SRC n = 0)
    (h0 : leAt (s.message n) 12 1 ≠ 0) (h3 : leAt (s.message n) 12 1 ≠ 3) :
    s.reqReclaim n = (s.put PH_IN_STAT.FULL 0 n).reply n 6 (leAt (s.message n) 2 2) rpBad
      (toLe 2 (leAt (s.message n) 8 2) ++ toLe 2 (leAt (s.message n) 10 2) ++ [0]) :=
  State.request_permitted h (by omega) (.inr hsrc) (if_pos ⟨h0, h3⟩)

end

/-! ### DORMANT (R368) -/

theorem keyHome_key (f : Fld) {i j k : Nat} (hi : i < 65536) (hj : j < 65536) (hk : k < 65536) :
    keyHome (f.key i j k) = f.home := by
  unfold keyHome Fld.key Fld.home
  omega

/-- A message taken adds no register entry, and takes one of FULL away at most. -/
theorem State.mem_regs_takeMessage (s : State) (n : Fin 16) {x : Nat × Nat} (hx : keyHome x.1 = HUB_OWN.KIND.home) :
    x ∈ (s.put PH_IN_STAT.FULL 0 n).regs ↔ x ∈ s.regs := by
  have hne : x.1 ≠ PH_IN_STAT.FULL.key n 0 0 := fun h => by
    rw [h, keyHome_key _ (by omega) (by decide) (by decide)] at hx
    exact absurd hx (by decide)
  change x ∈ kput s.regs (PH_IN_STAT.FULL.key n 0 0) PH_IN_STAT.FULL.reset (0 % 2 ^ PH_IN_STAT.FULL.width) ↔ _
  rw [kput, if_pos (by decide), kdel, List.mem_filter]
  simp [hne]

theorem State.reqDormant_answer {s : State} {n : Fin 16} (h : s.Asks n 8) (hsrc : s.get PH_IN_STAT.SRC n = 0)
    {quiet : Prop} [Decidable quiet] (hquiet : quiet ↔ (∀ q : Prt, s.partState q = psEmpty) ∧
      (∀ x ∈ s.regs, keyHome x.1 = HUB_OWN.KIND.home → x.2 ≠ 1) ∧ s.get HUB_PWR_STATE.STATE = 1) :
    s.reqDormant n = if quiet then
      ((s.put PH_IN_STAT.FULL 0 n).put HUB_PWR_STATE.STATE 2).reply n 8 (leAt (s.message n) 2 2) rpOk []
      else (s.put PH_IN_STAT.FULL 0 n).reply n 8 (leAt (s.message n) 2 2) rpBusy [] := by
  have hregs := SameRegs.takeMessage s n
  have hbusy : (allRegions.any (fun p => (s.put PH_IN_STAT.FULL 0 n).partState p != psEmpty) ||
      (s.put PH_IN_STAT.FULL 0 n).regs.any (fun x => keyHome x.1 == HUB_OWN.KIND.home && x.2 == 1) ||
      (s.put PH_IN_STAT.FULL 0 n).get HUB_PWR_STATE.STATE != 1) = true ↔ ¬ quiet := by
    have hjobs : allRegions.any (fun p => (s.put PH_IN_STAT.FULL 0 n).partState p != psEmpty) = true ↔
        ¬ ∀ q : Prt, s.partState q = psEmpty := by
      simp [hregs.partState (by decide), mem_allRegions]
    have hlent : (s.put PH_IN_STAT.FULL 0 n).regs.any (fun x => keyHome x.1 == HUB_OWN.KIND.home && x.2 == 1) = true ↔
        ¬ ∀ x ∈ s.regs, keyHome x.1 = HUB_OWN.KIND.home → x.2 ≠ 1 := by
      simp only [List.any_eq_true, Bool.and_eq_true, beq_iff_eq, Classical.not_forall, Classical.not_not, exists_prop]
      refine exists_congr fun x => ⟨fun ⟨hx, hhome, hhost⟩ => ?_, fun ⟨hx, hhome, hhost⟩ => ?_⟩
      · exact ⟨(s.mem_regs_takeMessage n hhome).1 hx, hhome, hhost⟩
      · exact ⟨(s.mem_regs_takeMessage n hhome).2 hx, hhome, hhost⟩
    rw [Bool.or_eq_true, Bool.or_eq_true, hjobs, hlent, bne_iff_ne,
      hregs _ _ _ _ (by decide) (by decide) (by decide) (by decide), hquiet, Classical.not_and_iff_not_or_not, Classical.not_and_iff_not_or_not, or_assoc]
  by_cases hq : quiet
  · rw [if_pos hq]
    exact State.request_permitted h (by omega) (.inr hsrc) (if_neg fun hb => hbusy.1 hb hq)
  · rw [if_neg hq]
    exact State.request_permitted h (by omega) (.inr hsrc) (if_pos (hbusy.2 hq))

/-! ### All rows at once -/

/-- Each of these rows is a request with its OP. -/
theorem exec_request_row (s : State) (n : Fin 16) : ∀ c ∈ [(Instr.preempt n, 2), (.resume n, 3), (.teardown n, 4),
    (.lend n, 5), (.reclaim n, 6), (.setK n, 7), (.dormant n, 8)],
    ∃ pfOnly f, exec c.1 s = .next (s.request n c.2 pfOnly f) := by
  simp only [List.forall_mem_cons, List.not_mem_nil, false_implies, implies_true, and_true]
  have hpart {op : Nat} {f : State → List Byte → Prt → State × Nat × List Byte} :
      ∃ pfOnly g, (Host.Outcome.next (s.partRequest n op 8 f) : Host.Outcome State Fault Refusal) =
        .next (s.request n op pfOnly g) := ⟨_, _, congrArg Host.Outcome.next State.partRequest_eq⟩
  exact ⟨hpart, hpart, hpart, ⟨_, _, rfl⟩, ⟨_, _, rfl⟩, hpart, _, _, rfl⟩

/-- Each of these is about the partition in byte 8. -/
theorem exec_partRequest_row (s : State) (n : Fin 16) : ∀ c ∈ [(Instr.preempt n, 2), (.resume n, 3), (.teardown n, 4),
    (.setK n, 7)], ∃ f, exec c.1 s = .next (s.partRequest n c.2 8 f) := by
  simp only [List.forall_mem_cons, List.not_mem_nil, false_implies, implies_true, and_true]
  exact ⟨⟨_, rfl⟩, ⟨_, rfl⟩, ⟨_, rfl⟩, _, rfl⟩

/-- Settles O50: each row is one request; what is taken out of the pigeonhole is no register that a request looks at. -/
theorem requestsToIcholt : Obligations.RequestsToIcholt := by
  unfold Obligations.RequestsToIcholt
  refine ⟨?partition, ?granules, ?others, ?ignored, ?reply⟩
  case partition =>
    rintro s u n m p seq hbooted hfull rfl rfl rfl hsrc hp
    have hasks {op : Nat} (hop : leAt (s.message n) 0 2 = op) : s.Asks n op := ⟨hbooted, hfull, hop⟩
    refine ⟨fun hop => ⟨fun hmode => congrArg Host.Outcome.next ?preemptBad,
        fun v taken _ hmode hv htaken => congrArg Host.Outcome.next ?preempt⟩,
      fun hop v hv => congrArg Host.Outcome.next ?resume,
      fun hop => ⟨fun hempty => congrArg Host.Outcome.next ?noJob, fun hjob v hv => congrArg Host.Outcome.next ?teardown⟩,
      fun hop => ⟨fun hk => congrArg Host.Outcome.next ?setKBad, fun hk => congrArg Host.Outcome.next ?setK⟩⟩
    case preemptBad => exact State.reqPreempt_bad hsrc hp (hasks hop) hmode
    case preempt => exact State.reqPreempt_answer hsrc hp (hasks hop) hmode hv (iff_of_eq htaken)
    case resume => exact State.reqResume_answer hsrc hp (hasks hop) hv
    case noJob => exact State.reqTeardown_empty hsrc hp (hasks hop) hempty
    case teardown => exact State.reqTeardown_answer hsrc hp (hasks hop) hjob rfl hv
    case setKBad => exact State.reqSetK_bad hsrc hp (hasks hop) hk
    case setK => exact State.reqSetK_answer hsrc hp (hasks hop) hk
  case granules =>
    rintro s u n m seq first count kind tag i op erase may answer hbooted hfull rfl rfl rfl hsrc hfirst hcount hop hrow rfl
    classical
    obtain ⟨allows, hmay, hexec⟩ : ∃ allows : State → Nat → Bool,
        (∀ g < 1536, allows (s.put PH_IN_STAT.FULL 0 n) g = true ↔ may g) ∧
        ∀ {t : State} {st : Nat} {body : List Byte},
          (s.put PH_IN_STAT.FULL 0 n).moveGranules (s.message n) kind tag erase allows = (t, st, body) →
          exec i s = .next (t.reply n op (leAt (s.message n) 2 2) st body) := by
      obtain ⟨rfl, rfl, rfl, rfl, rfl, rfl⟩ | ⟨rfl, rfl, rfl, hkind, rfl, rfl, rfl⟩ := hrow
      · exact ⟨_, fun g hg => lendable_takeMessage s n _ hg,
          fun ht => congrArg Host.Outcome.next (State.reqLend_answer ⟨hbooted, hfull, hop⟩ hsrc ht)⟩
      · exact ⟨_, fun g hg => reclaimable_takeMessage s n hg,
          fun ht => congrArg Host.Outcome.next (State.reqReclaim_answer ⟨hbooted, hfull, hop⟩ hsrc hkind ht)⟩
    have hmove := State.moveGranules_takeMessage s n (s.message n) kind tag erase hmay hfirst hcount
    refine ⟨fun hbad => hexec (hmove.trans (if_pos hbad)), fun hpos hrun hall => ?_⟩
    have hgood : ¬ (count = 0 ∨ 1536 < first + count ∨ ∃ j < count, ¬ may (first + j)) := by
      rintro (h | h | ⟨j, hj, hno⟩)
      · omega
      · omega
      · exact hno (hall j hj)
    rw [if_neg hgood] at hmove
    refine ⟨fun hkind hworn => hexec (hmove.trans (if_pos ⟨hkind, hworn⟩)), fun hsound => ?_⟩
    have hfit : ¬ (kind ≠ 0 ∧ ∃ j < count, s.isWorn (first + j) = true) := by
      rintro ⟨hkind, j, hj, hworn⟩
      exact Bool.false_ne_true ((hsound.resolve_left hkind j hj).symm.trans hworn)
    rw [if_neg hfit] at hmove
    refine ⟨fun hbusy => hexec (hmove.trans (if_pos hbusy)), fun hfree => hexec (hmove.trans (if_neg ?_))⟩
    rintro ⟨j, hj, hbusy⟩
    obtain ⟨hchange, hreq⟩ := hfree j hj
    simp [hchange, hreq] at hbusy
  case others =>
    rintro s u n m seq hbooted hfull rfl rfl rfl
    have hasks {op : Nat} (hop : leAt (s.message n) 0 2 = op) : s.Asks n op := ⟨hbooted, hfull, hop⟩
    have hnotPf {op : Nat} {f : State → List Byte → State × Nat × List Byte} (hsrc : s.get PH_IN_STAT.SRC n ≠ 0)
        (hop : leAt (s.message n) 0 2 = op) : s.request n op true f =
          (s.put PH_IN_STAT.FULL 0 n).reply n op (leAt (s.message n) 2 2) rpNotPermitted [] :=
      State.request_notPermitted (hasks hop) (.inr ⟨rfl, hsrc⟩)
    refine ⟨fun hsrc hop quiet _ hquiet => congrArg Host.Outcome.next ?dormant,
      fun hsrc => ⟨fun hop => congrArg Host.Outcome.next (hnotPf hsrc hop),
        fun hop => congrArg Host.Outcome.next (hnotPf hsrc hop), fun hop => congrArg Host.Outcome.next (hnotPf hsrc hop)⟩,
      fun hsrc hop h0 h3 => congrArg Host.Outcome.next ?unknownOwner, fun c hc hop => ?about⟩
    case dormant => exact State.reqDormant_answer (hasks hop) hsrc (iff_of_eq hquiet)
    case unknownOwner => exact State.reqReclaim_bad (hasks hop) hsrc h0 h3
    case about =>
      obtain ⟨f, hexec⟩ := exec_partRequest_row s n c hc
      rw [hexec]
      exact ⟨fun hno => congrArg Host.Outcome.next (State.partRequest_notPermitted (hasks hop) hno),
        fun hsrc hnone => congrArg Host.Outcome.next (State.partRequest_none (hasks hop) hsrc hnone)⟩
  case ignored =>
    intro s n c hc hnone
    obtain ⟨pfOnly, f, hexec⟩ := exec_request_row s n c hc
    exact hexec.trans (congrArg Host.Outcome.next (State.request_ignored hnone))
  case reply =>
    exact fun s n op seq st body hbody hop hseq hst hawake hfree => State.reply_spec hbody hop hseq hst hawake hfree

end Sys2Proof.Machine
end

section
/-!
What the sending of flits changes (R239, R241, R290), beyond Sends: on a link its sequence numbers, retry buffer, credits and
waiting flits, of the hub the hedges, and what has been sent; and that a flit put on a link leaves on it.
-/
namespace Sys2Proof.Machine

/-! ### What the movement of flits keeps -/

/-- A link without what the movement of flits changes. -/
def Link.still (x : Link) : Link := { x with txSeq := 0, unacked := [], credits := [], toReturn := [], waiting := [] }

/-- What the movement of flits keeps. -/
structure Moves (s t : State) : Prop where
  regs : t.regs = s.regs
  mem : t.mem = s.mem
  regions : t.regions = s.regions
  hub : ∃ h, t.hub = { s.hub with hedge := h }
  still : ∀ k : Lnk, t.links[k].still = s.links[k].still
  sent : s.out <+: t.out

theorem Moves.refl (s : State) : Moves s s := ⟨rfl, rfl, rfl, ⟨_, rfl⟩, fun _ => rfl, List.prefix_refl _⟩

theorem Moves.trans {s t u : State} (a : Moves s t) (b : Moves t u) : Moves s u := by
  obtain ⟨h, ha⟩ := a.hub
  obtain ⟨h', hb⟩ := b.hub
  exact ⟨b.regs.trans a.regs, b.mem.trans a.mem, b.regions.trans a.regions, ⟨h', by rw [hb, ha]⟩,
    fun k => (b.still k).trans (a.still k), a.sent.trans b.sent⟩

theorem Moves.foldl {α : Type} {f : State → α → State} (hf : ∀ s a, Moves s (f s a)) (l : List α) (s : State) :
    Moves s (l.foldl f s) :=
  List.foldlRecOn (motive := (Moves s ·)) l _ (.refl s) fun t ht a _ => ht.trans (hf t a)

/-- A link after an update of one link. -/
theorem State.modLink_cases (s : State) (l k : Lnk) (g : Link → Link) :
    (k = l ∧ (s.modLink l g).links[k] = g s.links[k]) ∨ (k ≠ l ∧ (s.modLink l g).links[k] = s.links[k]) := by
  by_cases h : k = l
  · subst h
    exact .inl ⟨rfl, s.modLink_at k g⟩
  · exact .inr ⟨h, s.modLink_ne l k g h⟩

theorem Moves.modLink (s : State) (l : Lnk) {g : Link → Link} (hg : (g s.links[l]).still = s.links[l].still) :
    Moves s (s.modLink l g) := by
  refine ⟨rfl, rfl, rfl, ⟨_, rfl⟩, fun k => ?_, List.prefix_refl _⟩
  obtain ⟨rfl, h⟩ | ⟨-, h⟩ := s.modLink_cases l k g
  · rw [h, hg]
  · rw [h]

theorem Moves.emit (s : State) (o : Out) : Moves s (s.emit o) :=
  ⟨rfl, rfl, rfl, ⟨_, rfl⟩, fun _ => rfl, List.prefix_append ..⟩

theorem Moves.liveAdd (s : State) (f : Fld) (n i j k : Nat) : Moves s (s.liveAdd f n i j k) :=
  ⟨rfl, rfl, rfl, ⟨_, rfl⟩, fun _ => rfl, List.prefix_refl _⟩

/-- One unit of a hedge is used and counted (R290). -/
theorem Moves.useHedge (s : State) (h : Nat) : Moves s ((s.modHub (fun u => { u with
    hedge := kput u.hedge h 0 (kget u.hedge h 0 - 1) })).liveAdd PROC_HEDGE_CNT.USED 1 (h / 16) (h % 16)) :=
  ⟨rfl, rfl, rfl, ⟨_, rfl⟩, fun _ => rfl, List.prefix_refl _⟩

theorem Moves.returnCredit (s : State) (buffer : Nat) : Moves s (s.returnCredit buffer) := by
  unfold State.returnCredit
  split
  · exact .modLink _ _ rfl
  · exact .refl s

/-! ### One flit -/

/-- The header in which a flit leaves differs in what the link layer fills in (R237). -/
structure SameFlit (f g : Flit) : Prop where
  payload : g.payload = f.payload
  type : g.hdr.type = f.hdr.type
  dest : g.hdr.dest = f.hdr.dest

theorem Link.returning_cases (x : Link) (h : FlitHdr) :
    (∃ r, (x.returning h).1 = { x with toReturn := r }) ∧ (x.returning h).2.type = h.type ∧
    (x.returning h).2.dest = h.dest := by
  unfold Link.returning
  split
  · exact ⟨⟨_, rfl⟩, rfl, rfl⟩
  · exact ⟨⟨_, rfl⟩, rfl, rfl⟩

/-- A flit that is sent is out; its link keeps the flits that wait. -/
theorem State.transmit_eq (s : State) (l : Lnk) (f : Flit) : ∃ (x : Link) (g : Flit),
    s.transmit l f = (s.modLink l (fun _ => x)).emit (.flit l g) ∧ x.still = s.links[l].still ∧
    x.waiting = s.links[l].waiting ∧ SameFlit f g := by
  obtain ⟨⟨r, hr⟩, htype, hdest⟩ := s.links[l].returning_cases { f.hdr with
    seq := BitVec.ofNat 14 s.links[l].txSeq, ack := BitVec.ofNat 14 s.links[l].rxSeq, cvc := 0, cred := 0, ccls := false }
  refine ⟨_, _, rfl, ?_, ?_, rfl, htype, hdest⟩
  · rw [hr]; rfl
  · rw [hr]

theorem Moves.transmit (s : State) (l : Lnk) (f : Flit) : Moves s (s.transmit l f) := by
  obtain ⟨x, g, h, hstill, -, -⟩ := s.transmit_eq l f
  rw [h]
  exact (Moves.modLink s l hstill).trans (.emit ..)

/-- A flit that leaves its buffer: nothing that waits on a link changes. -/
theorem State.sent_waiting (s : State) (l k : Lnk) (f : Flit) (buffer : Nat) :
    ((s.transmit l f).returnCredit buffer).links[k].waiting = s.links[k].waiting := by
  obtain ⟨x, g, h, -, hwait, -⟩ := s.transmit_eq l f
  have hsent : (s.transmit l f).links[k].waiting = s.links[k].waiting := by
    rw [h]
    obtain ⟨rfl, hk⟩ | ⟨-, hk⟩ := s.modLink_cases l k (fun _ => x)
    · exact (congrArg Link.waiting hk).trans hwait
    · exact congrArg Link.waiting hk
  refine Eq.trans ?_ hsent
  unfold State.returnCredit
  split
  case isTrue hb =>
    obtain ⟨-, hk⟩ | ⟨-, hk⟩ := (s.transmit l f).modLink_cases ⟨buffer / 16, hb⟩ k (fun x => { x with
      toReturn := x.toReturn.set (buffer % 16) (x.toReturn.getD (buffer % 16) 0 + 1) })
    · rw [hk]
    · rw [hk]
  case isFalse => rfl

/-! ### The flits that wait on a link (R239, R290) -/

/-- The two ways of a waiting flit: it keeps waiting, or it leaves. -/
theorem State.pumpList_cons (s : State) (l : Lnk) (count : Bool) (blocked : List Nat) (b : Nat × Flit) (q : List (Nat × Flit)) :
    (∃ t, Moves s t ∧ t.links = s.links ∧ s.pumpList l count blocked (b :: q) =
      ((t.pumpList l count (credIx b.2 :: blocked) q).1, b :: (t.pumpList l count (credIx b.2 :: blocked) q).2)) ∨
    (∃ t, Moves s t ∧ t.links = s.links ∧ s.pumpList l count blocked (b :: q) =
      ((t.transmit l b.2).returnCredit b.1).pumpList l count blocked q) := by
  generalize hpump : s.pumpList l count blocked (b :: q) = x
  unfold State.pumpList at hpump
  dsimp only at hpump
  subst hpump
  split
  case h_1 h _ =>
    split
    · refine .inl ⟨if count then s.liveAdd PROC_HEDGE_CNT.WAITS 1 (h / 16) (h % 16) else s, ?_, ?_, rfl⟩
      · split
        · exact .liveAdd ..
        · exact .refl s
      · split <;> rfl
    · exact .inr ⟨_, .useHedge s h, rfl, rfl⟩
  case h_2 =>
    split
    · exact .inl ⟨s, .refl s, rfl, rfl⟩
    · exact .inr ⟨s, .refl s, rfl, rfl⟩

theorem Moves.pumpList (l : Lnk) (count : Bool) (q : List (Nat × Flit)) (s : State) (blocked : List Nat) :
    Moves s (s.pumpList l count blocked q).1 := by
  induction q generalizing s blocked with
  | nil => exact .refl s
  | cons b q ih =>
    obtain ⟨t, ht, -, h⟩ | ⟨t, ht, -, h⟩ := s.pumpList_cons l count blocked b q
    · rw [h]; exact ht.trans (ih ..)
    · rw [h]; exact ((ht.trans (.transmit ..)).trans (.returnCredit ..)).trans (ih ..)

theorem Moves.pump (s : State) (l : Lnk) (count : Bool) : Moves s (s.pump l count) := by
  unfold State.pump
  exact (Moves.pumpList ..).trans (.modLink _ _ rfl)

theorem Moves.enqueueFlit (s : State) (l : Lnk) (f : Flit) (buffer : Nat) : Moves s (s.enqueueFlit l f buffer) := by
  unfold State.enqueueFlit
  exact (Moves.pumpList ..).trans (.modLink _ _ rfl)

/-! ### A flit of this module on a link -/

/-- A flit put on a link waits behind those that wait there, or is out. -/
theorem State.enqueueFlit_cases (s : State) (l : Lnk) (f : Flit) (buffer : Nat) :
    (∃ t, Moves s t ∧ t.links = s.links ∧
      s.enqueueFlit l f buffer = t.modLink l (fun x => { x with waiting := x.waiting ++ [(buffer, f)] })) ∨
    (∃ t, Moves s t ∧ t.links = s.links ∧ s.enqueueFlit l f buffer =
      ((t.transmit l f).returnCredit buffer).modLink l (fun x => { x with waiting := x.waiting ++ [] })) := by
  unfold State.enqueueFlit
  dsimp only
  generalize List.filterMap _ _ = behind
  obtain ⟨t, ht, hlinks, h⟩ | ⟨t, ht, hlinks, h⟩ := s.pumpList_cons l true behind (buffer, f) []
  · rw [h]; exact .inl ⟨t, ht, hlinks, rfl⟩
  · rw [h]; exact .inr ⟨t, ht, hlinks, rfl⟩

/-- Only the link itself changes: the flit occupies no receive buffer. -/
theorem State.enqueueFlit_ne (s : State) (f : Flit) {l k : Lnk} (hk : k ≠ l) : (s.enqueueFlit l f).links[k] = s.links[k] := by
  obtain ⟨t, -, hlinks, h⟩ | ⟨t, -, hlinks, h⟩ := s.enqueueFlit_cases l f 512
  · rw [h, State.modLink_ne _ _ _ _ hk, hlinks]
  · obtain ⟨x, g, hx, -⟩ := t.transmit_eq l f
    rw [h, State.modLink_ne _ _ _ _ hk, State.returnCredit_none, hx, State.emit_links, State.modLink_ne _ _ _ _ hk, hlinks]

/-- What waits on a link keeps waiting when a flit is put on one. -/
theorem State.mem_waiting_enqueueFlit {s : State} {k : Lnk} {x : Nat × Flit} (hx : x ∈ s.links[k].waiting) (l : Lnk) (f : Flit)
    (buffer : Nat) : x ∈ (s.enqueueFlit l f buffer).links[k].waiting := by
  have append (t : State) (q : List (Nat × Flit)) (ht : x ∈ t.links[k].waiting) :
      x ∈ (t.modLink l (fun y => { y with waiting := y.waiting ++ q })).links[k].waiting := by
    obtain ⟨-, h⟩ | ⟨-, h⟩ := t.modLink_cases l k (fun y => { y with waiting := y.waiting ++ q })
    · rw [h]; exact List.mem_append_left _ ht
    · rwa [h]
  obtain ⟨t, -, hlinks, h⟩ | ⟨t, -, hlinks, h⟩ := s.enqueueFlit_cases l f buffer
  · rw [h]; exact append _ _ (by rwa [hlinks])
  · rw [h]; exact append _ _ (by rwa [State.sent_waiting, hlinks])

section
variable {s : State} {l : Lnk} {P : Flit → Prop}

/-- A flit that leaves still does when another is put on a link. -/
theorem Leaves.enqueueFlit (h : Leaves s l P) (k : Lnk) (f : Flit) (buffer : Nat) : Leaves (s.enqueueFlit k f buffer) l P := by
  obtain ⟨g, hg, hout | ⟨b, hb⟩⟩ := h
  · exact ⟨g, hg, .inl ((Moves.enqueueFlit s k f buffer).sent.subset hout)⟩
  · exact ⟨g, hg, .inr ⟨b, State.mem_waiting_enqueueFlit hb k f buffer⟩⟩

/-- A flit put on a link leaves on it, as the link layer fills it in. -/
theorem leaves_enqueueFlit (s : State) (l : Lnk) (f : Flit) (hP : ∀ g, SameFlit f g → P g) : Leaves (s.enqueueFlit l f) l P := by
  obtain ⟨t, -, -, h⟩ | ⟨t, -, -, h⟩ := s.enqueueFlit_cases l f 512
  · rw [h]
    exact ⟨f, hP f ⟨rfl, rfl, rfl⟩, .inr ⟨512, by rw [State.modLink_at]; exact List.mem_append_right _ List.mem_cons_self⟩⟩
  · obtain ⟨x, g, hx, -, -, hsame⟩ := t.transmit_eq l f
    rw [h, State.returnCredit_none, hx]
    exact ⟨g, hP g hsame, .inl (List.mem_append_right _ List.mem_cons_self)⟩

end

/-! ### Flits that are routed -/

theorem Moves.forward (s : State) (r : Rgn) (f : Flit) (buffer : Nat) : Moves s (s.forward r f buffer).1 := by
  unfold State.forward
  split
  · exact .refl s
  · split
    · exact .refl s
    · exact .enqueueFlit ..

/-- A flit that asks no peer for memory fails no copy when it is refused (R253). -/
theorem Moves.send (s : State) (r : Rgn) {f : Flit} (htype : ¬ (f.hdr.type.toNat = ftWrite ∨ f.hdr.type.toNat = ftReadReq)) :
    Moves s (s.send r f) := by
  have refused (t : State) (code detail : Nat) : Moves t (t.refuseFlit none r f code detail) := by
    unfold State.refuseFlit
    rw [State.failCopies_of_other htype]
    split
    · split <;> exact .refl t
    · split
      · exact .refl t
      · exact .forward ..
  have routed := Moves.forward s r f 512
  unfold State.send
  split
  case h_1 t h => rwa [h] at routed
  case h_2 t code h =>
    rw [h] at routed
    exact routed.trans (refused ..)

/-! ### Register fields of a link and of the hub -/

section
variable {s t : State} {changed : List Fld} {f : Fld}

theorem SameRegs.get_link (h : SameRegs s t changed) (hf : ∀ g ∈ changed, f.home ≠ g.home) (l : Lnk) : t.get f l = s.get f l :=
  h _ _ _ _ (by omega) (by decide) (by decide) hf

theorem SameRegs.get_hub (h : SameRegs s t changed) (hf : ∀ g ∈ changed, f.home ≠ g.home) : t.get f = s.get f :=
  h _ _ _ _ (by decide) (by decide) (by decide) hf

theorem Moves.sameRegs (h : Moves s t) (changed : List Fld) : SameRegs s t changed :=
  fun _ _ _ _ _ _ _ _ => State.get_of_regs h.regs ..

theorem Moves.get (h : Moves s t) (f : Fld) (i j k : Nat) : t.get f i j k = s.get f i j k := State.get_of_regs h.regs ..

end

/-- A field of a link read where another field of it was written. -/
theorem State.get_put_link (s : State) (l : Lnk) {f g : Fld} (h : f.home ≠ g.home) (v : Nat) : (s.put g v l).get f l = s.get f l :=
  State.get_put_of_home_ne s h v (by omega) (by decide)

end Sys2Proof.Machine
end

section
/-!
What this module sends in roll call (R246-R249): the frames that it announces, and the registers that go with them.
-/
namespace Sys2Proof.Machine

/-- What the frames of this module keep: registers but some, memory, all of the hub but the hedges and the frames that are
remembered, and the links but for the movement of flits. -/
structure Rolls (s t : State) (changed : List Fld) : Prop where
  regs : SameRegs s t changed
  mem : t.mem = s.mem
  hub : ∃ h x, t.hub = { s.hub with hedge := h, roll := { s.hub.roll with latest := x } }
  still : ∀ k : Lnk, t.links[k].still = s.links[k].still

section
variable {s t u : State} {c d : List Fld}

theorem Rolls.refl (s : State) (c : List Fld) : Rolls s s c := ⟨.refl s c, rfl, ⟨_, _, rfl⟩, fun _ => rfl⟩

theorem Rolls.trans (a : Rolls s t c) (b : Rolls t u c) : Rolls s u c := by
  obtain ⟨h, x, ha⟩ := a.hub
  obtain ⟨h', x', hb⟩ := b.hub
  exact ⟨a.regs.trans b.regs, b.mem.trans a.mem, ⟨h', x', by rw [hb, ha]⟩, fun k => (b.still k).trans (a.still k)⟩

theorem Moves.rolls (h : Moves s t) (c : List Fld) : Rolls s t c := by
  obtain ⟨e, he⟩ := h.hub
  exact ⟨h.sameRegs c, h.mem, ⟨e, _, he⟩, h.still⟩

theorem Rolls.ite {a b : State} {p : Prop} [Decidable p] (x : Rolls s a c) (y : Rolls s b c) : Rolls s (if p then a else b) c := by
  split <;> assumption

theorem Rolls.foldl {α : Type} {f : State → α → State} (hf : ∀ s a, Rolls s (f s a) c) (l : List α) (s : State) :
    Rolls s (l.foldl f s) c :=
  List.foldlRecOn (motive := (Rolls s · c)) l _ (.refl s c) fun t ht a _ => ht.trans (hf t a)

theorem Rolls.put_hub (s : State) (v : Nat) {f : Fld} (hf : f ∈ c) : Rolls s (s.put f v) c :=
  ⟨(SameRegs.put s f v (by decide) (by decide) (by decide)).mono (by simpa using hf), rfl, ⟨_, _, rfl⟩, fun _ => rfl⟩

theorem Rolls.put_link (s : State) (v : Nat) (l : Lnk) {f : Fld} (hf : f ∈ c) : Rolls s (s.put f v l) c :=
  ⟨(SameRegs.put s f v (by omega) (by decide) (by decide)).mono (by simpa using hf), rfl, ⟨_, _, rfl⟩, fun _ => rfl⟩

/-- A frame is remembered for its repeats (R246). -/
theorem Rolls.remember (s : State) (kind : Nat) (m : RollMsg) (residence : List Nat) (c : List Fld) :
    Rolls s (s.modRoll (fun x => { x with latest := x.latest.filter (fun y => y.1 != kind) ++ [(kind, m, residence)] })) c :=
  ⟨.refl s c, rfl, ⟨_, _, rfl⟩, fun _ => rfl⟩

end

/-! ### The frames of this module -/

theorem Moves.rollOn (s : State) (l : Lnk) (kind : Nat) (m : RollMsg) : Moves s (s.rollOn l kind m) := .enqueueFlit ..

theorem Rolls.announce (s : State) (but : Option Lnk) (kind : Nat) (m : RollMsg) (residence : List Nat) (c : List Fld) :
    Rolls s (s.announce but kind m residence) c := by
  unfold State.announce
  refine (Rolls.remember s kind m residence c).trans (.foldl (fun t l => ?_) _ _)
  exact .ite ((Moves.rollOn ..).rolls c) (.refl t c)

theorem Rolls.sendReady (s : State) : Rolls s s.sendReady [HUB_RC_STAT.STATE] := by
  unfold State.sendReady
  split
  case h_1 =>
    dsimp only
    exact ((Rolls.remember s rkReady _ [] _).trans (.ite (.put_hub _ _ (by simp)) (.refl _ _))).trans ((Moves.rollOn ..).rolls _)
  case h_2 => exact .refl s _

/-- Roll call fails (R247): its state, its code, and the links that were up. -/
theorem Rolls.closeLinks (s : State) : Rolls s (allLinks.foldl (fun s (l : Lnk) =>
    if s.get LNK_STAT.STATE l = lkUp then s.put LNK_STAT.STATE lkRollCall l else s) s) [LNK_STAT.STATE] :=
  .foldl (fun s l => .ite (.put_link s _ l (by simp)) (.refl s _)) _ _

theorem State.get_rollFail (s : State) {code : Nat} (hcode : code < 256) :
    (s.rollFail code).get HUB_RC_STAT.STATE = 6 ∧ (s.rollFail code).get HUB_RC_STAT.FAIL_CODE = code ∧
    OnlyRegs s (s.rollFail code) ∧ SameRegs s (s.rollFail code) [HUB_RC_STAT.STATE, HUB_RC_STAT.FAIL_CODE, LNK_STAT.STATE] := by
  have hclose := (Rolls.closeLinks ((s.put HUB_RC_STAT.STATE 6).put HUB_RC_STAT.FAIL_CODE code)).regs
  refine ⟨(hclose.get_hub (by decide)).trans ?_, (hclose.get_hub (by decide)).trans ?_, ?_, ?_⟩
  · rw [State.get_put_of_home_ne _ (by decide) _ (by decide) (by decide), State.get_put_self]
    rfl
  · rw [State.get_put_self]
    exact Nat.mod_eq_of_lt hcode
  · exact ((OnlyRegs.put ..).trans (.put ..)).trans (.foldl (fun s _ => .ite (.put s ..) (.refl s)) _ _)
  · refine ((SameRegs.put s HUB_RC_STAT.STATE 6 (by decide) (by decide) (by decide)).mono (by simp)).trans
      (((SameRegs.put _ HUB_RC_STAT.FAIL_CODE code (by decide) (by decide) (by decide)).mono (by simp)).trans
        (hclose.mono (by simp)))

/-- HELLO of this module. -/
theorem State.greet_spec (s : State) (l : Lnk) : SameRegs s (s.greet l) [HUB_RC_STAT.STATE] ∧ (s.greet l).mem = s.mem := by
  obtain ⟨t, hregs, hmem, ht⟩ : ∃ t : State, t.regs = s.regs ∧ t.mem = s.mem ∧
      (if s.hub.roll.best = 0 then s.modRoll (fun x => { x with best := BitVec.ofNat 64 s.serial }) else s) = t :=
    ⟨_, by split <;> rfl, by split <;> rfl, rfl⟩
  unfold State.greet
  rw [ht]
  have hstate : Rolls t (if t.get HUB_RC_STAT.STATE = 0 then t.put HUB_RC_STAT.STATE 1 else t) [HUB_RC_STAT.STATE] :=
    .ite (.put_hub t 1 List.mem_cons_self) (.refl t _)
  have hsent (m : RollMsg) := (hstate.trans (.remember _ rkHello m [] _)).trans ((Moves.rollOn _ l rkHello m).rolls _)
  exact ⟨fun f i j k hi hj hk hf => ((hsent _).regs f i j k hi hj hk hf).trans (State.get_of_regs hregs ..), (hsent _).mem.trans hmem⟩

end Sys2Proof.Machine
end

section
/-!
Link training and timing probes (R236, R243, R244, R255), and the settlement of O34.
-/
namespace Sys2Proof.Machine

/-! ### A timing flit of this module (Table 14.4) -/

/-- The first bytes of an MGMT flit, and those of its body. -/
theorem State.mgmtFlit_spec (s : State) (dest kind ph : Nat) {body : List Byte} (hbody : body.length ≤ 232) :
    (s.mgmtFlit dest kind ph body).hdr.type.toNat = ftMgmt ∧
    (s.mgmtFlit dest kind ph body).hdr.dest = BitVec.ofNat 16 dest ∧
    leAt (s.mgmtFlit dest kind ph body).payload 0 1 = kind % 256 ∧
    leAt (s.mgmtFlit dest kind ph body).payload 1 1 = ph % 256 ∧
    ∀ a n, leAt (s.mgmtFlit dest kind ph body).payload (8 + a) n = leAt body a n := by
  have hlen : ([BitVec.ofNat 8 kind, BitVec.ofNat 8 ph, 0, 0, 0, 0, 0, 0] ++ body).length ≤ 240 := by
    rw [List.length_append]
    exact Nat.add_le_add_left hbody 8
  refine ⟨rfl, rfl, leAt_padTo hlen .., leAt_padTo hlen ..,
    fun a n => (leAt_padTo hlen ..).trans (leAt_append_right rfl n)⟩

/-- A probe leaves on its link (R244). -/
theorem leaves_sendProbe (s : State) (l : Lnk) :
    Leaves (s.sendProbe l) l (fun g => g.hdr.type.toNat = ftMgmt ∧ leAt g.payload 0 1 = 1) := by
  obtain ⟨htype, -, hkind, -⟩ := s.mgmtFlit_spec 0xFFFF 1 0 (body := toLe 8 (s.now * 40 / 9)) (by simp)
  refine leaves_enqueueFlit s l _ fun g hg => ?_
  rw [hg.type, hg.payload]
  exact ⟨htype, hkind⟩

theorem Moves.sendProbe (s : State) (l : Lnk) : Moves s (s.sendProbe l) := .enqueueFlit ..

/-! ### Training (R236, R243) -/

section
variable (s : State) (l : Lnk) (passed polInv : BitVec 4) (reversed : Bool)

/-- The registers of a link that has trained. -/
def State.putTrained (s : State) (l : Lnk) (passed polInv : Nat) (reversed : Bool) : State :=
  (((((s.put LNK_STAT.STATE lkTraining l).put LNK_STAT.WIDTH (widthOf passed) l).put LNK_STAT.LANES_OK passed l).put
    LNK_STAT.POL_INV polInv l).put LNK_STAT.REVERSED (if reversed then 1 else 0) l).put LNK_PEER.VALID 0 l

theorem OnlyRegs.putTrained (s : State) (l : Lnk) (passed polInv : Nat) (reversed : Bool) :
    OnlyRegs s (s.putTrained l passed polInv reversed) :=
  (((((OnlyRegs.put ..).trans (.put ..)).trans (.put ..)).trans (.put ..)).trans (.put ..)).trans (.put ..)

/-- A link that has trained, before its first probe. -/
def State.bringUp (s : State) (l : Lnk) (passed : Nat) : State :=
  s.modLink l (fun x => { x with
    txSeq := 0, rxSeq := 0, unacked := [], replays := 0, nakSent := false, credits := s.freshCredits l
    toReturn := List.replicate 14 0, lanes := lanesFor passed, probes := [], timing := 0, rcLast := none, ready := none
    downBells := 0 })

theorem widthOf_lt (m : Nat) : widthOf m < 2 ^ LNK_STAT.WIDTH.width := by
  change widthOf m < 8
  unfold widthOf
  split
  · decide
  · split <;> omega

theorem State.get_putTrained :
    (s.putTrained l passed.toNat polInv.toNat reversed).get LNK_STAT.STATE l = lkTraining ∧
    (s.putTrained l passed.toNat polInv.toNat reversed).get LNK_STAT.WIDTH l = widthOf passed.toNat ∧
    (s.putTrained l passed.toNat polInv.toNat reversed).get LNK_STAT.LANES_OK l = passed.toNat ∧
    (s.putTrained l passed.toNat polInv.toNat reversed).get LNK_STAT.POL_INV l = polInv.toNat ∧
    (s.putTrained l passed.toNat polInv.toNat reversed).get LNK_STAT.REVERSED l = (if reversed then 1 else 0) := by
  unfold State.putTrained
  simp (disch := decide) only [State.get_put_link, State.get_put_self]
  refine ⟨rfl, Nat.mod_eq_of_lt (widthOf_lt _), Nat.mod_eq_of_lt passed.isLt, Nat.mod_eq_of_lt polInv.isLt, ?_⟩
  split <;> rfl

variable {s l passed polInv reversed} {permuted : Bool} (hstate : s.get LNK_STAT.STATE l = lkDown ∨ s.get LNK_STAT.STATE l = lkTraining)
include hstate

theorem trains_of_state : ¬ (s.get LNK_STAT.STATE l ≠ lkDown ∧ s.get LNK_STAT.STATE l ≠ lkTraining) := by
  rintro ⟨hdown, htraining⟩
  exact hstate.elim hdown htraining

theorem State.linkTraining_passes (hlanes : widthOf passed.toNat ≠ 0) :
    s.linkTraining l passed.toNat polInv.toNat reversed false =
      ((s.putTrained l passed.toNat polInv.toNat reversed).bringUp l passed.toNat).sendProbe l := by
  unfold State.linkTraining
  rw [if_neg (trains_of_state hstate), if_neg (by simpa using hlanes)]
  rfl

theorem State.linkTraining_fails (hfails : permuted = true ∨ widthOf passed.toNat = 0) :
    s.linkTraining l passed.toNat polInv.toNat reversed permuted =
      (((s.put LNK_STAT.STATE lkDown l).put LNK_STAT.LANES_OK (if permuted then 0 else passed.toNat) l).put LNK_STAT.WIDTH 0
        l).modLink l (fun x => { x with lanes := 0 }) := by
  unfold State.linkTraining
  rw [if_neg (trains_of_state hstate), if_pos (by simpa using hfails)]

end

/-! ### Timing flits (R244, R246) -/

section
variable {s : State} {l : Lnk}

/-- A timing flit that a link accepts, counted. -/
def State.countTiming (s : State) (l : Lnk) : State := s.modLink l (fun x => { x with timing := x.timing + 1 })

variable (hdown : s.get LNK_STAT.STATE l ≠ lkDown) (hfailed : s.get LNK_STAT.STATE l ≠ lkFailed)
include hdown hfailed

theorem State.timingFlit_accepted (hok : s.timingOk l = true) (f : State → State) :
    s.timingFlit l f = f (s.countTiming l) := by
  unfold State.timingFlit
  rw [if_neg (by simp [hdown, hfailed]), if_pos hok]
  rfl

theorem State.timingFlit_dropped (hok : s.timingOk l = false) (f : State → State) :
    s.timingFlit l f = s.bump LNK_RC.NONRC 1 l := by
  unfold State.timingFlit
  rw [if_neg (by simp [hdown, hfailed]), if_neg (by simp [hok])]

end

/-! ### Echoes (R244) -/

section
variable {s t : State} {l : Lnk} {time residence arrival : Nat}

/-- Whether a link carries roll call is read from its STATE. -/
theorem State.rollLink_congr (h : t.get LNK_STAT.STATE l = s.get LNK_STAT.STATE l) : t.rollLink l = s.rollLink l := by
  unfold State.rollLink
  rw [h]

/-- HELLO goes out only when the link comes up with the echo. -/
theorem State.echoAndGreet_of_same (h : (s.probeEcho l time residence arrival).get LNK_STAT.STATE l = s.get LNK_STAT.STATE l) :
    s.echoAndGreet l time residence arrival = s.probeEcho l time residence arrival := by
  unfold State.echoAndGreet
  dsimp only
  rw [State.rollLink_congr h, Bool.not_and_self]
  rfl

variable (hdown : s.get LNK_STAT.STATE l ≠ lkDown) (hfailed : s.get LNK_STAT.STATE l ≠ lkFailed) (hok : s.timingOk l = true)
include hdown hfailed hok

theorem State.probeEcho_idle (htraining : s.get LNK_STAT.STATE l ≠ lkTraining) :
    s.probeEcho l time residence arrival = s.countTiming l := by
  unfold State.probeEcho
  rw [State.timingFlit_accepted hdown hfailed hok]
  exact if_pos htraining

/-- A round trip less residence, kept. -/
def State.keepProbe (s : State) (l : Lnk) (time residence arrival : Nat) : State :=
  s.modLink l (fun x => { x with probes := x.probes ++ [arrival - time - residence] })

variable (htraining : s.get LNK_STAT.STATE l = lkTraining)
include htraining

theorem State.probeEcho_more (hfew : s.links[l].probes.length < 15) :
    s.probeEcho l time residence arrival = ((s.countTiming l).keepProbe l time residence arrival).sendProbe l := by
  have hlen : ((s.countTiming l).keepProbe l time residence arrival).links[l].probes.length < 16 := by
    rw [State.keepProbe, State.modLink_at, State.countTiming, State.modLink_at, List.length_append]
    exact Nat.add_lt_add_right hfew 1
  unfold State.probeEcho
  rw [State.timingFlit_accepted hdown hfailed hok]
  exact (if_neg fun h => h htraining).trans (if_pos hlen)

/-- The sixteenth round trip: latency and reach class, and whether the link comes up (Table 10.3a). -/
def State.finishTiming (s : State) (l : Lnk) (latency : Nat) : State :=
  let s := (s.put LNK_STAT.LATENCY (min latency (2 ^ 20 - 1)) l).put LNK_STAT.REACH (reachOf latency) l
  if reachOf latency = 3 then (s.put LNK_STAT.STATE lkDown l).put LNK_STAT.WIDTH 0 l
  else (s.put LNK_STAT.STATE (if s.complete then lkUp else lkRollCall) l).pump l false

theorem State.probeEcho_last (hmany : 15 ≤ s.links[l].probes.length) {latency : Nat}
    (hlat : latency = (s.links[l].probes.foldl (· + ·) 0 + (arrival - time - residence) + 16) / 32) :
    s.probeEcho l time residence arrival = ((s.countTiming l).keepProbe l time residence arrival).finishTiming l latency := by
  have hprobes : ((s.countTiming l).keepProbe l time residence arrival).links[l].probes =
      s.links[l].probes ++ [arrival - time - residence] := by
    rw [State.keepProbe, State.modLink_at, State.countTiming, State.modLink_at]
  have hlen : ¬ ((s.countTiming l).keepProbe l time residence arrival).links[l].probes.length < 16 := by
    rw [hprobes, List.length_append]
    exact Nat.not_lt.2 (Nat.add_le_add_right hmany 1)
  have hsum : latency = (((s.countTiming l).keepProbe l time residence arrival).links[l].probes.foldl (· + ·) 0 + 16) / 32 := by
    rw [hprobes, List.foldl_append, hlat]
    rfl
  unfold State.probeEcho
  rw [State.timingFlit_accepted hdown hfailed hok, hsum]
  exact (if_neg fun h => h htraining).trans (if_neg hlen)

end

section
variable (s : State) (l : Lnk) (latency : Nat)

theorem reachOf_lt : reachOf latency < 2 ^ LNK_STAT.REACH.width := by
  change reachOf latency < 4
  unfold reachOf
  split
  · decide
  · split
    · decide
    · split <;> decide

/-- STATE of a link after its timing. -/
def State.timedState (s : State) (latency : Nat) : Nat :=
  if reachOf latency = 3 then lkDown else if s.complete then lkUp else lkRollCall

theorem State.finishTiming_spec :
    (s.finishTiming l latency).get LNK_STAT.LATENCY l = min latency (2 ^ 20 - 1) ∧
    (s.finishTiming l latency).get LNK_STAT.REACH l = reachOf latency ∧
    (s.finishTiming l latency).get LNK_STAT.STATE l = s.timedState latency ∧ (s.finishTiming l latency).mem = s.mem := by
  have hlat : min latency (2 ^ 20 - 1) % 2 ^ LNK_STAT.LATENCY.width = min latency (2 ^ 20 - 1) :=
    Nat.mod_eq_of_lt (Nat.lt_of_le_of_lt (Nat.min_le_right ..) (by decide))
  have hreach : reachOf latency % 2 ^ LNK_STAT.REACH.width = reachOf latency := Nat.mod_eq_of_lt (reachOf_lt latency)
  have hcomplete : ((s.put LNK_STAT.LATENCY (min latency (2 ^ 20 - 1)) l).put LNK_STAT.REACH (reachOf latency) l).complete =
      s.complete := by
    unfold State.complete
    rw [(SameRegs.put _ LNK_STAT.REACH _ (by omega) (by decide) (by decide)).get_hub (by decide),
      (SameRegs.put _ LNK_STAT.LATENCY _ (by omega) (by decide) (by decide)).get_hub (by decide)]
  unfold State.finishTiming State.timedState
  dsimp only
  rw [hcomplete]
  split
  · refine ⟨?_, ?_, ?_, rfl⟩
    all_goals simp (disch := decide) only [State.get_put_link, State.get_put_self, hlat, hreach]
    rfl
  · refine ⟨?_, ?_, ?_, (Moves.pump ..).mem⟩
    all_goals simp (disch := decide) only [(Moves.pump ..).get, State.get_put_link, State.get_put_self, hlat, hreach]
    split <;> rfl

end

/-- The row of an echo after the sixteenth round trip: HELLO goes out when the link has come up (R246). -/
theorem completes_last_echo {s : State} {l : Lnk} {time arrival : Word64} {residence : Word32} {v : State} {latency : Nat}
    (hecho : s.probeEcho l time.toNat residence.toNat arrival.toNat = v.finishTiming l latency) (hregs : v.regs = s.regs)
    (hmem : v.mem = s.mem) : Completes (.probeEcho l time residence arrival) s (fun t =>
      t.get LNK_STAT.LATENCY l = min latency (2 ^ 20 - 1) ∧ t.get LNK_STAT.REACH l = reachOf latency ∧
      t.get LNK_STAT.STATE l = s.timedState latency ∧ t.mem = s.mem) := by
  obtain ⟨hlat, hreach, hstate, hkept⟩ := v.finishTiming_spec l latency
  have hcomplete : v.complete = s.complete := congrArg (· == 5) (State.get_of_regs hregs ..)
  have hstate' : (v.finishTiming l latency).get LNK_STAT.STATE l = s.timedState latency := by
    rw [hstate, State.timedState, State.timedState, hcomplete]
  refine ⟨_, rfl, ?_⟩
  unfold State.echoAndGreet
  rw [hecho]
  obtain ⟨hgreet, hgreetMem⟩ := (v.finishTiming l latency).greet_spec l
  dsimp only
  split
  · simp only [hgreet.get_link (f := LNK_STAT.LATENCY) (by decide), hgreet.get_link (f := LNK_STAT.REACH) (by decide),
      hgreet.get_link (f := LNK_STAT.STATE) (by decide)]
    exact ⟨hlat, hreach, hstate', hgreetMem.trans (hkept.trans hmem)⟩
  · exact ⟨hlat, hreach, hstate', hkept.trans hmem⟩

/-! ### Retry of training (R243, R255) -/

section
variable {s : State} {l : Lnk}

/-- A link that waits for no retry is left alone. -/
theorem State.trainingRetry_idle (hup : s.get LNK_STAT.STATE l = lkUp ∨ s.get LNK_STAT.STATE l = lkRollCall)
    (hidle : s.get LNK_WIDTH.TARGET l ≤ s.get LNK_STAT.WIDTH l ∨ s.retryDue (3, l.val, 0) = false) : s.trainingRetry l = s := by
  have hdown : s.get LNK_STAT.STATE l ≠ lkDown := by rcases hup with h | h <;> rw [h] <;> decide
  unfold State.trainingRetry
  rw [if_neg hdown]
  refine if_neg ?_
  rintro ⟨-, -, hwidth, -, hdue⟩
  rcases hidle with h | h
  · exact absurd hwidth (Nat.not_lt.2 h)
  · exact absurd (h.symm.trans hdue) (by decide)

/-- Lanes below the target width start their return. -/
theorem State.trainingRetry_returns (hup : s.get LNK_STAT.STATE l = lkUp ∨ s.get LNK_STAT.STATE l = lkRollCall)
    (hphase : s.get LNK_WIDTH.PHASE l = 0) (hwidth : s.get LNK_STAT.WIDTH l < s.get LNK_WIDTH.TARGET l)
    (hfew : s.attemptsOf (3, l.val, 0) < 4) (hdue : s.retryDue (3, l.val, 0) = true) :
    s.trainingRetry l = (s.put LNK_WIDTH.PHASE 1 l).put LNK_WIDTH.CLEAN 0 l := by
  have hdown : s.get LNK_STAT.STATE l ≠ lkDown := by rcases hup with h | h <;> rw [h] <;> decide
  unfold State.trainingRetry
  rw [if_neg hdown]
  exact if_pos ⟨hup, hphase, hwidth, hfew, hdue⟩

end

/-! ### The rows -/

section
variable {s : State} {l : Lnk} {passed polInv : BitVec 4} {reversed : Bool}
  (hstate : s.get LNK_STAT.STATE l = lkDown ∨ s.get LNK_STAT.STATE l = lkTraining)
include hstate

theorem completes_training_passes (hlanes : widthOf passed.toNat ≠ 0) :
    Completes (.linkTraining l passed polInv reversed false) s (fun t => t.get LNK_STAT.STATE l = lkTraining ∧
      t.get LNK_STAT.WIDTH l = widthOf passed.toNat ∧ t.get LNK_STAT.LANES_OK l = passed.toNat ∧
      t.get LNK_STAT.POL_INV l = polInv.toNat ∧ t.get LNK_STAT.REVERSED l = (if reversed then 1 else 0) ∧
      t.links[l].probes = [] ∧ Leaves t l (fun g => g.hdr.type.toNat = ftMgmt ∧ leAt g.payload 0 1 = 1) ∧
      (∀ k : Lnk, k ≠ l → t.links[k] = s.links[k]) ∧ t.mem = s.mem ∧ t.regions = s.regions) := by
  obtain ⟨hst, hwidth, hok, hpol, hrev⟩ := s.get_putTrained l passed polInv reversed
  have honly := OnlyRegs.putTrained s l passed.toNat polInv.toNat reversed
  generalize hu : s.putTrained l passed.toNat polInv.toNat reversed = u at *
  have hsent := Moves.sendProbe (u.bringUp l passed.toNat) l
  have heq := State.linkTraining_passes (polInv := polInv) (reversed := reversed) hstate hlanes
  rw [hu] at heq
  refine ⟨_, congrArg Host.Outcome.next heq, (hsent.get ..).trans hst, (hsent.get ..).trans hwidth, (hsent.get ..).trans hok,
    (hsent.get ..).trans hpol, (hsent.get ..).trans hrev, ?_, leaves_sendProbe .., fun k hk => ?_,
    hsent.mem.trans honly.mem, hsent.regions.trans honly.regions⟩
  · exact (congrArg Link.probes (hsent.still l)).trans (congrArg Link.probes (State.modLink_at ..))
  · exact ((State.enqueueFlit_ne _ _ hk).trans (State.modLink_ne _ _ _ _ hk)).trans (by rw [honly.links])

theorem completes_training_fails {permuted : Bool} (hfails : permuted = true ∨ widthOf passed.toNat = 0) :
    Completes (.linkTraining l passed polInv reversed permuted) s (fun t => t.get LNK_STAT.STATE l = lkDown ∧
      t.get LNK_STAT.WIDTH l = 0 ∧ (∀ k : Lnk, k ≠ l → t.links[k] = s.links[k]) ∧ t.mem = s.mem ∧ t.out = s.out ∧
      t.regions = s.regions) := by
  refine ⟨_, congrArg Host.Outcome.next (State.linkTraining_fails hstate hfails), ?_, ?_, fun k hk => State.modLink_ne _ _ _ _ hk,
    rfl, rfl, rfl⟩
  all_goals
    rw [State.get_modLink]
    simp (disch := decide) only [State.get_put_link, State.get_put_self]
    rfl

end

theorem completes_retry_returns {s : State} {l : Lnk}
    (hup : s.get LNK_STAT.STATE l = lkUp ∨ s.get LNK_STAT.STATE l = lkRollCall) (hphase : s.get LNK_WIDTH.PHASE l = 0)
    (hwidth : s.get LNK_STAT.WIDTH l < s.get LNK_WIDTH.TARGET l) (hfew : s.attemptsOf (3, l.val, 0) < 4)
    (hdue : s.retryDue (3, l.val, 0) = true) : Completes (.trainingRetry l) s (fun t => t.get LNK_WIDTH.PHASE l = 1 ∧
      t.get LNK_WIDTH.CLEAN l = 0 ∧ SameRegs s t [LNK_WIDTH.PHASE, LNK_WIDTH.CLEAN] ∧ OnlyRegs s t) := by
  refine ⟨_, congrArg Host.Outcome.next (State.trainingRetry_returns hup hphase hwidth hfew hdue), ?_, State.get_put_self .., ?_,
    (OnlyRegs.put ..).trans (.put ..)⟩
  · exact (State.get_put_link _ l (by decide) _).trans (State.get_put_self ..)
  · exact ((SameRegs.put s LNK_WIDTH.PHASE 1 (by omega) (by decide) (by decide)).mono (by simp)).trans
      ((SameRegs.put _ LNK_WIDTH.CLEAN 0 (by omega) (by decide) (by decide)).mono (by simp))

section
variable {s : State} {l : Lnk} {time arrival : Word64} {residence : Word32} (hdown : s.get LNK_STAT.STATE l ≠ lkDown)
  (hfailed : s.get LNK_STAT.STATE l ≠ lkFailed) (hok : s.timingOk l = true)
include hdown hfailed hok

/-- A probe is answered with its time and the residence. -/
theorem completes_probe_answered : Completes (.timingProbe l time residence) s (fun t =>
      Leaves t l (fun g => g.hdr.type.toNat = ftMgmt ∧ leAt g.payload 0 1 = 2 ∧ leAt g.payload 8 8 = time.toNat ∧
        leAt g.payload 16 4 = residence.toNat) ∧
      t.links[l].timing = s.links[l].timing + 1 ∧ t.regs = s.regs ∧ t.mem = s.mem ∧ t.regions = s.regions) := by
  have heq := State.timingFlit_accepted hdown hfailed hok (fun s => s.enqueueFlit l (s.mgmtFlit 0xFFFF 2 0
    (toLe 8 time.toNat ++ toLe 4 residence.toNat)))
  obtain ⟨htype, -, hkind, -, hbody⟩ := (s.countTiming l).mgmtFlit_spec 0xFFFF 2 0
    (body := toLe 8 time.toNat ++ toLe 4 residence.toNat) (by simp)
  have hsent := Moves.enqueueFlit (s.countTiming l) l ((s.countTiming l).mgmtFlit 0xFFFF 2 0
    (toLe 8 time.toNat ++ toLe 4 residence.toNat)) 512
  refine ⟨_, congrArg Host.Outcome.next heq, leaves_enqueueFlit _ _ _ fun g hg => ?_, ?_, hsent.regs, hsent.mem, hsent.regions⟩
  · rw [hg.type, hg.payload, hbody 0, hbody 8, leAt_append_left (length_toLe ..), leAt_append_right (b := 0) (by simp)]
    refine ⟨htype, hkind, ofLe_toLe time.isLt, ?_⟩
    exact (congrArg (leAt · 0 4) (List.append_nil _).symm).trans
      ((leAt_append_left (length_toLe ..)).trans (ofLe_toLe residence.isLt))
  · exact (congrArg Link.timing (hsent.still l)).trans (congrArg Link.timing (State.modLink_at ..))

/-- An echo adds its round trip, and the next probe leaves. -/
theorem completes_echo_more (htraining : s.get LNK_STAT.STATE l = lkTraining) (hfew : s.links[l].probes.length < 15) :
    Completes (.probeEcho l time residence arrival) s (fun t =>
      t.links[l].probes = s.links[l].probes ++ [arrival.toNat - time.toNat - residence.toNat] ∧
      Leaves t l (fun g => g.hdr.type.toNat = ftMgmt ∧ leAt g.payload 0 1 = 1) ∧ t.regs = s.regs ∧ t.mem = s.mem) := by
  have heq := State.probeEcho_more (time := time.toNat) (residence := residence.toNat) (arrival := arrival.toNat) hdown hfailed
    hok htraining hfew
  have hsent := Moves.sendProbe ((s.countTiming l).keepProbe l time.toNat residence.toNat arrival.toNat) l
  have hsame := State.echoAndGreet_of_same (s := s) (l := l) (by rw [heq]; exact hsent.get ..)
  refine ⟨_, congrArg Host.Outcome.next (hsame.trans heq), ?_, leaves_sendProbe .., hsent.regs, hsent.mem⟩
  refine (congrArg Link.probes (hsent.still l)).trans ?_
  change ((s.countTiming l).keepProbe l time.toNat residence.toNat arrival.toNat).links[l].probes = _
  rw [State.keepProbe, State.modLink_at, State.countTiming, State.modLink_at]

end

/-- Settles O34: by the state of the link, and by the round trips that it has had. -/
theorem linksTrainAndTime : Obligations.LinksTrainAndTime := by
  unfold Obligations.LinksTrainAndTime
  refine ⟨fun s l passed polInv reversed permuted => ⟨fun hstate => ⟨?passes, completes_training_fails hstate⟩, ?inUse,
    fun hdown => ⟨?retry, ?refused⟩, fun hup => ⟨completes_retry_returns hup, ?idle⟩⟩,
    fun s l time arrival residence hdown hfailed => ⟨?dropped, fun hok => ⟨completes_probe_answered hdown hfailed hok,
      completes_echo_more hdown hfailed hok, ?last, ?noTraining⟩⟩⟩
  case passes =>
    rintro rfl
    exact completes_training_passes hstate
  case inUse => exact fun hdown htraining => congrArg Host.Outcome.next (if_pos ⟨hdown, htraining⟩)
  case retry =>
    intro hnear
    have heq : s.trainingRetry l = s.put LNK_STAT.STATE lkTraining l := (if_pos hdown).trans (if_neg (Nat.not_lt.2 hnear))
    exact ⟨_, congrArg Host.Outcome.next heq, State.get_put_self .., .put s _ _ (by omega) (by decide) (by decide), .put ..⟩
  case refused => exact fun hfar => congrArg Host.Outcome.next ((if_pos hdown).trans (if_pos hfar))
  case idle => exact fun hidle => congrArg Host.Outcome.next (State.trainingRetry_idle hup hidle)
  case dropped =>
    intro hok
    refine ⟨_, congrArg Host.Outcome.next (State.timingFlit_dropped hdown hfailed hok _), State.get_bump_self ..,
      .put s _ _ (by omega) (by decide) (by decide), .bump ..⟩
  case last =>
    intro htraining hmany lat hlat
    exact completes_last_echo (State.probeEcho_last hdown hfailed hok htraining hmany hlat) rfl rfl
  case noTraining =>
    intro htraining
    have heq := State.probeEcho_idle (time := time.toNat) (residence := residence.toNat) (arrival := arrival.toNat) hdown hfailed
      hok htraining
    exact congrArg Host.Outcome.next ((State.echoAndGreet_of_same (by rw [heq]; rfl)).trans heq)

end Sys2Proof.Machine
end

section
/-!
Fabric posts (R344, R346), and the settlement of O49.
-/
namespace Sys2Proof.Machine

/-! ### Words of a message -/

theorem ofLe_toLe_mod (n v : Nat) : ofLe (toLe n v) = v % 256 ^ n := by
  induction n generalizing v with
  | zero => rw [Nat.pow_zero, Nat.mod_one]; rfl
  | succ n ih => rw [toLe, ofLe, ih, BitVec.toNat_ofNat, 
      show 256 ^ (n + 1) = 256 * 256 ^ n from Nat.pow_succ', Nat.mod_mul]

/-- Word j of words that follow each other. -/
theorem leAt_flatMap_toLe {α : Type} (n : Nat) (v : α → Nat) (l : List α) (j : Nat) (hj : j < l.length) :
    leAt (l.flatMap fun x => toLe n (v x)) (n * j) n = v l[j] % 256 ^ n := by
  induction l generalizing j with
  | nil => exact absurd hj (Nat.not_lt_zero j)
  | cons x l ih =>
    rw [List.flatMap_cons]
    cases j with
    | zero => exact (leAt_append_left (length_toLe ..)).trans (ofLe_toLe_mod ..)
    | succ j =>
      rw [leAt_append_right (b := n * j) (by rw [length_toLe, Nat.mul_succ, Nat.add_comm]) n]
      exact ih j (Nat.lt_of_succ_lt_succ hj)

/-- A field read at any index where a field of a lower home was written. -/
theorem State.get_put_of_lower (s : State) {f g : Fld} (h : g.home < f.home) (v a b c : Nat) {i j k : Nat} (hi : i < 65536)
    (hj : j < 65536) (hk : k < 65536) : (s.put g v i j k).get f a b c = s.get f a b c :=
  State.get_put_ne _ _ _ _ _ _ _ _ _ _ (by unfold Fld.home at h; unfold Fld.key; omega)

/-! ### A message enters an inbound pigeonhole (R340-R342) -/

section
variable (s : State) {n : Nat} (hn : n < 16) (addr : Nat) (msg : List Nat)

/-- The eight words of a message in inbound pigeonhole n. -/
def State.putInWords (s : State) (n : Nat) (msg : List Nat) : State :=
  (List.range 8).foldl (fun s j => s.put PH_IN.WORD (msg.getD j 0) n j) s

/-- The fields that a message from the fabric changes. -/
def postFields : List Fld := [PH_IN.WORD, PH_IN_STAT.FULL, PH_IN_STAT.SRC, PH_IN_STAT.SRC_ADDR, PH_IN_STAT.POSTS]

include hn

/-- What a message from the fabric leaves in inbound pigeonhole n. -/
theorem State.phEnter_inbound : s.phEnter n 5 addr msg =
    ((((s.putInWords n msg).put PH_IN_STAT.FULL 1 n).put PH_IN_STAT.POSTS ((s.putInWords n msg).get PH_IN_STAT.POSTS n + 1)
      n).put PH_IN_STAT.SRC 5 n).put PH_IN_STAT.SRC_ADDR addr n := by
  simp only [State.phEnter, phWord, phFull, phPosts, phSrc, phSrcAddr, if_pos hn, Nat.mod_eq_of_lt hn]
  rfl

theorem State.get_phEnter_inbound :
    (∀ j < 8, (s.phEnter n 5 addr msg).get PH_IN.WORD n j = msg.getD j 0 % 2 ^ 64) ∧
    (s.phEnter n 5 addr msg).get PH_IN_STAT.FULL n = 1 ∧ (s.phEnter n 5 addr msg).get PH_IN_STAT.SRC n = 5 ∧
    (s.phEnter n 5 addr msg).get PH_IN_STAT.SRC_ADDR n = addr % 2 ^ 16 := by
  rw [s.phEnter_inbound hn]
  have hsame {f g : Fld} (h : f.home ≠ g.home) (t : State) (v : Nat) {j : Nat} (hj : j < 65536) :
      (t.put g v n).get f n j = t.get f n j :=
    State.get_put_home _ _ _ _ _ _ _ _ _ _ h (by omega) hj (by decide) (by omega) (by decide) (by decide)
  refine ⟨fun j hj => ?_, ?_, ?_, State.get_put_self ..⟩
  · have hj' : j < 65536 := by omega
    rw [hsame (by decide) _ _ hj', hsame (by decide) _ _ hj', hsame (by decide) _ _ hj', hsame (by decide) _ _ hj',
      State.putInWords, State.get_foldl_put_second PH_IN.WORD (msg.getD · 0) (by omega) (by omega) _ _ (by simp; omega),
      if_pos (List.mem_range.2 hj)]
    rfl
  · rw [hsame (by decide) _ _ (by decide), hsame (by decide) _ _ (by decide), hsame (by decide) _ _ (by decide),
      State.get_put_self]
    rfl
  · rw [hsame (by decide) _ _ (by decide), State.get_put_self]
    rfl

theorem OnlyRegs.phEnter_inbound : OnlyRegs s (s.phEnter n 5 addr msg) := by
  rw [s.phEnter_inbound hn]
  exact ((((OnlyRegs.foldl (fun s _ => .put s ..) _ _).trans (.put ..)).trans (.put ..)).trans (.put ..)).trans (.put ..)

theorem SameRegs.putInWords : SameRegs s (s.putInWords n msg) postFields :=
  List.foldlRecOn (motive := (SameRegs s · postFields)) _ _ (.refl s _) fun t ht j hj =>
    ht.trans ((SameRegs.put t _ _ (by omega) (by have := List.mem_range.1 hj; omega) (by decide)).mono (by simp [postFields]))

theorem SameRegs.phEnter_inbound : SameRegs s (s.phEnter n 5 addr msg) postFields := by
  rw [s.phEnter_inbound hn]
  have step (t : State) {f : Fld} (v : Nat) (hf : f ∈ postFields) : SameRegs t (t.put f v n) postFields :=
    (SameRegs.put t f v (by omega) (by decide) (by decide)).mono (by simpa using hf)
  refine ((((SameRegs.putInWords s hn msg).trans (step _ _ ?_)).trans (step _ _ ?_)).trans (step _ _ ?_)).trans (step _ _ ?_)
  all_goals simp [postFields]

end

/-! ### A fabric pigeonhole takes a post or refuses it (R344, R346) -/

/-- The words of a post. -/
def postWords (f : Flit) : List Nat := (List.range 8).map (fun j => leAt f.payload (16 + 8 * j) 8)

theorem postWords_getD (f : Flit) {j : Nat} (hj : j < 8) : (postWords f).getD j 0 = leAt f.payload (16 + 8 * j) 8 := by
  rw [postWords, List.getD_eq_getElem?_getD, List.getElem?_map, List.getElem?_range hj]
  rfl

section
variable {s : State} {n src : Nat} {f : Flit}

/-- A pigeonhole that is no fabric pigeonhole. -/
theorem State.phTake_unknown (h : 16 ≤ n ∨ s.get PH_CFG.FUNC n ≠ 5) : s.phTake n src f = (s, some 3) := by
  unfold State.phTake
  rw [if_pos (by simpa using h)]

variable (hn : n < 16) (hfunc : s.get PH_CFG.FUNC n = 5)
include hn hfunc

theorem State.phTake_dormant (hd : s.phDormant n = true) : s.phTake n src f = (s, some 5) := by
  unfold State.phTake
  rw [if_neg (by simp [hn, hfunc]), if_pos hd]

variable (hawake : s.phDormant n = false)
include hawake

theorem State.phTake_awake : s.phTake n src f =
    ((s.phPut n 5 src (postWords f)).1, if (s.phPut n 5 src (postWords f)).2 then none else some 4) := by
  unfold State.phTake
  rw [if_neg (by simp [hn, hfunc]), if_neg (by simp [hawake])]
  rfl

theorem State.phTake_full (hfull : s.bit PH_IN_STAT.FULL n = true) (hstrict : s.bit PH_MODE.STRICT = true) :
    s.phTake n src f = (s.bump PH_IN_STAT.REJECT 1 n, some 4) := by
  rw [State.phTake_awake hn hfunc hawake]
  simp only [State.phPut, phFull, phReject, if_pos hn, Nat.mod_eq_of_lt hn, hfull, hstrict]
  rfl

/-- An empty pigeonhole, or one in fast mode, takes the post; one that was full collides. -/
theorem State.phTake_accepts (hfree : s.bit PH_IN_STAT.FULL n = false ∨ s.bit PH_MODE.STRICT = false) :
    ∃ v, OnlyRegs s v ∧ SameRegs s v [PH_IN_STAT.COLLIDE] ∧
      v.get PH_IN_STAT.COLLIDE n = (if s.bit PH_IN_STAT.FULL n then 1 else s.get PH_IN_STAT.COLLIDE n) ∧
      s.phTake n src f = (v.phEnter n 5 src (postWords f), none) := by
  rw [State.phTake_awake hn hfunc hawake]
  simp only [State.phPut, phFull, phCollide, if_pos hn, Nat.mod_eq_of_lt hn]
  by_cases hempty : s.bit PH_IN_STAT.FULL n = false
  · exact ⟨s, .refl s, .refl s _, by rw [hempty]; rfl, by rw [hempty]; rfl⟩
  · rw [Bool.not_eq_false] at hempty
    rw [hempty, hfree.resolve_left (by rw [hempty]; decide)]
    exact ⟨s.put PH_IN_STAT.COLLIDE 1 n, .put .., .put _ _ _ (by omega) (by decide) (by decide), State.get_put_self .., rfl⟩

end

/-- What a fabric pigeonhole that takes a post holds, and what stays. -/
theorem State.phTake_taken {s : State} {n src : Nat} {f : Flit} (hn : n < 16) (hfunc : s.get PH_CFG.FUNC n = 5)
    (hawake : s.phDormant n = false) (hfree : s.bit PH_IN_STAT.FULL n = false ∨ s.bit PH_MODE.STRICT = false) :
    ∃ u, s.phTake n src f = (u, none) ∧ (∀ j < 8, u.get PH_IN.WORD n j = leAt f.payload (16 + 8 * j) 8) ∧
      u.get PH_IN_STAT.FULL n = 1 ∧ u.get PH_IN_STAT.SRC n = 5 ∧ u.get PH_IN_STAT.SRC_ADDR n = src % 2 ^ 16 ∧
      u.get PH_IN_STAT.COLLIDE n = (if s.bit PH_IN_STAT.FULL n then 1 else s.get PH_IN_STAT.COLLIDE n) ∧
      SameRegs s u [PH_IN.WORD, PH_IN_STAT.FULL, PH_IN_STAT.SRC, PH_IN_STAT.SRC_ADDR, PH_IN_STAT.COLLIDE,
        PH_IN_STAT.POSTS] ∧ OnlyRegs s u := by
  obtain ⟨v, honly, hsame, hcollide, htake⟩ := State.phTake_accepts (src := src) (f := f) hn hfunc hawake hfree
  obtain ⟨hword, hfull, hsrc, haddr⟩ := v.get_phEnter_inbound hn src (postWords f)
  have henter := SameRegs.phEnter_inbound v hn src (postWords f)
  refine ⟨_, htake, fun j hj => ?_, hfull, hsrc, haddr, ?_, (hsame.mono (by simp)).trans (henter.mono (by simp [postFields])),
    honly.trans (.phEnter_inbound _ hn ..)⟩
  · rw [hword j hj, postWords_getD f hj]
    exact Nat.mod_eq_of_lt (leAt_lt ..)
  · exact (henter _ _ _ _ (by omega) (by decide) (by decide) (by decide)).trans hcollide

/-- A post that is not taken changes at most REJECT. -/
theorem State.phTake_refuses {s : State} {n src : Nat} {f : Flit}
    (h : 16 ≤ n ∨ s.get PH_CFG.FUNC n ≠ 5 ∨ s.phDormant n = true ∨
      (s.bit PH_IN_STAT.FULL n = true ∧ s.bit PH_MODE.STRICT = true)) :
    ∃ u code, s.phTake n src f = (u, some code) ∧ SameRegs s u [PH_IN_STAT.REJECT] ∧ OnlyRegs s u := by
  by_cases hn : 16 ≤ n
  · exact ⟨s, 3, State.phTake_unknown (.inl hn), .refl s _, .refl s⟩
  by_cases hfunc : s.get PH_CFG.FUNC n = 5
  · have hn := Nat.lt_of_not_le hn
    cases hd : s.phDormant n with
    | true => exact ⟨s, 5, State.phTake_dormant hn hfunc hd, .refl s _, .refl s⟩
    | false =>
      obtain h | h | h | ⟨hfull, hstrict⟩ := h
      · omega
      · exact absurd hfunc h
      · rw [hd] at h; exact absurd h (by decide)
      · exact ⟨_, 4, State.phTake_full hn hfunc hd hfull hstrict, .bump s _ _ (by omega) (by decide) (by decide), .bump ..⟩
  · exact ⟨s, 3, State.phTake_unknown (.inr hfunc), .refl s _, .refl s⟩

/-! ### The post of this module (R346) -/

section
variable (s : State)

/-- The state with a post pending. -/
def State.openPost (s : State) : State :=
  ((s.put PH_FSEND.GO 0).put PH_FSEND.STATUS 1).modHub (fun h => { h with fpostBells := 2 })

/-- The flit of the post. -/
def State.postFlit (s : State) : Flit :=
  s.mgmtFlit (s.get PH_FSEND.DEST) 0x10 (s.get PH_FSEND.PH)
    (List.replicate 8 0 ++ (List.range 8).flatMap (fun j => toLe 8 (s.get PH_FDATA.WORD j)))

theorem State.openPost_same : SameRegs s s.openPost [PH_FSEND.STATUS, PH_FSEND.GO] :=
  ((SameRegs.put s PH_FSEND.GO 0 (by decide) (by decide) (by decide)).mono (by simp)).trans
    ((SameRegs.put _ PH_FSEND.STATUS 1 (by decide) (by decide) (by decide)).mono (by simp))

theorem State.get_openPost_regs (f : Fld) (i j k : Nat) :
    s.openPost.get f i j k = ((s.put PH_FSEND.GO 0).put PH_FSEND.STATUS 1).get f i j k := rfl

theorem State.openPost_status : s.openPost.get PH_FSEND.STATUS = 1 := by
  rw [State.get_openPost_regs, State.get_put_self]
  rfl

theorem State.openPost_go : s.openPost.get PH_FSEND.GO = 0 := by
  rw [State.get_openPost_regs, State.get_put_of_home_ne _ (by decide) _ (by decide) (by decide), State.get_put_self]
  rfl

/-- A register after the post in the map reads as before, at any index. -/
theorem State.get_openPost {f : Fld} (hgo : PH_FSEND.GO.home < f.home) (hstatus : PH_FSEND.STATUS.home < f.home) (i j k : Nat) :
    s.openPost.get f i j k = s.get f i j k := by
  rw [State.get_openPost_regs, State.get_put_of_lower _ hstatus _ _ _ _ (by decide) (by decide) (by decide),
    State.get_put_of_lower _ hgo _ _ _ _ (by decide) (by decide) (by decide)]

theorem State.openPost_dormant {n : Nat} (hn : n < 16) : s.openPost.phDormant n = s.phDormant n := by
  have hdomain : s.openPost.get PH_CFG.DOMAIN n = s.get PH_CFG.DOMAIN n :=
    s.openPost_same _ _ _ _ (by omega) (by decide) (by decide) (by decide)
  have hstate : s.openPost.dormant = s.dormant := by
    unfold State.dormant
    rw [s.openPost_same.get_hub (by decide)]
  unfold State.phDormant
  rw [hdomain, hstate]
  simp only [s.get_openPost (f := PROC_PART_CFG.REGIONS) (by decide) (by decide)]
  rfl

theorem State.openPost_bit {n : Nat} (hn : n < 16) {f : Fld} (hf : ∀ g ∈ [PH_FSEND.STATUS, PH_FSEND.GO], f.home ≠ g.home) :
    s.openPost.bit f n = s.bit f n := by
  unfold State.bit
  rw [s.openPost_same f n 0 0 (by omega) (by decide) (by decide) hf]

theorem State.openPost_route (dest : Nat) : s.openPost.routeOf 0 dest = s.routeOf 0 dest := by
  have hactive : s.openPost.get RGN_ROUTE_CTRL.ACTIVE (0 : Rgn) = s.get RGN_ROUTE_CTRL.ACTIVE (0 : Rgn) :=
    s.openPost_same.get_hub (by decide)
  have hbase : PH_FSEND.STATUS.home < (RGN_ROUTE.ENTRY (dest % 8)).home := by
    exact Nat.lt_of_lt_of_le (by decide : PH_FSEND.STATUS.home < 0x10C0000 * 64) (Nat.le_add_right ..)
  have hgo : PH_FSEND.GO.home < PH_FSEND.STATUS.home := by decide
  have hentry (k : Nat) : s.openPost.get (RGN_ROUTE.ENTRY (dest % 8)) (0 : Rgn) k (dest / 8) =
      s.get (RGN_ROUTE.ENTRY (dest % 8)) (0 : Rgn) k (dest / 8) := s.get_openPost (Nat.lt_trans hgo hbase) hbase ..
  simp only [State.routeOf, hactive, hentry]

theorem State.postFlit_dest (hdest : s.get PH_FSEND.DEST < 65536) : s.postFlit.hdr.dest.toNat = s.get PH_FSEND.DEST :=
  Nat.mod_eq_of_lt hdest

theorem State.postFlit_spec : s.postFlit.hdr.type.toNat = ftMgmt ∧
    s.postFlit.hdr.dest = BitVec.ofNat 16 (s.get PH_FSEND.DEST) ∧ leAt s.postFlit.payload 0 1 = 0x10 ∧
    leAt s.postFlit.payload 1 1 = s.get PH_FSEND.PH % 256 ∧
    ∀ j < 8, leAt s.postFlit.payload (16 + 8 * j) 8 = s.get PH_FDATA.WORD j % 2 ^ 64 := by
  have hlen : (List.replicate 8 (0 : Byte) ++ (List.range 8).flatMap (fun j => toLe 8 (s.get PH_FDATA.WORD j))).length ≤ 232 := by
    simp only [List.length_append, List.length_replicate, List.length_flatMap, length_toLe]
    decide
  obtain ⟨htype, haddr, hkind, hph, hbody⟩ := s.mgmtFlit_spec (s.get PH_FSEND.DEST) 0x10 (s.get PH_FSEND.PH) hlen
  refine ⟨htype, haddr, hkind, hph, fun j hj => ?_⟩
  rw [State.postFlit, show 16 + 8 * j = 8 + (8 + 8 * j) by omega, hbody,
    leAt_append_right (by rw [List.length_replicate])]
  exact (leAt_flatMap_toLe 8 _ _ j (by simpa using hj)).trans
    (congrArg (s.get PH_FDATA.WORD · % 2 ^ 64) (List.getElem_range _))

end

/-- STATUS of a post by the code that refuses it, or none. -/
def postStatus : Option Nat → Nat
  | none => 2
  | some code => fpostStatus code

/-- The first answer of a pending post is its STATUS. -/
theorem State.fpostAnswer_pending {s : State} (h : s.get PH_FSEND.STATUS = 1) (status : Nat) :
    s.fpostAnswer status = s.put PH_FSEND.STATUS status := if_pos h

section
variable {s : State} (hidle : s.get PH_FSEND.STATUS ≠ 1)
include hidle

/-- A post for another module is routed (R346). -/
theorem State.fabricPost_away (haway : s.get PH_FSEND.DEST ≠ s.addr) : s.fabricPost =
    match s.openPost.forward 0 s.postFlit with
    | (t, none) => t
    | (t, some _) => t.fpostAnswer 5 := by
  have haddr : s.openPost.addr = s.addr := s.openPost_same.get_hub (by decide)
  have hdest : s.openPost.get PH_FSEND.DEST = s.get PH_FSEND.DEST := s.openPost_same.get_hub (by decide)
  unfold State.fabricPost
  rw [if_neg hidle]
  exact if_neg (by rw [← State.openPost, hdest, haddr]; exact haway)

/-- A post for this module is delivered here (R251). -/
theorem State.fabricPost_here {u : State} {answer : Option Nat} (hhere : s.get PH_FSEND.DEST = s.addr)
    (htake : s.openPost.phTake (s.get PH_FSEND.PH) s.addr s.postFlit = (u, answer)) (hpending : u.get PH_FSEND.STATUS = 1) :
    s.fabricPost = u.put PH_FSEND.STATUS (postStatus answer) := by
  have haddr : s.openPost.addr = s.addr := s.openPost_same.get_hub (by decide)
  have hdest : s.openPost.get PH_FSEND.DEST = s.get PH_FSEND.DEST := s.openPost_same.get_hub (by decide)
  have hph : s.openPost.get PH_FSEND.PH = s.get PH_FSEND.PH := s.openPost_same.get_hub (by decide)
  unfold State.fabricPost
  rw [if_neg hidle]
  refine (if_pos (by rw [← State.openPost, hdest, haddr]; exact hhere)).trans ?_
  rw [← State.openPost, ← State.postFlit, hph, haddr, htake]
  cases answer with
  | none => exact State.fpostAnswer_pending hpending 2
  | some code => exact State.fpostAnswer_pending hpending (fpostStatus code)

end


/-! ### The cases of a post (R251, R346) -/

section
variable {s : State} (hidle : s.get PH_FSEND.STATUS ≠ 1)
include hidle

/-- A post with no link that is up. -/
theorem fabricPost_noLink (haway : s.get PH_FSEND.DEST ≠ s.addr) (hdest : s.get PH_FSEND.DEST < 65536)
    (hlink : ∀ (k : Lnk) (up : Bool), s.routeOf 0 (s.get PH_FSEND.DEST) = some (k, up) →
      s.get LNK_STAT.STATE k = lkDown ∨ s.get LNK_STAT.STATE k = lkFailed) :
    s.fabricPost = s.openPost.put PH_FSEND.STATUS 5 := by
  have haddr := s.postFlit_dest hdest
  have hforward : ∃ code, s.openPost.forward 0 s.postFlit = (s.openPost, some code) := by
    unfold State.forward
    rw [haddr, s.openPost_route]
    cases hroute : s.routeOf 0 (s.get PH_FSEND.DEST) with
    | none => exact ⟨1, rfl⟩
    | some way =>
      refine ⟨7, if_pos ?_⟩
      rw [s.openPost_same.get_link (by decide)]
      exact hlink way.1 way.2 hroute
  obtain ⟨code, hforward⟩ := hforward
  rw [State.fabricPost_away hidle haway, hforward]
  exact State.fpostAnswer_pending s.openPost_status 5

/-- A post that leaves over the link of its route. -/
theorem fabricPost_sent (haway : s.get PH_FSEND.DEST ≠ s.addr) (hdest : s.get PH_FSEND.DEST < 65536) {k : Lnk} {up : Bool}
    (hroute : s.routeOf 0 (s.get PH_FSEND.DEST) = some (k, up)) (hdown : s.get LNK_STAT.STATE k ≠ lkDown)
    (hfailed : s.get LNK_STAT.STATE k ≠ lkFailed) : ∃ f : Flit, SameFlit s.postFlit f ∧
      s.fabricPost = s.openPost.enqueueFlit k f := by
  have haddr := s.postFlit_dest hdest
  refine ⟨{ s.postFlit with hdr := { s.postFlit.hdr with cls := s.postFlit.hdr.cls || up } }, ⟨rfl, rfl, rfl⟩, ?_⟩
  rw [State.fabricPost_away hidle haway, State.forward, haddr, s.openPost_route, hroute]
  dsimp only
  rw [if_neg (by rw [s.openPost_same.get_link (by decide)]; exact fun h => h.elim hdown hfailed)]

theorem completes_post_sent (haway : s.get PH_FSEND.DEST ≠ s.addr) (hdest : s.get PH_FSEND.DEST < 65536) {k : Lnk} {up : Bool}
    (hroute : s.routeOf 0 (s.get PH_FSEND.DEST) = some (k, up)) (hdown : s.get LNK_STAT.STATE k ≠ lkDown)
    (hfailed : s.get LNK_STAT.STATE k ≠ lkFailed) : Completes .fabricPost s (fun t => t.get PH_FSEND.STATUS = 1 ∧
      t.get PH_FSEND.GO = 0 ∧ t.hub.fpostBells = 2 ∧ t.mem = s.mem ∧ t.regions = s.regions ∧
      Leaves t k (fun g => g.hdr.dest.toNat = s.get PH_FSEND.DEST ∧ g.hdr.type.toNat = ftMgmt ∧ leAt g.payload 0 1 = 0x10 ∧
        leAt g.payload 1 1 = s.get PH_FSEND.PH % 256 ∧
        ∀ j < 8, leAt g.payload (16 + 8 * j) 8 = s.get PH_FDATA.WORD j % 2 ^ 64)) := by
  obtain ⟨f, hf, heq⟩ := fabricPost_sent hidle haway hdest hroute hdown hfailed
  obtain ⟨htype, -, hkind, hph, hwords⟩ := s.postFlit_spec
  have haddr := s.postFlit_dest hdest
  have hmoves := Moves.enqueueFlit s.openPost k f 512
  obtain ⟨hedge, hhub⟩ := hmoves.hub
  refine ⟨_, congrArg Host.Outcome.next heq, (hmoves.get ..).trans s.openPost_status, (hmoves.get ..).trans s.openPost_go,
    by rw [hhub]; rfl, hmoves.mem, hmoves.regions, leaves_enqueueFlit _ k f fun g hg => ?_⟩
  rw [hg.type, hg.dest, hg.payload, hf.type, hf.dest, hf.payload]
  exact ⟨haddr, htype, hkind, hph, hwords⟩

end

section
variable {s : State} {n : Nat} (hidle : s.get PH_FSEND.STATUS ≠ 1) (hhere : s.get PH_FSEND.DEST = s.addr)
  (hph : n = s.get PH_FSEND.PH)
include hidle hhere hph

/-- A post that no pigeonhole of this module takes: only STATUS, GO and REJECT change. -/
theorem completes_post_refused {u : State} {code status : Nat} {changed : List Fld}
    (htake : s.openPost.phTake n s.addr s.postFlit = (u, some code)) (hstatus : fpostStatus code = status)
    (hsame : SameRegs s.openPost u changed) (honly : OnlyRegs s.openPost u)
    (hother : ∀ g ∈ changed, PH_FSEND.STATUS.home ≠ g.home) :
    ∃ t, exec .fabricPost s = .next t ∧ SameRegs u t [PH_FSEND.STATUS] ∧
      t.get PH_FSEND.STATUS = status ∧ SameRegs s t (changed ++ [PH_FSEND.STATUS, PH_FSEND.GO]) ∧ t.out = s.out := by
  subst hph hstatus
  have hpending : u.get PH_FSEND.STATUS = 1 := (hsame.get_hub hother).trans s.openPost_status
  refine ⟨_, congrArg Host.Outcome.next (State.fabricPost_here hidle hhere htake hpending),
    .put u _ _ (by decide) (by decide) (by decide), ?_, ?_, honly.out⟩
  · rw [State.get_put_self]
    exact fpostStatus_mod code
  · exact ((s.openPost_same.mono (by simp)).trans (hsame.mono (by simp))).trans
      ((SameRegs.put u _ _ (by decide) (by decide) (by decide)).mono (by simp))

variable (hn : n < 16) (hfunc : s.get PH_CFG.FUNC n = 5)
include hn hfunc

omit hidle hhere hph in
theorem State.openPost_func : s.openPost.get PH_CFG.FUNC n = 5 :=
  (s.openPost_same _ _ _ _ (by omega) (by decide) (by decide) (by decide)).trans hfunc

/-- A post that a pigeonhole of this module takes. -/
theorem completes_post_taken (hawake : s.phDormant n = false)
    (hfree : s.bit PH_IN_STAT.FULL n = false ∨ s.bit PH_MODE.STRICT = false) : Completes .fabricPost s (fun t =>
      (∀ j < 8, t.get PH_IN.WORD n j = s.get PH_FDATA.WORD j % 2 ^ 64) ∧ t.get PH_IN_STAT.FULL n = 1 ∧
      t.get PH_IN_STAT.SRC n = 5 ∧ t.get PH_FSEND.STATUS = 2 ∧ t.mem = s.mem ∧ t.out = s.out) := by
  obtain ⟨-, -, -, -, hwords⟩ := s.postFlit_spec
  obtain ⟨u, htake, hword, hfull, hsrc, -, -, hsame, honly⟩ := State.phTake_taken (s := s.openPost) (src := s.addr)
    (f := s.postFlit) hn (State.openPost_func hn hfunc) ((s.openPost_dormant hn).trans hawake)
    (by rwa [s.openPost_bit hn (by decide), s.openPost_bit (n := 0) (by decide) (by decide)])
  have hpending : u.get PH_FSEND.STATUS = 1 := (hsame.get_hub (by decide)).trans s.openPost_status
  have hkeep (f : Fld) (hf : f.home ≠ PH_FSEND.STATUS.home) (j : Nat) (hj : j < 65536) (v : Nat) :
      (u.put PH_FSEND.STATUS v).get f n j = u.get f n j :=
    SameRegs.put u _ v (by decide) (by decide) (by decide) f n j 0 (by omega) hj (by decide) (by simpa using hf)
  rw [hph] at htake
  refine ⟨_, congrArg Host.Outcome.next (State.fabricPost_here hidle hhere htake hpending), fun j hj => ?_, ?_, ?_, ?_,
    honly.mem, honly.out⟩
  · rw [hkeep _ (by decide) j (by omega), hword j hj, hwords j hj]
  · rw [hkeep _ (by decide) 0 (by decide), hfull]
  · rw [hkeep _ (by decide) 0 (by decide), hsrc]
  · rw [State.get_put_self]
    rfl

end


/-! ### A post or an answer arrives (R344, R346) -/

section
variable (s : State) (src : BitVec 16) (n : BitVec 8) (msg : List Byte)

/-- The flit of a PH_POST that arrives. -/
def State.arrivedPost (s : State) (src : BitVec 16) (n : BitVec 8) (msg : List Byte) : Flit :=
  let f := s.mgmtFlit s.addr 0x10 n.toNat (List.replicate 8 0 ++ msg)
  { f with hdr := { f.hdr with src := src } }

theorem State.arrivedPost_spec (hmsg : msg.length = 64) : leAt (s.arrivedPost src n msg).payload 1 1 = n.toNat ∧
    ∀ j, leAt (s.arrivedPost src n msg).payload (16 + 8 * j) 8 = leAt msg (8 * j) 8 := by
  obtain ⟨-, -, -, hph, hbody⟩ := s.mgmtFlit_spec s.addr 0x10 n.toNat (body := List.replicate 8 0 ++ msg) (by simp [hmsg])
  refine ⟨hph.trans (Nat.mod_eq_of_lt n.isLt), fun j => ?_⟩
  rw [show 16 + 8 * j = 8 + (8 + 8 * j) by omega]
  exact (hbody ..).trans (leAt_append_right (by rw [List.length_replicate]) 8)

variable {s src n msg} {l : Lnk} {u : State} (hstart : s.complete = true) (hmsg : msg.length = 64)
include hstart hmsg

/-- A post that is taken is acknowledged. -/
theorem exec_phPost_taken (htake : s.phTake n.toNat src.toNat (s.arrivedPost src n msg) = (u, none)) :
    exec (.phPost l src n msg) s = .next (u.send (linkRegion l) (u.mgmtFlit src.toNat 0x11 n.toNat [])) := by
  obtain ⟨hn, -⟩ := s.arrivedPost_spec src n msg hmsg
  refine congrArg Host.Outcome.next ((State.started_of_complete hstart l _).trans ?_)
  change State.phPostIn s l (s.arrivedPost src n msg) = _
  simp only [State.phPostIn, hn, show (s.arrivedPost src n msg).hdr.src = src from rfl, htake]

/-- A post that is not taken is answered with an error frame. -/
theorem exec_phPost_refused {code : Nat} (htake : s.phTake n.toNat src.toNat (s.arrivedPost src n msg) = (u, some code)) :
    exec (.phPost l src n msg) s =
      .next (u.refuseFlit (some l) (linkRegion l) (s.arrivedPost src n msg) code n.toNat) := by
  obtain ⟨hn, -⟩ := s.arrivedPost_spec src n msg hmsg
  refine congrArg Host.Outcome.next ((State.started_of_complete hstart l _).trans ?_)
  change State.phPostIn s l (s.arrivedPost src n msg) = _
  simp only [State.phPostIn, hn, show (s.arrivedPost src n msg).hdr.src = src from rfl, htake]

theorem completes_phPost_refused (hsrc : src.toNat ≠ s.addr)
    (h : 16 ≤ n.toNat ∨ s.get PH_CFG.FUNC n.toNat ≠ 5 ∨ s.phDormant n.toNat = true ∨
      (s.bit PH_IN_STAT.FULL n.toNat = true ∧ s.bit PH_MODE.STRICT = true)) :
    Completes (.phPost l src n msg) s (fun t => (∀ j < 8, t.get PH_IN.WORD n.toNat j = s.get PH_IN.WORD n.toNat j) ∧
      t.get LNK_RC.ERR_SENT l = min LNK_RC.ERR_SENT.max (s.get LNK_RC.ERR_SENT l + 1) ∧ t.mem = s.mem) := by
  obtain ⟨u, code, htake, hsame, honly⟩ := State.phTake_refuses (src := src.toNat) (f := s.arrivedPost src n msg) h
  have haddr : u.addr = s.addr := hsame.get_hub (by decide)
  have hans : answerable (s.arrivedPost src n msg).hdr = true := rfl
  obtain ⟨hmem, -, hregs⟩ := State.refuseFlit_of_answerable (s := u) (l := l) (r := linkRegion l) (code := code)
    (detail := n.toNat) hans (by rw [haddr]; exact hsrc)
  have hbump := SameRegs.bump u LNK_RC.ERR_SENT 1 (i := l) (j := 0) (k := 0) (by omega) (by decide) (by decide)
  have hn : n.toNat < 65536 := by omega
  refine ⟨_, exec_phPost_refused hstart hmsg htake, fun j hj => ?_, ?_, hmem.trans honly.mem⟩
  · have hj : j < 65536 := by omega
    calc _ = (u.bump LNK_RC.ERR_SENT 1 l).get PH_IN.WORD n.toNat j := hregs _ _ _ _ hn hj (by decide) (by decide)
      _ = u.get PH_IN.WORD n.toNat j := hbump _ _ _ _ hn hj (by decide) (by decide)
      _ = s.get PH_IN.WORD n.toNat j := hsame _ _ _ _ hn hj (by decide) (by decide)
  · rw [hregs.get_link (by decide), State.get_bump_self, hsame.get_link (by decide)]

end

theorem completes_phAck {s : State} {l : Lnk} {n : BitVec 8} (hstart : s.complete = true)
    (hph : s.get PH_FSEND.PH = n.toNat) (hpending : s.get PH_FSEND.STATUS = 1) : Completes (.phAck l n) s
      (fun t => t.get PH_FSEND.STATUS = 2 ∧ SameRegs s t [PH_FSEND.STATUS] ∧ OnlyRegs s t) := by
  have heq : s.phAck n.toNat = s.put PH_FSEND.STATUS 2 := (if_pos hph).trans (State.fpostAnswer_pending hpending 2)
  refine ⟨_, congrArg Host.Outcome.next ((State.started_of_complete hstart l _).trans heq), ?_,
    .put s _ _ (by decide) (by decide) (by decide), .put ..⟩
  rw [State.get_put_self]
  rfl

theorem exec_phAck_other {s : State} {l : Lnk} {n : BitVec 8} (hstart : s.complete = true)
    (h : s.get PH_FSEND.PH ≠ n.toNat ∨ s.get PH_FSEND.STATUS ≠ 1) : exec (.phAck l n) s = .next s := by
  refine congrArg Host.Outcome.next ((State.started_of_complete hstart l _).trans ?_)
  unfold State.phAck
  split
  case isTrue hph => exact if_neg (h.resolve_left (absurd hph))
  case isFalse => rfl

/-! ### Timeouts (R344, R346) -/

section
variable {s : State}

theorem completes_fabricPostTimeout (hdue : s.hub.fpostBells = 0) (hpending : s.get PH_FSEND.STATUS = 1) :
    Completes .fabricPostTimeout s (fun t => t.get PH_FSEND.STATUS = 6 ∧ SameRegs s t [PH_FSEND.STATUS] ∧ OnlyRegs s t) := by
  have heq : s.fabricPostTimeout = s.put PH_FSEND.STATUS 6 := (if_pos hdue).trans (State.fpostAnswer_pending hpending 6)
  refine ⟨_, congrArg Host.Outcome.next heq, ?_, .put s _ _ (by decide) (by decide) (by decide), .put ..⟩
  rw [State.get_put_self]
  rfl

theorem exec_fabricPostTimeout_other (h : s.hub.fpostBells ≠ 0 ∨ s.get PH_FSEND.STATUS ≠ 1) :
    exec .fabricPostTimeout s = .next s := by
  refine congrArg Host.Outcome.next ?_
  unfold State.fabricPostTimeout
  split
  case isTrue hdue => exact if_neg (h.resolve_left (absurd hdue))
  case isFalse => rfl

/-- Whether a timeout of a pigeonhole is due. -/
theorem phTout_due_iff (i : Nat) : s.hub.phTouts.any (fun x => x.1 == i && x.2 == 0) = true ↔ (i, 0) ∈ s.hub.phTouts := by
  rw [List.any_eq_true]
  constructor
  · rintro ⟨⟨a, b⟩, hmem, h⟩
    obtain ⟨rfl, rfl⟩ : a = i ∧ b = 0 := by simpa using h
    exact hmem
  · exact fun h => ⟨_, h, by simp⟩

theorem exec_phTimeout_other {i : Fin 32} (h : (i.val, 0) ∉ s.hub.phTouts) : exec (.phTimeout i) s = .next s := by
  refine congrArg Host.Outcome.next ?_
  unfold State.phTimeout
  exact if_neg fun hany => h ((phTout_due_iff i.val).1 hany)

theorem completes_phTimeout {i : Fin 32} {f : Fld} (hf : f = if i.val < 16 then PH_TOUT.IN else PH_TOUT.OUT)
    (h : (i.val, 0) ∈ s.hub.phTouts) : Completes (.phTimeout i) s (fun t =>
      t.get f = (s.get f ||| 2 ^ (i.val % 16)) % 65536 ∧ SameRegs s t [f] ∧ t.mem = s.mem ∧ t.regions = s.regions) := by
  have hwidth : f.width = 16 := by
    rw [hf]
    split <;> rfl
  refine ⟨_, congrArg Host.Outcome.next (if_pos ((phTout_due_iff i.val).2 h)), ?_, ?_, rfl, rfl⟩
  · rw [← hf, State.get_put_self, hwidth]
    rfl
  · rw [← hf]
    exact SameRegs.put _ f _ (by decide) (by decide) (by decide)

end

/-- Settles O49: a post of this module is its flit, on the link of its route or in its own pigeonhole; a post that arrives
enters as one of this module's does, and its answer and the timeouts are one field each. -/
theorem fabricPosts : Obligations.FabricPosts := by
  unfold Obligations.FabricPosts
  refine ⟨fun s => ⟨fun h => congrArg Host.Outcome.next (if_pos h), fun hidle haway hdest => ⟨?sent, ?noLink⟩, ?here⟩,
    fun s l src n msg => ⟨?early, ?arrives, completes_phAck, exec_phAck_other⟩,
    fun s => ⟨completes_fabricPostTimeout, exec_fabricPostTimeout_other,
      fun i f hf => ⟨completes_phTimeout hf, exec_phTimeout_other⟩⟩⟩
  case sent => exact fun k up hroute => completes_post_sent hidle haway hdest hroute
  case noLink =>
    intro hlink
    refine ⟨_, congrArg Host.Outcome.next (fabricPost_noLink hidle haway hdest hlink), ?_, ?_, ?_, rfl, rfl, rfl, rfl⟩
    · rw [State.get_put_self]
      rfl
    · rw [State.get_put_of_home_ne _ (by decide) _ (by decide) (by decide), s.openPost_go]
    · exact s.openPost_same.trans ((SameRegs.put _ _ _ (by decide) (by decide) (by decide)).mono (by simp))
  case here =>
    intro n hidle hhere hph
    refine ⟨fun hn hfunc hawake => ⟨completes_post_taken hidle hhere hph hn hfunc hawake, fun hfull hstrict => ?_⟩,
      fun hno => ?_, fun hn hfunc hdormant => ?_⟩
    · obtain ⟨t, hexec, hkeep, hstatus, hsame, hout⟩ := completes_post_refused hidle hhere hph
        (State.phTake_full hn (State.openPost_func hn hfunc) ((s.openPost_dormant hn).trans hawake)
          ((s.openPost_bit hn (by decide)).trans hfull) ((s.openPost_bit (n := 0) (by decide) (by decide)).trans hstrict)) rfl
        (.bump _ _ _ (by omega) (by decide) (by decide)) (.bump ..) (by decide)
      refine ⟨t, hexec, ?_, hstatus, hsame, hout⟩
      rw [hkeep _ _ _ _ (by omega) (by decide) (by decide) (by decide), State.get_bump_self,
        s.openPost_same _ _ _ _ (by omega) (by decide) (by decide) (by decide)]
    · have hno : 16 ≤ n ∨ s.openPost.get PH_CFG.FUNC n ≠ 5 := by
        by_cases hn : 16 ≤ n
        · exact .inl hn
        · rw [s.openPost_same _ _ _ _ (by omega) (by decide) (by decide) (by decide)]
          exact hno
      obtain ⟨t, hexec, -, hstatus, hsame, hout⟩ := completes_post_refused hidle hhere hph (State.phTake_unknown hno) rfl
        (.refl _ []) (.refl _) (by simp)
      exact ⟨t, hexec, hstatus, hsame, hout⟩
    · obtain ⟨t, hexec, -, hstatus, hsame, hout⟩ := completes_post_refused hidle hhere hph
        (State.phTake_dormant hn (State.openPost_func hn hfunc) ((s.openPost_dormant hn).trans hdormant)) rfl (.refl _ [])
        (.refl _) (by simp)
      exact ⟨t, hexec, hstatus, hsame, hout⟩
  case early =>
    rintro hstart i (rfl | rfl)
    · exact completes_before_start rfl hstart
    · exact completes_before_start rfl hstart
  case arrives =>
    refine fun hstart hmsg => ⟨fun hn hfunc hawake hfree => ?_, completes_phPost_refused hstart hmsg⟩
    obtain ⟨u, htake, hword, hfull, hsrc, haddr, hcollide, hsame, honly⟩ := State.phTake_taken (src := src.toNat)
      (f := s.arrivedPost src n msg) hn hfunc hawake hfree
    refine ⟨u, fun j hj => ?_, hfull, hsrc, ?_, hcollide, hsame, honly, exec_phPost_taken hstart hmsg htake⟩
    · rw [hword j hj, (s.arrivedPost_spec src n msg hmsg).2]
    · rw [haddr, Nat.mod_eq_of_lt src.isLt]


end Sys2Proof.Machine
end

section
/-!
Securing stores (R310, R312-R315, R323), and the settlement of O43.
-/
namespace Sys2Proof.Machine

/-! ### The rows of DRAIN frames (R246, R302) -/

section
variable {s : State} {l : Lnk} {m : DrainMsg} {f : State → State}

/-- After START, a frame whose tag is not torn down runs. -/
theorem State.drainRow_runs (hstart : s.complete = true) (htorn : s.torn m.tag.toNat = false) : s.drainRow l m f = f s := by
  unfold State.drainRow State.unlessTorn
  rw [State.started_of_complete hstart, htorn, if_neg (by decide)]

/-- A frame of a torn-down tag counts at the partition that the tag had. -/
theorem State.drainRow_torn (hstart : s.complete = true) (htorn : s.torn m.tag.toNat = true) :
    ∃ x ∈ s.hub.tornTags, x % 65536 = m.tag.toNat ∧ s.drainRow l m f = s.bump PROC_TEAR_CNT.DISCARDED 1 (x / 65536) := by
  obtain ⟨x, hfind⟩ := Option.isSome_iff_exists.1 ((List.find?_isSome (p := fun x => x % 65536 == m.tag.toNat)).2
    (List.any_eq_true.1 htorn))
  refine ⟨x, List.mem_of_find?_eq_some hfind, by simpa using List.find?_some hfind, ?_⟩
  unfold State.drainRow State.unlessTorn
  rw [State.started_of_complete hstart, htorn, if_pos rfl, State.discardTorn, hfind]

theorem completes_torn {i : Instr} (hexec : exec i s = .next (s.drainRow l m f)) (hstart : s.complete = true)
    (htorn : s.torn m.tag.toNat = true) : Completes i s (fun t => (∃ x ∈ s.hub.tornTags, x % 65536 = m.tag.toNat ∧
      t.get PROC_TEAR_CNT.DISCARDED (x / 65536) =
        min PROC_TEAR_CNT.DISCARDED.max (s.get PROC_TEAR_CNT.DISCARDED (x / 65536) + 1)) ∧ OnlyRegs s t) := by
  obtain ⟨x, hx, htag, heq⟩ := State.drainRow_torn (l := l) (f := f) hstart htorn
  rw [heq] at hexec
  exact ⟨_, hexec, ⟨x, hx, htag, State.get_bump_self ..⟩, .bump ..⟩

end

/-- The frames of the family. -/
def drainRows (l : Lnk) (m : DrainMsg) : List Instr :=
  [.begin l m, .data l m, .digestFrame l m, .endFrame l m, .commit l m, .reject l m, .pair l m, .pairAck l m,
    .restoreReq l m, .restoreData l m]

/-- Each of them runs a function of its own where its tag is not torn down. -/
theorem exec_drainRows {l : Lnk} {m : DrainMsg} {i : Instr} (hi : i ∈ drainRows l m) (s : State) :
    ∃ f, exec i s = .next (s.drainRow l m f) := by
  simp only [drainRows, List.mem_cons, List.not_mem_nil, or_false] at hi
  obtain rfl | rfl | rfl | rfl | rfl | rfl | rfl | rfl | rfl | rfl := hi
  all_goals exact ⟨_, rfl⟩

/-! ### Where a store keeps things (R312, R333) -/

/-- The fields that lay a store out. -/
def storeLayout : List Fld := [HUB_SEC_STORE0.KIND, HUB_SEC_STORE0.GRANULES, HUB_SEC_STORE0.BASE]

section
variable {s t : State} {changed : List Fld} (h : SameRegs s t changed)
  (hc : ∀ f ∈ storeLayout, ∀ g ∈ changed, f.home ≠ g.home) {q : Nat} (hq : q < 65536)
include h hc hq

theorem SameRegs.get_layout {f : Fld} (hf : f ∈ storeLayout) : t.get f q = s.get f q :=
  h f q 0 0 hq (by decide) (by decide) (hc f hf)

theorem SameRegs.slotGranules : t.slotGranules q = s.slotGranules q := by
  unfold State.slotGranules
  rw [h.get_layout hc hq (by simp [storeLayout]), h.get_layout hc hq (by simp [storeLayout])]

theorem SameRegs.slotKey (slot : Nat) : t.slotKey q slot = s.slotKey q slot := by
  have hbase : t.get HUB_SEC_STORE0.BASE q = s.get HUB_SEC_STORE0.BASE q := h.get_layout hc hq (by simp [storeLayout])
  have hdigest : t.digestGranules q = s.digestGranules q := by
    unfold State.digestGranules
    rw [h.get_layout hc hq (by simp [storeLayout]), h.get_layout hc hq (by simp [storeLayout])]
  unfold State.slotKey
  rw [hbase, hdigest, h.slotGranules hc hq]

theorem SameRegs.placeKey (slot place : Nat) (isQ : Bool) : t.placeKey q slot place isQ = s.placeKey q slot place isQ := by
  unfold State.placeKey
  rw [h.slotKey hc hq, h.get_layout hc hq (by simp [storeLayout]), h.get_layout hc hq (by simp [storeLayout])]

end

/-! ### The work of a store -/

/-- A work is found by its store and step where it was recorded. -/
theorem State.storeWork_putWork (s : State) (w : StoreWork) : (s.putWork w).storeWork w.store w.step = some w := by
  have hnone : (s.hub.stores.filter (fun x => x.store != w.store)).find? (fun x => x.store == w.store && x.step == w.step) =
      none := by
    refine List.find?_eq_none.2 fun x hx => ?_
    have := (List.mem_filter.1 hx).2
    simp_all
  unfold State.storeWork State.putWork
  refine (List.find?_append ..).trans ?_
  rw [hnone]
  simp

/-- The work that is found is that of the store and the step. -/
theorem State.storeWork_spec {s : State} {q step : Nat} {w : StoreWork} (h : s.storeWork q step = some w) :
    w.store = q ∧ w.step = step := by simpa using List.find?_some h

theorem wrote_of_putWork {s t : State} {w : StoreWork} {a : Nat} {bs : List Byte} (h : Wrote s t a bs) :
    Wrote s (t.putWork w) a bs := h

/-! ### The answers of a store (R310, R315) -/

/-- What the answers of a store keep. -/
structure Replies (s t : State) : Prop where
  mem : t.mem = s.mem
  stores : t.hub.stores = s.hub.stores
  regs : SameRegs s t queueFields

theorem Replies.refl (s : State) : Replies s s := ⟨rfl, rfl, .refl s _⟩

theorem Replies.trans {s t u : State} (a : Replies s t) (b : Replies t u) : Replies s u :=
  ⟨b.mem.trans a.mem, b.stores.trans a.stores, a.regs.trans b.regs⟩

theorem Replies.storeWork {s t : State} (h : Replies s t) (q step : Nat) : t.storeWork q step = s.storeWork q step := by
  unfold State.storeWork
  rw [h.stores]

theorem Moves.replies {s t : State} (h : Moves s t) : Replies s t := by
  obtain ⟨_, hhub⟩ := h.hub
  exact ⟨h.mem, by rw [hhub], h.sameRegs _⟩

theorem Replies.putEntry (s : State) (r : Rgn) (e : Entry) : Replies s (s.putEntry r e) :=
  ⟨State.setCmds_mem .., congrArg Hub.stores (State.setCmds_hub ..), SameRegs.setCmds s r _⟩

section
variable {s : State} {m : DrainMsg}

theorem State.drainCommit_of_waiting {r : Rgn} {e : Entry} {hs : List Nat} (h : s.drainFor m = some (r, e))
    (hwork : e.work = .drain hs) :
    s.drainCommit m = s.putEntry r { e with work := .drain (hs.filter (fun a => a != m.src.toNat)) } := by
  unfold State.drainCommit
  rw [h]
  dsimp only
  rw [hwork]

theorem State.drainReject_of_waiting {r : Rgn} {e : Entry} (h : s.drainFor m = some (r, e)) :
    s.drainReject m = s.putEntry r { e with failed := true, posts := [], work := .none } := by
  unfold State.drainReject
  rw [h]

theorem State.drainCommit_of_none (h : s.drainFor m = none) : s.drainCommit m = s := by
  unfold State.drainCommit
  rw [h]

theorem State.drainReject_of_none (h : s.drainFor m = none) : s.drainReject m = s := by
  unfold State.drainReject
  rw [h]

end

theorem Replies.drainCommit (s : State) (m : DrainMsg) : Replies s (s.drainCommit m) := by
  unfold State.drainCommit
  split
  · split
    · exact .putEntry ..
    · exact .refl s
  · exact .refl s

theorem Replies.drainReject (s : State) (m : DrainMsg) : Replies s (s.drainReject m) := by
  unfold State.drainReject
  split
  · exact .putEntry ..
  · exact .refl s

theorem Replies.storeReply (s : State) (r : Rgn) (kind dest tag q place step status : Nat) :
    Replies s (s.storeReply r kind dest tag q place step status) := by
  unfold State.storeReply
  dsimp only
  split
  · split
    · exact .drainCommit ..
    · exact .drainReject ..
  · have htype : (s.drainFlit dest kind (s.drainMsg tag q 0 status place 0 step [])).hdr.type.toNat = ftDrain := rfl
    exact (Moves.send s r (by rw [htype]; decide)).replies

theorem Replies.replyEnds (s : State) (r : Rgn) (kind status tag : Nat) (w : StoreWork) :
    Replies s (s.replyEnds r kind status tag w) :=
  List.foldlRecOn (motive := (Replies s ·)) w.ends _ (.refl s) fun _ ht _ _ => ht.trans (.storeReply ..)

/-! ### BEGIN (R312, R315) -/

/-- A zero fill as bytes. -/
theorem wrote_zeroFill (s : State) (a n : Nat) : Wrote s (s.zeroFill a (a + n)) a (List.replicate n 0) := by
  intro x
  rw [List.length_replicate]
  split
  case isTrue hx =>
    rw [State.zeroFill_mem, Memory.read_zero_in _ _ _ _ hx, List.getD_eq_getElem?_getD, List.getElem?_replicate]
    split <;> rfl
  case isFalse hx => exact Memory.read_layer_ne _ _ _ _ _ (by omega)

/-- What BEGIN changes in the work of its step. -/
def StoreWork.beginBy (w : StoreWork) (m : DrainMsg) (clash : Bool) : StoreWork :=
  { w with
    mixed := w.mixed || clash
    begun := w.begun.filter (fun b => !(b.1 == m.src.toNat && b.2.1 == m.place.toNat)) ++
      [(m.src.toNat, m.place.toNat, leAt m.data 0 4)]
    ends := w.ends.filter (fun e => !(e.1 == m.src.toNat && e.2.1 == m.place.toNat))
    received := w.received.filter (fun x => !(x.1 / 4 / 2 ^ 20 == m.src.toNat && decide (m.place.toNat ≤ x.1 / 4 % 2 ^ 20) &&
      decide (x.1 / 4 % 2 ^ 20 < m.place.toNat + leAt m.data 0 4))) }

/-- Whether BEGIN brings a second form to a parity generation (R315). -/
def State.clashes (s : State) (w : StoreWork) (m : DrainMsg) : Bool :=
  s.get HUB_SEC_STORE0.KIND m.store.toNat == 2 && w.full != drFull m && !w.mixed

/-- The dirty form of a mirror copies the committed places of the pair. -/
def State.copyPair (s : State) (m : DrainMsg) : State :=
  s.copyRun (s.placeKey m.store.toNat (s.committed m.store.toNat) m.place.toNat false)
    (s.placeKey m.store.toNat (s.incoming m.store.toNat) m.place.toNat false) (leAt m.data 0 4 * 65536)

/-- The memory of a store as BEGIN leaves it; a parity store copies no pair. -/
def State.copyForm (s : State) (m : DrainMsg) (parity : Bool) : State := if !parity && !drFull m then s.copyPair m else s

section
variable {s : State} {r : Rgn} {m : DrainMsg} (htakes : s.storeTakes m.store.toNat m.src.toNat = true)
include htakes

theorem State.storeBegin_of_work {w : StoreWork} (hwork : s.storeWork m.store.toNat m.step.toNat = some w) :
    s.storeBegin r m =
      let t := (s.copyForm m (s.get HUB_SEC_STORE0.KIND m.store.toNat == 2)).putWork (w.beginBy m (s.clashes w m))
      if s.clashes w m then
        (t.bump HUB_SEC_ERR.REJECT 1).replyEnds r dkReject 4 m.tag.toNat (w.beginBy m (s.clashes w m))
      else t := by
  unfold State.storeBegin
  dsimp only
  rw [htakes, hwork]
  rfl

/-- New work has one form. -/
theorem State.storeBegin_of_none (hwork : s.storeWork m.store.toNat m.step.toNat = none) :
    s.storeBegin r m =
      ((s.beginWork m.store.toNat m.step.toNat (drFull m)).1.copyForm m
        (s.get HUB_SEC_STORE0.KIND m.store.toNat == 2)).putWork
        ((s.beginWork m.store.toNat m.step.toNat (drFull m)).2.beginBy m false) := by
  have hclash : (s.get HUB_SEC_STORE0.KIND m.store.toNat == 2 &&
      (s.beginWork m.store.toNat m.step.toNat (drFull m)).2.full != drFull m &&
      !(s.beginWork m.store.toNat m.step.toNat (drFull m)).2.mixed) = false := by simp [State.beginWork]
  unfold State.storeBegin
  dsimp only
  rw [htakes, hwork]
  dsimp only
  rw [hclash]
  rfl

end

theorem State.copyForm_regs (s : State) (m : DrainMsg) (parity : Bool) : (s.copyForm m parity).regs = s.regs := by
  unfold State.copyForm
  split
  · exact State.store_regs ..
  · rfl

theorem State.copyForm_parity (s : State) (m : DrainMsg) : s.copyForm m true = s := by
  unfold State.copyForm
  rw [Bool.not_true, Bool.false_and, if_neg (by decide)]

theorem State.copyForm_dirty {m : DrainMsg} (hdirty : drFull m = false) (s : State) : s.copyForm m false = s.copyPair m := by
  unfold State.copyForm
  rw [hdirty]
  rfl

theorem State.copyForm_full {m : DrainMsg} (hfull : drFull m = true) (s : State) (parity : Bool) : s.copyForm m parity = s := by
  unfold State.copyForm
  rw [hfull, Bool.not_true, Bool.and_false, if_neg (by decide)]

section
variable (s : State) (q step : Nat)

/-- A store at work. -/
def State.atWork (s : State) (q : Nat) : State := s.put HUB_SEC_STORE1.WORKING 1 q

theorem State.beginWork_regs (full : Bool) : (s.beginWork q step full).1.regs = (s.atWork q).regs := by
  unfold State.beginWork
  dsimp only
  split
  · split <;> rfl
  · rfl

variable {q} (hq : q < 65536)
include hq

theorem State.atWork_same : SameRegs s (s.atWork q) [HUB_SEC_STORE1.WORKING] := .put s _ _ hq (by decide) (by decide)

theorem State.atWork_kind : (s.atWork q).get HUB_SEC_STORE0.KIND q = s.get HUB_SEC_STORE0.KIND q :=
  (s.atWork_same hq).get_layout (by decide) hq (by decide)

theorem State.atWork_cur : (s.atWork q).committed q = s.committed q := s.atWork_same hq _ _ _ _ hq (by decide) (by decide) (by decide)

theorem State.atWork_incoming : (s.atWork q).incoming q = s.incoming q := congrArg (1 - ·) (s.atWork_cur hq)

theorem State.beginWork_mirror (hkind : s.get HUB_SEC_STORE0.KIND q ≠ 2) (full : Bool) :
    (s.beginWork q step full).1 = s.atWork q := by
  unfold State.beginWork
  dsimp only
  rw [← State.atWork, s.atWork_kind hq, if_neg hkind]

/-- Parity stripes start at zero, or from the committed ones. -/
theorem State.beginWork_parity (hkind : s.get HUB_SEC_STORE0.KIND q = 2) (full : Bool) : (s.beginWork q step full).1 =
    if full then (s.atWork q).zeroFill (s.slotKey q (s.incoming q))
      (s.slotKey q (s.incoming q) + s.slotGranules q * 65536)
    else (s.atWork q).store (s.slotKey q (s.incoming q)) (s.bytes (s.slotKey q (s.committed q)) (s.slotGranules q * 65536)) := by
  unfold State.beginWork
  dsimp only
  rw [← State.atWork, s.atWork_kind hq, if_pos hkind, s.atWork_cur hq, s.atWork_incoming hq,
    (s.atWork_same hq).slotGranules (by decide) hq, (s.atWork_same hq).slotKey (by decide) hq,
    (s.atWork_same hq).slotKey (by decide) hq]
  rfl

end

/-- The dirty form of a mirror's new work. -/
theorem State.mem_copyPair_atWork (s : State) (m : DrainMsg) : ((s.atWork m.store.toNat).copyPair m).mem =
    s.mem.writeBytes (s.placeKey m.store.toNat (s.incoming m.store.toNat) m.place.toNat false)
      (s.bytes (s.placeKey m.store.toNat (s.committed m.store.toNat) m.place.toNat false) (leAt m.data 0 4 * 65536)) := by
  have hq : m.store.toNat < 65536 := by omega
  unfold State.copyPair
  rw [s.atWork_cur hq, s.atWork_incoming hq, (s.atWork_same hq).placeKey (by decide) hq,
    (s.atWork_same hq).placeKey (by decide) hq]
  rfl

section
variable {s : State} {l : Lnk} {m : DrainMsg} (hstart : s.complete = true) (htorn : s.torn m.tag.toNat = false)
  (htakes : s.storeTakes m.store.toNat m.src.toNat = true)
include hstart htorn htakes

theorem completes_begin_new (hwork : s.storeWork m.store.toNat m.step.toNat = none) :
    Completes (.begin l m) s (fun t => t.get HUB_SEC_STORE1.WORKING m.store.toNat = 1 ∧
      (∃ w : StoreWork, t.storeWork m.store.toNat m.step.toNat = some w ∧ w.full = drFull m ∧ w.mixed = false ∧ w.ends = [] ∧
        w.begun = [(m.src.toNat, m.place.toNat, leAt m.data 0 4)]) ∧
      (s.get HUB_SEC_STORE0.KIND m.store.toNat = 1 → drFull m = true → t.mem = s.mem) ∧
      (s.get HUB_SEC_STORE0.KIND m.store.toNat = 1 → drFull m = false → Wrote s t
        (s.placeKey m.store.toNat (s.incoming m.store.toNat) m.place.toNat false)
        (s.bytes (s.placeKey m.store.toNat (s.committed m.store.toNat) m.place.toNat false) (leAt m.data 0 4 * 65536))) ∧
      (s.get HUB_SEC_STORE0.KIND m.store.toNat = 2 → Wrote s t (s.slotKey m.store.toNat (s.incoming m.store.toNat))
        (if drFull m then List.replicate (65536 * s.slotGranules m.store.toNat) 0
          else s.bytes (s.slotKey m.store.toNat (s.committed m.store.toNat)) (65536 * s.slotGranules m.store.toNat)))) := by
  have hq : m.store.toNat < 65536 := by omega
  refine ⟨_, congrArg Host.Outcome.next ((State.drainRow_runs hstart htorn).trans (State.storeBegin_of_none htakes hwork)), ?_,
    ⟨_, State.storeWork_putWork .., rfl, rfl, rfl, rfl⟩, fun hkind hfull => ?_, fun hkind hfull => ?_, fun hkind => ?_⟩
  · refine (State.get_of_regs (State.copyForm_regs ..) ..).trans ((State.get_of_regs (State.beginWork_regs ..) ..).trans ?_)
    rw [State.atWork, State.get_put_self]
    rfl
  · rw [State.copyForm_full hfull, s.beginWork_mirror _ hq (by rw [hkind]; decide)]
    rfl
  · rw [s.beginWork_mirror _ hq (by rw [hkind]; decide), hkind]
    refine wrote_of_putWork ?_
    rw [show (1 == 2) = false from rfl, State.copyForm_dirty hfull]
    exact wrote_of_mem_eq (State.mem_copyPair_atWork s m)
  · refine wrote_of_putWork ?_
    rw [s.beginWork_parity _ hq hkind, hkind, Nat.mul_comm 65536, show (2 == 2) = true from rfl, State.copyForm_parity]
    split
    · exact wrote_zeroFill (s.atWork _) _ _
    · exact wrote_of_mem_eq rfl

theorem completes_begin_more {w : StoreWork} (hwork : s.storeWork m.store.toNat m.step.toNat = some w) :
    Completes (.begin l m) s (fun t =>
      (∃ w' : StoreWork, t.storeWork m.store.toNat m.step.toNat = some w' ∧
        (m.src.toNat, m.place.toNat, leAt m.data 0 4) ∈ w'.begun ∧
        (w'.mixed = true ↔ w.mixed = true ∨ s.get HUB_SEC_STORE0.KIND m.store.toNat = 2 ∧ w.full ≠ drFull m)) ∧
      (s.get HUB_SEC_STORE0.KIND m.store.toNat = 2 → w.full ≠ drFull m → w.mixed = false →
        t.get HUB_SEC_ERR.REJECT = min HUB_SEC_ERR.REJECT.max (s.get HUB_SEC_ERR.REJECT + 1)) ∧
      (s.get HUB_SEC_STORE0.KIND m.store.toNat = 2 ∨ drFull m = true → t.mem = s.mem)) := by
  obtain ⟨hstore, hstep⟩ := State.storeWork_spec hwork
  have hmixed : (w.beginBy m (s.clashes w m)).mixed = true ↔
      w.mixed = true ∨ s.get HUB_SEC_STORE0.KIND m.store.toNat = 2 ∧ w.full ≠ drFull m := by
    change (w.mixed || s.clashes w m) = true ↔ _
    cases hm : w.mixed <;> simp [State.clashes, hm]
  have hbegun : (m.src.toNat, m.place.toNat, leAt m.data 0 4) ∈ (w.beginBy m (s.clashes w m)).begun :=
    List.mem_append_right _ List.mem_cons_self
  have hregs := s.copyForm_regs m (s.get HUB_SEC_STORE0.KIND m.store.toNat == 2)
  have hmem (h : s.get HUB_SEC_STORE0.KIND m.store.toNat = 2 ∨ drFull m = true) :
      (s.copyForm m (s.get HUB_SEC_STORE0.KIND m.store.toNat == 2)).mem = s.mem := by
    obtain hkind | hfull := h
    · rw [hkind]
      exact congrArg State.mem (s.copyForm_parity m)
    · exact congrArg State.mem (State.copyForm_full hfull s _)
  have hrun := (State.drainRow_runs (l := l) (f := (·.storeBegin (linkRegion l) m)) hstart htorn).trans
    (State.storeBegin_of_work htakes hwork)
  refine ⟨_, congrArg Host.Outcome.next hrun, ?_⟩
  dsimp only
  generalize s.copyForm m (s.get HUB_SEC_STORE0.KIND m.store.toNat == 2) = u at hregs hmem ⊢
  have hfound := u.storeWork_putWork (w.beginBy m (s.clashes w m))
  rw [show (w.beginBy m (s.clashes w m)).store = _ from hstore, show (w.beginBy m (s.clashes w m)).step = _ from hstep] at hfound
  split
  case isTrue hclash =>
    have hreply := Replies.replyEnds ((u.putWork (w.beginBy m (s.clashes w m))).bump HUB_SEC_ERR.REJECT 1) (linkRegion l)
      dkReject 4 m.tag.toNat (w.beginBy m (s.clashes w m))
    refine ⟨⟨_, (hreply.storeWork ..).trans hfound, hbegun, hmixed⟩, fun _ _ _ => ?_, fun h => hreply.mem.trans (hmem h)⟩
    rw [hreply.regs.get_hub (by decide), State.get_bump_self, ← State.get_of_regs hregs]
    rfl
  case isFalse hclash =>
    refine ⟨⟨_, hfound, hbegun, hmixed⟩, fun hkind hfull hm => absurd ?_ hclash, hmem⟩
    simp [State.clashes, hkind, hfull, hm]

end

/-! ### DATA and DIGEST (R312, R314, R315, R323) -/

section
variable {s : State} {m : DrainMsg} {w : StoreWork}

/-- Frames of another module than the sources change nothing. -/
theorem State.storeBegin_of_other (h : s.storeTakes m.store.toNat m.src.toNat = false) (r : Rgn) : s.storeBegin r m = s := by
  unfold State.storeBegin
  dsimp only
  rw [h]
  rfl

theorem State.storeData_of_other (h : s.storeTakes m.store.toNat m.src.toNat = false) : s.storeData m = s := by
  unfold State.storeData
  dsimp only
  split
  · rfl
  · rw [h]
    rfl

theorem State.storeEnd_of_other (h : s.storeTakes m.store.toNat m.src.toNat = false) (r : Rgn) : s.storeEnd r m = s := by
  unfold State.storeEnd
  dsimp only
  split
  · rfl
  · rw [h]
    rfl

/-- Where a DATA frame of a mirror or a P stripe goes, or one of a Q stripe. -/
def State.dataKey (s : State) (m : DrainMsg) (isQ : Bool) : Nat :=
  s.placeKey m.store.toNat (s.incoming m.store.toNat) m.place.toNat isQ + m.offset.toNat

/-- A contribution to a stripe. -/
def State.addStripe (s : State) (m : DrainMsg) (isQ : Bool) : State :=
  let x := if isQ then (drData m).map (gfScale (drRank m)) else drData m
  s.store (s.dataKey m isQ) (xorBytes (s.bytes (s.dataKey m isQ) x.length) x)

/-- What the work of a step has received with a DATA frame. -/
def StoreWork.receive (w : StoreWork) (m : DrainMsg) : StoreWork :=
  let id := (m.src.toNat * 2 ^ 20 + m.place.toNat) * 4 + (if drP m then 1 else if drQ m then 2 else 0)
  { w with received := kset w.received id (kget w.received id 0 + m.count.toNat) }

theorem State.addStripe_wrote (s : State) (m : DrainMsg) (isQ : Bool) (w : StoreWork) :
    Wrote s ((s.putWork w).addStripe m isQ) (s.dataKey m isQ) (xorBytes (s.bytes (s.dataKey m isQ) (drData m).length)
      (if isQ then (drData m).map (gfScale (drRank m)) else drData m)) := by
  have hlen : (if isQ then (drData m).map (gfScale (drRank m)) else drData m).length = (drData m).length := by
    split
    · exact List.length_map ..
    · rfl
  refine wrote_of_mem_eq ?_
  rw [← hlen]
  rfl

variable (hwork : s.storeWork m.store.toNat m.step.toNat = some w)
include hwork

theorem State.storeData_refused (h : w.mixed = true ∨ s.get HUB_SEC_STORE0.GRANULES m.store.toNat ≤ m.place.toNat ∨
    65536 < m.offset.toNat + m.count.toNat) : s.storeData m = s := by
  unfold State.storeData
  dsimp only
  rw [hwork]
  refine if_pos ?_
  simp only [Bool.or_eq_true, decide_eq_true_eq]
  obtain h | h | h := h
  · exact .inl (.inl (.inr h))
  · exact .inl (.inr h)
  · exact .inr h

variable (htakes : s.storeTakes m.store.toNat m.src.toNat = true)
include htakes

theorem State.storeData_taken (hmixed : w.mixed = false) (hplace : m.place.toNat < s.get HUB_SEC_STORE0.GRANULES m.store.toNat)
    (hoffset : m.offset.toNat + m.count.toNat ≤ 65536) : s.storeData m =
      if !(s.get HUB_SEC_STORE0.KIND m.store.toNat == 2) then
        (s.putWork (w.receive m)).store (s.dataKey m false) (drData m)
      else if drP m then (s.putWork (w.receive m)).addStripe m false
      else if drQ m then (s.putWork (w.receive m)).addStripe m true
      else s.putWork (w.receive m) := by
  unfold State.storeData
  dsimp only
  rw [hwork]
  refine (if_neg ?_).trans rfl
  rw [htakes, hmixed]
  simp [hplace, hoffset]

end

section
variable {s : State} {m : DrainMsg}

/-- A DIGEST that no restore in progress waits for is a store's. -/
theorem State.digestFrame_of_store (h : ∀ x ∈ s.hub.restores, x.step = m.step.toNat →
    s.get RGN_SEC_TGT.STORE (x.stack / 6) x.target = m.store.toNat → m.src.toNat ∉ s.holders (x.stack / 6) x.target) :
    s.digestFrame m = s.storeDigest m := by
  have hnone : s.hub.restores.find? (fun x => x.step == m.step.toNat &&
      s.get RGN_SEC_TGT.STORE (x.stack / 6) x.target == m.store.toNat &&
      (s.holders (x.stack / 6) x.target).contains m.src.toNat) = none := by
    refine List.find?_eq_none.2 fun x hx => ?_
    simpa using h x hx
  unfold State.digestFrame
  rw [hnone]

/-- The digests of a work with those of a frame. -/
def StoreWork.digestBy (w : StoreWork) (m : DrainMsg) : StoreWork :=
  { w with digests := w.digests.filter (fun d => !(d.1 == m.src.toNat && decide (m.place.toNat ≤ d.2) &&
      decide (d.2 < m.place.toNat + m.count.toNat / 8))) ++
        (List.range (m.count.toNat / 8)).map (fun i => (m.src.toNat, m.place.toNat + i)) }

theorem mem_digestBy (w : StoreWork) (m : DrainMsg) {i : Nat} (hi : i < m.count.toNat / 8) :
    (m.src.toNat, m.place.toNat + i) ∈ (w.digestBy m).digests :=
  List.mem_append_right _ (List.mem_map.2 ⟨i, List.mem_range.2 hi, rfl⟩)

/-- The digests go behind the places: a mirror's have one part, a parity store's one for each of two members. -/
theorem State.storeDigest_taken {w : StoreWork} (hwork : s.storeWork m.store.toNat m.step.toNat = some w)
    (htakes : s.storeTakes m.store.toNat m.src.toNat = true) : ∃ which,
      (s.get HUB_SEC_STORE0.KIND m.store.toNat ≠ 2 → which = 0) ∧
      s.storeDigest m = (s.store (s.digestKey m.store.toNat (s.incoming m.store.toNat) which m.place.toNat)
        (m.data.take (8 * (m.count.toNat / 8)))).putWork (w.digestBy m) := by
  refine ⟨if s.get HUB_SEC_STORE0.KIND m.store.toNat = 2 then
    (((s.rankIn (s.get HUB_SEC_STORE0.PGRP m.store.toNat) s.addr).getD 0 + 8 - drRank m) % 8 + 7) % 8 % 2 else 0,
    fun h => if_neg h, ?_⟩
  unfold State.storeDigest
  dsimp only
  rw [hwork]
  refine (if_neg ?_).trans rfl
  rw [htakes]
  decide

end

/-! ### END (R312, R315) -/

/-- The work of a step with one more END. -/
def StoreWork.endBy (w : StoreWork) (e : Nat × Nat × Nat × Nat) : StoreWork :=
  { w with ends := w.ends.filter (fun x => !(x.1 == e.1 && x.2.1 == e.2.1)) ++ [e] }

/-- A store takes what has come as its committed slot. -/
def State.commitStore (s : State) (q step : Nat) : State :=
  ((((s.put HUB_SEC_STORE1.CUR (s.incoming q) q).put HUB_SEC_STORE1.STEP step q).put HUB_SEC_STORE1.VALID 1 q).put
    HUB_SEC_STORE1.WORKING 0 q).modHub (fun h => { h with stores := h.stores.filter (fun x => x.store != q) })

theorem State.get_commitStore (s : State) {q : Nat} (hq : q < 65536) (step : Nat) :
    (s.commitStore q step).get HUB_SEC_STORE1.CUR q = 1 - s.get HUB_SEC_STORE1.CUR q ∧
    (s.commitStore q step).get HUB_SEC_STORE1.STEP q = step % 2 ^ HUB_SEC_STORE1.STEP.width ∧
    (s.commitStore q step).get HUB_SEC_STORE1.VALID q = 1 ∧ (s.commitStore q step).get HUB_SEC_STORE1.WORKING q = 0 := by
  have hget (f : Fld) : (s.commitStore q step).get f q = ((((s.put HUB_SEC_STORE1.CUR (s.incoming q) q).put
    HUB_SEC_STORE1.STEP step q).put HUB_SEC_STORE1.VALID 1 q).put HUB_SEC_STORE1.WORKING 0 q).get f q := rfl
  have hkeep (t : State) {f g : Fld} (h : f.home ≠ g.home) (v : Nat) : (t.put g v q).get f q = t.get f q :=
    State.get_put_of_home_ne t h v hq (by decide)
  refine ⟨?_, ?_, ?_, ?_⟩
  · rw [hget, hkeep _ (by decide), hkeep _ (by decide), hkeep _ (by decide), State.get_put_self]
    have hbit : s.incoming q < 2 := Nat.lt_succ_of_le (Nat.sub_le ..)
    exact Nat.mod_eq_of_lt hbit
  · rw [hget, hkeep _ (by decide), hkeep _ (by decide), State.get_put_self]
  · rw [hget, hkeep _ (by decide), State.get_put_self]
    rfl
  · rw [hget, State.get_put_self]
    rfl

theorem State.storeWork_commitStore (s : State) (q step again : Nat) : (s.commitStore q step).storeWork q again = none := by
  refine List.find?_eq_none.2 fun x hx => ?_
  have hother : (x.store != q) = true := (List.mem_filter.1 hx).2
  simp_all

section
variable {s : State} {r : Rgn} {m : DrainMsg} {w : StoreWork}
  (hwork : s.storeWork m.store.toNat m.step.toNat = some w) (htakes : s.storeTakes m.store.toNat m.src.toNat = true)
include hwork htakes

theorem State.storeEnd_mixed (hmixed : w.mixed = true) : s.storeEnd r m =
    s.storeReply r dkReject m.src.toNat m.tag.toNat m.store.toNat m.place.toNat w.step 4 := by
  unfold State.storeEnd
  dsimp only
  rw [hwork]
  refine (if_neg ?_).trans (if_pos hmixed)
  rw [htakes]
  decide

theorem State.storeEnd_form (hmixed : w.mixed = false) {e : Nat × Nat × Nat × Nat}
    (he : e = (m.src.toNat, m.place.toNat, leAt m.data 0 4, leAt m.data 4 4)) {want : Nat}
    (hwant : want = (s.get HUB_SEC_STORE0.PAIRS m.store.toNat + 1) *
      (if s.get HUB_SEC_STORE0.KIND m.store.toNat = 2 then 8 else 1)) : s.storeEnd r m =
      if (w.endBy e).ends.length == want && (w.endBy e).ends.all (fun x => w.endMet x.2.2.1 x) then
        (s.commitStore m.store.toNat w.step).replyEnds r dkCommit 0 m.tag.toNat (w.endBy e)
      else s.putWork (w.endBy e) := by
  subst he hwant
  unfold State.storeEnd
  dsimp only
  rw [hwork]
  refine ((if_neg ?_).trans (if_neg ?_)).trans rfl
  · rw [htakes]
    decide
  · rw [hmixed]
    decide

end

/-! ### The rows of a store -/

section
variable {s : State} {l : Lnk} {m : DrainMsg} (hstart : s.complete = true) (htorn : s.torn m.tag.toNat = false)
include hstart htorn

/-- A frame that changes nothing. -/
theorem exec_drainRow_of_eq {i : Instr} {f : State → State} {t : State} (hexec : exec i s = .next (s.drainRow l m f))
    (heq : f s = t) : exec i s = .next t := by
  rw [hexec, State.drainRow_runs hstart htorn, heq]

section
variable {w : StoreWork} (hwork : s.storeWork m.store.toNat m.step.toNat = some w)
  (htakes : s.storeTakes m.store.toNat m.src.toNat = true)
include hwork htakes

theorem completes_data (hmixed : w.mixed = false) (hplace : m.place.toNat < s.get HUB_SEC_STORE0.GRANULES m.store.toNat)
    (hoffset : m.offset.toNat + m.count.toNat ≤ 65536) : Completes (.data l m) s (fun t => t.regs = s.regs ∧
      (s.get HUB_SEC_STORE0.KIND m.store.toNat = 1 → Wrote s t (s.dataKey m false) (drData m)) ∧
      (s.get HUB_SEC_STORE0.KIND m.store.toNat = 2 → drP m = true → Wrote s t (s.dataKey m false)
        (xorBytes (s.bytes (s.dataKey m false) (drData m).length) (drData m))) ∧
      (s.get HUB_SEC_STORE0.KIND m.store.toNat = 2 → drP m = false → drQ m = true → Wrote s t (s.dataKey m true)
        (xorBytes (s.bytes (s.dataKey m true) (drData m).length) ((drData m).map (gfScale (drRank m)))))) := by
  refine ⟨_, exec_drainRow_of_eq hstart htorn rfl (State.storeData_taken hwork htakes hmixed hplace hoffset), ?_,
    fun hkind => ?_, fun hkind hp => ?_, fun hkind hp hq => ?_⟩
  · split
    · exact State.store_regs ..
    · split
      · exact State.store_regs ..
      · split
        · exact State.store_regs ..
        · rfl
  · rw [hkind, if_pos (by decide)]
    exact wrote_of_mem_eq rfl
  · rw [hkind, if_neg (by decide), if_pos hp]
    exact s.addStripe_wrote m false _
  · rw [hkind, if_neg (by decide), if_neg (by rw [hp]; decide), if_pos hq]
    exact s.addStripe_wrote m true _

theorem completes_digest (hother : ∀ x ∈ s.hub.restores, x.step = m.step.toNat →
      s.get RGN_SEC_TGT.STORE (x.stack / 6) x.target = m.store.toNat → m.src.toNat ∉ s.holders (x.stack / 6) x.target) :
    Completes (.digestFrame l m) s (fun t => t.regs = s.regs ∧ t.regions = s.regions ∧
      (s.get HUB_SEC_STORE0.KIND m.store.toNat = 1 → Wrote s t
        (s.digestKey m.store.toNat (s.incoming m.store.toNat) 0 m.place.toNat) (m.data.take (8 * (m.count.toNat / 8)))) ∧
      ∃ w', t.storeWork m.store.toNat m.step.toNat = some w' ∧
        ∀ i < m.count.toNat / 8, (m.src.toNat, m.place.toNat + i) ∈ w'.digests) := by
  obtain ⟨hstore, hstep⟩ := State.storeWork_spec hwork
  obtain ⟨which, hwhich, heq⟩ := State.storeDigest_taken hwork htakes
  refine ⟨_, exec_drainRow_of_eq hstart htorn rfl ((State.digestFrame_of_store hother).trans heq), rfl, rfl,
    fun hkind => ?_, w.digestBy m, ?_, fun i => mem_digestBy w m⟩
  · rw [hwhich (by rw [hkind]; decide)]
    exact wrote_of_mem_eq rfl
  · rw [← hstore, ← hstep]
    exact State.storeWork_putWork _ (w.digestBy m)

section
variable (hmixed : w.mixed = false) {e : Nat × Nat × Nat × Nat}
  (he : e = (m.src.toNat, m.place.toNat, leAt m.data 0 4, leAt m.data 4 4)) {want : Nat}
  (hwant : want = (s.get HUB_SEC_STORE0.PAIRS m.store.toNat + 1) *
    (if s.get HUB_SEC_STORE0.KIND m.store.toNat = 2 then 8 else 1))
include hmixed he hwant

/-- The last END commits. -/
theorem completes_end_last (hlen : (w.endBy e).ends.length = want)
    (hmet : ∀ x ∈ (w.endBy e).ends, w.endMet x.2.2.1 x = true) : Completes (.endFrame l m) s (fun t =>
      t.get HUB_SEC_STORE1.CUR m.store.toNat = (1 - s.get HUB_SEC_STORE1.CUR m.store.toNat) ∧
      t.get HUB_SEC_STORE1.STEP m.store.toNat = w.step % 2 ^ HUB_SEC_STORE1.STEP.width ∧
      t.get HUB_SEC_STORE1.VALID m.store.toNat = 1 ∧ t.get HUB_SEC_STORE1.WORKING m.store.toNat = 0 ∧
      t.storeWork m.store.toNat m.step.toNat = none ∧ t.mem = s.mem) := by
  have hq : m.store.toNat < 65536 := by omega
  have heq := (State.storeEnd_form (r := linkRegion l) hwork htakes hmixed he hwant).trans
    (if_pos (by rw [hlen, List.all_eq_true.2 hmet, beq_self_eq_true]; decide))
  obtain ⟨hcur, hstep, hvalid, hworking⟩ := s.get_commitStore hq w.step
  have hreply := Replies.replyEnds (s.commitStore m.store.toNat w.step) (linkRegion l) dkCommit 0 m.tag.toNat (w.endBy e)
  have hget (f : Fld) (hf : ∀ g ∈ queueFields, f.home ≠ g.home) := hreply.regs f _ 0 0 hq (by decide) (by decide) hf
  exact ⟨_, exec_drainRow_of_eq hstart htorn rfl heq, (hget _ (by decide)).trans hcur, (hget _ (by decide)).trans hstep,
    (hget _ (by decide)).trans hvalid, (hget _ (by decide)).trans hworking,
    (hreply.storeWork ..).trans (s.storeWork_commitStore ..), hreply.mem⟩

/-- An earlier END is kept. -/
theorem completes_end_earlier
    (h : (w.endBy e).ends.length ≠ want ∨ ∃ x ∈ (w.endBy e).ends, w.endMet x.2.2.1 x = false) :
    Completes (.endFrame l m) s (fun t =>
      (∃ w', t.storeWork m.store.toNat m.step.toNat = some w' ∧ w'.ends = (w.endBy e).ends) ∧ t.regs = s.regs ∧
      t.mem = s.mem ∧ t.regions = s.regions) := by
  obtain ⟨hstore, hstep⟩ := State.storeWork_spec hwork
  have hopen : ¬ ((w.endBy e).ends.length == want && (w.endBy e).ends.all (fun x => w.endMet x.2.2.1 x)) = true := by
    intro hall
    obtain ⟨hlen, hmet⟩ := Bool.and_eq_true_iff.1 hall
    obtain h | ⟨x, hx, hnot⟩ := h
    · exact h (beq_iff_eq.1 hlen)
    · exact absurd (List.all_eq_true.1 hmet x hx) (by rw [hnot]; decide)
  have heq := (State.storeEnd_form (r := linkRegion l) hwork htakes hmixed he hwant).trans (if_neg hopen)
  refine ⟨_, exec_drainRow_of_eq hstart htorn rfl heq, ⟨w.endBy e, ?_, rfl⟩, rfl, rfl, rfl⟩
  rw [← hstore, ← hstep]
  exact State.storeWork_putWork s (w.endBy e)

end

/-- A mixed generation draws REJECT. -/
theorem exec_end_mixed (hmixed : w.mixed = true) (hsrc : m.src.toNat ≠ s.addr) :
    exec (.endFrame l m) s = .next (s.send (linkRegion l)
      (s.drainFlit m.src.toNat dkReject (s.drainMsg m.tag.toNat m.store.toNat 0 4 m.place.toNat 0 w.step []))) :=
  exec_drainRow_of_eq hstart htorn rfl ((State.storeEnd_mixed hwork htakes hmixed).trans (if_neg hsrc))

end

theorem completes_commit {r : Rgn} {e : Entry} {hs : List Nat} (hwaits : s.drainFor m = some (r, e))
    (hdrain : e.work = .drain hs) : Completes (.commit l m) s (fun t => t.regions[r].cmds = replaceEntry
      (fun y => y.eng == e.eng && y.ord == e.ord && y.issued)
      { e with work := .drain (hs.filter (fun a => a != m.src.toNat)) } s.regions[r].cmds ∧ t.mem = s.mem ∧
      SameRegs s t queueFields) :=
  ⟨_, exec_drainRow_of_eq hstart htorn rfl (State.drainCommit_of_waiting hwaits hdrain), State.putEntry_cmds ..,
    (Replies.putEntry ..).mem, (Replies.putEntry ..).regs⟩

theorem completes_reject {r : Rgn} {e : Entry} (hwaits : s.drainFor m = some (r, e)) :
    Completes (.reject l m) s (fun t => t.regions[r].cmds = replaceEntry
      (fun y => y.eng == e.eng && y.ord == e.ord && y.issued)
      { e with failed := true, posts := [], work := .none } s.regions[r].cmds ∧ t.mem = s.mem ∧
      SameRegs s t queueFields) :=
  ⟨_, exec_drainRow_of_eq hstart htorn rfl (State.drainReject_of_waiting hwaits), State.putEntry_cmds ..,
    (Replies.putEntry ..).mem, (Replies.putEntry ..).regs⟩

end

/-- Settles O43: every frame is a row of its own that START and the tag let run; each form of BEGIN, DATA, DIGEST and END is
one write of memory and one change of the work of its step, and the answers of a store keep both. -/
theorem securingStores : Obligations.SecuringStores := by
  unfold Obligations.SecuringStores
  refine ⟨fun s l m i hi => ?rows, ?begins, ?works, fun s l m hstart htorn => ⟨fun r e hs hwaits hdrain =>
    ⟨completes_commit hstart htorn hwaits hdrain, completes_reject hstart htorn hwaits⟩, fun hnone =>
    ⟨exec_drainRow_of_eq hstart htorn rfl (State.drainCommit_of_none hnone),
      exec_drainRow_of_eq hstart htorn rfl (State.drainReject_of_none hnone)⟩⟩⟩
  case rows =>
    obtain ⟨f, hexec⟩ := exec_drainRows hi s
    exact ⟨completes_before_start hexec, completes_torn hexec⟩
  case begins =>
    rintro s l m q n hstart htorn rfl rfl
    refine ⟨fun hother => ⟨?_, ?_, ?_⟩, fun htakes => ⟨completes_begin_new hstart htorn htakes,
      fun w hwork => completes_begin_more hstart htorn htakes hwork⟩⟩
    · exact exec_drainRow_of_eq hstart htorn rfl (State.storeBegin_of_other hother _)
    · exact exec_drainRow_of_eq hstart htorn rfl (State.storeEnd_of_other hother _)
    · exact exec_drainRow_of_eq hstart htorn rfl (State.storeData_of_other hother)
  case works =>
    rintro s l m q w hstart htorn rfl hwork htakes
    refine ⟨?_, fun hrefused => exec_drainRow_of_eq hstart htorn rfl (State.storeData_refused hwork hrefused),
      completes_digest hstart htorn hwork htakes, ?_, exec_end_mixed hstart htorn hwork htakes⟩
    · rintro key rfl
      exact completes_data hstart htorn hwork htakes
    · rintro e ends want hmixed he rfl hwant
      exact ⟨completes_end_last hstart htorn hwork htakes hmixed he hwant,
        completes_end_earlier hstart htorn hwork htakes hmixed he hwant⟩

end Sys2Proof.Machine
end

section
/-!
What roll-call frames and the completion of roll call change (R246-R250).
-/
namespace Sys2Proof.Machine

/-! ### Registers and memory of roll call -/

/-- What a step of roll call keeps: registers but some, and memory. -/
structure Retains (s t : State) (changed : List Fld) : Prop where
  regs : SameRegs s t changed
  mem : t.mem = s.mem

section
variable {s t u : State} {c d : List Fld}

theorem Retains.refl (s : State) (c : List Fld) : Retains s s c := ⟨.refl s c, rfl⟩

theorem Retains.of_regs (hregs : t.regs = s.regs) (hmem : t.mem = s.mem) (c : List Fld) : Retains s t c :=
  ⟨fun _ _ _ _ _ _ _ _ => State.get_of_regs hregs .., hmem⟩

theorem Retains.trans (a : Retains s t c) (b : Retains t u c) : Retains s u c := ⟨a.regs.trans b.regs, b.mem.trans a.mem⟩

theorem Retains.mono (h : Retains s t c) (hcd : c ⊆ d) : Retains s t d := ⟨h.regs.mono hcd, h.mem⟩

theorem Rolls.retains (h : Rolls s t c) : Retains s t c := ⟨h.regs, h.mem⟩

theorem Moves.retains (h : Moves s t) (c : List Fld) : Retains s t c := .of_regs h.regs h.mem c

theorem Retains.ite {a b : State} {p : Prop} [Decidable p] (x : Retains s a c) (y : Retains s b c) :
    Retains s (if p then a else b) c := by
  split <;> assumption

theorem Retains.foldl {α : Type} {f : State → α → State} (hf : ∀ s a, Retains s (f s a) c) (l : List α) (s : State) :
    Retains s (l.foldl f s) c :=
  List.foldlRecOn (motive := (Retains s · c)) l _ (.refl s c) fun t ht a _ => ht.trans (hf t a)

theorem Retains.put_hub (s : State) (v : Nat) {f : Fld} (hf : f ∈ c) : Retains s (s.put f v) c := (Rolls.put_hub s v hf).retains

theorem Retains.put_link (s : State) (v : Nat) (l : Lnk) {f : Fld} (hf : f ∈ c) : Retains s (s.put f v l) c :=
  (Rolls.put_link s v l hf).retains

theorem Retains.modHub (s : State) (f : Hub → Hub) (c : List Fld) : Retains s (s.modHub f) c :=
  .of_regs (s := s) (t := s.modHub f) rfl rfl c

theorem Retains.modRoll (s : State) (f : Roll → Roll) (c : List Fld) : Retains s (s.modRoll f) c := .modHub s _ c

end

/-- A field of the hub read where another one was written. -/
theorem State.get_put_hub (s : State) {f g : Fld} (h : f.home ≠ g.home) (v : Nat) : (s.put g v).get f = s.get f :=
  State.get_put_of_home_ne s h v (by decide) (by decide)

/-! ### Frames on several links (R246) -/

/-- A flit that leaves at one element of a walk leaves at its end. -/
theorem leaves_foldl {α : Type} {f : State → α → State} {l : Lnk} {P : Flit → Prop} {s : State} (hmoves : ∀ t a, Moves t (f t a))
    (hkeep : ∀ t a, Leaves t l P → Leaves (f t a) l P) {a : α} {as : List α} (ha : a ∈ as)
    (hnow : ∀ t, Moves s t → Leaves (f t a) l P) : Leaves (as.foldl f s) l P := by
  obtain ⟨front, back, rfl⟩ := List.append_of_mem ha
  rw [List.foldl_append, List.foldl_cons]
  exact List.foldlRecOn (motive := (Leaves · l P)) back _ (hnow _ (.foldl hmoves front s)) fun t ht b _ => hkeep t b ht

/-- A roll-call frame as it stands in a flit of a link. -/
structure Carries (g : Flit) (kind : Nat) (m : RollMsg) (l : Lnk) (reach : Nat) : Prop where
  type : g.hdr.type.toNat = ftRollCall
  payload : g.payload = padTo 240 (rollBytes kind { m with link := BitVec.ofNat 8 l.val, reach := BitVec.ofNat 8 reach })

/-- A frame that is put on a link leaves on it. -/
theorem leaves_rollOn (s : State) (l : Lnk) (kind : Nat) (m : RollMsg) :
    Leaves (s.rollOn l kind m) l (Carries · kind m l (s.get LNK_STAT.REACH l)) := by
  refine leaves_enqueueFlit s l _ fun g hg => ⟨?_, ?_⟩
  · rw [hg.type]
    rfl
  · rw [hg.payload]
    rfl

/-- The first byte of a frame is its kind (Table 10.4). -/
theorem Carries.kind {g : Flit} {kind : Nat} {m : RollMsg} {l : Lnk} {reach : Nat} (h : Carries g kind m l reach) :
    leAt g.payload 0 1 = kind % 256 := by
  rw [h.payload, leAt_padTo (by simp [rollBytes])]
  rfl

/-- Whether a link carries roll call stays while flits move. -/
theorem Moves.rollLink {s t : State} (h : Moves s t) (l : Lnk) : t.rollLink l = s.rollLink l :=
  State.rollLink_congr (h.get ..)

/-- An announced frame leaves on every trained link (R246). -/
theorem leaves_announce {s : State} {l : Lnk} (hroll : s.rollLink l = true) (kind : Nat) (m : RollMsg) (residence : List Nat) :
    Leaves (s.announce none kind m residence) l (fun g => g.hdr.type.toNat = ftRollCall ∧ leAt g.payload 0 1 = kind % 256) := by
  refine leaves_foldl (fun t k => ?_) (fun t k h => ?_) (List.mem_finRange l) fun t ht => ?_
  · split
    · exact .rollOn ..
    · exact .refl t
  · split
    · exact h.enqueueFlit ..
    · exact h
  · have hcarries : (t.rollLink l && none != some l) = true := by
      rw [ht.rollLink, Bool.and_eq_true]
      exact ⟨hroll, rfl⟩
    rw [if_pos hcarries]
    obtain ⟨g, hg, hout⟩ := leaves_rollOn t l kind (stayed kind m residence l)
    exact ⟨g, ⟨hg.type, hg.kind⟩, hout⟩

/-! ### Roll call completes (R248) -/

section
variable (s : State) (epoch f l : Nat)

/-- The fields that START writes. -/
def startFields : List Fld :=
  [HUB_BELL_TIMING.FIRE_DELAY_NS, HUB_BELL_TIMING.LEAD_NS, HUB_RC_STAT.STATE, HUB_RC_STAT.EPOCH, HUB_RC_STAT.FAIL_CODE,
    HUB_BELL_STATUS.IS_DEPUTY, LNK_STAT.STATE]

/-- The registers of the module itself that START writes. -/
def State.putStart (s : State) (epoch f l : Nat) : State :=
  ((((s.put HUB_BELL_TIMING.FIRE_DELAY_NS f).put HUB_BELL_TIMING.LEAD_NS l).put HUB_RC_STAT.STATE 5).put HUB_RC_STAT.EPOCH
    epoch).put HUB_RC_STAT.FAIL_CODE 0

theorem Retains.putStart : Retains s (s.putStart epoch f l) startFields :=
  ((((Retains.put_hub s f (by simp [startFields])).trans (.put_hub _ l (by simp [startFields]))).trans
    (.put_hub _ 5 (by simp [startFields]))).trans (.put_hub _ epoch (by simp [startFields]))).trans
    (.put_hub _ 0 (by simp [startFields]))

/-- After its registers, START changes the deputy's flag and the links. -/
theorem Retains.takeStart_of_putStart :
    Retains (s.putStart epoch f l) (s.takeStart epoch f l) [HUB_BELL_STATUS.IS_DEPUTY, LNK_STAT.STATE] := by
  unfold State.takeStart
  dsimp only
  rw [← State.putStart]
  refine ((Retains.ite (.put_hub _ 1 (by simp)) (.put_hub _ 0 (by simp))).trans (.modHub _ _ _)).trans
    (.foldl (fun t k => .ite ?_ (.refl t _)) _ _)
  exact (Retains.put_link t _ k (by simp)).trans ((Moves.pump ..).retains _)

theorem Retains.takeStart : Retains s (s.takeStart epoch f l) startFields :=
  (Retains.putStart s epoch f l).trans ((Retains.takeStart_of_putStart s epoch f l).mono (by simp [startFields]))

theorem State.get_takeStart :
    (s.takeStart epoch f l).get HUB_BELL_TIMING.FIRE_DELAY_NS = f % 2 ^ HUB_BELL_TIMING.FIRE_DELAY_NS.width ∧
    (s.takeStart epoch f l).get HUB_BELL_TIMING.LEAD_NS = l % 2 ^ HUB_BELL_TIMING.LEAD_NS.width ∧
    (s.takeStart epoch f l).complete = true ∧
    (s.takeStart epoch f l).get HUB_RC_STAT.EPOCH = epoch % 2 ^ HUB_RC_STAT.EPOCH.width := by
  have hrest := (Retains.takeStart_of_putStart s epoch f l).regs
  refine ⟨(hrest.get_hub (by decide)).trans ?_, (hrest.get_hub (by decide)).trans ?_,
    beq_iff_eq.2 ((hrest.get_hub (by decide)).trans ?_), (hrest.get_hub (by decide)).trans ?_⟩
  all_goals unfold State.putStart
  · rw [State.get_put_hub _ (by decide), State.get_put_hub _ (by decide), State.get_put_hub _ (by decide),
      State.get_put_hub _ (by decide), State.get_put_self]
  · rw [State.get_put_hub _ (by decide), State.get_put_hub _ (by decide), State.get_put_hub _ (by decide), State.get_put_self]
  · rw [State.get_put_hub _ (by decide), State.get_put_hub _ (by decide), State.get_put_self]
    rfl
  · rw [State.get_put_hub _ (by decide), State.get_put_self]

end

/-- The master completes roll call with F of its aggregate. -/
theorem State.startFabric_spec (s : State) : s.startFabric.complete = true ∧
    s.startFabric.get HUB_BELL_TIMING.FIRE_DELAY_NS =
      fireDelay s.aggregate.2.1 s.aggregate.2.2.1 % 2 ^ HUB_BELL_TIMING.FIRE_DELAY_NS.width ∧ s.startFabric.mem = s.mem := by
  unfold State.startFabric
  obtain ⟨hdelay, -, hcomplete, -⟩ := State.get_takeStart _ _ _ _
  exact ⟨hcomplete, hdelay, (Retains.takeStart ..).mem.trans (Rolls.announce s none rkStart _ [] []).mem⟩

/-! ### The master (R247, R248) -/

section
variable (s : State)

theorem Retains.bindAddr : Retains s s.bindAddr [HUB_FAB.ADDR] := by
  unfold State.bindAddr
  exact .ite (.refl s _) (.put_hub s _ (by simp))

theorem State.bindAddr_hub : s.bindAddr.hub = s.hub := by
  unfold State.bindAddr
  split <;> rfl

theorem State.get_bindAddr (h : s.positional ≠ 0xFFFF) : s.bindAddr.get HUB_FAB.ADDR = s.positional % 65536 := by
  unfold State.bindAddr
  rw [if_neg h, State.get_put_self]
  rfl

/-- The fields of the master's part of a module. -/
def masterFields : List Fld :=
  [HUB_FAB.ADDR, HUB_BELL_STATUS.IS_MASTER, HUB_BELL_STATUS.IS_DEPUTY, HUB_BELL_MASTER.MASTER_SERIAL, HUB_RC_STAT.STATE,
    HUB_RC_STAT.HOPS]

/-- What the master's part of a module writes. -/
theorem State.master_spec : s.master.get HUB_BELL_STATUS.IS_MASTER = 1 ∧ s.master.get HUB_RC_STAT.STATE = 3 ∧
    s.master.get HUB_RC_STAT.HOPS = 0 ∧ s.master.hub.roll.lastEpoch = s.hub.roll.lastEpoch + 1 ∧
    Retains s s.master masterFields := by
  have hbind := (Retains.bindAddr s).mono (d := masterFields) (by simp [masterFields])
  have hhub := s.bindAddr_hub
  unfold State.master
  generalize s.bindAddr = t at hbind hhub ⊢
  dsimp only
  refine ⟨?_, ?_, ?_, ?_, ?_⟩
  · rw [State.get_put_hub _ (by decide), State.get_put_hub _ (by decide), State.get_modHub,
      State.get_put_hub _ (by decide), State.get_put_hub _ (by decide), State.get_put_self]
    rfl
  · rw [State.get_put_hub _ (by decide), State.get_put_self]
    rfl
  · rw [State.get_put_self]
    rfl
  · rw [← hhub]
    rfl
  · have hput (u : State) (v : Nat) {f : Fld} (hf : f ∈ masterFields) : Retains u (u.put f v) masterFields := .put_hub u v hf
    refine (((((hbind.trans (.modRoll ..)).trans (hput _ _ ?_)).trans (hput _ _ ?_)).trans (hput _ _ ?_)).trans
      (.modHub ..)).trans ((hput _ _ ?_).trans (hput _ _ ?_))
    all_goals simp [masterFields]

end

end Sys2Proof.Machine
end

section
/-!
The frames and events of roll call before START (R246-R250), and the settlement of O36.
-/
namespace Sys2Proof.Machine

/-! ### One frame in 8 microseconds (R246) -/

/-- A link that has accepted a roll-call frame. -/
def State.accepted (s : State) (l : Lnk) : State := s.modLink l (fun x => { x with rcLast := some s.now })

/-- A frame alone does not complete roll call. -/
theorem not_complete_accepted {s : State} (hstart : s.complete = false) (l : Lnk) : ¬ (s.accepted l).complete = true := by
  rw [show (s.accepted l).complete = false from hstart]
  decide

section
variable {s : State} {l : Lnk} (hroll : s.rollLink l = true)
include hroll

theorem State.rollFrame_early {τ : Nat} (hstart : s.complete = false) (hlast : s.links[l].rcLast = some τ)
    (hearly : s.now < τ + 14400) (f : State → State) : s.rollFrame l f = s.bump LNK_RC.DROPPED 1 l := by
  unfold State.rollFrame
  rw [hroll, hstart, hlast]
  simp [hearly]

theorem State.rollFrame_accepted (hlate : ∀ τ, s.links[l].rcLast = some τ → τ + 14400 ≤ s.now) (f : State → State) :
    s.rollFrame l f = f (s.accepted l) := by
  have hopen : ¬ (!s.complete && (match s.links[l].rcLast with
      | some t => decide (s.now < t + 14400)
      | none => false)) = true := by
    cases hlast : s.links[l].rcLast with
    | none => simp
    | some τ => simp [Nat.not_lt.2 (hlate τ hlast)]
  unfold State.rollFrame
  rw [hroll]
  exact (if_neg (by decide)).trans (if_neg hopen)

end

/-- The roll-call frames. -/
def rollFrames (l : Lnk) (m : RollMsg) (residence : List Nat) : List Instr :=
  [.hello l m, .claim l m, .bind l m residence, .probe l m residence, .ready l m, .start l m]

/-- Each of them is one frame of its link. -/
theorem exec_rollFrames {l : Lnk} {m : RollMsg} {residence : List Nat} {i : Instr} (hi : i ∈ rollFrames l m residence)
    (s : State) : ∃ f, exec i s = .next (s.rollFrame l f) := by
  simp only [rollFrames, List.mem_cons, List.not_mem_nil, or_false] at hi
  obtain rfl | rfl | rfl | rfl | rfl | rfl := hi
  all_goals exact ⟨_, rfl⟩

theorem completes_dropped {s : State} {l : Lnk} {i : Instr} {f : State → State} {τ : Nat} (hroll : s.rollLink l = true)
    (hstart : s.complete = false) (hexec : exec i s = .next (s.rollFrame l f)) (hlast : s.links[l].rcLast = some τ)
    (hearly : s.now < τ + 14400) : Completes i s (fun t =>
      t.get LNK_RC.DROPPED l = min LNK_RC.DROPPED.max (s.get LNK_RC.DROPPED l + 1) ∧ SameRegs s t [LNK_RC.DROPPED] ∧
      OnlyRegs s t) := by
  rw [State.rollFrame_early hroll hstart hlast hearly] at hexec
  exact ⟨_, hexec, State.get_bump_self .., .bump s _ _ (by omega) (by decide) (by decide), .bump ..⟩

/-! ### HELLO (R246, R247) -/

section
variable (s : State) (l : Lnk) (m : RollMsg)

/-- The fields of LNK_PEER. -/
def peerFields : List Fld :=
  [LNK_PEER_SERIAL.SERIAL, LNK_PEER.ADDR, LNK_PEER.POS_ID, LNK_PEER.FEED_ID, LNK_PEER.LINK, LNK_PEER.SPARE, LNK_PEER.VALID]

/-- LNK_PEER filled by a HELLO. -/
def State.fillPeer (s : State) (l : Lnk) (m : RollMsg) : State :=
  ((((((s.put LNK_PEER_SERIAL.SERIAL m.serial.toNat l).put LNK_PEER.ADDR m.addr.toNat l).put LNK_PEER.POS_ID m.posId.toNat
    l).put LNK_PEER.FEED_ID (m.flags.toNat % 16) l).put LNK_PEER.LINK (m.link.toNat % 32) l).put LNK_PEER.SPARE
    (if m.flags.getLsbD 4 then 1 else 0) l).put LNK_PEER.VALID 1 l

theorem State.get_fillPeer : (s.fillPeer l m).get LNK_PEER.ADDR l = m.addr.toNat ∧
    (s.fillPeer l m).get LNK_PEER.VALID l = 1 ∧ (s.fillPeer l m).get LNK_PEER_SERIAL.SERIAL l = m.serial.toNat ∧
    (s.fillPeer l m).get LNK_PEER.POS_ID l = m.posId.toNat := by
  unfold State.fillPeer
  simp (disch := decide) only [State.get_put_link, State.get_put_self]
  exact ⟨Nat.mod_eq_of_lt m.addr.isLt, rfl, Nat.mod_eq_of_lt m.serial.isLt, Nat.mod_eq_of_lt m.posId.isLt⟩

theorem Retains.fillPeer : Retains s (s.fillPeer l m) peerFields :=
  ((((((Retains.put_link s _ l (by simp [peerFields])).trans (.put_link _ _ l (by simp [peerFields]))).trans
    (.put_link _ _ l (by simp [peerFields]))).trans (.put_link _ _ l (by simp [peerFields]))).trans
    (.put_link _ _ l (by simp [peerFields]))).trans (.put_link _ _ l (by simp [peerFields]))).trans
    (.put_link _ _ l (by simp [peerFields]))

/-- The fields that a HELLO or CLAIM may change beside LNK_PEER. -/
def electionFields : List Fld := [HUB_RC_STAT.STATE, HUB_RC_STAT.FAIL_CODE, HUB_FAB.ADDR, LNK_STAT.STATE]

theorem Retains.rollFail {code : Nat} (hcode : code < 256) : Retains s (s.rollFail code) electionFields := by
  obtain ⟨-, -, honly, hsame⟩ := s.get_rollFail hcode
  exact ⟨hsame.mono (by simp [electionFields]), honly.mem⟩

theorem Retains.claimState (n : Nat) :
    Retains s (if s.get HUB_RC_STAT.STATE < n then s.put HUB_RC_STAT.STATE n else s) electionFields :=
  .ite (.put_hub s n (by simp [electionFields])) (.refl s _)

end

/-- HELLO fills LNK_PEER, and the rest of it leaves LNK_PEER alone. -/
theorem completes_hello {s : State} {l : Lnk} {m : RollMsg} (hroll : s.rollLink l = true)
    (hlate : ∀ τ, s.links[l].rcLast = some τ → τ + 14400 ≤ s.now) : Completes (.hello l m) s (fun t =>
      t.get LNK_PEER.ADDR l = m.addr.toNat ∧ t.get LNK_PEER.VALID l = 1 ∧
      t.get LNK_PEER_SERIAL.SERIAL l = m.serial.toNat ∧ t.get LNK_PEER.POS_ID l = m.posId.toNat ∧
      (s.addr ≠ 0xFFFF → m.addr.toNat = s.addr → t.get HUB_RC_STAT.STATE = 6 ∧ t.get HUB_RC_STAT.FAIL_CODE = 4) ∧
      t.mem = s.mem) := by
  obtain ⟨haddr, hvalid, hserial, hpos⟩ := (s.accepted l).get_fillPeer l m
  obtain ⟨t, heq, hkeep, hfail⟩ : ∃ t, s.hello l m = t ∧ Retains ((s.accepted l).fillPeer l m) t electionFields ∧
      (s.addr ≠ 0xFFFF → m.addr.toNat = s.addr → t.get HUB_RC_STAT.STATE = 6 ∧ t.get HUB_RC_STAT.FAIL_CODE = 4) := by
    have hfill := (Retains.fillPeer (s.accepted l) l m).regs
    have hown : ((s.accepted l).fillPeer l m).addr = s.addr := hfill.get_hub (by decide)
    unfold State.hello
    rw [State.rollFrame_accepted hroll hlate]
    refine ⟨_, rfl, ?_⟩
    dsimp only
    rw [← State.fillPeer]
    generalize (s.accepted l).fillPeer l m = u at hown ⊢
    have hheard : Retains u (if u.get HUB_RC_STAT.STATE = 0 then u.put HUB_RC_STAT.STATE 1 else u) [HUB_RC_STAT.STATE] :=
      .ite (.put_hub u 1 (by simp)) (.refl u _)
    generalize (if u.get HUB_RC_STAT.STATE = 0 then u.put HUB_RC_STAT.STATE 1 else u) = v at hheard ⊢
    have hown' : v.addr = s.addr := (hheard.regs.get_hub (by decide)).trans hown
    have hheard := hheard.mono (d := electionFields) (by simp [electionFields])
    split
    case isTrue =>
      obtain ⟨hstate, hcode, -⟩ := v.get_rollFail (code := 4) (by decide)
      exact ⟨hheard.trans (.rollFail v (by decide)), fun _ _ => ⟨hstate, hcode⟩⟩
    case isFalse hother =>
      refine ⟨hheard.trans ?_, fun hbound hsame => absurd ⟨by rwa [hown'], by rwa [hown']⟩ hother⟩
      split
      · exact .refl v _
      · split
        · exact ((Retains.modRoll ..).trans (.ite (.refl ..) (.put_hub _ _ (by simp [electionFields])))).trans
            ((Rolls.sendReady _).retains.mono (by simp [electionFields]))
        · exact ((Retains.modRoll ..).trans (.claimState _ 2)).trans (Rolls.announce ..).retains
  have hlink (f : Fld) (hf : ∀ g ∈ electionFields, f.home ≠ g.home) := hkeep.regs.get_link hf l
  exact ⟨t, congrArg Host.Outcome.next heq, (hlink _ (by decide)).trans haddr, (hlink _ (by decide)).trans hvalid,
    (hlink _ (by decide)).trans hserial, (hlink _ (by decide)).trans hpos, hfail,
    hkeep.mem.trans (Retains.fillPeer (s.accepted l) l m).mem⟩

/-! ### A module that BIND binds (R248) -/

/-- A module whose address is bound, its parent's link named, as BIND leaves it before it goes on. -/
def State.boundBy (s : State) (m : RollMsg) (deputy : Hub → Nat) : State :=
  ((((s.bindAddr.put HUB_RC_STAT.STATE 3).put HUB_RC_STAT.HOPS m.hops.toNat).put HUB_BELL_MASTER.MASTER_SERIAL
    m.best.toNat).put HUB_BELL_STATUS.IS_MASTER 0).modHub (fun h => { h with
      masterAddr := m.addr.toNat, deputyAddr := deputy h })

theorem State.get_boundBy (s : State) (m : RollMsg) (deputy : Hub → Nat) :
    (s.boundBy m deputy).get HUB_RC_STAT.HOPS = m.hops.toNat ∧
    (s.boundBy m deputy).get HUB_BELL_MASTER.MASTER_SERIAL = m.best.toNat ∧
    (s.positional ≠ 0xFFFF → (s.boundBy m deputy).get HUB_FAB.ADDR = s.positional % 65536) ∧
    (s.boundBy m deputy).hub.roll = s.hub.roll ∧ (s.boundBy m deputy).mem = s.mem := by
  have hget (f : Fld) : (s.boundBy m deputy).get f = ((((s.bindAddr.put HUB_RC_STAT.STATE 3).put HUB_RC_STAT.HOPS
    m.hops.toNat).put HUB_BELL_MASTER.MASTER_SERIAL m.best.toNat).put HUB_BELL_STATUS.IS_MASTER 0).get f :=
    State.get_modHub ..
  have hmem : (s.boundBy m deputy).mem = s.bindAddr.mem := by simp only [State.boundBy, State.modHub_mem, State.put_mem]
  refine ⟨?_, ?_, fun h => ?_, ?_, hmem.trans (Retains.bindAddr s).mem⟩
  · rw [hget, State.get_put_hub _ (by decide), State.get_put_hub _ (by decide), State.get_put_self]
    exact Nat.mod_eq_of_lt m.hops.isLt
  · rw [hget, State.get_put_hub _ (by decide), State.get_put_self]
    exact Nat.mod_eq_of_lt m.best.isLt
  · rw [hget, State.get_put_hub _ (by decide), State.get_put_hub _ (by decide), State.get_put_hub _ (by decide),
      State.get_put_hub _ (by decide), s.get_bindAddr h]
  · rw [← s.bindAddr_hub]
    rfl

theorem State.bound_spec {s t : State} {m : RollMsg} {deputy : Hub → Nat} (h : Rolls (s.boundBy m deputy) t [HUB_RC_STAT.STATE]) :
    t.hub.roll.parent = s.hub.roll.parent ∧ t.hub.roll.pathM = s.hub.roll.pathM ∧
    t.hub.roll.lastEpoch = s.hub.roll.lastEpoch ∧ t.get HUB_RC_STAT.HOPS = m.hops.toNat ∧
    t.get HUB_BELL_MASTER.MASTER_SERIAL = m.best.toNat ∧
    (s.positional ≠ 0xFFFF → t.get HUB_FAB.ADDR = s.positional % 65536) ∧ t.mem = s.mem := by
  obtain ⟨hhops, hserial, haddr, hroll, hmem⟩ := s.get_boundBy m deputy
  obtain ⟨_, _, hhub⟩ := h.hub
  rw [hhub, hroll]
  exact ⟨rfl, rfl, rfl, (h.regs.get_hub (by decide)).trans hhops, (h.regs.get_hub (by decide)).trans hserial,
    fun hbound => (h.regs.get_hub (by decide)).trans (haddr hbound), h.mem.trans hmem⟩

/-- BIND that binds goes on: BIND on the other links, PROBE from the deputy, READY to the parent. -/
theorem Rolls.goOn (s : State) (l : Lnk) (second : Nat) (k : RollMsg) (residence : List Nat) :
    Rolls s (let t := s.announce (some l) rkBind k residence
      if second = t.serial then (t.announce none rkProbe (t.rollMsg 1 0 0 0 0 0 0)).sendReady else t.sendReady)
      [HUB_RC_STAT.STATE] :=
  (Rolls.announce ..).trans (.ite ((Rolls.announce ..).trans (.sendReady _)) (.sendReady _))

section
variable {s : State} {l : Lnk} {m : RollMsg} (hroll : s.rollLink l = true)
  (hlate : ∀ τ, s.links[l].rcLast = some τ → τ + 14400 ≤ s.now)
include hroll hlate

/-- A frame that the link accepts runs. -/
theorem exec_rollFrame_of_eq {i : Instr} {f : State → State} {t : State} (hexec : exec i s = .next (s.rollFrame l f))
    (heq : f (s.accepted l) = t) : exec i s = .next t := by
  rw [hexec, State.rollFrame_accepted hroll hlate, heq]

/-! ### CLAIM (R247) -/

theorem completes_claim (hstart : s.complete = false) : Completes (.claim l m) s (fun t => ∀ n,
      n = lowSerials [s.serial, s.hub.roll.best.toNat, s.hub.roll.second.toNat, m.best.toNat, m.second.toNat,
        m.serial.toNat] →
      t.hub.roll.best.toNat = n.1 % 2 ^ 64 ∧ t.hub.roll.second.toNat = n.2 % 2 ^ 64 ∧ t.mem = s.mem) := by
  refine ⟨_, exec_rollFrame_of_eq hroll hlate rfl (if_neg (not_complete_accepted hstart l)), ?_⟩
  rintro n rfl
  dsimp only
  split
  case isTrue =>
    have hsent (u : State) (k : RollMsg) := (Rolls.ite (Rolls.put_hub u 2 List.mem_cons_self) (.refl u _) :
      Rolls u (if u.get HUB_RC_STAT.STATE < 2 then u.put HUB_RC_STAT.STATE 2 else u) [HUB_RC_STAT.STATE]).trans
      (Rolls.announce _ (some l) rkClaim k [] _)
    obtain ⟨h, x, hhub⟩ := (hsent ((s.accepted l).mergeSerials m).1 _).hub
    rw [hhub, (hsent _ _).mem]
    exact ⟨BitVec.toNat_ofNat .., BitVec.toNat_ofNat .., rfl⟩
  case isFalse => exact ⟨BitVec.toNat_ofNat .., BitVec.toNat_ofNat .., rfl⟩

/-! ### BIND (R247, R248) -/

theorem completes_bind_far {residence : List Nat} (hstart : s.complete = false) (hfar : 32 < m.hops.toNat) :
    Completes (.bind l m residence) s (fun t => t.get HUB_RC_STAT.STATE = 6 ∧ t.get HUB_RC_STAT.FAIL_CODE = 1 ∧
      t.mem = s.mem) := by
  refine ⟨_, exec_rollFrame_of_eq hroll hlate rfl ((if_pos hfar).trans
    (if_neg (not_complete_accepted hstart l))), ?_⟩
  obtain ⟨hstate, hcode, honly, -⟩ := State.get_rollFail _ (code := 1) (by decide)
  exact ⟨hstate, hcode, honly.mem⟩

theorem exec_bind_other {residence : List Nat} (hnear : m.hops.toNat ≤ 32) (hno : s.bindable m = false) :
    exec (.bind l m residence) s = .next (s.accepted l) :=
  exec_rollFrame_of_eq hroll hlate rfl ((if_neg (Nat.not_lt.2 hnear)).trans
    (if_pos (by rw [show (s.accepted l).bindable m = false from hno]; decide)))

theorem completes_bind {residence : List Nat} (hnear : m.hops.toNat ≤ 32) (hbind : s.bindable m = true) :
    Completes (.bind l m residence) s (fun t => t.hub.roll.parent = some l.val ∧
      t.hub.roll.pathM = some (m.pathM.toNat + s.hopNs l) ∧ t.hub.roll.lastEpoch = m.epoch ∧
      t.get HUB_RC_STAT.HOPS = m.hops.toNat ∧ t.get HUB_BELL_MASTER.MASTER_SERIAL = m.best.toNat ∧
      (s.positional ≠ 0xFFFF → t.get HUB_FAB.ADDR = s.positional % 65536) ∧ t.mem = s.mem) := by
  have hbind : ¬ (!(s.accepted l).bindable m) = true := by
    rw [show (s.accepted l).bindable m = true from hbind]
    decide
  refine ⟨_, exec_rollFrame_of_eq hroll hlate rfl ((if_neg (Nat.not_lt.2 hnear)).trans (if_neg hbind)), ?_⟩
  dsimp only
  rw [← State.boundBy]
  exact State.bound_spec (Rolls.goOn ..)

/-! ### PROBE (R248) -/

theorem exec_probe_other {residence : List Nat} (hno : s.probeable m = false) :
    exec (.probe l m residence) s = .next (s.accepted l) :=
  exec_rollFrame_of_eq hroll hlate rfl (if_pos (by rw [show (s.accepted l).probeable m = false from hno]; decide))

theorem completes_probe {residence : List Nat} (hprobe : s.probeable m = true) : Completes (.probe l m residence) s (fun t =>
      t.hub.roll.pathD = some (m.pathD.toNat + s.hopNs l) ∧ t.hub.deputyAddr = m.addr.toNat ∧ t.mem = s.mem) := by
  refine ⟨_, exec_rollFrame_of_eq hroll hlate rfl (if_neg (by rw [show (s.accepted l).probeable m = true from hprobe]; decide)), ?_⟩
  have hsent (u : State) (k : RollMsg) : Rolls u (let v := u.announce (some l) rkProbe k residence
      if v.complete then v else v.sendReady) [HUB_RC_STAT.STATE] :=
    (Rolls.announce ..).trans (.ite (.refl ..) (.sendReady _))
  obtain ⟨h, x, hhub⟩ := (hsent _ _).hub
  refine ⟨?_, ?_, (hsent _ _).mem⟩
  · rw [hhub]
    rfl
  · rw [hhub]
    rfl

end

/-! ### READY (R247) -/

/-- A child's aggregate, kept with its link. -/
def State.heardReady (s : State) (l : Lnk) (m : RollMsg) : State :=
  s.modLink l (fun x => { x with
    rcLast := some s.now, ready := some (m.count.toNat, m.pathM.toNat, m.pathD.toNat, m.hops.toNat) })

theorem State.accepted_ready (s : State) (l : Lnk) (m : RollMsg) : (s.accepted l).modLink l (fun x => { x with
    ready := some (m.count.toNat, m.pathM.toNat, m.pathD.toNat, m.hops.toNat) }) = s.heardReady l m := by
  simp [State.accepted, State.heardReady, State.modLink]

section
variable {s : State} {l : Lnk} {m : RollMsg} (hroll : s.rollLink l = true)
  (hlate : ∀ τ, s.links[l].rcLast = some τ → τ + 14400 ≤ s.now) (hstart : s.complete = false)
include hroll hlate hstart

/-- READY before START, by whether the module is the master. -/
theorem exec_ready : exec (.ready l m) s = .next
    (if s.bit HUB_BELL_STATUS.IS_MASTER then
      if s.get HUB_RC_CTRL.EXPECT ≠ 0 ∧ s.get HUB_RC_CTRL.EXPECT < (s.heardReady l m).aggregate.1 then
        (s.heardReady l m).rollFail 2
      else if s.get HUB_RC_CTRL.EXPECT ≠ 0 ∧ (s.heardReady l m).aggregate.1 = s.get HUB_RC_CTRL.EXPECT then
        (s.heardReady l m).startFabric
      else s.heardReady l m
    else if (s.heardReady l m).aggregate = (s.accepted l).aggregate then s.heardReady l m
    else (s.heardReady l m).sendReady) := by
  refine exec_rollFrame_of_eq hroll hlate rfl ((if_neg (not_complete_accepted hstart l)).trans ?_)
  dsimp only
  rw [State.accepted_ready]
  rfl

theorem completes_ready_child (hmaster : s.bit HUB_BELL_STATUS.IS_MASTER = false) : Completes (.ready l m) s (fun t =>
      t.links[l].ready = (s.heardReady l m).links[l].ready ∧ t.mem = s.mem) := by
  have hexec := exec_ready (m := m) hroll hlate hstart
  rw [if_neg (by rw [hmaster]; decide)] at hexec
  refine ⟨_, hexec, ?_⟩
  have hsent : Rolls (s.heardReady l m) (if (s.heardReady l m).aggregate = (s.accepted l).aggregate then s.heardReady l m
      else (s.heardReady l m).sendReady) [HUB_RC_STAT.STATE] := .ite (.refl ..) (.sendReady _)
  have hready := congrArg Link.ready (hsent.still l)
  exact ⟨hready, hsent.mem⟩

section
variable (hmaster : s.bit HUB_BELL_STATUS.IS_MASTER = true)
include hmaster

theorem exec_ready_few (hfew : (s.heardReady l m).aggregate.1 < s.get HUB_RC_CTRL.EXPECT) :
    exec (.ready l m) s = .next (s.heardReady l m) := by
  rw [exec_ready hroll hlate hstart, if_pos hmaster, if_neg (by omega), if_neg (by omega)]

variable (hexpect : s.get HUB_RC_CTRL.EXPECT ≠ 0)
include hexpect

theorem completes_ready_many (hmany : s.get HUB_RC_CTRL.EXPECT < (s.heardReady l m).aggregate.1) :
    Completes (.ready l m) s (fun t => t.get HUB_RC_STAT.STATE = 6 ∧ t.get HUB_RC_STAT.FAIL_CODE = 2 ∧ t.mem = s.mem) := by
  have hexec := exec_ready (m := m) hroll hlate hstart
  rw [if_pos hmaster, if_pos ⟨hexpect, hmany⟩] at hexec
  obtain ⟨hstate, hcode, honly, -⟩ := (s.heardReady l m).get_rollFail (code := 2) (by decide)
  exact ⟨_, hexec, hstate, hcode, honly.mem⟩

theorem completes_ready_all (hall : (s.heardReady l m).aggregate.1 = s.get HUB_RC_CTRL.EXPECT) :
    Completes (.ready l m) s (fun t => t.complete = true ∧ t.get HUB_BELL_TIMING.FIRE_DELAY_NS =
      fireDelay (s.heardReady l m).aggregate.2.1 (s.heardReady l m).aggregate.2.2.1 %
        2 ^ HUB_BELL_TIMING.FIRE_DELAY_NS.width ∧ t.mem = s.mem) := by
  have hexec := exec_ready (m := m) hroll hlate hstart
  rw [if_pos hmaster, if_neg (by omega), if_pos ⟨hexpect, hall⟩] at hexec
  exact ⟨_, hexec, (s.heardReady l m).startFabric_spec⟩

end

/-! ### START (R247-R249) -/

theorem exec_start_failed (hfailed : s.get HUB_RC_STAT.STATE = 6) : exec (.start l m) s = .next (s.accepted l) :=
  exec_rollFrame_of_eq hroll hlate rfl
    ((if_neg (not_complete_accepted hstart l)).trans (if_pos hfailed))

variable (hfailed : s.get HUB_RC_STAT.STATE ≠ 6)
include hfailed

theorem completes_start_refused (hf : m.fNs = 0) : Completes (.start l m) s (fun t =>
      t.get HUB_RC_STAT.STATE = 6 ∧ t.get HUB_RC_STAT.FAIL_CODE = 3 ∧ t.mem = s.mem) := by
  obtain ⟨hstate, hcode, honly, -⟩ := (s.accepted l).get_rollFail (code := 3) (by decide)
  exact ⟨_, exec_rollFrame_of_eq hroll hlate rfl
    (((if_neg (not_complete_accepted hstart l)).trans (if_neg hfailed)).trans (if_pos hf)),
    hstate, hcode, honly.mem⟩

theorem completes_start (hf : m.fNs ≠ 0) : Completes (.start l m) s (fun t => t.complete = true ∧
      t.get HUB_BELL_TIMING.FIRE_DELAY_NS = m.fNs.toNat ∧ t.get HUB_BELL_TIMING.LEAD_NS = m.lNs.toNat ∧
      t.get HUB_RC_STAT.EPOCH = m.epoch.toNat ∧ t.mem = s.mem) := by
  refine ⟨_, exec_rollFrame_of_eq hroll hlate rfl (((if_neg (not_complete_accepted hstart l)).trans (if_neg hfailed)).trans
    (if_neg hf)), ?_⟩
  dsimp only
  obtain ⟨hdelay, hlead, hcomplete, hepoch⟩ := State.get_takeStart _ m.epoch.toNat m.fNs.toNat m.lNs.toNat
  exact ⟨hcomplete, hdelay.trans (Nat.mod_eq_of_lt m.fNs.isLt), hlead.trans (Nat.mod_eq_of_lt m.lNs.isLt),
    hepoch.trans (Nat.mod_eq_of_lt m.epoch.isLt), (Retains.takeStart ..).mem.trans (Rolls.announce _ _ rkStart m [] []).mem⟩

end

/-! ### The events of roll call (R246, R247, R250) -/

section
variable {s : State}

theorem completes_becomeMaster (hstate : s.get HUB_RC_STAT.STATE = 1 ∨ s.get HUB_RC_STAT.STATE = 2)
    (hbest : s.hub.roll.best.toNat = s.serial) : Completes .becomeMaster s (fun t =>
      t.get HUB_BELL_STATUS.IS_MASTER = 1 ∧ t.get HUB_RC_STAT.STATE = 3 ∧ t.get HUB_RC_STAT.HOPS = 0 ∧
      t.hub.roll.lastEpoch = s.hub.roll.lastEpoch + 1 ∧
      (∀ l : Lnk, s.rollLink l = true → Leaves t l (fun g => g.hdr.type.toNat = ftRollCall ∧ leAt g.payload 0 1 = 3)) ∧
      t.mem = s.mem) := by
  obtain ⟨hmaster, hbound, hhops, hepoch, hkeep⟩ := s.master_spec
  have hsent := Rolls.announce s.master none rkBind (s.master.rollMsg 1 0 0 0 0 0 0) [] []
  obtain ⟨h, x, hhub⟩ := hsent.hub
  refine ⟨_, congrArg Host.Outcome.next (if_pos ⟨hstate, hbest⟩), (hsent.regs.get_hub (by simp)).trans hmaster,
    (hsent.regs.get_hub (by simp)).trans hbound, (hsent.regs.get_hub (by simp)).trans hhops, ?_, fun l hl => ?_,
    hsent.mem.trans hkeep.mem⟩
  · rw [hhub]
    exact hepoch
  · exact leaves_announce ((State.rollLink_congr (hkeep.regs.get_link (by decide) l)).trans hl) rkBind _ []

theorem completes_quietCompletion (hexpect : s.get HUB_RC_CTRL.EXPECT = 0) (hmaster : s.bit HUB_BELL_STATUS.IS_MASTER = true)
    (hstate : s.get HUB_RC_STAT.STATE = 3 ∨ s.get HUB_RC_STAT.STATE = 4) : Completes .quietCompletion s (fun t =>
      t.complete = true ∧ t.get HUB_BELL_TIMING.FIRE_DELAY_NS =
        fireDelay s.aggregate.2.1 s.aggregate.2.2.1 % 2 ^ HUB_BELL_TIMING.FIRE_DELAY_NS.width ∧ t.mem = s.mem) :=
  ⟨_, congrArg Host.Outcome.next (if_pos ⟨hexpect, hmaster, hstate⟩), s.startFabric_spec⟩

theorem completes_rollTimeout (hlow : 1 ≤ s.get HUB_RC_STAT.STATE) (hhigh : s.get HUB_RC_STAT.STATE ≤ 4) :
    Completes .timeout s (fun t => t.get HUB_RC_STAT.STATE = 6 ∧ t.get HUB_RC_STAT.FAIL_CODE = 5 ∧ OnlyRegs s t) := by
  obtain ⟨hstate, hcode, honly, -⟩ := s.get_rollFail (code := 5) (by decide)
  exact ⟨_, congrArg Host.Outcome.next (if_pos ⟨hlow, hhigh⟩), hstate, hcode, honly⟩

/-- A fabric of one, before its module takes the master's part. -/
def State.ofOne (s : State) : State :=
  s.modRoll (fun x => { x with best := BitVec.ofNat 64 s.serial, second := 0, pathD := some 0 })

theorem completes_fabricOfOne (hexpect : s.get HUB_RC_CTRL.EXPECT = 1)
    (hstate : s.get HUB_RC_STAT.STATE ≤ 2 ∨ s.get HUB_RC_STAT.STATE = 6) : Completes .fabricOfOne s (fun t =>
      t.complete = true ∧ t.get HUB_BELL_STATUS.IS_MASTER = 1 ∧ t.get HUB_BELL_TIMING.FIRE_DELAY_NS = 1000 ∧
      t.get HUB_BELL_TIMING.LEAD_NS = 2000 ∧ t.mem = s.mem) := by
  obtain ⟨hmaster, -, -, -, hkeep⟩ := s.ofOne.master_spec
  obtain ⟨hdelay, hlead, hcomplete, -⟩ := s.ofOne.master.get_takeStart s.ofOne.master.hub.roll.lastEpoch.toNat (fireDelay 0 0)
    (leadOf 0 0)
  have hrest := Retains.takeStart s.ofOne.master s.ofOne.master.hub.roll.lastEpoch.toNat (fireDelay 0 0) (leadOf 0 0)
  exact ⟨_, congrArg Host.Outcome.next (if_pos ⟨hexpect, hstate⟩), hcomplete, (hrest.regs.get_hub (by decide)).trans hmaster,
    hdelay, hlead, hrest.mem.trans hkeep.mem⟩

/-- One frame of the latest goes out again on a link. -/
def State.repeatFrame (s : State) (l : Lnk) (x : Nat × RollMsg × List Nat) : State :=
  if x.1 = rkHello then s.rollOn l rkHello (s.rollMsg 0 0 0 0 0 0 0)
  else if x.1 = rkReady && s.hub.roll.parent != some l.val then s
  else s.rollOn l x.1 (stayed x.1 x.2.1 x.2.2 l)

theorem Moves.repeatFrame (s : State) (l : Lnk) (x : Nat × RollMsg × List Nat) : Moves s (s.repeatFrame l x) := by
  unfold State.repeatFrame
  split
  · exact .rollOn ..
  · split
    · exact .refl s
    · exact .rollOn ..

theorem Leaves.repeatFrame {s : State} {l : Lnk} {P : Flit → Prop} (h : Leaves s l P) (x : Nat × RollMsg × List Nat) :
    Leaves (s.repeatFrame l x) l P := by
  unfold State.repeatFrame
  split
  · exact h.enqueueFlit ..
  · split
    · exact h
    · exact h.enqueueFlit ..

/-- The latest frame of each kind goes out again. -/
theorem completes_frameRepeat {l : Lnk} (hroll : s.rollLink l = true) : Completes (.frameRepeat l) s (fun t =>
      (∀ x ∈ s.hub.roll.latest, x.1 ≠ rkHello → (x.1 = rkReady → s.hub.roll.parent = some l.val) →
        Leaves t l (fun g => g.hdr.type.toNat = ftRollCall ∧ g.payload = padTo 240 (rollBytes x.1
          { stayed x.1 x.2.1 x.2.2 l with link := BitVec.ofNat 8 l.val, reach := BitVec.ofNat 8 (s.get LNK_STAT.REACH l) }))) ∧
      t.regs = s.regs ∧ t.mem = s.mem ∧ t.regions = s.regions) := by
  have hall := Moves.foldl (Moves.repeatFrame · l) s.hub.roll.latest s
  refine ⟨_, congrArg Host.Outcome.next (if_pos hroll), fun x hx hkind hparent => leaves_foldl (Moves.repeatFrame · l)
    (fun t x h => h.repeatFrame x) hx fun t ht => ?_,
    hall.regs, hall.mem, hall.regions⟩
  obtain ⟨h, hhub⟩ := ht.hub
  have hgoes : ¬ (x.1 = rkReady && t.hub.roll.parent != some l.val) = true := by
    rw [hhub]
    simpa using hparent
  unfold State.repeatFrame
  rw [if_neg hkind, if_neg hgoes]
  obtain ⟨g, ⟨htype, hpayload⟩, hout⟩ := leaves_rollOn t l x.1 (stayed x.1 x.2.1 x.2.2 l)
  exact ⟨g, ⟨htype, by rw [hpayload, ht.get]⟩, hout⟩

end

/-- Settles O36: each frame that a link accepts runs on a state that differs in the time of that frame alone; what it then
sends keeps registers, memory and the roll call itself, so that its own writes stand. -/
theorem rollCall : Obligations.RollCall := by
  unfold Obligations.RollCall
  refine ⟨fun s l m res hroll hstart => ⟨?early, fun hlate => ?frames⟩, fun s => ⟨completes_becomeMaster,
    completes_quietCompletion, completes_rollTimeout, completes_fabricOfOne, fun l => completes_frameRepeat⟩⟩
  case early =>
    intro i τ hi hlast hearly
    obtain ⟨f, hexec⟩ := exec_rollFrames hi s
    exact completes_dropped hroll hstart hexec hlast hearly
  case frames =>
    refine ⟨completes_hello hroll hlate, completes_claim hroll hlate hstart, completes_bind_far hroll hlate hstart,
      completes_bind hroll hlate, exec_bind_other hroll hlate, completes_probe hroll hlate, exec_probe_other hroll hlate, ?_,
      fun hf hfailed => completes_start hroll hlate hstart hfailed hf,
      fun hf hfailed => completes_start_refused hroll hlate hstart hfailed hf, exec_start_failed hroll hlate hstart⟩
    rintro u rfl
    exact ⟨completes_ready_child hroll hlate hstart, fun hmaster hexpect => ⟨exec_ready_few hroll hlate hstart hmaster,
      completes_ready_many hroll hlate hstart hmaster hexpect, completes_ready_all hroll hlate hstart hmaster hexpect⟩⟩

end Sys2Proof.Machine
end

section
/-!
The staging of COLLECTIVE flits (R257-R261, R302), and the settlement of O37.
-/
namespace Sys2Proof.Machine

/-! ### What the use of flits keeps (R258, R259) -/

/-- What the use of COLLECTIVE flits keeps: memory, which changes with a commit only (R134), and the module's address. -/
structure Uses (s t : State) : Prop where
  mem : t.mem = s.mem
  addr : t.addr = s.addr

theorem Uses.refl (s : State) : Uses s s := ⟨rfl, rfl⟩

theorem Uses.trans {s t u : State} (a : Uses s t) (b : Uses t u) : Uses s u := ⟨b.mem.trans a.mem, b.addr.trans a.addr⟩

theorem Uses.ite {s a b : State} {c : Prop} [Decidable c] (x : Uses s a) (y : Uses s b) : Uses s (if c then a else b) := by
  split <;> assumption

theorem Sends.uses {s t : State} (h : Sends s t) : Uses s t := ⟨h.mem, h.regs.get_hub (by decide)⟩

theorem Uses.put_link (s : State) {f : Fld} (hf : HUB_FAB.ADDR.home ≠ f.home) (v : Nat) (l : Lnk) : Uses s (s.put f v l) :=
  ⟨rfl, (SameRegs.put s f v (by omega) (by decide) (by decide)).get_hub (by simpa using hf)⟩

theorem Uses.bump_link (s : State) {f : Fld} (hf : HUB_FAB.ADDR.home ≠ f.home) (n : Nat) (l : Lnk) : Uses s (s.bump f n l) :=
  .put_link s hf _ l

/-- A field above HUB_FAB in the register map is written at any index. -/
theorem Uses.put_above (s : State) {f : Fld} (hf : HUB_FAB.ADDR.home < f.home) (v k : Nat) : Uses s (s.put f v k) :=
  ⟨rfl, State.get_put_of_home_lt s hf v k 0 0 (by decide) (by decide) (by decide)⟩

theorem Uses.stageLevel (s : State) (l : Lnk) : Uses s (s.stageLevel l) :=
  (Uses.put_link s (by decide) _ l).trans (.put_link _ (by decide) _ l)

theorem Uses.meetBad (s : State) (ws : List Nat) : Uses s (s.meetBad ws) :=
  List.foldlRecOn (motive := (Uses s ·)) ws _ (.refl s) fun t ht w _ => ht.trans
    (((Uses.put_above t (f := SE_ERR.UNCORR) (by decide) _ _).trans (.put_above _ (by decide) _ _)).trans
      (.put_above _ (by decide) _ _))

theorem Uses.putColl (s : State) (r : Rgn) (p : Prt) (e : Entry) (c : Coll) (finished : Bool) :
    Uses s (s.putColl r p e c finished) := by
  unfold State.putColl
  exact (Uses.meetBad ..).trans (Sends.setCmds ..).uses

theorem Uses.takeExchange (s : State) (r : Rgn) (p : Prt) (e : Entry) (c : Coll) (f : Flit) :
    Uses s (s.takeExchange r p e c f) := by
  unfold State.takeExchange
  dsimp only
  split
  · exact .putColl ..
  · exact (Uses.ite (Sends.send ..).uses (.refl s)).trans (.putColl ..)

theorem Uses.takeMessage (s : State) (r : Rgn) (p : Prt) (l : Lnk) (e : Entry) (c : Coll) (f : Flit) :
    Uses s (s.takeMessage r p l e c f) := by
  unfold State.takeMessage
  exact (Uses.ite (.bump_link s (by decide) 1 l) (.refl s)).trans (.putColl ..)

theorem Uses.takeGroup (s : State) (r : Rgn) (p : Prt) (l : Lnk) (e : Entry) (c : Coll) (f : Flit) :
    Uses s (s.takeGroup r p l e c f) := by
  unfold State.takeGroup
  dsimp only
  have hmismatch : Uses s (if c.flitOff e.cmd f then s.bump LNK_COLL_ERR.MISMATCH 1 l else s) :=
    .ite (.bump_link s (by decide) 1 l) (.refl s)
  have hcount (t : State) (n : Nat) : Uses t (if n = 0 then t else t.liveAdd LNK_COLL_CNT.BLOCKS n l) :=
    .ite (.refl t) (Sends.liveAdd ..).uses
  have hsums (t : State) (hit : List Nat) : Uses t (if hit.isEmpty then t else t.bump LNK_COLL_ERR.STAGE_UNCORR 1 l) :=
    .ite (.refl t) (.bump_link t (by decide) 1 l)
  exact (((hmismatch.trans (hcount ..)).trans (hsums ..)).trans (.putColl ..)).trans (Sends.sendAll ..).uses

theorem Uses.freeBad (s : State) (l : Lnk) (f : Flit) : Uses s (s.freeBad l f) := by
  unfold State.freeBad
  split
  · have hcount (t : State) (c : Prop) [Decidable c] : Uses t (if c then t.bump LNK_COLL_ERR.STAGE_UNCORR 1 l else t) :=
      .ite (.bump_link t (by decide) 1 l) (.refl t)
    exact (hcount s _).trans ⟨rfl, rfl⟩
  · exact .refl s

/-- A flit that a command can use is used. -/
theorem Uses.tryTake {s t : State} {l : Lnk} {f : Flit} (h : s.tryTake l f = some t) : Uses s t := by
  unfold State.tryTake at h
  dsimp only at h
  split at h
  case h_2 => cases h
  case h_1 =>
    split at h
    case h_2 => cases h
    case h_1 =>
      split at h
      · cases h
      · split at h
        · rw [← Option.some.inj h]
          exact (Uses.takeGroup ..).trans (.freeBad ..)
        · split at h
          · rw [← Option.some.inj h]
            exact (Uses.takeExchange ..).trans (.freeBad ..)
          · split at h
            · rw [← Option.some.inj h]
              exact (Uses.takeMessage ..).trans (.freeBad ..)
            · rw [← Option.some.inj h]
              exact (Uses.putColl ..).trans (.freeBad ..)

theorem Uses.takeDirect {s t : State} {l : Lnk} {f : Flit} (h : s.takeDirect l f = some t) : Uses s t := by
  unfold State.takeDirect at h
  split at h
  case h_1 v htake =>
    split at h
    · cases h
      exact .tryTake htake
    · cases h
  case h_2 => cases h

/-- The first flit that can be used comes with a state that its use leaves. -/
theorem firstUse_spec {take : Flit → Option State} {fs : List Flit} {i j : Nat} {t : State}
    (h : State.firstUse take i fs = some (j, t)) : ∃ f, take f = some t := by
  induction fs generalizing i with
  | nil => cases h
  | cons f fs ih =>
    unfold State.firstUse at h
    split at h
    case h_1 v htake =>
      cases h
      exact ⟨f, htake⟩
    case h_2 => exact ih h

theorem Uses.answerLast (s : State) (l : Lnk) (f : Flit) : Uses s (s.answerLast l f) := by
  unfold State.answerLast
  dsimp only
  split
  · split
    · cases h : s.tryTake _ _ with
      | none => exact .refl s
      | some t => exact .tryTake h
    · exact (Sends.send ..).uses
  · exact .refl s

theorem Uses.rescan (l : Lnk) (n : Nat) (s : State) : Uses s (s.rescan l n) := by
  induction n generalizing s with
  | zero => exact .refl s
  | succ n ih =>
    unfold State.rescan
    dsimp only
    split
    case h_1 i t h =>
      obtain ⟨f, htake⟩ := firstUse_spec h
      exact (((Uses.tryTake htake).trans (Sends.modLink ..).uses).trans (.stageLevel ..)).trans (ih _)
    case h_2 =>
      split
      case h_1 i t h =>
        obtain ⟨f, htake⟩ := firstUse_spec h
        exact ((((Uses.takeDirect htake).trans (Sends.modLink ..).uses).trans (Sends.returnCredit ..).uses).trans
          (.answerLast ..)).trans (ih _)
      case h_2 =>
        split
        · exact .refl s
        · split
          · exact ((((Sends.modLink ..).uses.trans (.stageLevel ..)).trans (Sends.returnCredit ..).uses).trans
              (.answerLast ..)).trans (ih _)
          · exact .refl s

theorem Uses.rescanAll (s : State) (l : Lnk) : Uses s (s.rescanAll l) := .rescan ..

/-! ### Noting and staging a flit (R258-R260) -/

/-- What the noting of a slot keeps. -/
structure Notes (s t : State) (l : Lnk) : Prop where
  regs : t.regs = s.regs
  mem : t.mem = s.mem
  regions : t.regions = s.regions
  out : t.out = s.out
  stage : t.links[l].stage = s.links[l].stage
  backlog : t.links[l].backlog = s.links[l].backlog

theorem Notes.noteStage (s : State) (f : Flit) (y : StageCheck) : Notes s (s.noteStage f y) (tlinkOf f) := by
  unfold State.noteStage
  split
  · exact ⟨rfl, rfl, rfl, rfl, rfl, rfl⟩
  · exact ⟨rfl, rfl, rfl, rfl, by rw [State.modLink_at], by rw [State.modLink_at]⟩

theorem Notes.used {s t : State} {l : Lnk} (h : Notes s t l) : t.stageUsed l = s.stageUsed l := by
  unfold State.stageUsed
  rw [h.stage, h.regions]

/-- Whether a flit that arrives is staged. -/
theorem Notes.room_iff {s t : State} {l : Lnk} (h : Notes s t l) :
    (t.links[l].backlog.isEmpty && decide (t.stageUsed l < 16384)) = true ↔
      s.links[l].backlog = [] ∧ s.stageUsed l < 16384 := by
  rw [h.backlog, h.used, Bool.and_eq_true, List.isEmpty_iff, decide_eq_true_iff]

/-- What is noted of a flit is found, when nothing was noted of it before. -/
theorem State.stageCheck_noteStage {s : State} {f : Flit} (hnew : ∀ b ∈ s.links[tlinkOf f].stageBad, b.1 ≠ f) (y : StageCheck) :
    (s.noteStage f y).stageCheck (tlinkOf f) f = y := by
  have hnone : s.links[tlinkOf f].stageBad.find? (fun b => b.1 == f) = none :=
    List.find?_eq_none.2 fun b hb => by simpa using hnew b hb
  unfold State.noteStage State.stageCheck
  split
  case isTrue hgood => rw [hnone, hgood]; rfl
  case isFalse =>
    rw [State.modLink_at]
    dsimp only
    rw [List.find?_append, hnone]
    simp

/-- A flit in the staging of a link. -/
def State.stageFlit (s : State) (l : Lnk) (f : Flit) : State :=
  (s.modLink l (fun x => { x with stage := x.stage ++ [f] })).stageLevel l

section
variable (s : State) (l : Lnk) (f : Flit)

theorem State.stageLevel_only : OnlyRegs s (s.stageLevel l) := (OnlyRegs.put ..).trans (.put ..)

theorem State.stageFlit_stage : (s.stageFlit l f).links[l].stage = s.links[l].stage ++ [f] := by
  rw [State.stageFlit, (State.stageLevel_only ..).links, State.modLink_at]

theorem State.stageCheck_stageFlit (g : Flit) : (s.stageFlit l f).stageCheck l g = s.stageCheck l g := by
  unfold State.stageCheck
  rw [State.stageFlit, (State.stageLevel_only ..).links, State.modLink_at]

theorem State.get_stageLevel : (s.stageLevel l).get LNK_ADD_STAGE_LVL.LEVEL l =
    s.stageUsed l % 2 ^ LNK_ADD_STAGE_LVL.LEVEL.width := by
  unfold State.stageLevel
  rw [State.get_put_link _ _ (by decide), State.get_put_self]

/-- LEVEL counts the slot. -/
theorem State.get_stageFlit : (s.stageFlit l f).get LNK_ADD_STAGE_LVL.LEVEL l =
    (s.stageUsed l + 1) % 2 ^ LNK_ADD_STAGE_LVL.LEVEL.width := by
  have hused : (s.modLink l (fun x => { x with stage := x.stage ++ [f] })).stageUsed l = s.stageUsed l + 1 := by
    unfold State.stageUsed
    rw [State.modLink_at, List.length_append, List.length_singleton, Nat.add_right_comm]
    rfl
  rw [State.stageFlit, State.get_stageLevel, hused]

theorem Uses.stageFlit : Uses s (s.stageFlit l f) := (Sends.modLink ..).uses.trans (.stageLevel ..)

end

/-! ### The row (R246, R302) -/

section
variable {s : State} {l k : Lnk} {f : Flit} {i : Instr} {y : StageCheck}

/-- A COLLECTIVE flit for this module, or a DONE, arrives. -/
theorem exec_arrival (hi : i = .collective l f y ∨ i = .done l f ∧ y = .good ∧ (collHdr f).op = opDone)
    (hstart : s.complete = true) : exec i s = .next (s.collArrive l f 512 y) := by
  obtain rfl | ⟨rfl, rfl, hdone⟩ := hi
  · exact congrArg Host.Outcome.next (State.started_of_complete hstart l _)
  · exact congrArg Host.Outcome.next ((State.started_of_complete hstart l _).trans (if_pos hdone))

theorem State.collArrive_staged (hres : collReserved f = false) (hk : k.val = (collHdr f).tlink % 32) :
    s.collArrive l f 512 y = s.collective 512 f y ∧ tlinkOf f = k := by
  refine ⟨?_, Fin.ext hk.symm⟩
  unfold State.collArrive
  rw [hres]
  rfl

theorem State.collective_torn (htorn : s.torn f.hdr.tag.toNat = true) :
    s.collective 512 f y = s.discardTorn f.hdr.tag.toNat := by
  unfold State.collective
  dsimp only
  rw [if_pos htorn, State.returnCredit_none]

section
variable {u : State} (htorn : s.torn f.hdr.tag.toNat = false) (hk : tlinkOf f = k)
  (hu : u = if s.links[k].backlog = [] then s else s.rescanAll k)
include htorn hk hu

/-- The flit after what waited before it. -/
theorem State.collective_form : s.collective 512 f y =
    match (u.noteStage f (onArrival y)).takeDirect k f with
    | some v => ((v.answerLast k f).rescanAll k).stageLevel k
    | none =>
      let z := u.noteStage f y
      if z.links[k].backlog.isEmpty && decide (z.stageUsed k < 16384) then (z.stageFlit k f).answerLast k f
      else z.modLink k (fun x => { x with backlog := x.backlog ++ [(512, f)] }) := by
  subst hk hu
  unfold State.collective
  simp only [htorn, State.returnCredit_none, List.isEmpty_iff]
  rfl

end

end

/-! ### The answer to a last flit (R275) -/

theorem State.answerLast_of_not {s : State} {l : Lnk} {f : Flit}
    (h : ¬ (f.hdr.last = true ∧ ((collHdr f).op = opSend ∨ (collHdr f).op = opAddFwd))) : s.answerLast l f = s := by
  unfold State.answerLast
  exact if_neg (by simpa using h)

theorem State.answerLast_of_other {s : State} {l : Lnk} {f : Flit} (hlast : f.hdr.last = true)
    (hop : (collHdr f).op = opSend ∨ (collHdr f).op = opAddFwd) (hsrc : f.hdr.src.toNat ≠ s.addr) :
    s.answerLast l f = s.send (linkRegion l) (s.doneFlit f ((collHdr f).rank % 32) l.val) := by
  unfold State.answerLast
  exact (if_pos (by simpa [hlast] using hop)).trans (if_neg (by simpa using hsrc))

/-- DONE asks no peer for memory. -/
theorem Moves.sendDone (s : State) (r : Rgn) (f : Flit) (tlink rank : Nat) : Moves s (s.send r (s.doneFlit f tlink rank)) := by
  have htype : (s.doneFlit f tlink rank).hdr.type.toNat = ftCollective := rfl
  exact .send s r (by rw [htype]; decide)

/-! ### A flit that no command can use (R257-R260) -/

section
variable {s u : State} {l k : Lnk} {f : Flit} {i : Instr} {y : StageCheck}
  (hexec : exec i s = .next (s.collective 512 f y)) (htorn : s.torn f.hdr.tag.toNat = false) (hk : tlinkOf f = k)
  (hu : u = if s.links[k].backlog = [] then s else s.rescanAll k)
include hu

/-- The flits that waited before it move neither memory nor the address. -/
theorem Uses.waited : Uses s u := by
  rw [hu]
  exact .ite (.refl s) (.rescanAll ..)

include hexec htorn hk

section
variable (hnone : (u.noteStage f (onArrival y)).takeDirect k f = none)
include hnone

/-- There is a free slot, and nothing waits for it. -/
theorem exec_staged (hempty : u.links[k].backlog = []) (hfree : u.stageUsed k < 16384) :
    exec i s = .next (((u.noteStage f y).stageFlit k f).answerLast k f) := by
  have hnote := Notes.noteStage u f y
  rw [hk] at hnote
  rw [hexec, State.collective_form htorn hk hu, hnone]
  exact congrArg Host.Outcome.next (if_pos (hnote.room_iff.2 ⟨hempty, hfree⟩))

theorem exec_waits (hfull : u.links[k].backlog ≠ [] ∨ 16384 ≤ u.stageUsed k) : exec i s =
    .next ((u.noteStage f y).modLink k (fun x => { x with backlog := x.backlog ++ [(512, f)] })) := by
  have hnote := Notes.noteStage u f y
  rw [hk] at hnote
  have hblocked : ¬ (u.links[k].backlog = [] ∧ u.stageUsed k < 16384) := fun ⟨hempty, hfree⟩ =>
    hfull.elim (· hempty) (Nat.not_le_of_lt hfree)
  rw [hexec, State.collective_form htorn hk hu, hnone]
  exact congrArg Host.Outcome.next (if_neg (mt hnote.room_iff.1 hblocked))

/-- A flit that is staged and not answered. -/
theorem completes_staged (hempty : u.links[k].backlog = []) (hfree : u.stageUsed k < 16384)
    (hopen : ¬ (f.hdr.last = true ∧ ((collHdr f).op = opSend ∨ (collHdr f).op = opAddFwd))) : Completes i s (fun t =>
      t.links[k].stage = u.links[k].stage ++ [f] ∧
      t.get LNK_ADD_STAGE_LVL.LEVEL k = (u.stageUsed k + 1) % 2 ^ LNK_ADD_STAGE_LVL.LEVEL.width ∧
      ((∀ b ∈ u.links[k].stageBad, b.1 ≠ f) → t.stageCheck k f = y) ∧ t.mem = u.mem ∧ t.regions = u.regions ∧
      t.out = u.out) := by
  have hstaged := exec_staged hexec htorn hk hu hnone hempty hfree
  rw [State.answerLast_of_not hopen] at hstaged
  subst hk
  have hnote := Notes.noteStage u f y
  have honly := State.stageLevel_only ((u.noteStage f y).modLink (tlinkOf f) (fun x => { x with stage := x.stage ++ [f] }))
    (tlinkOf f)
  refine ⟨_, hstaged, by rw [State.stageFlit_stage, hnote.stage], ?_, fun hnew => ?_, honly.mem.trans hnote.mem,
    honly.regions.trans hnote.regions, honly.out.trans hnote.out⟩
  · rw [State.get_stageFlit, hnote.used]
  · rw [State.stageCheck_stageFlit, State.stageCheck_noteStage hnew]

/-- A flit that is staged and answered with DONE. -/
theorem completes_staged_last (hempty : u.links[k].backlog = []) (hfree : u.stageUsed k < 16384) (hlast : f.hdr.last = true)
    (hop : (collHdr f).op = opSend ∨ (collHdr f).op = opAddFwd) (hsrc : f.hdr.src.toNat ≠ s.addr) : Completes i s (fun t =>
      t.links[k].stage = u.links[k].stage ++ [f] ∧ t.mem = u.mem ∧ t.regions = u.regions) := by
  have hstaged := exec_staged hexec htorn hk hu hnone hempty hfree
  subst hk
  have hnote := Notes.noteStage u f y
  have huses := (Uses.waited hu).trans (Uses.trans ⟨hnote.mem, State.get_of_regs hnote.regs ..⟩ (Uses.stageFlit _ (tlinkOf f) f))
  rw [State.answerLast_of_other hlast hop (by rwa [huses.addr])] at hstaged
  have honly := State.stageLevel_only ((u.noteStage f y).modLink (tlinkOf f) (fun x => { x with stage := x.stage ++ [f] }))
    (tlinkOf f)
  have hsent := Moves.sendDone ((u.noteStage f y).stageFlit (tlinkOf f) f) (linkRegion (tlinkOf f)) f
    ((collHdr f).rank % 32) (tlinkOf f).val
  have hstill := congrArg Link.stage (hsent.still (tlinkOf f))
  refine ⟨_, hstaged, hstill.trans ?_, hsent.mem.trans (honly.mem.trans hnote.mem),
    hsent.regions.trans (honly.regions.trans hnote.regions)⟩
  rw [← hnote.stage]
  exact State.stageFlit_stage ..

/-- A flit that waits for a slot. -/
theorem completes_waits (hfull : u.links[k].backlog ≠ [] ∨ 16384 ≤ u.stageUsed k) : Completes i s (fun t =>
      t.links[k].stage = u.links[k].stage ∧ t.links[k].backlog = u.links[k].backlog ++ [(512, f)] ∧ t.regs = u.regs ∧
      t.mem = u.mem ∧ t.regions = u.regions ∧ t.out = u.out) := by
  have hwaits := exec_waits hexec htorn hk hu hnone hfull
  subst hk
  have hnote := Notes.noteStage u f y
  refine ⟨_, hwaits, ?_, ?_, hnote.regs, hnote.mem, hnote.regions, hnote.out⟩
  · rw [State.modLink_at]
    exact hnote.stage
  · rw [State.modLink_at, ← hnote.backlog]

end

/-- A flit that is used at once (R258). -/
theorem completes_used {v : State} (hsome : (u.noteStage f (onArrival y)).takeDirect k f = some v) : Completes i s (fun t =>
      t = ((v.answerLast k f).rescanAll k).stageLevel k ∧ t.mem = s.mem) := by
  rw [State.collective_form htorn hk hu, hsome] at hexec
  have hnote := Notes.noteStage u f (onArrival y)
  have huses := (((Uses.waited hu).trans ⟨hnote.mem, State.get_of_regs hnote.regs ..⟩).trans (Uses.takeDirect hsome)).trans
    (((Uses.answerLast v k f).trans (.rescanAll _ k)).trans (.stageLevel _ k))
  exact ⟨_, hexec, rfl, huses.mem⟩

end

/-- An uncorrectable word of a parked flit counts when its slot is free again (R260). -/
theorem State.get_freeBad {s : State} {l : Lnk} {f : Flit} {w : Fin 30} (h : s.stageCheck l f = .flit w) :
    (s.freeBad l f).get LNK_COLL_ERR.STAGE_UNCORR l =
      min LNK_COLL_ERR.STAGE_UNCORR.max (s.get LNK_COLL_ERR.STAGE_UNCORR l + 1) := by
  unfold State.stageCheck at h
  unfold State.freeBad
  cases hfind : s.links[l].stageBad.find? (fun b => b.1 == f) with
  | none =>
    rw [hfind] at h
    cases h
  | some b =>
    rw [hfind] at h
    have hword : b.2 = .flit w := h
    dsimp only
    rw [hword, State.get_modLink]
    exact State.get_bump_self s LNK_COLL_ERR.STAGE_UNCORR 1 l 0 0

/-- Settles O37: a flit that arrives is the row of its own after what waited before it; what notes, stages and uses flits
keeps memory, and the answer to a last flit keeps the staging too. -/
theorem collectiveFlitIsStaged : Obligations.CollectiveFlitIsStaged := by
  unfold Obligations.CollectiveFlitIsStaged
  refine ⟨fun s u l k f i y hi hstart hres hk => ?arrives, fun s l f y => ⟨fun hstart hop => ?other, fun hstart hres => ?reserved,
    fun hstart i hi => ?early, fun w => State.get_freeBad⟩⟩
  case arrives =>
    obtain ⟨harrive, htlink⟩ := State.collArrive_staged (s := s) (y := y) hres hk
    have hexec := exec_arrival hi hstart
    rw [harrive] at hexec
    exact ⟨fun htorn => hexec.trans (congrArg Host.Outcome.next (State.collective_torn htorn)), fun htorn hu =>
      ⟨completes_staged hexec htorn htlink hu, completes_staged_last hexec htorn htlink hu,
        completes_waits hexec htorn htlink hu, fun v => completes_used hexec htorn htlink hu⟩⟩
  case other => exact congrArg Host.Outcome.next ((State.started_of_complete hstart l _).trans (if_neg hop))
  case reserved =>
    refine congrArg Host.Outcome.next ((State.started_of_complete hstart l _).trans ?_)
    exact (if_pos hres).trans (State.returnCredit_none _)
  case early =>
    obtain rfl | rfl := hi
    · exact completes_before_start rfl hstart
    · exact completes_before_start rfl hstart

end Sys2Proof.Machine
end

section
/-!
The flash-bus pin and the TAP (R288, R375, R376), and the settlement of O57. An instruction that the TAP executes is a change of
the hub's instruction and then what it scans out; a scan only sends a value, and counts a bad access where the debug lock hides
the register.
-/
namespace Sys2Proof.Machine

/-! ### What a scan leaves -/

/-- What an instruction of the TAP leaves alone while it scans out. -/
structure Scans (s t : State) : Prop where
  hub : t.hub = s.hub
  mem : t.mem = s.mem
  regions : t.regions = s.regions
  regs : SameRegs s t [HUB_BAD_ACCESS_CNT.COUNT]

theorem Scans.refl (s : State) : Scans s s := ⟨rfl, rfl, rfl, .refl s _⟩

theorem Scans.emit {s t : State} (h : Scans s t) (o : Out) : Scans s (t.emit o) := ⟨h.hub, h.mem, h.regions, h.regs⟩

theorem Scans.nextTicket {s t : State} (h : Scans s t) : Scans s t.nextTicket := ⟨h.hub, h.mem, h.regions, h.regs⟩

theorem Scans.badAccess (s : State) : Scans s s.badAccess :=
  ⟨(OnlyRegs.badAccess s).hub, (OnlyRegs.badAccess s).mem, (OnlyRegs.badAccess s).regions, .badAccess s⟩

theorem Scans.scanSram (s : State) (a : Nat) : Scans s (s.scanSram a) := by
  unfold State.scanSram
  dsimp only
  split
  · exact (Scans.refl s).emit _
  · exact ((Scans.refl s).emit _).nextTicket

theorem Scans.scanReg (s : State) (off : Nat) : Scans s (s.scanReg off) := by
  unfold State.scanReg
  split
  · split
    · exact (Scans.badAccess s).emit _
    · exact (Scans.refl s).emit _
  · exact ((Scans.refl s).emit _).nextTicket

/-! ### What a scan shows (R288) -/

section
variable {s : State}

theorem State.scanReg_shown {off i j k : Nat} {row : RegRow} (hreg : findReg off = some (row, i, j, k))
    (hshown : s.lockHides .jtag row.base i = false) :
    s.scanReg off = s.emit (.tap (BitVec.ofNat 64 (s.word row i j k))) := by
  simp [State.scanReg, hreg, hshown]

theorem State.scanReg_hidden {off i j k : Nat} {row : RegRow} (hreg : findReg off = some (row, i, j, k))
    (hhidden : s.lockHides .jtag row.base i = true) : s.scanReg off = s.badAccess.emit (.tap 0) := by
  simp [State.scanReg, hreg, hhidden]

/-- The SRAM of a region is the one that its addresses name (Table 4.1). -/
theorem State.scanSram_region {a : Nat} {r : Rgn} (hlo : sramBase r ≤ a) (hhi : a < sramBase r + 0x10000000) :
    s.scanSram a = s.emit (.tap (if s.regionLocked r then 0 else BitVec.ofNat 64 (s.num a 8))) := by
  unfold sramBase at hlo hhi
  have hregion : (a - 0x200000000000) / 0x10000000 = r.val := by omega
  unfold State.scanSram State.regionLocked
  dsimp only
  rw [dif_pos ⟨by omega, by omega⟩, dif_pos r.isLt]
  simp only [hregion]

end

/-! ### The instructions (R376) -/

/-- The TAP holds an instruction. -/
def State.atTap (s : State) (i : JtagInstr) : State := s.modHub (fun h => { h with jtag := i })

/-- The instructions that the TAP executes always (R376). -/
def tapAlways : List JtagInstr := [.bypass, .idcode, .samplePreload]

theorem State.jtag_closed {s : State} {i : JtagInstr} (hi : i ∉ tapAlways) (hclosed : s.tapOpen = false) :
    s.jtag i = s.atTap .bypass := by
  cases i
  case bypass | idcode | samplePreload => exact absurd (by decide) hi
  all_goals exact if_neg (Bool.eq_false_iff.1 hclosed)

theorem State.jtag_scanReg {s : State} (hopen : s.tapOpen = true) (o : Word32) :
    s.jtag (.scanReg o) = (s.atTap (.scanReg o)).scanReg o.toNat := if_pos hopen

theorem State.jtag_scanSram {s : State} (hopen : s.tapOpen = true) (a : Word64) :
    s.jtag (.scanSram a) = (s.atTap (.scanSram a)).scanSram a.toNat := if_pos hopen

/-- An instruction that the TAP executes scans from the state with the instruction in it. -/
theorem State.scans_jtag {s : State} {i : JtagInstr} (h : i ∈ tapAlways ∨ s.tapOpen = true) : Scans (s.atTap i) (s.jtag i) := by
  have hopen (hi : i ∉ tapAlways) : s.tapOpen = true := h.resolve_left hi
  cases i with
  | bypass | samplePreload => exact .refl _
  | idcode => exact ((Scans.refl _).emit _).nextTicket
  | extest | extestPulse | extestTrain => exact (if_pos (hopen (by decide)) : _ = s.atTap _) ▸ .refl _
  | scanReg o => exact State.jtag_scanReg (hopen (by simp [tapAlways])) o ▸ .scanReg ..
  | scanSram a => exact State.jtag_scanSram (hopen (by simp [tapAlways])) a ▸ .scanSram ..

/-- Settles O57: an instruction runs or is BYPASS, and what a scan shows does not depend on the instruction in the TAP. -/
theorem pinsAndTap : Obligations.PinsAndTap := by
  unfold Obligations.PinsAndTap
  intro s
  refine ⟨rfl, rfl, fun i hi hclosed => ?closed, fun i h => ?runs, fun o row i j k hopen hreg =>
    ⟨fun hshown => ?shown, fun hhidden => ?hidden⟩, fun a r hopen hlo hhi => ?sram⟩
  case closed => exact congrArg Host.Outcome.next (State.jtag_closed hi hclosed)
  case runs =>
    obtain ⟨hhub, hmem, hregions, hregs⟩ := State.scans_jtag h
    exact ⟨_, rfl, congrArg Hub.jtag hhub, hmem, hregions, hregs⟩
  case shown =>
    exact ⟨_, congrArg Host.Outcome.next ((State.jtag_scanReg hopen o).trans (State.scanReg_shown hreg hshown)), rfl, rfl⟩
  case hidden =>
    exact ⟨_, congrArg Host.Outcome.next ((State.jtag_scanReg hopen o).trans (State.scanReg_hidden hreg hhidden)), rfl,
      State.get_badAccess _⟩
  case sram =>
    exact ⟨_, congrArg Host.Outcome.next ((State.jtag_scanSram hopen a).trans (State.scanSram_region hlo hhi)), rfl, rfl⟩

end Sys2Proof.Machine
end

section
/-!
The begin of a teardown (R299, R300, R303): what it writes of the register fields. The cause and the period are noted first;
what follows writes fields of the regions, of their stacks and of the links, and none of the partition.
-/
namespace Sys2Proof.Machine

/-! ### Register fields -/

section
variable (s : State)

theorem State.get_put_part {f g : Fld} (h : f.home ≠ g.home) (v : Nat) (p : Prt) : (s.put g v p).get f p = s.get f p :=
  State.get_put_of_home_ne s h v (by omega) (by decide)

theorem SameRegs.put_part (f : Fld) (v : Nat) (p : Prt) : SameRegs s (s.put f v p) [f] :=
  .put s f v (by omega) (by decide) (by decide)

end

theorem kget_filter {keep : Nat × Nat → Bool} {k : Nat} (h : ∀ v, keep (k, v) = true) (m : KMap) (d : Nat) :
    kget (m.filter keep) k d = kget m k d := by
  induction m with
  | nil => rfl
  | cons x m ih =>
    obtain ⟨a, v⟩ := x
    by_cases hkeep : keep (a, v) = true
    · rw [List.filter_cons_of_pos hkeep, kget, kget, ih]
    · have hne : ¬ k = a := fun hka => hkeep (hka ▸ h v)
      rw [List.filter_cons_of_neg hkeep, ih, kget, if_neg hne]

theorem SameRegs.clearAt (s : State) (f : Fld) (n : Nat) : SameRegs s (s.clearAt f n) [f] := fun g i j k hi hj hk hg =>
  kget_filter (fun _ => by simp [keyHome_key g hi hj hk, hg f (by simp)]) ..

theorem SameRegs.of_regs {s t : State} (h : t.regs = s.regs) (changed : List Fld) : SameRegs s t changed :=
  fun _ _ _ _ _ _ _ _ => State.get_of_regs h ..

theorem SameRegs.modRegion {s t : State} {changed : List Fld} (h : SameRegs s t changed) (r : Rgn) (g : Region → Region) :
    SameRegs s (t.modRegion r g) changed := h

theorem SameRegs.modHub {s t : State} {changed : List Fld} (h : SameRegs s t changed) (g : Hub → Hub) :
    SameRegs s (t.modHub g) changed := h

theorem SameRegs.foldl_each {α : Type} {f : State → α → State} {changed : List Fld}
    (hf : ∀ s a, SameRegs s (f s a) changed) (l : List α) (s : State) : SameRegs s (l.foldl f s) changed :=
  List.foldlRecOn (motive := (SameRegs s · changed)) l _ (.refl s _) fun t ht a _ => ht.trans (hf t a)

/-! ### The parts of a teardown (R300) -/

/-- The registers that a teardown writes after it has noted its cause. -/
def tearFields : List Fld :=
  [RGN_SEQ_KILL.KILLED, SU_STAT.CLAIMED, SE_STAT.INFLIGHT, LNK_ADD_STAGE_LVL.INFLIGHT, SE_BUF1.DRAIN_PEND, SE_ERR.FAILED,
   RGN_DESC.WORD, RGN_TOK.VALUE, RGN_TOK.LINK, LNK_ADD_STAGE_LVL.LEVEL]

theorem stackOf_lt (r : Rgn) (e : Entry) : stackOf r e.eng < 65536 := by
  have heng : e.eng < 64 := e.cmd.engine.isLt
  unfold stackOf
  omega

theorem SameRegs.abandonDrain (s : State) (r : Rgn) (e : Entry) : SameRegs s (s.abandonDrain r e) [SE_BUF1.DRAIN_PEND] := by
  have hpair : bitsAt e.cmd.w4 0 6 < 65536 := Nat.lt_trans (Nat.mod_lt _ (by decide)) (by decide)
  exact .ite (.put s _ _ (stackOf_lt r e) hpair (by decide)) (.refl s _)

theorem SameRegs.countFailed (s : State) (r : Rgn) (e : Entry) :
    SameRegs s (if e.cmd.op = 0x74 then s.bump SE_ERR.FAILED 1 (stackOf r e.eng) else s) [SE_ERR.FAILED] :=
  .ite (.bump s _ _ (stackOf_lt r e) (by decide) (by decide)) (.refl s _)

theorem SameRegs.undefineAll (s : State) (xs : List Extent) (changed : List Fld) : SameRegs s (s.undefineAll xs) changed :=
  .of_regs (s.undefineAll_regs xs) _

theorem SameRegs.tearRegion (s : State) (r : Rgn) : SameRegs s (s.tearRegion r) tearFields := by
  have killed := (SameRegs.killWhere s r fun _ => true).mono (d := tearFields) (by simp [queueFields, tearFields])
  have abandoned (t : State) (gone : List Entry) : SameRegs t (gone.foldl (fun s e => s.abandonDrain r e) t) tearFields :=
    .foldl_each (fun t e => (SameRegs.abandonDrain t r e).mono (by simp [tearFields])) gone t
  have counted (t : State) (gone : List Entry) : SameRegs t (gone.foldl (fun s e =>
      if e.cmd.op = 0x74 then s.bump SE_ERR.FAILED 1 (stackOf r e.eng) else s) t) tearFields :=
    .foldl_each (fun t e => (SameRegs.countFailed t r e).mono (by simp [tearFields])) gone t
  have emptied (t : State) (q : List Entry) : SameRegs t (t.setCmds r q) tearFields :=
    (SameRegs.setCmds t r q).mono (by simp [tearFields])
  have cleared (t : State) {f : Fld} (hf : f ∈ tearFields) : SameRegs t (t.clearAt f r) tearFields :=
    (SameRegs.clearAt t f r).mono (by simpa using hf)
  unfold State.tearRegion
  dsimp only
  refine .trans (.trans (.trans (.modRegion ?_ r _) (cleared _ ?_)) (cleared _ ?_)) (cleared _ ?_)
  · exact .trans (.trans (.trans (.trans killed (abandoned _ _)) (counted _ _)) (.undefineAll _ _ _)) (emptied _ _)
  all_goals simp [tearFields]

theorem SameRegs.dropTag (s : State) (tag : Nat) : SameRegs s (s.dropTag tag) tearFields := by
  unfold State.dropTag
  refine .foldl_each (fun t l => ?_) _ s
  have credited (u : State) (q : List (Nat × Flit)) : (q.foldl (fun s b => s.returnCredit b.1) u).regs = u.regs :=
    (Moves.foldl (fun s b => .returnCredit s b.1) q u).regs
  have levelled (u : State) (v : Nat) : SameRegs u (u.put LNK_ADD_STAGE_LVL.LEVEL v l) tearFields :=
    (SameRegs.put u _ v (by omega) (by decide) (by decide)).mono (by simp [tearFields])
  dsimp only
  refine .trans ?_ (levelled _ _)
  exact .of_regs (credited _ _) _

/-! ### The whole -/

/-- A save or a restore under way is abandoned (R298). -/
def State.abandonSave (s : State) (p : Prt) : State :=
  if s.partState p == psSaving || s.partState p == psRestoring then
    (s.modPart p (fun x => { x with image := [], restored := false, resuming := false })).put PROC_PART_CFG.SAVED 0 p
  else s

/-- A teardown notes its cause and its period (R299). -/
def State.noteTeardown (s : State) (p : Prt) (cause : Nat) : State :=
  let s := ((s.put PROC_PART_CFG.STATE psTearing p).put PROC_PART_CFG.TEARDOWN 0 p).put PROC_TEAR_STAT.CAUSE cause p
  (s.put PROC_TEAR_STAT.PERIOD s.period p).bump PROC_TEAR_CNT.TEARDOWNS 1 p

/-- A teardown of a job notes its cause and writes fields of the regions, their stacks and the links (R299, R300). -/
theorem SameRegs.beginTeardown {s : State} {p : Prt} (hjob : s.partState p ≠ psEmpty) (hfirst : s.partState p ≠ psTearing)
    (cause : Nat) : SameRegs ((s.abandonSave p).noteTeardown p cause) (s.beginTeardown p cause) tearFields := by
  have torn (t : State) (rs : List Rgn) (tag : Nat) :
      SameRegs t ((rs.foldl (fun s r => s.tearRegion r) t).dropTag tag) tearFields :=
    (SameRegs.foldl_each .tearRegion rs t).trans (.dropTag _ tag)
  unfold State.beginTeardown
  rw [if_neg (by simp [hjob, hfirst])]
  unfold State.noteTeardown State.abandonSave
  dsimp only
  refine .ite (.trans ?_ (.foldl_each ?notice _ _)) ?_
  case notice => exact fun t _ => .of_regs rfl _
  all_goals exact .modHub (torn _ _ _) _

theorem State.get_noteTeardown (u : State) (p : Prt) (cause : Nat) :
    (u.noteTeardown p cause).partState p = psTearing ∧ (u.noteTeardown p cause).get PROC_TEAR_STAT.CAUSE p = cause % 16 := by
  unfold State.noteTeardown State.partState State.bump
  dsimp only
  constructor
  · rw [State.get_put_part _ (by decide), State.get_put_part _ (by decide), State.get_put_part _ (by decide),
      State.get_put_part _ (by decide)]
    exact State.get_put_self ..
  · rw [State.get_put_part _ (by decide), State.get_put_part _ (by decide)]
    exact State.get_put_self ..

theorem State.get_beginTeardown {s : State} {p : Prt} (hjob : s.partState p ≠ psEmpty) (hfirst : s.partState p ≠ psTearing)
    {cause : Nat} (hcause : cause < 16) : (s.beginTeardown p cause).partState p = psTearing ∧
    (s.beginTeardown p cause).get PROC_TEAR_STAT.CAUSE p = cause := by
  have hregs := SameRegs.beginTeardown hjob hfirst cause
  obtain ⟨hstate, hnoted⟩ := (s.abandonSave p).get_noteTeardown p cause
  exact ⟨(hregs.partState (by decide) p).trans hstate, (hregs _ _ _ _ (by omega) (by decide) (by decide) (by decide)).trans
    (hnoted.trans (Nat.mod_eq_of_lt hcause))⟩

end Sys2Proof.Machine
end

section
/-!
Pre-emption and resume (R293-R298), and the settlement of O41. The stop, the save, the resume and the restore are each a pass
over the regions of the partition; a pass in which every element acts on what is its own is settled element by element. That the
context is held apart from memory, and the save granules are left undefined, is the model's choice (log entry 14).
-/
namespace Sys2Proof.Machine

/-! ### A pass over elements that do not meddle with each other -/

/-- If each element, where what is its own is still as `Before` says, makes it as `After` says, and leaves what is another's, then
a pass makes all as `After` says. -/
theorem foldl_each {α β : Type} {f : β → α → β} {apart : α → α → Prop} {Before After : α → β → Prop}
    (hact : ∀ t a, Before a t → After a (f t a)) (hbefore : ∀ t a b, apart a b → Before b t → Before b (f t a))
    (hafter : ∀ t a b, apart a b → After a t → After a (f t b)) {l : List α} (hl : l.Pairwise apart) {s : β}
    (hs : ∀ a ∈ l, Before a s) : ∀ a ∈ l, After a (l.foldl f s) := by
  induction hl generalizing s with
  | nil => simp
  | @cons a l ha _ ih =>
    intro b hb
    rw [List.foldl_cons]
    obtain rfl | hb := List.mem_cons.1 hb
    · exact List.foldlRecOn (motive := After b) l f (hact s b (hs b List.mem_cons_self)) fun t ht c hc =>
        hafter t b c (ha c hc) ht
    · exact ih (fun c hc => hbefore s a c (ha c hc) (hs c (List.mem_cons_of_mem a hc))) b hb

theorem State.regionsOf_pairwise (s : State) (p : Prt) : (s.regionsOf p).Pairwise (· ≠ ·) := allRegions_nodup.filter _

/-! ### STATE of a sequencer, and a request that is refused -/

section
variable (s : State)

theorem SameRegs.setSeq (r : Rgn) (v : Nat) : SameRegs s (s.setSeq r v) [RGN_SEQ_STAT.STATE] :=
  .put s _ v (by omega) (by decide) (by decide)

theorem State.seqState_setSeq (r : Rgn) (v : Nat) : (s.setSeq r v).seqState r = v % 8 := State.get_put_self ..

theorem State.seqState_setSeq_ne {r q : Rgn} (h : q ≠ r) (v : Nat) : (s.setSeq r v).seqState q = s.seqState q :=
  State.get_put_ne _ _ _ _ _ _ _ _ _ _ (Fld.key_ne_ix _ _ _ _ _ _ _ (by omega) (by decide) (by decide) (by omega) (by decide)
    (by decide) (.inl fun hval => h (Fin.ext hval)))

/-- A request that is refused sets REFUSED and clears itself (R293, R297). -/
theorem State.refused_spec {f : Fld} (hf : PROC_PREEMPT.REFUSED.home ≠ f.home) (p : Prt) {t : State}
    (ht : t = (s.put PROC_PREEMPT.REFUSED 1 p).put f 0 p) : t.get PROC_PREEMPT.REFUSED p = 1 ∧ t.get f p = 0 ∧
      SameRegs s t [PROC_PREEMPT.REFUSED, f] ∧ OnlyRegs s t := by
  subst ht
  refine ⟨(State.get_put_part _ hf 0 p).trans (State.get_put_self ..), (State.get_put_self ..).trans (Nat.zero_mod _),
    .trans (.mono (.put_part s _ 1 p) ?_) (.mono (.put_part _ f 0 p) ?_), (OnlyRegs.put ..).trans (.put ..)⟩
  all_goals simp

end

/-! ### A request (R293) -/

section
variable {s : State} {p : Prt}

theorem State.preemptReq_refused (h : s.partState p ≠ psRunning ∨ (∃ r ∈ s.regionsOf p, s.saveGranuleOk p r = false) ∨
    (s.get PROC_PREEMPT.MODE p = 0 ∧ s.get PROC_PREEMPT.AT p ≤ s.period)) :
    s.preemptReq p = (s.put PROC_PREEMPT.REFUSED 1 p).put PROC_PREEMPT.REQ 0 p :=
  if_pos (by simpa [or_assoc] using h)

theorem State.preemptReq_later (hrun : s.partState p = psRunning) (hsave : ∀ r ∈ s.regionsOf p, s.saveGranuleOk p r = true)
    (hmode : s.get PROC_PREEMPT.MODE p = 0) (hat : s.period < s.get PROC_PREEMPT.AT p) :
    s.preemptReq p = s.put PROC_PREEMPT.REQ 1 p :=
  (if_neg (by simpa [hrun, hmode] using ⟨hsave, hat⟩)).trans (if_pos (by simp [hmode]))

theorem State.preemptReq_atOnce (hrun : s.partState p = psRunning) (hsave : ∀ r ∈ s.regionsOf p, s.saveGranuleOk p r = true)
    (hmode : s.get PROC_PREEMPT.MODE p ≠ 0) : s.preemptReq p = s.stopPart p :=
  (if_neg (by simpa [hrun, hmode] using hsave)).trans (if_neg (by simp [hmode]))

end

/-! ### The stop (R294) -/

theorem State.killWhere_region (s : State) (r : Rgn) (f : Entry → Bool) : (s.killWhere r f).regions[r] =
    { s.regions[r] with
      cmds := s.regions[r].cmds.map (fun e => if e.issued && e.cmd.killable && f e then e.killed else e) } := by
  unfold State.killWhere
  rw [State.setCmds_region, State.bump_regions, State.undefineAll_regions]

/-- The stop of one region. -/
def State.stopRegion (s : State) (r : Rgn) : State :=
  ((s.modRegion r (fun g => { g with savedSeq := s.seqState r })).setSeq r sqPreempted).killAll r

/-- What the stop of a region leaves, from STATE of its sequencer before it. -/
structure Stopped (q : Nat) (t : State) (r : Rgn) : Prop where
  seq : t.seqState r = sqPreempted
  saved : t.regions[r].savedSeq = q
  killed : ∀ e ∈ t.regions[r].cmds, e.cmd.killable = true → e.issued = false

section
variable (s : State) (p : Prt) {r q : Rgn}

theorem State.stopRegion_stopped (r : Rgn) : Stopped (s.seqState r) (s.stopRegion r) r := by
  unfold State.stopRegion State.killAll
  refine ⟨?seq, ?saved, ?killed⟩
  case seq =>
    refine (SameRegs.killWhere _ r _ _ _ _ _ (by omega) (by decide) (by decide) (by decide)).trans ?_
    exact State.seqState_setSeq ..
  case saved => rw [State.killWhere_region, State.setSeq, State.put_regions, State.modRegion_at]
  case killed =>
    intro e he hkill
    rw [State.killWhere_region] at he
    obtain ⟨y, -, rfl⟩ := List.mem_map.1 he
    split
    case isTrue => rfl
    case isFalse h => simp_all

theorem State.stopRegion_ne (h : q ≠ r) :
    (s.stopRegion r).seqState q = s.seqState q ∧ (s.stopRegion r).regions[q] = s.regions[q] := by
  unfold State.stopRegion State.killAll
  constructor
  · refine (SameRegs.killWhere _ r _ _ _ _ _ (by omega) (by decide) (by decide) (by decide)).trans ?_
    exact State.seqState_setSeq_ne _ h _
  · rw [State.killWhere_ne _ _ _ h, State.setSeq, State.put_regions, State.modRegion_ne _ _ _ _ h]

/-- The partition while its regions stop. -/
def State.beginStop (s : State) (p : Prt) : State := (s.put PROC_PREEMPT.REQ 0 p).put PROC_PART_CFG.STATE psSaving p

theorem SameRegs.beginStop : SameRegs s (s.beginStop p) [PROC_PREEMPT.REQ, PROC_PART_CFG.STATE] :=
  .trans (.mono (.put_part s _ 0 p) (by simp)) (.mono (.put_part _ _ psSaving p) (by simp))

theorem State.stopPart_eq : s.stopPart p = (s.regionsOf p).foldl State.stopRegion (s.beginStop p) := by
  rw [← (SameRegs.beginStop s p).regionsOf (by decide) p]
  rfl

theorem State.stopPart_stopped : ∀ r ∈ s.regionsOf p, Stopped (s.seqState r) (s.stopPart p) r := by
  rw [State.stopPart_eq]
  refine foldl_each (Before := fun r (t : State) => t.seqState r = s.seqState r)
    (After := fun r t => Stopped (s.seqState r) t r) (fun t r h => h ▸ t.stopRegion_stopped r)
    (fun t r q hne h => (t.stopRegion_ne hne.symm).1.trans h) (fun t r q hne h => ?_) (s.regionsOf_pairwise p) (fun r _ => ?_)
  · obtain ⟨hseq, hregion⟩ := t.stopRegion_ne hne
    exact ⟨hseq.trans h.seq, hregion ▸ h.saved, hregion ▸ h.killed⟩
  · exact SameRegs.beginStop s p _ _ _ _ (by omega) (by decide) (by decide) (by decide)

theorem State.get_stopPart_req : (s.stopPart p).get PROC_PREEMPT.REQ p = 0 := by
  refine (SameRegs.stopPart s p _ _ _ _ (by omega) (by decide) (by decide) (by decide)).trans ?_
  exact (State.get_put_part _ (by decide) _ p).trans (State.get_put_self ..)

end

/-! ### The save (R295) -/

section
variable (s : State) (p : Prt)

/-- Whether nothing issued is left in the regions of a partition (R294, R298). -/
def State.allQuiet (s : State) (p : Prt) : Prop := ∀ r ∈ s.regionsOf p, ∀ e ∈ s.regions[r].cmds, e.issued = false

/-- The context of the partition is saved. -/
def State.saveContext (s : State) (p : Prt) : State :=
  s.modPart p (fun x => { x with
    image := (s.regionsOf p).map (fun r => s.imageOf p r), savedRegions := s.get PROC_PART_CFG.REGIONS p, restored := false })

/-- The queues of some regions are emptied. -/
def State.emptyQueues (s : State) (rs : List Rgn) : State := rs.foldl (fun s r => s.setCmds r []) s

/-- The save granules of some regions. -/
def State.saveExtents (s : State) (p : Prt) (rs : List Rgn) : List Extent :=
  rs.map (fun r => { lo := s.get (PROC_SAVE.GRANULE r.val) p * 2 ^ 30, hi := (s.get (PROC_SAVE.GRANULE r.val) p + 1) * 2 ^ 30 })

/-- The partition is empty and its context is saved under the tag of the job. -/
def State.noteSaved (s : State) (p : Prt) : State :=
  let s := (s.put PROC_PART_CFG.STATE psEmpty p).put PROC_PART_CFG.SAVED 1 p
  (s.put PROC_PART_CFG.SAVED_TAG (s.get PROC_PART_CFG.JOB_TAG p) p).bump PROC_TEAR_CNT.PREEMPTS 1 p

/-- The partition with its context saved and its queues empty. -/
def State.saveQueues (s : State) (p : Prt) : State := (s.saveContext p).emptyQueues (s.regionsOf p)

variable {s p} in
theorem State.saveComplete_saves (hsaving : s.partState p = psSaving) (hquiet : s.allQuiet p) :
    s.saveComplete p =
      ((s.saveQueues p).undefineAll ((s.saveQueues p).saveExtents p (s.regionsOf p))).noteSaved p :=
  if_pos (by simpa [hsaving, State.allQuiet] using hquiet)

variable {s p} in
theorem State.saveComplete_idle (h : s.partState p ≠ psSaving ∨ ¬ s.allQuiet p) : s.saveComplete p = s :=
  if_neg (by simpa [State.allQuiet, Decidable.imp_iff_not_or] using h)

theorem granule_home_ne (r : Rgn) : ∀ f ∈ queueFields, (PROC_SAVE.GRANULE r.val).home ≠ f.home := by decide +revert

theorem SameRegs.saveQueues : SameRegs s (s.saveQueues p) queueFields :=
  .foldl_each (fun t r => .setCmds t r []) (s.regionsOf p) (s.saveContext p)

theorem State.saveQueues_mem : (s.saveQueues p).mem = s.mem :=
  List.foldlRecOn (motive := fun t : State => t.mem = s.mem) _ _ rfl fun t ht r _ => (t.setCmds_mem r []).trans ht

theorem State.saveQueues_parts : (s.saveQueues p).parts = (s.saveContext p).parts :=
  List.foldlRecOn (motive := fun t : State => t.parts = (s.saveContext p).parts) _ _ rfl fun t ht r _ =>
    (t.setCmds_parts r []).trans ht

theorem State.saveQueues_cmds : ∀ r ∈ s.regionsOf p, (s.saveQueues p).regions[r].cmds = [] :=
  foldl_each (Before := fun _ _ => True) (After := fun r (t : State) => t.regions[r].cmds = [])
    (fun t r _ => congrArg Region.cmds (t.setCmds_region r [])) (fun _ _ _ _ _ => trivial)
    (fun t r q hne h => (congrArg Region.cmds (t.setCmds_ne q r [] hne)).trans h) (s.regionsOf_pairwise p) (fun _ _ => trivial)

/-- Undefining leaves every byte outside the extents alone. -/
theorem State.read_undefineAll {xs : List Extent} {a : Nat} (h : ∀ x ∈ xs, a < x.lo ∨ x.hi ≤ a) :
    (s.undefineAll xs).mem.read a = s.mem.read a :=
  List.foldlRecOn (motive := fun t : State => t.mem.read a = s.mem.read a) xs _ rfl fun t ht x hx =>
    (t.mem.read_layer_ne x.lo x.hi a _ (h x hx)).trans ht

theorem State.undefineAll_parts (xs : List Extent) : (s.undefineAll xs).parts = s.parts :=
  List.foldlRecOn (motive := fun t : State => t.parts = s.parts) xs _ rfl fun _ ht _ _ => ht

theorem State.get_noteSaved : (s.noteSaved p).partState p = psEmpty ∧ (s.noteSaved p).get PROC_PART_CFG.SAVED p = 1 ∧
    (s.noteSaved p).get PROC_PART_CFG.SAVED_TAG p = s.get PROC_PART_CFG.JOB_TAG p % 65536 := by
  unfold State.noteSaved State.partState State.bump
  dsimp only
  refine ⟨?state, ?saved, ?tag⟩
  case state =>
    rw [State.get_put_part _ (by decide), State.get_put_part _ (by decide), State.get_put_part _ (by decide)]
    exact State.get_put_self ..
  case saved =>
    rw [State.get_put_part _ (by decide), State.get_put_part _ (by decide)]
    exact State.get_put_self ..
  case tag =>
    rw [State.get_put_part _ (by decide), State.get_put_self, State.get_put_part _ (by decide), State.get_put_part _ (by decide)]
    rfl

theorem OnlyRegs.noteSaved : OnlyRegs s (s.noteSaved p) :=
  (((OnlyRegs.put ..).trans (.put ..)).trans (.put ..)).trans (.bump ..)

variable {s p} in
theorem State.read_saveComplete (hsaving : s.partState p = psSaving) (hquiet : s.allQuiet p) {a : Nat}
    (ha : ∀ r ∈ s.regionsOf p, a / 2 ^ 30 ≠ s.get (PROC_SAVE.GRANULE r.val) p) :
    (s.saveComplete p).mem.read a = s.mem.read a := by
  rw [State.saveComplete_saves hsaving hquiet, (OnlyRegs.noteSaved _ p).mem, State.read_undefineAll, s.saveQueues_mem p]
  intro x hx
  obtain ⟨r, hr, rfl⟩ := List.mem_map.1 hx
  have hgranule : (s.saveQueues p).get (PROC_SAVE.GRANULE r.val) p = s.get (PROC_SAVE.GRANULE r.val) p :=
    SameRegs.saveQueues s p _ _ _ _ (by omega) (by decide) (by decide) (granule_home_ne r)
  have hout := ha r hr
  dsimp only
  omega

end

section
variable {s : State} {p : Prt}

theorem completes_save (hsaving : s.partState p = psSaving) (hquiet : s.allQuiet p) : Completes (.saveComplete p) s (fun t =>
    t.partState p = psEmpty ∧ t.get PROC_PART_CFG.SAVED p = 1 ∧
    t.get PROC_PART_CFG.SAVED_TAG p = s.get PROC_PART_CFG.JOB_TAG p % 65536 ∧
    t.parts[p].image = (s.regionsOf p).map (fun r => s.imageOf p r) ∧
    t.parts[p].savedRegions = s.get PROC_PART_CFG.REGIONS p ∧ (∀ r ∈ s.regionsOf p, t.regions[r].cmds = []) ∧
    (∀ a, (∀ r ∈ s.regionsOf p, a / 2 ^ 30 ≠ s.get (PROC_SAVE.GRANULE r.val) p) → t.mem.read a = s.mem.read a)) := by
  refine ⟨_, rfl, ?_⟩
  have hread {a : Nat} := State.read_saveComplete hsaving hquiet (a := a)
  rw [State.saveComplete_saves hsaving hquiet] at hread ⊢
  generalize (s.saveQueues p).saveExtents p (s.regionsOf p) = xs at hread ⊢
  have honly := OnlyRegs.noteSaved ((s.saveQueues p).undefineAll xs) p
  have hpart := (congrArg (fun v : Vector Part 4 => v[p])
    (honly.parts.trans ((State.undefineAll_parts _ xs).trans (s.saveQueues_parts p)))).trans (State.modPart_at ..)
  have htag : ((s.saveQueues p).undefineAll xs).get PROC_PART_CFG.JOB_TAG p = s.get PROC_PART_CFG.JOB_TAG p :=
    ((SameRegs.saveQueues s p).trans (.undefineAll _ xs _)) _ _ _ _ (by omega) (by decide) (by decide) (by decide)
  obtain ⟨hstate, hsaved, hnoted⟩ := ((s.saveQueues p).undefineAll xs).get_noteSaved p
  refine ⟨hstate, hsaved, htag ▸ hnoted, congrArg Part.image hpart, congrArg Part.savedRegions hpart, fun r hr => ?_,
    fun a ha => hread ha⟩
  rw [honly.regions, State.undefineAll_regions]
  exact s.saveQueues_cmds p r hr

end

/-! ### The resume (R297) -/

section
variable {s : State} {p : Prt}

theorem State.resume_refused (h : s.partState p ≠ psEmpty ∨ s.get PROC_PART_CFG.SAVED p = 0 ∨
    s.get PROC_PART_CFG.REGIONS p ≠ s.parts[p].savedRegions ∨ s.get PROC_PREEMPT.AT p ≤ s.period) :
    s.resume p = (s.put PROC_PREEMPT.REFUSED 1 p).put PROC_PREEMPT.RESUME 0 p :=
  if_pos (by simpa [State.bit, or_assoc, or_left_comm] using h)

/-- The partition takes the tag of the saved job and begins to restore. -/
def State.beginRestore (s : State) (p : Prt) : State :=
  let s := (s.put PROC_PREEMPT.RESUME 0 p).put PROC_PART_CFG.STATE psRestoring p
  (s.put PROC_PART_CFG.JOB_TAG (s.get PROC_PART_CFG.SAVED_TAG p) p).modPart p
    (fun x => { x with resuming := true, restored := false, late := false })

/-- The sequencers of some regions are pre-empted. -/
def State.preemptSeqs (s : State) (rs : List Rgn) : State := rs.foldl (fun s r => s.setSeq r sqPreempted) s

theorem SameRegs.beginRestore (s : State) (p : Prt) :
    SameRegs s (s.beginRestore p) [PROC_PREEMPT.RESUME, PROC_PART_CFG.STATE, PROC_PART_CFG.JOB_TAG] :=
  .trans (.trans (.mono (.put_part s _ 0 p) (by simp)) (.mono (.put_part _ _ psRestoring p) (by simp)))
    (.mono (.put_part _ PROC_PART_CFG.JOB_TAG _ p) (by simp))

theorem State.resume_restores (hempty : s.partState p = psEmpty) (hsaved : s.get PROC_PART_CFG.SAVED p ≠ 0)
    (hregions : s.get PROC_PART_CFG.REGIONS p = s.parts[p].savedRegions) (hat : s.period < s.get PROC_PREEMPT.AT p) :
    s.resume p = (s.beginRestore p).preemptSeqs (s.regionsOf p) := by
  rw [← (SameRegs.beginRestore s p).regionsOf (by decide) p]
  exact if_neg (by simp [State.bit, hempty, hsaved, hregions, hat])

theorem State.get_beginRestore (s : State) (p : Prt) : (s.beginRestore p).partState p = psRestoring ∧
    (s.beginRestore p).get PROC_PART_CFG.JOB_TAG p = s.get PROC_PART_CFG.SAVED_TAG p % 65536 := by
  unfold State.beginRestore State.partState
  dsimp only
  rw [State.get_modPart, State.get_modPart]
  constructor
  · rw [State.get_put_part _ (by decide)]
    exact State.get_put_self ..
  · rw [State.get_put_self, State.get_put_part _ (by decide), State.get_put_part _ (by decide)]
    rfl

theorem SameRegs.preemptSeqs (s : State) (rs : List Rgn) : SameRegs s (s.preemptSeqs rs) [RGN_SEQ_STAT.STATE] :=
  .foldl_each (fun t r => .setSeq t r sqPreempted) rs s

theorem OnlyRegs.preemptSeqs (s : State) (rs : List Rgn) : OnlyRegs s (s.preemptSeqs rs) := .foldl (fun t r => .setSeq t r _) rs s

theorem State.seqState_preemptSeqs (s : State) {rs : List Rgn} (hrs : rs.Pairwise (· ≠ ·)) :
    ∀ r ∈ rs, (s.preemptSeqs rs).seqState r = sqPreempted :=
  foldl_each (Before := fun _ _ => True) (After := fun r (t : State) => t.seqState r = sqPreempted)
    (fun t r _ => t.seqState_setSeq r sqPreempted) (fun _ _ _ _ _ => trivial)
    (fun t _ _ hne h => (t.seqState_setSeq_ne hne sqPreempted).trans h) hrs (fun _ _ => trivial)

theorem completes_resume (hempty : s.partState p = psEmpty) (hsaved : s.get PROC_PART_CFG.SAVED p ≠ 0)
    (hregions : s.get PROC_PART_CFG.REGIONS p = s.parts[p].savedRegions) (hat : s.period < s.get PROC_PREEMPT.AT p) :
    Completes (.procPreemptResume p) s (fun t => t.partState p = psRestoring ∧
      t.get PROC_PART_CFG.JOB_TAG p = s.get PROC_PART_CFG.SAVED_TAG p % 65536 ∧ t.mem = s.mem ∧
      ∀ r ∈ s.regionsOf p, t.seqState r = sqPreempted) := by
  refine ⟨_, congrArg Host.Outcome.next (State.resume_restores hempty hsaved hregions hat), ?_⟩
  have hregs := SameRegs.preemptSeqs (s.beginRestore p) (s.regionsOf p)
  obtain ⟨hstate, htag⟩ := s.get_beginRestore p
  exact ⟨(hregs.partState (by decide) p).trans hstate, (hregs _ _ _ _ (by omega) (by decide) (by decide) (by decide)).trans htag,
    (OnlyRegs.preemptSeqs _ _).mem, State.seqState_preemptSeqs _ (s.regionsOf_pairwise p)⟩

end

/-! ### The restore (R297) -/

/-- The region of an image. -/
def Image.rgn (im : Image) : Rgn := ⟨im.region % 4, Nat.mod_lt _ (by decide)⟩

theorem Image.rgn_eq {im : Image} {r : Rgn} (h : r.val = im.region) : im.rgn = r :=
  Fin.ext ((congrArg (· % 4) h.symm).trans (Nat.mod_eq_of_lt r.isLt))

/-- The saved sequencer and queues in the place of a region, which keeps its isolation, stretch and pacing. -/
def Region.withSaved (g saved : Region) : Region :=
  { saved with isolated := g.isolated, dipStretch := g.dipStretch, thermStretch := g.thermStretch,
               pacedMatrix := g.pacedMatrix, pacedAll := g.pacedAll }

/-- The images of a partition are written back. -/
def State.restoreAll (s : State) (p : Prt) (ims : List Image) : State := ims.foldl (fun s im => s.restoreRegion p im) s

section
variable (s : State) (p : Prt)

theorem State.restoreRegion_at (im : Image) :
    (s.restoreRegion p im).regions[im.rgn] = (s.regions[im.rgn]).withSaved im.seq := State.modRegion_at ..

theorem State.restoreRegion_ne {im : Image} {r : Rgn} (h : r ≠ im.rgn) : (s.restoreRegion p im).regions[r] = s.regions[r] :=
  State.modRegion_ne _ _ _ _ h

/-- The restore writes memory, registers and the regions, and nothing else. -/
theorem State.restoreAll_frame (ims : List Image) : (s.restoreAll p ims).parts = s.parts ∧ (s.restoreAll p ims).hub = s.hub ∧
    (s.restoreAll p ims).out = s.out :=
  List.foldlRecOn (motive := fun t : State => t.parts = s.parts ∧ t.hub = s.hub ∧ t.out = s.out) ims _ ⟨rfl, rfl, rfl⟩
    fun _ ht _ _ => ht

theorem State.restoreAll_at {ims : List Image} (h : ims.Pairwise (fun a b => a.rgn ≠ b.rgn)) :
    ∀ im ∈ ims, (s.restoreAll p ims).regions[im.rgn] = (s.regions[im.rgn]).withSaved im.seq :=
  foldl_each (Before := fun im (t : State) => t.regions[im.rgn] = s.regions[im.rgn])
    (After := fun im (t : State) => t.regions[im.rgn] = (s.regions[im.rgn]).withSaved im.seq)
    (fun t im hkept => (t.restoreRegion_at p im).trans (congrArg (Region.withSaved · im.seq) hkept))
    (fun t _ _ hne hkept => (t.restoreRegion_ne p hne.symm).trans hkept)
    (fun t _ _ hne hdone => (t.restoreRegion_ne p hne).trans hdone) h (fun _ _ => rfl)

theorem State.restoreAll_ne {ims : List Image} {r : Rgn} (h : ∀ im ∈ ims, r ≠ im.rgn) :
    (s.restoreAll p ims).regions[r] = s.regions[r] :=
  List.foldlRecOn (motive := fun t : State => t.regions[r] = s.regions[r]) ims _ rfl fun t ht im him =>
    (t.restoreRegion_ne p (h im him)).trans ht

variable {s p}

theorem State.restoreComplete_restores (hstate : s.partState p = psRestoring) (hdue : s.parts[p].restored = false) :
    s.restoreComplete p = ((s.restoreAll p s.parts[p].image).modPart p (fun x => { x with restored := true, image := [] })).put
      PROC_PART_CFG.SAVED 0 p := if_pos (by simpa [hstate] using hdue)

theorem State.restoreComplete_idle (h : s.partState p ≠ psRestoring ∨ s.parts[p].restored = true) :
    s.restoreComplete p = s := if_neg (by simpa [Decidable.imp_iff_not_or] using h)

end

section
variable {s : State} {p : Prt}

theorem rgn_pairwise {ims : List Image} (hdistinct : (ims.map (·.region)).Nodup) (hsmall : ∀ im ∈ ims, im.region < 4) :
    ims.Pairwise (fun a b => a.rgn ≠ b.rgn) := by
  refine (List.pairwise_map.1 hdistinct).imp_of_mem fun {a b} ha hb hne heq => hne ?_
  rw [← Nat.mod_eq_of_lt (hsmall a ha), ← Nat.mod_eq_of_lt (hsmall b hb)]
  exact congrArg Fin.val heq

theorem completes_restore (hstate : s.partState p = psRestoring) (hdue : s.parts[p].restored = false)
    (hdistinct : (s.parts[p].image.map (·.region)).Nodup) (hsmall : ∀ im ∈ s.parts[p].image, im.region < 4) :
    Completes (.restoreComplete p) s (fun t => t.parts[p].restored = true ∧ t.get PROC_PART_CFG.SAVED p = 0 ∧ t.out = s.out ∧
      t.hub = s.hub ∧
      (∀ im ∈ s.parts[p].image, ∀ r : Rgn, r.val = im.region → t.regions[r] = (s.regions[r]).withSaved im.seq) ∧
      (∀ r : Rgn, r.val ∉ s.parts[p].image.map (·.region) → t.regions[r] = s.regions[r])) := by
  refine ⟨_, congrArg Host.Outcome.next (State.restoreComplete_restores hstate hdue), ?_⟩
  obtain ⟨-, hhub, hout⟩ := s.restoreAll_frame p s.parts[p].image
  refine ⟨by rw [State.put_parts, State.modPart_at], State.get_put_self .., hout, hhub, fun im him r hr => ?_, fun r hr => ?_⟩
  · rw [← Image.rgn_eq hr]
    exact s.restoreAll_at p (rgn_pairwise hdistinct hsmall) im him
  · refine s.restoreAll_ne p fun im him heq => hr (List.mem_map.2 ⟨im, him, ?_⟩)
    exact (Nat.mod_eq_of_lt (hsmall im him)).symm.trans (congrArg Fin.val heq).symm

end

/-! ### The timeout of a save (R298) -/

section
variable {s : State} {p : Prt}

theorem State.not_allQuiet (h : ∃ r ∈ s.regionsOf p, ∃ e ∈ s.regions[r].cmds, e.issued = true) : ¬ s.allQuiet p := by
  obtain ⟨r, hr, e, he, hissued⟩ := h
  exact fun hquiet => Bool.false_ne_true ((hquiet r hr e he).symm.trans hissued)

theorem State.preemptTimeout_tears (hsaving : s.partState p = psSaving)
    (h : ∃ r ∈ s.regionsOf p, ∃ e ∈ s.regions[r].cmds, e.issued = true) : s.preemptTimeout p = s.beginTeardown p 6 :=
  if_pos (by simpa [hsaving] using h)

theorem State.preemptTimeout_idle (h : s.partState p ≠ psSaving ∨ s.allQuiet p) : s.preemptTimeout p = s :=
  if_neg (by simpa [State.allQuiet, Decidable.imp_iff_not_or] using h)

end

/-- Settles O41: each row by the case of its request; a stop, a save, a resume and a restore by their passes over the regions. -/
theorem preemptionAndResume : Obligations.PreemptionAndResume := by
  unfold Obligations.PreemptionAndResume
  intro s p
  refine ⟨fun h => ?refused, fun hrun hsave => ⟨fun hmode hat => ?later, fun hmode => ?atOnce⟩, fun hsaving hquiet => ?saves,
    fun h => ?saveIdle, fun hempty hsaved hregions hat => ?resumes, fun h => ?resumeRefused,
    fun hstate hdue hdistinct hsmall => ?restores, fun h => ?restoreIdle, fun hsaving h => ?times, fun h => ?timeIdle⟩
  case refused => exact ⟨_, rfl, State.refused_spec s (by decide) p (State.preemptReq_refused h)⟩
  case later =>
    refine ⟨_, congrArg Host.Outcome.next (State.preemptReq_later hrun hsave hmode hat), State.get_put_self .., ?_, .put ..⟩
    exact .put_part s _ 1 p
  case atOnce =>
    refine ⟨_, congrArg Host.Outcome.next (State.preemptReq_atOnce hrun hsave hmode), s.partState_stopPart p,
      s.get_stopPart_req p, fun r hr => ?_⟩
    have hstopped := s.stopPart_stopped p r hr
    exact ⟨hstopped.seq, hstopped.saved, hstopped.killed⟩
  case saves => exact completes_save hsaving hquiet
  case saveIdle => exact congrArg Host.Outcome.next (State.saveComplete_idle (h.imp_right State.not_allQuiet))
  case resumes => exact completes_resume hempty hsaved hregions hat
  case resumeRefused => exact ⟨_, rfl, State.refused_spec s (by decide) p (State.resume_refused h)⟩
  case restores => exact completes_restore hstate hdue hdistinct hsmall
  case restoreIdle => exact congrArg Host.Outcome.next (State.restoreComplete_idle h)
  case times =>
    refine ⟨_, congrArg Host.Outcome.next (State.preemptTimeout_tears hsaving h), ?_⟩
    exact State.get_beginTeardown (by rw [hsaving]; decide) (by rw [hsaving]; decide) (by decide)
  case timeIdle => exact congrArg Host.Outcome.next (State.preemptTimeout_idle h)

end Sys2Proof.Machine
end

section
/-!
Failed positions, grafts, requests of hardening-off and the securing interval (R309, R318, R319, R325-R332, R342), and the
settlement of O46. Notices and agreements are messages alone, so that a pass that sends them is one list of messages; a graft
writes the routing tables of each region by itself.
-/
namespace Sys2Proof.Machine

/-! ### Register fields and messages -/

/-- One more field written, of those that may change. -/
theorem SameRegs.then_put {s t : State} {changed : List Fld} (h : SameRegs s t changed) {f : Fld} (hf : f ∈ changed) (v : Nat)
    {i j k : Nat} (hi : i < 65536) (hj : j < 65536) (hk : k < 65536) : SameRegs s (t.put f v i j k) changed :=
  h.trans ((SameRegs.put t f v hi hj hk).mono (by simpa using hf))

theorem SameRegs.then_put_hub {s t : State} {changed : List Fld} (h : SameRegs s t changed) {f : Fld} (hf : f ∈ changed)
    (v : Nat) : SameRegs s (t.put f v) changed :=
  h.then_put hf v (by decide) (by decide) (by decide)

/-- A pass whose elements send messages that do not depend on what was sent before sends them all as a list. -/
theorem State.foldl_eq_emitAll_flatMap {α : Type} {f : State → α → State} {g : State → α → List Out}
    (hf : ∀ s a, f s a = s.emitAll (g s a)) (hg : ∀ s os a, g (s.emitAll os) a = g s a) (l : List α) (s : State) :
    l.foldl f s = s.emitAll (l.flatMap (g s)) := by
  induction l generalizing s with
  | nil => exact s.emitAll_nil.symm
  | cons a l ih =>
    have hrest : l.flatMap (g (s.emitAll (g s a))) = l.flatMap (g s) := congrArg (l.flatMap ·) (funext (hg s _))
    rw [List.foldl_cons, hf, ih, hrest, List.flatMap_cons, State.emitAll, State.emitAll, List.append_assoc]
    rfl

theorem State.foldl_eq_emitAll_map {α : Type} {f : State → α → State} {g : State → α → Out}
    (hf : ∀ s a, f s a = s.emit (g s a)) (hg : ∀ s os a, g (s.emitAll os) a = g s a) (l : List α) (s : State) :
    l.foldl f s = s.emitAll (l.map (g s)) := by
  rw [List.map_eq_flatMap]
  exact State.foldl_eq_emitAll_flatMap (g := fun s a => [g s a]) hf (fun s os a => congrArg (fun o => [o]) (hg s os a)) l s

/-! ### A failed position (R325, R342) -/

/-- The trained links to a position. -/
def State.peerLinks (s : State) (addr : Nat) : List Lnk :=
  allLinks.filter (fun (l : Lnk) => s.bit LNK_PEER.VALID l && s.get LNK_PEER.ADDR l == addr)

/-- Every trained link to the position, and there is one, has been down for two bells. -/
def State.away (s : State) (addr : Nat) : Prop :=
  (∃ l : Lnk, s.bit LNK_PEER.VALID l = true ∧ s.get LNK_PEER.ADDR l = addr) ∧
    ∀ l : Lnk, s.bit LNK_PEER.VALID l = true → s.get LNK_PEER.ADDR l = addr → 2 ≤ s.links[l].downBells

/-- Strict pigeonholes for the recovery. -/
def State.inRecovery (s : State) : State := (s.put PH_MODE.RECOVERY 1).put PH_MODE.STRICT 1

/-- The teardown notices that the loss of a position draws in a partition. -/
def lossNotices (addr : Nat) (s : State) (p : Prt) : List Out :=
  if s.parts[p].members.contains addr && s.partState p != psEmpty then
    s.parts[p].members.map (fun a => .icholt a (.teardownNotice (BitVec.ofNat 16 (s.get PROC_PART_CFG.JOB_TAG p))))
  else []

section
variable {s : State} {addr : Nat}

theorem mem_allLinks (l : Lnk) : l ∈ allLinks := List.mem_ofFn.2 ⟨l, rfl⟩

theorem State.mem_peerLinks {l : Lnk} :
    l ∈ s.peerLinks addr ↔ s.bit LNK_PEER.VALID l = true ∧ s.get LNK_PEER.ADDR l = addr := by
  simp [State.peerLinks, mem_allLinks]

theorem State.away_iff : s.away addr ↔
    (!(s.peerLinks addr).isEmpty && (s.peerLinks addr).all (fun l => decide (2 ≤ s.links[l].downBells))) = true := by
  have hsome : (!(s.peerLinks addr).isEmpty) = true ↔ ∃ l, l ∈ s.peerLinks addr := by
    rw [Bool.not_eq_true', List.isEmpty_eq_false_iff_exists_mem]
  rw [Bool.and_eq_true, hsome, List.all_eq_true]
  simp only [State.away, State.mem_peerLinks, and_imp, decide_eq_true_eq]

theorem State.positionFailed_of_away (h : s.away addr) :
    s.positionFailed addr = s.inRecovery.emitAll (allRegions.flatMap (lossNotices addr s.inRecovery)) := by
  refine (if_pos (State.away_iff.1 h)).trans (State.foldl_eq_emitAll_flatMap (fun t p => ?_) (fun _ _ _ => rfl) _ _)
  unfold lossNotices
  split
  · exact State.foldl_eq_emitAll_map (fun _ _ => rfl) (fun _ _ _ => rfl) _ t
  · exact t.emitAll_nil.symm

theorem State.positionFailed_of_not_away (h : ¬ s.away addr) : s.positionFailed addr = s :=
  if_neg fun hb => h (State.away_iff.2 hb)

theorem SameRegs.inRecovery (s : State) : SameRegs s s.inRecovery [PH_MODE.RECOVERY, PH_MODE.STRICT] :=
  ((SameRegs.refl s _).then_put_hub (by simp) _).then_put_hub (by simp) _

theorem State.get_inRecovery (s : State) : s.inRecovery.get PH_MODE.RECOVERY = 1 ∧ s.inRecovery.get PH_MODE.STRICT = 1 :=
  ⟨(State.get_put_hub _ (by decide) _).trans (State.get_put_self ..), State.get_put_self ..⟩

/-- What a failed position leaves: the recovery, and a notice to every member of a job of its position. -/
theorem completes_positionFailed {addr : BitVec 16} (h : s.away addr.toNat) : Completes (.positionFailed addr) s (fun t =>
    t.regions = s.regions ∧ t.mem = s.mem ∧ t.get PH_MODE.RECOVERY = 1 ∧ t.get PH_MODE.STRICT = 1 ∧
    SameRegs s t [PH_MODE.RECOVERY, PH_MODE.STRICT] ∧
    ∀ p : Prt, addr.toNat ∈ s.parts[p].members → s.partState p ≠ psEmpty → ∀ a ∈ s.parts[p].members,
      Out.icholt a (.teardownNotice (BitVec.ofNat 16 (s.get PROC_PART_CFG.JOB_TAG p))) ∈ t.out) := by
  have hregs := SameRegs.inRecovery s
  obtain ⟨hrecovery, hstrict⟩ := s.get_inRecovery
  refine ⟨_, congrArg Host.Outcome.next (State.positionFailed_of_away h), rfl, rfl,
    hrecovery, hstrict, hregs, fun p hlost hjob a ha => ?_⟩
  have hnotices : lossNotices addr.toNat s.inRecovery p = s.parts[p].members.map
      (fun a => .icholt a (.teardownNotice (BitVec.ofNat 16 (s.get PROC_PART_CFG.JOB_TAG p)))) := by
    unfold lossNotices
    rw [hregs.partState (by decide), hregs PROC_PART_CFG.JOB_TAG p 0 0 (by omega) (by decide) (by decide) (by decide)]
    exact if_pos (Bool.and_eq_true_iff.2 ⟨List.contains_iff_mem.2 hlost, bne_iff_ne.2 hjob⟩)
  refine List.mem_append_right _ (List.mem_flatMap.2 ⟨p, mem_allRegions p, ?_⟩)
  rw [hnotices]
  exact List.mem_map_of_mem ha

end

/-! ### A graft (R326) -/

/-- An entry of routing table j of a region. -/
def routeEntry (r : Rgn) (j : Nat) (x : Nat × Nat) : Bool :=
  (List.range 8).any (fun v => keyHome x.1 == (RGN_ROUTE.ENTRY v).home) && keyI x.1 == r.val && keyJ x.1 == j

/-- An entry of table a moved to the other table. -/
def moveRoute (a : Nat) (x : Nat × Nat) : Nat × Nat := if a = 0 then (x.1 + 65536, x.2) else (x.1 - 65536, x.2)

/-- Whether a key is that of a routing entry of a region, in whatever table. -/
def RouteKey (r : Rgn) (n : Nat) : Prop := (∃ v < 8, keyHome n = (RGN_ROUTE.ENTRY v).home) ∧ keyI n = r.val

theorem routeEntry_iff {r : Rgn} {j : Nat} {x : Nat × Nat} : routeEntry r j x = true ↔ RouteKey r x.1 ∧ keyJ x.1 = j := by
  simp [routeEntry, RouteKey]

/-- A table is moved within its register, by its second index. -/
theorem routeKey_moveRoute {r : Rgn} {a : Nat} {x : Nat × Nat} (h : routeEntry r a x = true) : RouteKey r (moveRoute a x).1 := by
  obtain ⟨⟨hhome, hregion⟩, htable⟩ := routeEntry_iff.1 h
  have hkept : keyHome (moveRoute a x).1 = keyHome x.1 ∧ keyI (moveRoute a x).1 = keyI x.1 := by
    unfold keyJ at htable
    unfold moveRoute keyHome keyI
    split
    all_goals dsimp only; omega
  obtain ⟨hkeptHome, hkeptRegion⟩ := hkept
  rw [RouteKey, hkeptHome, hkeptRegion]
  exact ⟨hhome, hregion⟩

theorem keyI_key (f : Fld) {i j k : Nat} (hi : i < 65536) (hj : j < 65536) (hk : k < 65536) : keyI (f.key i j k) = i := by
  unfold keyI Fld.key
  omega

/-- Whatever the fields, a write at one first index reaches no other. -/
theorem State.get_put_first_ne (s : State) (f g : Fld) (v : Nat) {i j k a b c : Nat} (hne : a ≠ i) (hi : i < 65536)
    (hj : j < 65536) (hk : k < 65536) (ha : a < 65536) (hb : b < 65536) (hc : c < 65536) :
    (s.put g v i j k).get f a b c = s.get f a b c :=
  State.get_put_ne _ _ _ _ _ _ _ _ _ _ fun hkey =>
    hne ((keyI_key f ha hb hc).symm.trans ((congrArg keyI hkey).trans (keyI_key g hi hj hk)))

theorem not_routeKey {r : Rgn} {f : Fld} {i j k : Nat} (hi : i < 65536) (hj : j < 65536) (hk : k < 65536)
    (h : i ≠ r.val ∨ ∀ v < 8, f.home ≠ (RGN_ROUTE.ENTRY v).home) : ¬ RouteKey r (f.key i j k) := by
  rw [RouteKey, keyHome_key f hi hj hk, keyI_key f hi hj hk]
  rintro ⟨⟨v, hv, hhome⟩, hi⟩
  exact h.elim (fun hne => hne hi) fun hno => hno v hv hhome

theorem kget_foldl_kset {n : Nat} {l : List (Nat × Nat)} (h : ∀ x ∈ l, x.1 ≠ n) (m : KMap) (d : Nat) :
    kget (l.foldl (fun (m : KMap) x => kset m x.1 x.2) m) n d = kget m n d :=
  List.foldlRecOn (motive := fun u : KMap => kget u n d = kget m n d) l _ rfl fun _ hu x hx =>
    (kget_kset_ne _ _ _ _ _ (h x hx).symm).trans hu

theorem State.copyRoutes_regs (s : State) (r : Rgn) : (s.copyRoutes r).regs =
    ((s.regs.filter (routeEntry r (s.get RGN_ROUTE_CTRL.ACTIVE r))).map (moveRoute (s.get RGN_ROUTE_CTRL.ACTIVE r))).foldl
      (fun (m : KMap) x => kset m x.1 x.2)
      (s.regs.filter (fun x => !routeEntry r (1 - s.get RGN_ROUTE_CTRL.ACTIVE r) x)) := rfl

/-- A copy of a region's routing table reaches the routing entries of that region alone. -/
theorem State.get_copyRoutes (s : State) {r : Rgn} {f : Fld} {i j k : Nat} (h : ¬ RouteKey r (f.key i j k)) :
    (s.copyRoutes r).get f i j k = s.get f i j k := by
  have hmoved : ∀ x ∈ (s.regs.filter (routeEntry r (s.get RGN_ROUTE_CTRL.ACTIVE r))).map
      (moveRoute (s.get RGN_ROUTE_CTRL.ACTIVE r)), x.1 ≠ f.key i j k := by
    rintro x hx hkey
    obtain ⟨y, hy, rfl⟩ := List.mem_map.1 hx
    exact h (hkey ▸ routeKey_moveRoute (List.mem_filter.1 hy).2)
  unfold State.get
  rw [State.copyRoutes_regs, kget_foldl_kset hmoved]
  exact kget_filter (fun v => Bool.not_eq_true' _ ▸ Bool.eq_false_iff.2 fun hv => h (routeEntry_iff.1 hv).1) ..

/-- A neighbour of the lost position turns one region: its tables, its entry for the address, its request for the switch. -/
def State.graftRegion (addr : Nat) (via : Lnk) (s : State) (r : Rgn) : State :=
  ((s.copyRoutes r).put (RGN_ROUTE.ENTRY (addr % 8)) (128 + via.val) r (1 - (s.copyRoutes r).get RGN_ROUTE_CTRL.ACTIVE r)
    (addr / 8)).put RGN_ROUTE_CTRL.SWITCH 1 r

/-- A region that has been turned, where table a was active. -/
structure Turned (addr : Nat) (via : Lnk) (r : Rgn) (a : Nat) (t : State) : Prop where
  switch : t.get RGN_ROUTE_CTRL.SWITCH r = 1
  active : t.get RGN_ROUTE_CTRL.ACTIVE r = a
  entry : t.get (RGN_ROUTE.ENTRY (addr % 8)) r (1 - a) (addr / 8) = 128 + via.val

section
variable (s : State) {addr : Nat} (via : Lnk)

theorem OnlyRegs.copyRoutes (r : Rgn) : OnlyRegs s (s.copyRoutes r) :=
  ⟨rfl, rfl, rfl, rfl, rfl, rfl, rfl, rfl, rfl, rfl, rfl, rfl, rfl, rfl⟩

theorem OnlyRegs.graftRegion (r : Rgn) : OnlyRegs s (s.graftRegion addr via r) :=
  ((OnlyRegs.copyRoutes s r).trans (.put ..)).trans (.put ..)

/-- The control register of the tables lies below the tables. -/
theorem route_home_lt (v : Nat) : RGN_ROUTE_CTRL.ACTIVE.home < (RGN_ROUTE.ENTRY v).home ∧
    RGN_ROUTE_CTRL.SWITCH.home < (RGN_ROUTE.ENTRY v).home := by
  simp only [Fld.home, RGN_ROUTE_CTRL.ACTIVE, RGN_ROUTE_CTRL.SWITCH, RGN_ROUTE.ENTRY]
  omega

theorem State.active_copyRoutes (r q : Rgn) : (s.copyRoutes r).get RGN_ROUTE_CTRL.ACTIVE q = s.get RGN_ROUTE_CTRL.ACTIVE q :=
  s.get_copyRoutes (not_routeKey (by omega) (by decide) (by decide) (.inr fun v _ => (route_home_lt v).1.ne))

/-- To turn a region reaches that region alone. -/
theorem State.get_graftRegion_ne (haddr : addr < 65536) {r q : Rgn} (hne : q ≠ r) (f : Fld) {j k : Nat} (hj : j < 65536)
    (hk : k < 65536) : (s.graftRegion addr via r).get f q j k = s.get f q j k := by
  have hval : q.val ≠ r.val := fun h => hne (Fin.ext h)
  unfold State.graftRegion
  rw [State.get_put_first_ne _ _ _ _ hval (by omega) (by decide) (by decide) (by omega) hj hk,
    State.get_put_first_ne _ _ _ _ hval (by omega) (by omega) (by omega) (by omega) hj hk]
  exact s.get_copyRoutes (not_routeKey (by omega) hj hk (.inl hval))

theorem State.graftRegion_turned (r : Rgn) :
    Turned addr via r (s.get RGN_ROUTE_CTRL.ACTIVE r) (s.graftRegion addr via r) := by
  have hactive := s.active_copyRoutes r r
  have hvia : (128 + via.val) % 2 ^ 8 = 128 + via.val := Nat.mod_eq_of_lt (by omega)
  refine ⟨State.get_put_self .., ?_, ?_⟩
  · unfold State.graftRegion
    rw [State.get_put_part _ (by decide),
      State.get_put_of_home_lt _ (route_home_lt _).1 _ _ _ _ (by omega) (by decide) (by decide), hactive]
  · unfold State.graftRegion
    rw [State.get_put_of_lower _ (route_home_lt _).2 _ _ _ _ (by omega) (by omega) (by omega), hactive, State.get_put_self]
    exact hvia

end

section
variable {s : State} {addr : BitVec 16} {via : Lnk}

theorem Turned.graftRegion_ne {t : State} {r q : Rgn} (hne : r ≠ q) {a : Nat} (h : Turned addr.toNat via r a t) :
    Turned addr.toNat via r a (t.graftRegion addr.toNat via q) := by
  have haddr : addr.toNat < 65536 := addr.isLt
  refine ⟨?_, ?_, ?_⟩
  · exact (t.get_graftRegion_ne via haddr hne _ (by decide) (by decide)).trans h.switch
  · exact (t.get_graftRegion_ne via haddr hne _ (by decide) (by decide)).trans h.active
  · exact (t.get_graftRegion_ne via haddr hne _ (by omega) (by omega)).trans h.entry

/-- A neighbour turns every region by itself. -/
theorem completes_graft_neighbour : Completes (.graft addr false via) s (fun t => OnlyRegs s t ∧
    ∀ r : Rgn, Turned addr.toNat via r (s.get RGN_ROUTE_CTRL.ACTIVE r) t) := by
  have haddr : addr.toNat < 65536 := addr.isLt
  have hturned : ∀ r ∈ allRegions, Turned addr.toNat via r (s.get RGN_ROUTE_CTRL.ACTIVE r)
      (allRegions.foldl (State.graftRegion addr.toNat via) s) := by
    refine foldl_each (apart := (· ≠ ·))
      (Before := fun (r : Rgn) (t : State) => t.get RGN_ROUTE_CTRL.ACTIVE r = s.get RGN_ROUTE_CTRL.ACTIVE r)
      (fun t r hkept => ?_) (fun t r q hne hkept => ?_) (fun t r q hne h => h.graftRegion_ne hne) allRegions_nodup (fun _ _ => rfl)
    · exact hkept ▸ t.graftRegion_turned via r
    · exact (t.get_graftRegion_ne via haddr hne.symm _ (by decide) (by decide)).trans hkept
  exact ⟨_, rfl, .foldl (fun t r => .graftRegion t via r) _ s, fun r => hturned r (mem_allRegions r)⟩

theorem State.graftGo_spare (h : s.bit HUB_FAB.SPARE = true) : s.graftGo = s.put HUB_GRAFT.GO 1 := if_pos h

theorem State.graftGo_other (h : s.bit HUB_FAB.SPARE = false) : s.graftGo = s := if_neg (by rw [h]; decide)

/-- A spare takes the address. -/
theorem completes_graft_spare (h : s.bit HUB_FAB.SPARE = true) : Completes (.graft addr true via) s (fun t =>
    t.get HUB_GRAFT.ADDR = addr.toNat ∧ t.get HUB_GRAFT.GO = 1 ∧ SameRegs s t [HUB_GRAFT.ADDR, HUB_GRAFT.GO] ∧
    OnlyRegs s t) := by
  have hstill : (s.put HUB_GRAFT.ADDR addr.toNat).bit HUB_FAB.SPARE = true :=
    (congrArg (· != 0) (State.get_put_hub s (by decide) _)).trans h
  have hgraft : s.graft addr.toNat true via = (s.put HUB_GRAFT.ADDR addr.toNat).put HUB_GRAFT.GO 1 :=
    (if_pos h).trans (State.graftGo_spare hstill)
  refine ⟨_, congrArg Host.Outcome.next hgraft, ?_, State.get_put_self .., ?_, (OnlyRegs.put ..).trans (.put ..)⟩
  · rw [State.get_put_hub _ (by decide), State.get_put_self]
    exact Nat.mod_eq_of_lt addr.isLt
  · exact ((SameRegs.refl s _).then_put_hub (by simp) _).then_put_hub (by simp) _

theorem State.graft_other (h : s.bit HUB_FAB.SPARE = false) : s.graft addr.toNat true via = s :=
  (if_pos rfl).trans (if_neg (by rw [h]; decide))

theorem completes_graftGo (h : s.bit HUB_FAB.SPARE = true) : Completes .graftGo s (fun t => t.get HUB_GRAFT.GO = 1 ∧
    SameRegs s t [HUB_GRAFT.GO] ∧ OnlyRegs s t) :=
  ⟨_, congrArg Host.Outcome.next (State.graftGo_spare h), State.get_put_self .., .put s _ _ (by decide) (by decide) (by decide),
    .put ..⟩

end

/-! ### Hardening-off (R328, R330-R332) -/

section
variable {s : State}

theorem completes_hardenReq (h : s.get HUB_HARDEN.STATE ≠ 1) : Completes .hardenReq s (fun t => t.get HUB_HARDEN.REQ = 1 ∧
    SameRegs s t [HUB_HARDEN.REQ] ∧ OnlyRegs s t) :=
  ⟨_, congrArg Host.Outcome.next (if_neg h), State.get_put_self .., .put s _ _ (by decide) (by decide) (by decide), .put ..⟩

theorem completes_unitAdmit (hstate : s.get HUB_HARDEN.STATE = 1)
    (hclean : s.get HUB_HARDEN.KIND = 2 ∨ s.get HUB_HARDEN.BELLS ≤ s.get HUB_HARDEN.CLEAN) :
    Completes .unitAdmit s (fun t => t.get HUB_HARDEN.STATE = 2 ∧ t.hub.admitted = true ∧
      SameRegs s t [HUB_HARDEN.STATE] ∧ t.regions = s.regions ∧ t.mem = s.mem) :=
  ⟨_, congrArg Host.Outcome.next (if_pos ⟨hstate, hclean⟩), (State.get_modHub ..).trans (State.get_put_self ..), rfl,
    (SameRegs.put s _ _ (by decide) (by decide) (by decide)).modHub _, rfl, rfl⟩

theorem exec_unitAdmit_other (h : s.get HUB_HARDEN.STATE ≠ 1 ∨
      (s.get HUB_HARDEN.KIND ≠ 2 ∧ s.get HUB_HARDEN.CLEAN < s.get HUB_HARDEN.BELLS)) : exec .unitAdmit s = .next s := by
  refine congrArg Host.Outcome.next (if_neg ?_)
  rintro ⟨hstate, hclean⟩
  exact h.elim (fun hne => hne hstate) fun ⟨hkind, hfew⟩ => hclean.elim hkind fun hle => absurd hfew (Nat.not_lt.2 hle)

/-- A unit whose attempts have failed is to be asked for again (R332). -/
def State.asksAgain (s : State) (k r : BitVec 2) (i : BitVec 5) : Prop :=
  1 ≤ s.attemptsOf (k.toNat, r.toNat, i.toNat) ∧ s.attemptsOf (k.toNat, r.toNat, i.toNat) < 4 ∧
    s.retryDue (k.toNat, r.toNat, i.toNat) = true ∧ s.get HUB_HARDEN.STATE ≠ 1 ∧ k ≠ 3

variable {k r : BitVec 2} {i : BitVec 5}

/-- Three of the four codes of KIND name units. -/
theorem kind_ne_three : k ≠ 3 ↔ k.toNat < 3 := by decide +revert

/-- The unit named in HUB_HARDEN, and asked for. -/
def State.askFor (s : State) (k r i : Nat) : State :=
  (((s.put HUB_HARDEN.KIND k).put HUB_HARDEN.REGION r).put HUB_HARDEN.INDEX i).put HUB_HARDEN.REQ 1

theorem State.hardenRetry_again (h : s.asksAgain k r i) :
    s.hardenRetry k.toNat r.toNat i.toNat = s.askFor k.toNat r.toNat i.toNat := by
  rw [State.asksAgain, kind_ne_three] at h
  exact if_pos h

theorem State.hardenRetry_idle (h : ¬ s.asksAgain k r i) : s.hardenRetry k.toNat r.toNat i.toNat = s := by
  rw [State.asksAgain, kind_ne_three] at h
  exact if_neg h

theorem completes_hardenRetry (h : s.asksAgain k r i) : Completes (.hardenRetry k r i) s (fun t =>
    t.get HUB_HARDEN.KIND = k.toNat ∧ t.get HUB_HARDEN.REGION = r.toNat ∧ t.get HUB_HARDEN.INDEX = i.toNat ∧
    t.get HUB_HARDEN.REQ = 1 ∧
    SameRegs s t [HUB_HARDEN.KIND, HUB_HARDEN.REGION, HUB_HARDEN.INDEX, HUB_HARDEN.REQ] ∧ OnlyRegs s t) := by
  refine ⟨_, congrArg Host.Outcome.next (State.hardenRetry_again h), ?kind, ?region, ?index, State.get_put_self .., ?same,
    (((OnlyRegs.put ..).trans (.put ..)).trans (.put ..)).trans (.put ..)⟩
  all_goals unfold State.askFor
  case kind =>
    rw [State.get_put_hub _ (by decide), State.get_put_hub _ (by decide), State.get_put_hub _ (by decide), State.get_put_self]
    exact Nat.mod_eq_of_lt k.isLt
  case region =>
    rw [State.get_put_hub _ (by decide), State.get_put_hub _ (by decide), State.get_put_self]
    exact Nat.mod_eq_of_lt r.isLt
  case index =>
    rw [State.get_put_hub _ (by decide), State.get_put_self]
    exact Nat.mod_eq_of_lt i.isLt
  case same =>
    exact ((((SameRegs.refl s _).then_put_hub (by simp) _).then_put_hub (by simp) _).then_put_hub (by simp) _).then_put_hub
      (by simp) _

end

/-! ### The securing interval (R309, R318, R319) -/

/-- What the recommendations of R318 leave alone. -/
structure Recommends (s t : State) : Prop where
  regs : SameRegs s t [SE_SEC0.REC]
  mem : t.mem = s.mem
  regions : t.regions = s.regions
  parts : t.parts = s.parts
  out : t.out = s.out

theorem Recommends.refl (s : State) : Recommends s s := ⟨.refl s _, rfl, rfl, rfl, rfl⟩

theorem Recommends.trans {s t u : State} (a : Recommends s t) (b : Recommends t u) : Recommends s u :=
  ⟨a.regs.trans b.regs, b.mem.trans a.mem, b.regions.trans a.regions, b.parts.trans a.parts, b.out.trans a.out⟩

theorem Recommends.foldl {α : Type} {f : State → α → State} {l : List α} (hf : ∀ s, ∀ a ∈ l, Recommends s (f s a))
    (s : State) : Recommends s (l.foldl f s) :=
  List.foldlRecOn (motive := (Recommends s ·)) l _ (.refl s) fun t ht a ha => ht.trans (hf t a ha)

theorem Recommends.recommendPair (s : State) (i : Nat) {k p : Nat} (hk : k < 65536) (hp : p < 65536) :
    Recommends s (s.recommendPair i k p) := by
  unfold State.recommendPair
  dsimp only
  split
  · exact .refl s
  · exact ⟨(SameRegs.put s _ _ hk hp (by decide)).modHub _, rfl, rfl, rfl, rfl⟩

/-- The pairs of the stacks of a partition's regions are recommended a method. -/
def State.recommendAll (s : State) (p : Prt) (i : Nat) : State :=
  (s.regionsOf p).foldl (fun s r => (List.range 6).foldl (fun s j => (List.range 64).foldl (fun s q =>
    s.recommendPair i (6 * r.val + j) q) s) s) s

theorem Recommends.recommendAll (s : State) (p : Prt) (i : Nat) : Recommends s (s.recommendAll p i) :=
  .foldl (fun s _ _ => .foldl (fun s _ hj => .foldl (fun s _ hq => .recommendPair s i
    (by have := List.mem_range.1 hj; omega) (by have := List.mem_range.1 hq; omega)) s) s) s

/-- The step that an interval takes effect from: two past the last of the job's regions, the model's choice of the
least that R309 allows. -/
def State.atStep (s : State) (p : Prt) : Nat :=
  (s.regionsOf p).foldl (fun (a : Nat) (r : Rgn) => max a (s.get RGN_GEN_STEP.STEP r)) 0 + 2

/-- The other modules of a job are told of an interval. -/
def State.agree (s : State) (p : Prt) (atStep i : Nat) : State :=
  s.emitAll (s.parts[p].members.map (fun a => .icholt a (.secAgree
    (BitVec.ofNat 16 (s.get PROC_PART_CFG.JOB_TAG p)) (BitVec.ofNat 32 atStep) (BitVec.ofNat 8 i))))

theorem intervalOf_pos (k : Nat) (m : SecMeas) : 0 < intervalOf k m := by
  unfold intervalOf
  split
  · exact Nat.one_pos
  · exact Nat.lt_of_lt_of_le Nat.one_pos (Nat.le_max_left ..)

section
variable {s t : State} (p : Prt) (m : SecMeas)

theorem Recommends.get_part (h : Recommends s t) {f : Fld} (hf : f.home ≠ SE_SEC0.REC.home) : t.get f p = s.get f p :=
  h.regs _ _ _ _ (by omega) (by decide) (by decide) (by simpa using hf)

theorem Recommends.atStep (h : Recommends s t) : t.atStep p = s.atStep p := by
  have hstep (r : Rgn) : t.get RGN_GEN_STEP.STEP r = s.get RGN_GEN_STEP.STEP r := h.get_part r (by decide)
  unfold State.atStep
  rw [h.regs.regionsOf (by decide)]
  simp only [hstep]

/-- A new interval is written and told; one that is in force already is left. -/
theorem State.intervalUpdate_eq {u : State} {i : Nat} (hu : u = s.recommendAll p i)
    (hi : i = intervalOf (s.get HUB_SEC_CTRL.K p) m) : s.intervalUpdate p m = if i = u.get HUB_SEC_CTRL.INTERVAL p then u
      else (u.setInterval p (u.atStep p) i).agree p (u.atStep p) i := by
  subst hu hi
  refine ite_congr rfl (fun _ => rfl) fun _ => ?_
  exact State.foldl_eq_emitAll (fun _ _ _ => rfl) _

theorem State.setInterval_frame (s : State) (n i : Nat) : (s.setInterval p n i).mem = s.mem ∧
    (s.setInterval p n i).regions = s.regions ∧ (s.setInterval p n i).parts = s.parts ∧
    (s.setInterval p n i).get PROC_PART_CFG.JOB_TAG p = s.get PROC_PART_CFG.JOB_TAG p := by
  unfold State.setInterval
  dsimp only
  split
  · exact ⟨rfl, rfl, rfl, State.get_put_part _ (by decide) _ _⟩
  · exact ⟨rfl, rfl, rfl, (State.get_put_part _ (by decide) _ _).trans (State.get_put_part _ (by decide) _ _)⟩

theorem State.get_setInterval (s : State) (n : Nat) {i : Nat} (hi : 0 < i) :
    (s.setInterval p n i).get HUB_SEC_CTRL.INTERVAL p = i % 256 ∧
      (s.setInterval p n i).get HUB_SEC_CTRL.AT_STEP p = n % 2 ^ 32 := by
  unfold State.setInterval
  dsimp only
  rw [if_neg hi.ne']
  exact ⟨State.get_put_self .., (State.get_put_part _ (by decide) _ _).trans (State.get_put_self ..)⟩

variable {p m} {i : Nat} (hi : i = intervalOf (s.get HUB_SEC_CTRL.K p) m)
include hi

theorem completes_interval_new (hnew : i ≠ s.get HUB_SEC_CTRL.INTERVAL p) : Completes (.intervalUpdate p m) s (fun t =>
    t.get HUB_SEC_CTRL.INTERVAL p = i % 256 ∧ t.get HUB_SEC_CTRL.AT_STEP p = s.atStep p % 2 ^ 32 ∧
    t.mem = s.mem ∧ t.regions = s.regions ∧ ∀ a ∈ s.parts[p].members, Out.icholt a (.secAgree
      (BitVec.ofNat 16 (s.get PROC_PART_CFG.JOB_TAG p)) (BitVec.ofNat 32 (s.atStep p)) (BitVec.ofNat 8 i)) ∈ t.out) := by
  have hpos : 0 < i := hi ▸ intervalOf_pos _ m
  have hrec := Recommends.recommendAll s p i
  generalize hu : s.recommendAll p i = u at hrec
  have hupdate := (State.intervalUpdate_eq p m hu.symm hi).trans (if_neg fun h => hnew (h.trans (hrec.get_part p (by decide))))
  rw [hrec.atStep] at hupdate
  obtain ⟨hinterval, hat⟩ := State.get_setInterval p u (s.atStep p) hpos
  obtain ⟨hmem, hregions, hparts, htag⟩ := State.setInterval_frame p u (s.atStep p) i
  refine ⟨_, congrArg Host.Outcome.next hupdate, hinterval, hat, hmem.trans hrec.mem, hregions.trans hrec.regions,
    fun a ha => ?_⟩
  rw [← hrec.parts, ← hparts] at ha
  rw [← hrec.get_part p (f := PROC_PART_CFG.JOB_TAG) (by decide), ← htag]
  exact List.mem_append_right _ (List.mem_map_of_mem ha)

theorem completes_interval_same (hsame : i = s.get HUB_SEC_CTRL.INTERVAL p) : Completes (.intervalUpdate p m) s (fun t =>
    SameRegs s t [SE_SEC0.REC] ∧ t.out = s.out ∧ t.mem = s.mem ∧ t.regions = s.regions) := by
  have hrec := Recommends.recommendAll s p i
  have hupdate := (State.intervalUpdate_eq p m rfl hi).trans (if_pos (hsame.trans (hrec.get_part p (by decide)).symm))
  exact ⟨_, congrArg Host.Outcome.next hupdate, hrec.regs, hrec.out, hrec.mem, hrec.regions⟩

end

/-- Settles O46: each request by its condition; a graft region by region, notices and agreements as lists of messages. -/
theorem graftsHardeningAndIntervals : Obligations.GraftsHardeningAndIntervals := by
  unfold Obligations.GraftsHardeningAndIntervals
  refine ⟨fun s => ⟨?failed, ?grafts, completes_graftGo, completes_hardenReq, fun hbusy => ?waits, completes_unitAdmit,
    exec_unitAdmit_other, ?retries⟩, ?intervals⟩
  case failed =>
    rintro addr away rfl
    exact ⟨completes_positionFailed, fun h => congrArg Host.Outcome.next (State.positionFailed_of_not_away h)⟩
  case grafts =>
    refine fun addr via => ⟨completes_graft_spare, fun hother => ⟨?_, ?_⟩, ?_⟩
    · exact congrArg Host.Outcome.next (State.graft_other hother)
    · exact congrArg Host.Outcome.next (State.graftGo_other hother)
    · obtain ⟨t, hexec, honly, hturned⟩ := completes_graft_neighbour (s := s) (addr := addr) (via := via)
      refine ⟨t, hexec, honly, fun r => ?_⟩
      obtain ⟨hswitch, hactive, hentry⟩ := hturned r
      exact ⟨hswitch, hactive, hentry⟩
  case waits => exact congrArg Host.Outcome.next (if_pos hbusy)
  case retries =>
    rintro k r i again rfl
    exact ⟨completes_hardenRetry, fun h => congrArg Host.Outcome.next (State.hardenRetry_idle h)⟩
  case intervals =>
    rintro s p m i atStep hi rfl
    exact ⟨completes_interval_new hi, completes_interval_same hi⟩

end Sys2Proof.Machine
end

section
/-!
Pairing (R320), and the settlement of O44. Every pairing ends by one operation, whatever ends it; an answer is kept first and
then ends the pairing or not. A member of a group does not ask itself, so that its answer is not waited for (log entry 27).
-/
namespace Sys2Proof.Machine

/-! ### The pairs drained to an entry -/

theorem State.get_put_zero {s : State} {f : Fld} {a b c : Nat} (h : s.get f a b c = 0) (i j k : Nat) :
    (s.put f 0 i j k).get f a b c = 0 := by
  by_cases hkey : f.key a b c = f.key i j k
  · unfold State.get
    rw [hkey]
    exact (State.get_put_self s f 0 i j k).trans (Nat.zero_mod _)
  · rw [State.get_put_ne _ _ _ _ _ _ _ _ _ _ hkey, h]

section
variable (s : State) (r : Rgn) (e : Fin 16)

/-- Whether pair p of stack i of a region has been drained to an entry. -/
abbrev State.drainedInto (s : State) (r : Rgn) (e : Fin 16) (i p : Nat) : Prop :=
  bitsAt (kget s.hub.drainedTo (64 * (6 * r.val + i) + p) 0) e 1 = 1

/-- A pair drained to an entry is secured no more. -/
def State.unsecurePair (r : Rgn) (e : Fin 16) (i : Nat) (s : State) (p : Nat) : State :=
  if s.drainedInto r e i p then s.put SE_SEC0.SEC_VALID 0 (6 * r.val + i) p else s

def State.unsecureStack (r : Rgn) (e : Fin 16) (s : State) (i : Nat) : State := (List.range 64).foldl (.unsecurePair r e i) s

def State.unsecure (s : State) (r : Rgn) (e : Fin 16) : State := (List.range 6).foldl (.unsecureStack r e) s

theorem OnlyRegs.unsecurePair (i p : Nat) : OnlyRegs s (s.unsecurePair r e i p) := .ite (.put ..) (.refl s)
theorem OnlyRegs.unsecureStack (i : Nat) : OnlyRegs s (s.unsecureStack r e i) := .foldl (fun t p => .unsecurePair t r e i p) _ s
theorem OnlyRegs.unsecure : OnlyRegs s (s.unsecure r e) := .foldl (fun t i => .unsecureStack t r e i) _ s

theorem SameRegs.unsecure : SameRegs s (s.unsecure r e) [SE_SEC0.SEC_VALID] := by
  refine List.foldlRecOn (motive := (SameRegs s · _)) _ _ (.refl s _) fun t ht i hi => ht.trans ?_
  refine List.foldlRecOn (motive := (SameRegs t · _)) _ _ (.refl t _) fun u hu p hp => hu.trans ?_
  have hstack := List.mem_range.1 hi
  have hpair := List.mem_range.1 hp
  exact .ite (.put u _ _ (by omega) (by omega) (by decide)) (.refl u _)

theorem State.unsecurePair_keeps {s : State} {k q : Nat} (h : s.get SE_SEC0.SEC_VALID k q = 0) (i p : Nat) :
    (s.unsecurePair r e i p).get SE_SEC0.SEC_VALID k q = 0 := by
  unfold State.unsecurePair
  split
  · exact State.get_put_zero h ..
  · exact h

theorem State.unsecureStack_keeps {s : State} {k q : Nat} (h : s.get SE_SEC0.SEC_VALID k q = 0) (i : Nat) :
    (s.unsecureStack r e i).get SE_SEC0.SEC_VALID k q = 0 :=
  List.foldlRecOn (motive := fun t : State => t.get SE_SEC0.SEC_VALID k q = 0) _ _ h fun _ ht p _ =>
    State.unsecurePair_keeps r e ht i p

theorem State.unsecureStack_clears (i : Nat) : ∀ p ∈ List.range 64, s.drainedInto r e i p →
    (s.unsecureStack r e i).get SE_SEC0.SEC_VALID (6 * r.val + i) p = 0 :=
  foldl_each (apart := fun _ _ => True) (Before := fun _ (t : State) => t.hub = s.hub)
    (After := fun p t => s.drainedInto r e i p → t.get SE_SEC0.SEC_VALID (6 * r.val + i) p = 0)
    (fun t p hhub hdrained => by
      rw [State.drainedInto, ← hhub] at hdrained
      rw [State.unsecurePair, if_pos hdrained, State.get_put_self, Nat.zero_mod])
    (fun t p _ _ hhub => (OnlyRegs.unsecurePair t r e i p).hub.trans hhub)
    (fun _ _ q _ hdone hdrained => State.unsecurePair_keeps r e (hdone hdrained) i q)
    (List.pairwise_of_forall fun _ _ => trivial) (fun _ _ => rfl)

theorem State.unsecure_clears : ∀ i ∈ List.range 6, ∀ p ∈ List.range 64, s.drainedInto r e i p →
    (s.unsecure r e).get SE_SEC0.SEC_VALID (6 * r.val + i) p = 0 :=
  foldl_each (apart := fun _ _ => True) (Before := fun _ (t : State) => t.hub = s.hub)
    (After := fun i t => ∀ p ∈ List.range 64, s.drainedInto r e i p → t.get SE_SEC0.SEC_VALID (6 * r.val + i) p = 0)
    (fun t i hhub p hp hdrained => t.unsecureStack_clears r e i p hp (by rwa [State.drainedInto, hhub]))
    (fun t i _ _ hhub => (OnlyRegs.unsecureStack t r e i).hub.trans hhub)
    (fun _ _ j _ hdone p hp hdrained => State.unsecureStack_keeps r e (hdone p hp hdrained) j)
    (List.pairwise_of_forall fun _ _ => trivial) (fun _ _ => rfl)

/-! ### A request -/

/-- The pairing of an entry in the place of an earlier one. -/
def State.putPairing (s : State) (x : Pairing) : State := s.modHub (fun h => { h with
  pairings := h.pairings.filter (fun p => !(p.region == x.region && p.entry == x.entry)) ++ [x] })

theorem State.mem_putPairing (x : Pairing) : x ∈ (s.putPairing x).hub.pairings := List.mem_append_right _ List.mem_cons_self

/-- A request before it leaves. -/
def State.openPairing (s : State) (r : Rgn) (e : Fin 16) : State :=
  ((s.put RGN_SEC_TGT.PAIR 1 r e).unsecure r e).putPairing { region := r.val, entry := e.val, bells := 0, answers := [] }

theorem Moves.pairRequest : Moves (s.openPairing r e) (s.pairRequest r e) := by
  refine Moves.foldl (fun t a => Moves.send t r ?_) _ _
  have htype (m : DrainMsg) : (t.drainFlit a dkPair m).hdr.type.toNat = ftDrain := rfl
  rw [htype]
  decide

theorem completes_pairRequest : Completes (.pairRequest r e) s (fun t => t.get RGN_SEC_TGT.PAIR r e = 1 ∧
    { region := r.val, entry := e.val, bells := 0, answers := [] } ∈ t.hub.pairings ∧ t.mem = s.mem ∧
    ∀ i < 6, ∀ p < 64, s.drainedInto r e i p → t.get SE_SEC0.SEC_VALID (6 * r.val + i) p = 0) := by
  have hmoves := Moves.pairRequest s r e
  obtain ⟨hedge, hhub⟩ := hmoves.hub
  have honly := OnlyRegs.unsecure (s.put RGN_SEC_TGT.PAIR 1 r e) r e
  refine ⟨_, rfl, ?_, ?_, hmoves.mem.trans honly.mem, fun i hi p hp hdrained => ?_⟩
  · exact (hmoves.get ..).trans ((SameRegs.unsecure _ r e _ _ _ _ (by omega) (by omega) (by decide) (by decide)).trans
      (State.get_put_self ..))
  · rw [hhub]
    exact State.mem_putPairing ..
  · exact (hmoves.get ..).trans
      (State.unsecure_clears (s.put RGN_SEC_TGT.PAIR 1 r e) r e i (List.mem_range.2 hi) p (List.mem_range.2 hp) hdrained)

end

/-! ### The end of a pairing -/

/-- STATE of an entry whose pairing has ended: paired, a same feed that OVERRIDE allows in a mirror, or not. -/
def State.stateAfter (s : State) (r : Rgn) (e : Fin 16) (result : Nat) : Nat :=
  if result = 1 then 1 else if result == 2 && s.bit RGN_SEC_TGT.OVERRIDE r e && !s.tgtParity r e then 2 else 3

/-- A pairing that has ended with a result. -/
structure PairingEnds (s t : State) (r : Rgn) (e : Fin 16) (code : Nat) : Prop where
  result : t.get RGN_SEC_TGT.RESULT r e = code
  pair : t.get RGN_SEC_TGT.PAIR r e = 0
  state : t.get RGN_SEC_TGT.STATE r e = s.stateAfter r e code
  gone : ∀ y ∈ t.hub.pairings, ¬ (y.region = r.val ∧ y.entry = e.val)

section
variable (s : State) (r : Rgn) (e : Fin 16)

/-- What the entry shows, before a refusal counts. -/
def State.showResult (s : State) (r : Rgn) (e : Fin 16) (result : Nat) : State :=
  (((s.put RGN_SEC_TGT.RESULT result r e).put RGN_SEC_TGT.PAIR 0 r e).put RGN_SEC_TGT.STATE (s.stateAfter r e result) r e).modHub
    (fun h => { h with pairings := h.pairings.filter (fun p => !(p.region == r.val && p.entry == e.val)) })

/-- A refusal counts, a pairing and an overridden same feed do not. -/
theorem State.pairDone_cases (result : Nat) : s.pairDone r e result = s.showResult r e result ∨
    s.pairDone r e result = (s.showResult r e result).bump HUB_SEC_ERR.PAIR_REFUSED := by
  unfold State.pairDone
  dsimp only
  split
  · exact .inl rfl
  · exact .inr rfl

theorem State.pairDone_frame (result : Nat) :
    (s.pairDone r e result).mem = s.mem ∧ (s.pairDone r e result).regions = s.regions := by
  obtain h | h := s.pairDone_cases r e result
  all_goals exact ⟨by rw [h]; rfl, by rw [h]; rfl⟩

theorem State.stateAfter_lt (result : Nat) : s.stateAfter r e result < 4 := by
  unfold State.stateAfter
  split
  · decide
  · split <;> decide

theorem PairingEnds.showResult {result : Nat} (hresult : result < 16) :
    PairingEnds s (s.showResult r e result) r e result := by
  have kept (u : State) {f g : Fld} (v : Nat) (h : f.home ≠ g.home) : (u.put g v r e).get f r e = u.get f r e :=
    State.get_put_of_home_ne u h v (by omega) (by omega)
  refine ⟨?_, ?_, ?_, fun y hy ⟨hregion, hentry⟩ => ?_⟩
  · exact (kept _ _ (by decide)).trans ((kept _ _ (by decide)).trans ((State.get_put_self ..).trans (Nat.mod_eq_of_lt hresult)))
  · exact (kept _ _ (by decide)).trans (State.get_put_self ..)
  · exact (State.get_put_self ..).trans (Nat.mod_eq_of_lt (s.stateAfter_lt r e result))
  · have hleft := (List.mem_filter.1 hy).2
    simp [hregion, hentry] at hleft

theorem PairingEnds.bump {s t : State} {r : Rgn} {e : Fin 16} {result : Nat} (h : PairingEnds s t r e result) :
    PairingEnds s (t.bump HUB_SEC_ERR.PAIR_REFUSED) r e result := by
  have kept {f : Fld} (hf : f.home ≠ HUB_SEC_ERR.PAIR_REFUSED.home) :
      (t.bump HUB_SEC_ERR.PAIR_REFUSED).get f r e = t.get f r e :=
    SameRegs.bump t _ _ (by decide) (by decide) (by decide) _ _ _ _ (by omega) (by omega) (by decide) (by simpa using hf)
  exact ⟨(kept (by decide)).trans h.result, (kept (by decide)).trans h.pair, (kept (by decide)).trans h.state, h.gone⟩

theorem PairingEnds.pairDone {result : Nat} (hresult : result < 16) : PairingEnds s (s.pairDone r e result) r e result := by
  have hshown := PairingEnds.showResult s r e hresult
  obtain h | h := s.pairDone_cases r e result
  · rwa [h]
  · rw [h]
    exact hshown.bump

theorem PairingEnds.of_putPairing {s t : State} {x : Pairing} {r : Rgn} {e : Fin 16} {code : Nat}
    (h : PairingEnds (s.putPairing x) t r e code) : PairingEnds s t r e code := ⟨h.result, h.pair, h.state, h.gone⟩

/-! ### A timeout -/

variable {s r e}

theorem State.pairing_due_iff :
    s.hub.pairings.any (fun x => x.region == r.val && x.entry == e.val && decide (16 ≤ x.bells)) = true ↔
      ∃ x ∈ s.hub.pairings, x.region = r.val ∧ x.entry = e.val ∧ 16 ≤ x.bells := by
  simp [and_assoc]

theorem completes_pairTimeout (h : ∃ x ∈ s.hub.pairings, x.region = r.val ∧ x.entry = e.val ∧ 16 ≤ x.bells) :
    Completes (.pairTimeout r e) s (fun t => t.get RGN_SEC_TGT.RESULT r e = 5 ∧ t.get RGN_SEC_TGT.STATE r e = 3 ∧
      t.get RGN_SEC_TGT.PAIR r e = 0 ∧ t.mem = s.mem ∧ ∀ x ∈ t.hub.pairings, ¬ (x.region = r.val ∧ x.entry = e.val)) := by
  obtain ⟨hresult, hpair, hstate, hgone⟩ := PairingEnds.pairDone s r e (result := 5) (by decide)
  obtain ⟨hmem, -⟩ := s.pairDone_frame r e 5
  exact ⟨_, congrArg Host.Outcome.next (if_pos (State.pairing_due_iff.2 h)), hresult, hstate, hpair, hmem, hgone⟩

theorem exec_pairTimeout_early (h : ∀ x ∈ s.hub.pairings, x.region = r.val → x.entry = e.val → x.bells < 16) :
    exec (.pairTimeout r e) s = .next s := by
  refine congrArg Host.Outcome.next (if_neg fun hdue => ?_)
  obtain ⟨x, hx, hregion, hentry, hlate⟩ := State.pairing_due_iff.1 hdue
  exact absurd (h x hx hregion hentry) (Nat.not_lt.2 hlate)

end

/-! ### An answer -/

section
variable {s : State} {m : DrainMsg}

/-- A pairing that an answer is for: of its store and kind, with its sender among the holders and not heard yet. -/
def State.Answers (s : State) (m : DrainMsg) (y : Pairing) : Prop :=
  s.get RGN_SEC_TGT.STORE y.region y.entry = m.store.toNat ∧ s.tgtParity y.region y.entry = drP m ∧
    m.src.toNat ∈ s.holders y.region y.entry ∧ ∀ a ∈ y.answers, a.1 ≠ m.src.toNat

theorem State.answers_iff {y : Pairing} : s.Answers m y ↔ (s.get RGN_SEC_TGT.STORE y.region y.entry == m.store.toNat &&
    s.tgtParity y.region y.entry == drP m && (s.holders y.region y.entry).contains m.src.toNat &&
    !y.answers.any (fun a => a.1 == m.src.toNat)) = true := by
  simp [State.Answers, and_assoc]

theorem State.pairAck_none (h : ∀ x ∈ s.hub.pairings, ¬ s.Answers m x) : s.pairAck m = s := by
  unfold State.pairAck
  rw [List.find?_eq_none.2 fun x hx hb => h x hx (State.answers_iff.2 hb)]

theorem State.pairAck_some {x : Pairing} (hx : x ∈ s.hub.pairings) (hanswers : s.Answers m x)
    (honly : ∀ y ∈ s.hub.pairings, s.Answers m y → y = x) :
    s.pairAck m = s.pairAnswer x m.src.toNat (leAt m.data 0 1) m.status.toNat := by
  unfold State.pairAck
  split
  case h_1 y hy =>
    have hfound := List.find?_some hy
    rw [honly y (List.mem_of_find?_eq_some hy) (State.answers_iff.2 hfound)]
  case h_2 hnone => exact absurd (State.answers_iff.1 hanswers) (List.find?_eq_none.1 hnone x hx)

end

/-- A pairing with one more answer. -/
def Pairing.heard (x : Pairing) (src feed status : Nat) : Pairing := { x with answers := x.answers ++ [(src, feed, status)] }

/-- The feed of an answer is that of this module or of a member that has answered. -/
def State.sameFeed (s : State) (x : Pairing) (feed : Nat) : Prop :=
  feed = s.get HUB_FAB.FEED_ID ∨ ∃ a ∈ x.answers, a.2.1 = feed

/-- With an answer of this sender, every holder but this module in its own group has answered. -/
def State.allHeard (s : State) (x : Pairing) (r : Rgn) (e : Fin 16) (parity : Bool) (src : Nat) : Prop :=
  ∀ a ∈ s.holders r e, parity = true ∧ a = s.addr ∨ a = src ∨ ∃ y ∈ x.answers, y.1 = a

section
variable {s : State} {x : Pairing} {r : Rgn} {e : Fin 16} {src feed status : Nat} {parity : Bool}

theorem State.sameFeed_iff (hnew : ∀ a ∈ x.answers, a.1 ≠ src) : s.sameFeed x feed ↔
    (feed == s.get HUB_FAB.FEED_ID || (x.heard src feed status).answers.any (fun a => a.1 != src && a.2.1 == feed)) = true := by
  have hany : (x.heard src feed status).answers.any (fun a => a.1 != src && a.2.1 == feed) = true ↔
      ∃ a ∈ x.answers, a.2.1 = feed := by
    simp only [Pairing.heard, List.any_append, List.any_cons, bne_self_eq_false, Bool.false_and, List.any_nil, Bool.or_false,
      List.any_eq_true, Bool.and_eq_true, bne_iff_ne, beq_iff_eq]
    exact exists_congr fun a => and_congr_right fun ha => and_iff_right (hnew a ha)
  rw [Bool.or_eq_true, hany, beq_iff_eq, State.sameFeed]

theorem State.allHeard_iff : s.allHeard x r e parity src ↔ ((s.holders r e).filter (fun a => !(parity && a == s.addr))).all
    (fun a => (x.heard src feed status).answers.any (fun y => y.1 == a)) = true := by
  have hheard (a : Nat) : (x.heard src feed status).answers.any (fun y => y.1 == a) = true ↔
      a = src ∨ ∃ y ∈ x.answers, y.1 = a := by
    simp only [Pairing.heard, List.any_append, List.any_cons, List.any_nil, Bool.or_false, Bool.or_eq_true, List.any_eq_true,
      beq_iff_eq]
    exact or_comm.trans (or_congr_left eq_comm)
  have hasked (a : Nat) : (!(parity && a == s.addr)) = true ↔ ¬ (parity = true ∧ a = s.addr) := by
    rw [Bool.not_eq_true', ← Bool.not_eq_true, Bool.and_eq_true, beq_iff_eq]
  simp only [List.all_eq_true, List.mem_filter, hasked, hheard, and_imp]
  exact forall₂_congr fun a _ => or_iff_not_imp_left

end

/-- The result with which an answer ends a pairing, if it does: a same feed, a refusal of the store, or the last answer. -/
def pairCode (status : Nat) (same all : Prop) [Decidable same] [Decidable all] : Option Nat :=
  if status = 1 ∨ same then some 2 else if status = 2 then some 3 else if status = 3 then some 4
  else if all then some 1 else none

section
variable {status : Nat} {same all : Prop} [Decidable same] [Decidable all]

theorem pairCode_elim {α : Type} (u : α) (f : Nat → α) : (pairCode status same all).elim u f =
    if status = 1 ∨ same then f 2 else if status = 2 then f 3 else if status = 3 then f 4 else if all then f 1 else u := by
  simp only [pairCode, apply_ite (Option.elim · u f), Option.elim_some, Option.elim_none]

theorem pairCode_same (h : status = 1 ∨ same) : pairCode status same all = some 2 := if_pos h

theorem pairCode_refused (hsame : ¬ same) (h : status = 2 ∨ status = 3) : pairCode status same all = some (status + 1) := by
  obtain rfl | rfl := h <;> simp [pairCode, hsame]

theorem pairCode_good (hsame : ¬ same) : pairCode 0 same all = if all then some 1 else none := by
  simp [pairCode, hsame]

theorem pairCode_some (h : status = 1 ∨ status = 2 ∨ status = 3 ∨ same ∨ all) :
    ∃ c, pairCode status same all = some c := by
  unfold pairCode
  split
  · exact ⟨_, rfl⟩
  split
  · exact ⟨_, rfl⟩
  split
  · exact ⟨_, rfl⟩
  · exact ⟨1, if_pos (by tauto)⟩

theorem pairCode_lt {c : Nat} (h : pairCode status same all = some c) : c < 16 := by
  unfold pairCode at h
  repeat' split at h
  all_goals cases h
  all_goals decide

end

section
variable {s : State} {x : Pairing} {r : Rgn} {e : Fin 16} {src feed status : Nat} {parity : Bool}

/-- An answer is kept, and ends the pairing if it refuses or is the last. -/
theorem State.pairAnswer_eq (hregion : x.region = r.val) (hentry : x.entry = e.val) (hkind : s.tgtParity r e = parity)
    (hnew : ∀ a ∈ x.answers, a.1 ≠ src) {same all : Prop} [Decidable same] [Decidable all]
    (hsame : same ↔ s.sameFeed x feed) (hall : all ↔ s.allHeard x r e parity src) {u : State} (hu : u = s.putPairing (x.heard src feed status)) :
    s.pairAnswer x src feed status = (pairCode status same all).elim u (u.pairDone r e) := by
  subst hu
  obtain ⟨region, entry, bells, answers⟩ := x
  obtain rfl : region = r.val := hregion
  obtain rfl : entry = e.val := hentry
  have hkeep : answers.filter (fun a => a.1 != src) = answers := List.filter_eq_self.2 fun a ha => bne_iff_ne.2 (hnew a ha)
  have hrgn : r.val % 4 = r.val := Nat.mod_eq_of_lt r.isLt
  rw [pairCode_elim]
  unfold State.pairAnswer
  dsimp only
  simp only [hkeep, hrgn, hkind]
  refine ite_eq_of_iff ?_ rfl (ite_eq_of_iff Iff.rfl rfl (ite_eq_of_iff Iff.rfl rfl (ite_eq_of_iff ?_ rfl rfl)))
  · exact (Bool.or_eq_true_iff).trans (or_congr decide_eq_true_iff ((State.sameFeed_iff hnew).symm.trans hsame.symm))
  · exact (State.allHeard_iff).symm.trans hall.symm

end

section
variable {s : State} {l : Lnk} {m : DrainMsg} (hstart : s.complete = true) (htorn : s.torn m.tag.toNat = false)
include hstart htorn

theorem exec_pair : exec (.pair l m) s = .next (s.send (linkRegion l) (s.drainFlit m.src.toNat dkPairAck
    (s.drainMsg m.tag.toNat m.store.toNat (if drP m then 8 else 0)
      (s.pairStatus m.store.toNat (leAt m.data 0 1) (drP m)) 0 0 0 [BitVec.ofNat 8 (s.get HUB_FAB.FEED_ID)]))) :=
  exec_drainRow_of_eq hstart htorn rfl rfl

section
variable {x : Pairing} {r : Rgn} {e : Fin 16} {same all : Prop} [Decidable same] [Decidable all] (hx : x ∈ s.hub.pairings)
  (hanswers : s.Answers m x) (honly : ∀ y ∈ s.hub.pairings, s.Answers m y → y = x) (hregion : x.region = r.val)
  (hentry : x.entry = e.val) (hsame : same ↔ s.sameFeed x (leAt m.data 0 1))
  (hall : all ↔ s.allHeard x r e (drP m) m.src.toNat)
include hx hanswers honly hregion hentry hsame hall

theorem completes_pairAck_code : Completes (.pairAck l m) s (fun t => t.mem = s.mem ∧ t.regions = s.regions ∧
    (∀ c, pairCode m.status.toNat same all = some c → PairingEnds s t r e c) ∧
    (pairCode m.status.toNat same all = none →
      t = s.putPairing (x.heard m.src.toNat (leAt m.data 0 1) m.status.toNat))) := by
  have hack := State.pairAck_some hx hanswers honly
  obtain ⟨-, hparity, -, hnew⟩ := hanswers
  rw [hregion, hentry] at hparity
  rw [State.pairAnswer_eq hregion hentry hparity hnew hsame hall rfl] at hack
  refine ⟨_, exec_drainRow_of_eq hstart htorn rfl hack, ?_⟩
  cases hcode : pairCode m.status.toNat same all with
  | none => exact ⟨rfl, rfl, fun _ hc => (nomatch hc), fun _ => rfl⟩
  | some c =>
    obtain ⟨hmem, hregions⟩ := State.pairDone_frame (s.putPairing (x.heard m.src.toNat (leAt m.data 0 1) m.status.toNat)) r e c
    refine ⟨hmem, hregions, fun d hd => ?_, fun hnone => (nomatch hnone)⟩
    obtain rfl : c = d := Option.some.inj hd
    exact (PairingEnds.pairDone _ r e (pairCode_lt hcode)).of_putPairing

/-- What an answer leaves, by what it says. -/
theorem completes_pairAck : Completes (.pairAck l m) s (fun t => t.mem = s.mem ∧ t.regions = s.regions ∧
    (m.status = 1 ∨ same → t.get RGN_SEC_TGT.RESULT r e = 2 ∧ t.get RGN_SEC_TGT.PAIR r e = 0 ∧
      t.get RGN_SEC_TGT.STATE r e = (if s.bit RGN_SEC_TGT.OVERRIDE r e && !drP m then 2 else 3)) ∧
    (¬ same → m.status = 2 ∨ m.status = 3 → t.get RGN_SEC_TGT.RESULT r e = m.status.toNat + 1 ∧
      t.get RGN_SEC_TGT.PAIR r e = 0 ∧ t.get RGN_SEC_TGT.STATE r e = 3) ∧
    (¬ same → m.status = 0 → all → t.get RGN_SEC_TGT.RESULT r e = 1 ∧ t.get RGN_SEC_TGT.PAIR r e = 0 ∧
      t.get RGN_SEC_TGT.STATE r e = 1) ∧
    (m.status = 1 ∨ m.status = 2 ∨ m.status = 3 ∨ same ∨ all →
      ∀ y ∈ t.hub.pairings, ¬ (y.region = r.val ∧ y.entry = e.val)) ∧
    (¬ same → m.status = 0 → ¬ all → t.regs = s.regs ∧
      { x with answers := x.answers ++ [(m.src.toNat, leAt m.data 0 1, 0)] } ∈ t.hub.pairings)) := by
  have hparity : s.tgtParity r e = drP m := by
    obtain ⟨-, hparity, -⟩ := hanswers
    rwa [hregion, hentry] at hparity
  have hstatus (n : BitVec 8) : m.status = n ↔ m.status.toNat = n.toNat := BitVec.toNat_inj.symm
  obtain ⟨t, hexec, hmem, hregions, hends, hkept⟩ :=
    completes_pairAck_code hstart htorn hx hanswers honly hregion hentry hsame hall (l := l)
  simp only [hstatus]
  refine ⟨t, hexec, hmem, hregions, fun hfeed => ?feed, fun hother hrefused => ?refused, fun hother hgood hlast => ?last,
    fun hend => ?ends, fun hother hgood hmore => ?more⟩
  case feed =>
    obtain ⟨hresult, hpair, hstate, -⟩ := hends 2 (pairCode_same hfeed)
    exact ⟨hresult, hpair, hstate.trans (by rw [State.stateAfter, hparity]; rfl)⟩
  case refused =>
    obtain ⟨hresult, hpair, hstate, -⟩ := hends _ (pairCode_refused hother hrefused)
    refine ⟨hresult, hpair, hstate.trans ?_⟩
    obtain h | h := hrefused
    all_goals rw [h]; rfl
  case last =>
    obtain ⟨hresult, hpair, hstate, -⟩ := hends 1 (by rw [hgood]; exact (pairCode_good hother).trans (if_pos hlast))
    exact ⟨hresult, hpair, hstate⟩
  case ends =>
    obtain ⟨c, hc⟩ := pairCode_some hend
    exact (hends c hc).gone
  case more =>
    have hnone : pairCode m.status.toNat same all = none := by rw [hgood]; exact (pairCode_good hother).trans (if_neg hmore)
    rw [hkept hnone, hgood]
    exact ⟨rfl, State.mem_putPairing ..⟩

end
end

/-- Settles O44: a request opens a pairing, and every end of one shows its result; an answer is kept, and ends it by its code. -/
theorem pairingOutcome : Obligations.PairingOutcome := by
  unfold Obligations.PairingOutcome
  refine ⟨fun s r e => ⟨completes_pairRequest s r e, completes_pairTimeout, exec_pairTimeout_early⟩, ?_⟩
  rintro s l m answers hstart htorn rfl
  refine ⟨exec_pair hstart htorn, fun hnone => exec_drainRow_of_eq hstart htorn rfl (State.pairAck_none hnone), ?_⟩
  intro x r e same all hx hanswers honly hregion hentry hsame hall
  classical
  exact completes_pairAck hstart htorn hx hanswers honly hregion hentry (iff_of_eq hsame) (iff_of_eq hall)

end Sys2Proof.Machine
end

section
/-!
One step of the module (00_scope.md), and the CXL primary mailbox (R339), with the settlements of O1, O2 and O47.
-/
namespace Sys2Proof.Machine

/-- Settles O1: the front of the queue is what a step looks at. -/
theorem stepRunsFrontCommand : Obligations.StepRunsFrontCommand := fun _ _ _ => rfl

/-- Settles O2: a step looks at the queue alone. -/
theorem emptyQueueTicks : Obligations.EmptyQueueTicks := by
  unfold Obligations.EmptyQueueTicks
  intro s hempty
  rw [step, hempty]

/-! ### The mailbox -/

/-- A command that answers some bytes with return code 0 and changes nothing completes so. -/
theorem completes_mailbox {i : Instr} {s : State} {bytes : List Byte} {P : List Byte → Prop}
    (hexec : exec i s = s.mailbox 0 bytes) (h : P bytes) :
    Completes i s (fun t => ∃ bs, t = { s with out := s.out ++ [.mailbox 0 bs] } ∧ P bs) :=
  ⟨_, hexec, bytes, rfl, h⟩

@[simp] theorem length_openReply (op n : Nat) : (openReply op n).length = n := by simp [openReply]

/-- The three capacities of Identify Memory Device lie behind its 16 open bytes (R338). -/
theorem identify_capacities {head tail : List Byte} (hhead : head.length = 16) (a b c : Nat) :
    let bs := head ++ toLe 8 a ++ toLe 8 b ++ toLe 8 c ++ tail
    leAt bs 16 8 = ofLe (toLe 8 a) ∧ leAt bs 24 8 = ofLe (toLe 8 b) ∧ leAt bs 32 8 = ofLe (toLe 8 c) := by
  intro bs
  have hbs : bs = head ++ (toLe 8 a ++ (toLe 8 b ++ (toLe 8 c ++ tail))) := by simp [bs]
  refine ⟨?_, ?_, ?_⟩
  · rw [hbs, leAt_append_right (b := 0) (by omega), leAt_append_left (length_toLe ..)]
  · rw [hbs, leAt_append_right (b := 8) (by omega), leAt_append_right (b := 0) (by simp), leAt_append_left (length_toLe ..)]
  · rw [hbs, leAt_append_right (b := 16) (by omega), leAt_append_right (b := 8) (by simp),
      leAt_append_right (b := 0) (by simp), leAt_append_left (length_toLe ..)]

/-- A poisoned word of a host-owned granule is in the list (R231). -/
theorem State.daOf_mem_poisonList {s : State} {w : Nat} (hbad : w ∈ s.badWords)
    (hhost : s.get HUB_OWN.KIND (w / 2 ^ 27) = 1) : s.daOf (w * 8) ∈ s.poisonList :=
  List.mem_map.2 ⟨w, List.mem_filter.2 ⟨hbad, beq_iff_eq.2 hhost⟩, rfl⟩

/-- The time that was set is the time at once. -/
theorem State.timeNow_of_stamp {s : State} (h : s.hub.stampAt = some s.now) : s.timeNow = s.hub.timestamp.toNat := by
  simp [State.timeNow, h]

/-- Settles O47: an answer is sent, and nothing else changes but the records and the time that a command is for. -/
theorem mailboxAnswers : Obligations.MailboxAnswers := by
  unfold Obligations.MailboxAnswers
  intro s
  refine ⟨?identify, rfl, ?health, rfl, rfl, ⟨_, rfl, _, rfl⟩, fun _ => ⟨_, rfl, _, rfl⟩, rfl, fun w hbad hhost => ?poison,
    ⟨_, rfl, rfl⟩, fun v => ⟨_, rfl, ?time, rfl, rfl, rfl⟩, fun _ => rfl⟩
  case identify => exact completes_mailbox rfl ⟨by simp, identify_capacities (length_openReply 1 16) 6144 6144 0⟩
  case health => exact ⟨_, rfl, _, rfl, by simp⟩
  case poison => exact State.daOf_mem_poisonList hbad hhost
  case time => exact State.timeNow_of_stamp rfl

end Sys2Proof.Machine
end

section
/-!
Posts of the host and of Icholt (R340-R342, R344), and the settlement of O48. What a message that enters a pigeonhole leaves
of its registers is said once for both directions; assembling changes the hub alone, and a post changes the hub besides.
-/
namespace Sys2Proof.Machine

/-! ### The registers of a pigeonhole -/

/-- The registers that a message which enters pigeonhole i changes. -/
def enterFields (i : Nat) : List Fld := [phWord i, phFull i, phSrc i, phPosts i]

/-- The fields of a pigeonhole are those of an inbound or those of an outbound one. -/
theorem phFields_cases {P : Fld → Fld → Fld → Fld → Fld → Fld → Prop} (i : Nat)
    (hin : P PH_IN.WORD PH_IN_STAT.FULL PH_IN_STAT.SRC PH_IN_STAT.POSTS PH_IN_STAT.COLLIDE PH_IN_STAT.REJECT)
    (hout : P PH_OUT.WORD PH_OUT_STAT.FULL PH_OUT_STAT.SRC PH_OUT_STAT.POSTS PH_OUT_STAT.COLLIDE PH_OUT_STAT.REJECT) :
    P (phWord i) (phFull i) (phSrc i) (phPosts i) (phCollide i) (phReject i) := by
  unfold phWord phFull phSrc phPosts phCollide phReject
  by_cases h : i < 16
  · simpa only [if_pos h] using hin
  · simpa only [if_neg h] using hout

theorem ph_homes_ne (i : Nat) :
    ((phWord i).home ≠ (phFull i).home ∧ (phWord i).home ≠ (phSrc i).home ∧ (phWord i).home ≠ (phPosts i).home) ∧
    ((phFull i).home ≠ (phSrc i).home ∧ (phFull i).home ≠ (phPosts i).home ∧ (phPosts i).home ≠ (phSrc i).home) ∧
    ∀ f ∈ enterFields i, (phCollide i).home ≠ f.home ∧ f.home ≠ (phCollide i).home :=
  phFields_cases (P := fun w f s p c _ => (w.home ≠ f.home ∧ w.home ≠ s.home ∧ w.home ≠ p.home) ∧
    (f.home ≠ s.home ∧ f.home ≠ p.home ∧ p.home ≠ s.home) ∧ ∀ g ∈ [w, f, s, p], c.home ≠ g.home ∧ g.home ≠ c.home) i
    (by decide) (by decide)

theorem ph_widths (i : Nat) : (phWord i).width = 64 ∧ (phFull i).width = 1 ∧ (phSrc i).width = 3 ∧ (phPosts i).width = 16 ∧
    (phCollide i).width = 1 :=
  phFields_cases (P := fun w f s p c _ => w.width = 64 ∧ f.width = 1 ∧ s.width = 3 ∧ p.width = 16 ∧ c.width = 1) i
    (by decide) (by decide)

theorem postSide_mod (src : Nat) (n : Fin 16) : postSide src n % 16 = n := by
  unfold postSide
  split
  all_goals omega

/-! ### A message enters (R340, R341) -/

section
variable (s : State) (i : Nat) (msg : List Nat)

/-- The eight words of a message in pigeonhole i. -/
def State.putMessage (s : State) (i : Nat) (msg : List Nat) : State :=
  (List.range 8).foldl (fun s j => s.put (phWord i) (msg.getD j 0) (i % 16) j) s

theorem State.get_putMessage {j : Nat} (hj : j < 8) :
    (s.putMessage i msg).get (phWord i) (i % 16) j = msg.getD j 0 % 2 ^ 64 := by
  obtain ⟨hwidth, -⟩ := ph_widths i
  rw [State.putMessage, State.get_foldl_put_second (phWord i) (msg.getD · 0) (by omega) (by omega) _ _ (by simp; omega),
    if_pos (List.mem_range.2 hj), hwidth]

theorem SameRegs.putMessage : SameRegs s (s.putMessage i msg) [phWord i] :=
  List.foldlRecOn (motive := (SameRegs s · [phWord i])) _ _ (.refl s _) fun t ht j hj =>
    ht.trans (.put t _ _ (by omega) (by have := List.mem_range.1 hj; omega) (by decide))

theorem OnlyRegs.putMessage : OnlyRegs s (s.putMessage i msg) := .foldl (fun t _ => .put t ..) _ _

/-- What a message of src leaves in pigeonhole i. -/
structure Entered (s t : State) (i src : Nat) (msg : List Nat) : Prop where
  words : ∀ j < 8, t.get (phWord i) (i % 16) j = msg.getD j 0 % 2 ^ 64
  full : t.get (phFull i) (i % 16) = 1
  source : t.get (phSrc i) (i % 16) = src % 8
  posts : t.get (phPosts i) (i % 16) = (s.get (phPosts i) (i % 16) + 1) % 65536
  regs : SameRegs s t (enterFields i)
  only : OnlyRegs s t

/-- Only a message from the fabric has a source address. -/
theorem State.phEnter_local {src : Nat} (hsrc : src ≠ 5) (addr : Nat) : s.phEnter i src addr msg =
    (((s.putMessage i msg).put (phFull i) 1 (i % 16)).put (phPosts i) ((s.putMessage i msg).get (phPosts i) (i % 16) + 1)
      (i % 16)).put (phSrc i) src (i % 16) := by
  unfold State.phEnter
  rw [if_neg hsrc]
  rfl

theorem State.entered_phEnter {src : Nat} (hsrc : src ≠ 5) (addr : Nat) : Entered s (s.phEnter i src addr msg) i src msg := by
  obtain ⟨-, hfullw, hsrcw, hpostsw, -⟩ := ph_widths i
  obtain ⟨⟨hwf, hws, hwp⟩, ⟨hfs, hfp, hps⟩, -⟩ := ph_homes_ne i
  have hix : i % 16 < 65536 := by omega
  have hkept {f g : Fld} (h : f.home ≠ g.home) (t : State) (v : Nat) {j : Nat} (hj : j < 65536) :
      (t.put g v (i % 16)).get f (i % 16) j = t.get f (i % 16) j :=
    State.get_put_home _ _ _ _ _ _ _ _ _ _ h hix hj (by decide) hix (by decide) (by decide)
  have hput (t : State) {f : Fld} (v : Nat) (hf : f ∈ enterFields i) : SameRegs t (t.put f v (i % 16)) (enterFields i) :=
    (SameRegs.put t f v hix (by decide) (by decide)).mono (by simpa using hf)
  rw [State.phEnter_local _ _ _ hsrc]
  refine ⟨fun j hj => ?words, ?full, ?source, ?posts, ?regs, ?only⟩
  case words =>
    have hj' : j < 65536 := by omega
    rw [hkept hws _ _ hj', hkept hwp _ _ hj', hkept hwf _ _ hj', State.get_putMessage _ _ _ hj]
  case full =>
    rw [hkept hfs _ _ (by decide), hkept hfp _ _ (by decide), State.get_put_self, hfullw]
    rfl
  case source =>
    rw [State.get_put_self, hsrcw]
    rfl
  case posts =>
    rw [hkept hps _ _ (by decide), State.get_put_self, hpostsw,
      (SameRegs.putMessage s i msg) _ _ _ _ hix (by decide) (by decide) (by simpa using Ne.symm hwp)]
    rfl
  case regs =>
    have hwords := (SameRegs.putMessage s i msg).mono (d := enterFields i) (by simp [enterFields])
    refine ((hwords.trans (hput _ _ ?_)).trans (hput _ _ ?_)).trans (hput _ _ ?_)
    all_goals simp [enterFields]
  case only => exact (((OnlyRegs.putMessage s i msg).trans (.put ..)).trans (.put ..)).trans (.put ..)

/-! ### A post is accepted or rejected (R342) -/

/-- An empty pigeonhole, or one in fast mode, takes the message; one that was full collides. -/
theorem State.phPut_accepts {src : Nat} (hsrc : src ≠ 5) (addr : Nat)
    (hfree : s.bit (phFull i) (i % 16) = false ∨ s.bit PH_MODE.STRICT = false) :
    (s.phPut i src addr msg).2 = true ∧ ∃ u, OnlyRegs s u ∧ SameRegs s u [phCollide i] ∧
      u.get (phCollide i) (i % 16) = (if s.bit (phFull i) (i % 16) then 1 else s.get (phCollide i) (i % 16)) ∧
      Entered u (s.phPut i src addr msg).1 i src msg := by
  unfold State.phPut
  by_cases hfull : s.bit (phFull i) (i % 16) = false
  · rw [hfull]
    exact ⟨rfl, s, .refl s, .refl s _, rfl, s.entered_phEnter i msg hsrc addr⟩
  · obtain ⟨-, -, -, -, hwidth⟩ := ph_widths i
    rw [Bool.not_eq_false] at hfull
    rw [hfull, hfree.resolve_left (by simp [hfull])]
    exact ⟨rfl, _, .put .., .put _ _ _ (by omega) (by decide) (by decide), by rw [State.get_put_self, hwidth]; rfl,
      State.entered_phEnter _ i msg hsrc addr⟩

theorem State.phPut_rejects (src addr : Nat) (hfull : s.bit (phFull i) (i % 16) = true)
    (hstrict : s.bit PH_MODE.STRICT = true) : s.phPut i src addr msg = (s.bump (phReject i) 1 (i % 16), false) := by
  unfold State.phPut
  rw [hfull, hstrict]
  rfl

end

/-! ### The assembly buffer, and what a dormant domain discards (R340, R344) -/

theorem State.asmFor_ph (s : State) (src n : Nat) : (s.asmFor src n).ph = n := by
  unfold State.asmFor
  split
  · split
    · assumption
    · rfl
  · rfl

/-- The buffer that replaces a requester's is the one found for its pigeonhole. -/
theorem State.asmFor_setAsm (s : State) (src : Nat) (b : Asm) : (s.setAsm src (some b)).asmFor src b.ph = b := by
  have hgone : (s.hub.asm.filter (fun x => x.1 != src)).find? (fun x => x.1 == src) = none :=
    List.find?_eq_none.2 fun x hx => by simpa using (List.mem_filter.1 hx).2
  have hfind : (s.setAsm src (some b)).hub.asm.find? (fun x => x.1 == src) = some (src, b) := by
    change (_ ++ [(src, b)]).find? _ = _
    rw [List.find?_append, hgone]
    simp
  unfold State.asmFor
  rw [hfind]
  exact if_pos rfl

theorem State.mem_phDiscard (s : State) (i : Nat) : (i, 2) ∈ (s.phDiscard i).hub.phTouts := by
  change (i, 2) ∈ if s.hub.phTouts.contains (i, 2) then s.hub.phTouts else s.hub.phTouts ++ [(i, 2)]
  split
  · simp_all
  · simp

/-! ### What a rejected post draws (R58, R342) -/

/-- The Unsupported Request shows in the function's AER, with the header of the first one. -/
def State.noteUr (s : State) (fn n : Nat) : State :=
  s.nextTicket.modHub (fun h => { h with aer := if h.aer.any (fun x => x.1 == fn) then h.aer else h.aer ++ [(fn, n)] })

/-- A rejected post is noted, and a message may leave (log entry 54). -/
theorem State.reportUr_cases (s : State) (fn n : Nat) : s.reportUr fn n = s.noteUr fn n ∨
    ∃ kind, 1 ≤ kind ∧ kind ≤ 3 ∧ s.reportUr fn n = (s.noteUr fn n).emit (.aer fn kind) := by
  unfold State.reportUr
  dsimp only
  split
  · exact .inl rfl
  · exact .inr ⟨_, by omega, by omega, rfl⟩

theorem State.mem_noteUr_aer (s : State) (fn n : Nat) : ∃ x, (fn, x) ∈ (s.noteUr fn n).hub.aer := by
  change ∃ x, (fn, x) ∈ if s.hub.aer.any (fun x => x.1 == fn) then s.hub.aer else s.hub.aer ++ [(fn, n)]
  split
  next h =>
    obtain ⟨⟨f, x⟩, hmem, hf⟩ := List.any_eq_true.1 h
    exact ⟨x, beq_iff_eq.1 hf ▸ hmem⟩
  next => exact ⟨n, by simp⟩

theorem State.reportUr_spec (s : State) (fn n : Nat) : (s.reportUr fn n).regs = s.regs ∧ (s.reportUr fn n).mem = s.mem ∧
    (∃ x, (fn, x) ∈ (s.reportUr fn n).hub.aer) ∧ ((s.reportUr fn n).out = s.out ∨
      ∃ kind, 1 ≤ kind ∧ kind ≤ 3 ∧ (s.reportUr fn n).out = s.out ++ [.aer fn kind]) := by
  obtain h | ⟨kind, hlow, hhigh, h⟩ := s.reportUr_cases fn n
  · rw [h]
    exact ⟨rfl, rfl, s.mem_noteUr_aer fn n, .inl rfl⟩
  · rw [h]
    exact ⟨rfl, rfl, s.mem_noteUr_aer fn n, .inr ⟨kind, hlow, hhigh, rfl⟩⟩

/-! ### Assembling and posting -/

theorem actorSrc_eq_six {a : Actor} : actorSrc a = 6 ↔ a = .icholt := by
  cases a <;> simp [actorSrc]
  omega

theorem actorSrc_lt_five {a : Actor} (hjtag : a ≠ .jtag) (hhost : a ≠ .icholt) : actorSrc a < 5 := by
  cases a <;> simp_all [actorSrc]
  omega

theorem actorSrc_lt (a : Actor) : actorSrc a < 8 ∧ actorSrc a ≠ 5 := by
  cases a <;> simp [actorSrc]
  omega

/-- A message is the seven assembled words and the last one (R340). -/
theorem message_getD {ws : List Word64} (hlength : ws.length = 7) (v : Word64) :
    (∀ j < 7, (ws.map BitVec.toNat ++ [v.toNat]).getD j 0 % 2 ^ 64 = (ws.getD j 0).toNat) ∧
    (ws.map BitVec.toNat ++ [v.toNat]).getD 7 0 % 2 ^ 64 = v.toNat := by
  constructor
  · intro j hj
    have hword : (ws.map BitVec.toNat).getD j 0 = (ws.getD j 0).toNat := List.getD_map ws 0 BitVec.toNat
    rw [List.getD_append _ _ _ _ (by simp [hlength, hj]), hword]
    exact Nat.mod_eq_of_lt (ws.getD j 0).isLt
  · rw [List.getD_append_right _ _ _ _ (by simp [hlength])]
    simp [hlength, Nat.mod_eq_of_lt v.isLt]

section
variable {s : State} {a : Actor} {n : Fin 16} {v : Word64} {i : Nat} (hi : i = postSide (actorSrc a) n)
include hi

/-- What an actor does not reach, and any post of JTAG, is a bad access (R340). -/
theorem exec_post_unreached (h : a = .jtag ∨ s.phReach (actorSrc a) i = false) (c : Instr) (w : Fin 7)
    (hc : c = .assemblyWrite a n w v ∨ c = .post a n v) : exec c s = .next s.badAccess := by
  subst hi
  have hcond : (decide (a = .jtag) || !s.phReach (actorSrc a) (postSide (actorSrc a) n)) = true := by simpa using h
  obtain rfl | rfl := hc
  · exact congrArg Host.Outcome.next (if_pos hcond)
  · exact congrArg Host.Outcome.next (if_pos hcond)

variable (hjtag : a ≠ .jtag) (hreach : s.phReach (actorSrc a) i = true)
include hjtag hreach

theorem exec_assemblyWrite (w : Fin 7) : exec (.assemblyWrite a n w v) s = .next
    (if s.phDormant i && actorSrc a != 6 then s.phDiscard i else s.setAsm (actorSrc a) (some
      { s.asmFor (actorSrc a) n with words := (s.asmFor (actorSrc a) n).words.set w v })) := by
  subst hi
  exact congrArg Host.Outcome.next (if_neg (by simp [hjtag, hreach]))

theorem exec_post : exec (.post a n v) s = .next
    (if s.phDormant i then (s.setAsm (actorSrc a) none).phDiscard i
     else
       let t := (s.setAsm (actorSrc a) none).phPut i (actorSrc a) 0
         ((s.asmFor (actorSrc a) n).words.map BitVec.toNat ++ [v.toNat])
       if !t.2 && actorSrc a < 5 then t.1.reportUr (actorSrc a) n else t.1) := by
  subst hi
  exact congrArg Host.Outcome.next (if_neg (by simp [hjtag, hreach]))

theorem completes_assembly (h : s.phDormant i = false ∨ a = .icholt) (w : Fin 7) :
    Completes (.assemblyWrite a n w v) s (fun t =>
      (t.asmFor (actorSrc a) n).words = (s.asmFor (actorSrc a) n).words.set w v ∧ t.regs = s.regs ∧ t.mem = s.mem ∧
      t.out = s.out) := by
  have hkept : ¬ (s.phDormant i && actorSrc a != 6) = true := by
    rcases h with h | h
    · simp [h]
    · simp [actorSrc_eq_six.2 h]
  refine ⟨_, (exec_assemblyWrite hi hjtag hreach w).trans (congrArg _ (if_neg hkept)), ?_, rfl, rfl, rfl⟩
  have hfound := s.asmFor_setAsm (actorSrc a) { s.asmFor (actorSrc a) n with words := (s.asmFor (actorSrc a) n).words.set w v }
  rw [State.asmFor_ph] at hfound
  rw [hfound]

theorem completes_assembly_dormant (hdormant : s.phDormant i = true) (hhost : a ≠ .icholt) (w : Fin 7) :
    Completes (.assemblyWrite a n w v) s (fun t =>
      (i, 2) ∈ t.hub.phTouts ∧ t.hub.asm = s.hub.asm ∧ t.regs = s.regs ∧ t.mem = s.mem ∧ t.out = s.out) := by
  have hlost : (s.phDormant i && actorSrc a != 6) = true := by simp [hdormant, actorSrc_eq_six, hhost]
  exact ⟨_, (exec_assemblyWrite hi hjtag hreach w).trans (congrArg _ (if_pos hlost)), s.mem_phDiscard i, rfl, rfl, rfl, rfl⟩

theorem completes_post_dormant (hdormant : s.phDormant i = true) : Completes (.post a n v) s (fun t =>
    (i, 2) ∈ t.hub.phTouts ∧ t.regs = s.regs ∧ t.mem = s.mem ∧ t.out = s.out) :=
  ⟨_, (exec_post hi hjtag hreach).trans (congrArg _ (if_pos hdormant)), State.mem_phDiscard _ i, rfl, rfl, rfl⟩

variable (hawake : s.phDormant i = false)
include hawake

theorem completes_post_accepted (hwords : (s.asmFor (actorSrc a) n).words.length = 7)
    (hfree : s.bit (phFull i) n = false ∨ s.bit PH_MODE.STRICT = false) : Completes (.post a n v) s (fun t =>
      (∀ j < 7, t.get (phWord i) n j = ((s.asmFor (actorSrc a) n).words.getD j 0).toNat) ∧
      t.get (phWord i) n 7 = v.toNat ∧ t.get (phFull i) n = 1 ∧ t.get (phSrc i) n = actorSrc a ∧
      t.get (phPosts i) n = (s.get (phPosts i) n + 1) % 65536 ∧
      t.get (phCollide i) n = (if s.bit (phFull i) n then 1 else s.get (phCollide i) n) ∧
      SameRegs s t [phWord i, phFull i, phSrc i, phPosts i, phCollide i] ∧ t.mem = s.mem ∧ t.out = s.out) := by
  obtain ⟨hsrc, hfabric⟩ := actorSrc_lt a
  obtain ⟨hfirst, hlast⟩ := message_getD hwords v
  have hmod : i % 16 = n := hi ▸ postSide_mod ..
  have hexec := exec_post hi hjtag hreach (v := v)
  generalize hmsg : (s.asmFor (actorSrc a) n).words.map BitVec.toNat ++ [v.toNat] = msg at hexec
  obtain ⟨htaken, u, honly, hregs, hcollide, hent⟩ :=
    (s.setAsm (actorSrc a) none).phPut_accepts i msg hfabric 0 (by rw [hmod]; exact hfree)
  obtain ⟨hw, hfull, hsource, hposts, hentered, henteredOnly⟩ := hent
  rw [hmod] at hw hfull hsource hposts hcollide
  obtain ⟨-, -, hne⟩ := ph_homes_ne i
  refine ⟨_, hexec.trans (congrArg _ ((if_neg (Bool.not_eq_true _ ▸ hawake)).trans (if_neg (by simp [htaken])))),
    fun j hj => (hw j (by omega)).trans (hmsg ▸ hfirst j hj), (hw 7 (by decide)).trans (hmsg ▸ hlast), hfull,
    hsource.trans (Nat.mod_eq_of_lt hsrc), ?posts, ?collide, ?regs,
    henteredOnly.mem.trans honly.mem, henteredOnly.out.trans honly.out⟩
  case posts =>
    have hposts_ne := (hne (phPosts i) (by simp [enterFields])).2
    rw [hposts, hregs _ _ _ _ (by omega) (by decide) (by decide) (by simpa using hposts_ne)]
    rfl
  case collide =>
    rw [hentered _ _ _ _ (by omega) (by decide) (by decide) (fun f hf => (hne f hf).1), hcollide]
    rfl
  case regs => exact (hregs.mono (by simp)).trans (hentered.mono (by simp [enterFields]))

theorem completes_post_rejected (hfull : s.bit (phFull i) n = true) (hstrict : s.bit PH_MODE.STRICT = true) :
    Completes (.post a n v) s (fun t =>
      t.get (phReject i) n = min (phReject i).max (s.get (phReject i) n + 1) ∧ SameRegs s t [phReject i] ∧
      t.mem = s.mem ∧ (a = .icholt → t.out = s.out ∧ t.hub.aer = s.hub.aer) ∧
      (a ≠ .icholt → (∃ x, (actorSrc a, x) ∈ t.hub.aer) ∧
        (t.out = s.out ∨ ∃ kind, 1 ≤ kind ∧ kind ≤ 3 ∧ t.out = s.out ++ [.aer (actorSrc a) kind]))) := by
  have hmod : i % 16 = n := hi ▸ postSide_mod ..
  have hexec := exec_post hi hjtag hreach (v := v)
  have hput := (s.setAsm (actorSrc a) none).phPut_rejects i ((s.asmFor (actorSrc a) n).words.map BitVec.toNat ++ [v.toNat])
    (actorSrc a) 0 (by rw [hmod]; exact hfull) hstrict
  dsimp only at hexec
  rw [hput, hmod] at hexec
  generalize hu : (s.setAsm (actorSrc a) none).bump (phReject i) 1 n = u at hexec
  have hcount : u.get (phReject i) n = min (phReject i).max (s.get (phReject i) n + 1) := hu ▸ State.get_bump_self ..
  have hregs : SameRegs s u [phReject i] :=
    hu ▸ SameRegs.bump (s.setAsm (actorSrc a) none) _ _ (by omega) (by decide) (by decide)
  have hframe : u.mem = s.mem ∧ u.out = s.out ∧ u.hub.aer = s.hub.aer := hu ▸ ⟨rfl, rfl, rfl⟩
  obtain ⟨hmem, hout, haer⟩ := hframe
  replace hexec := hexec.trans (congrArg _ (if_neg (Bool.not_eq_true _ ▸ hawake)))
  by_cases ha : a = .icholt
  · exact ⟨u, hexec.trans (congrArg _ (if_neg (by simp [actorSrc_eq_six.2 ha]))), hcount, hregs, hmem,
      fun _ => ⟨hout, haer⟩, fun h => absurd ha h⟩
  · obtain ⟨hregsUr, hmemUr, haerUr, houtUr⟩ := u.reportUr_spec (actorSrc a) n
    refine ⟨_, hexec.trans (congrArg _ (if_pos (by simp [actorSrc_lt_five hjtag ha]))), ?_, hregs.trans (.of_regs hregsUr _),
      hmemUr.trans hmem, fun h => absurd h ha, fun _ => ⟨haerUr, hout ▸ houtUr⟩⟩
    rw [State.get_of_regs hregsUr, hcount]

end

/-- Settles O48: a message enters whole or is rejected, and what is discarded for a dormant domain leaves a timeout due. -/
theorem pigeonholePosts : Obligations.PigeonholePosts := by
  unfold Obligations.PigeonholePosts
  intro s a n v i hi
  refine ⟨fun hjtag hreach hwords => ⟨completes_assembly hi hjtag hreach, completes_assembly_dormant hi hjtag hreach,
    completes_post_dormant hi hjtag hreach, fun hawake => completes_post_accepted hi hjtag hreach hawake hwords,
    completes_post_rejected hi hjtag hreach⟩, fun h c w hc => ?_⟩
  exact ⟨_, exec_post_unreached hi h c w hc, s.get_badAccess, .badAccess s, .badAccess s⟩

end Sys2Proof.Machine
end

section
/-!
The resets of Table 15.3 (R9, R365, R366, R371), and the settlement of O54. A cold and a module reset are one state in closed
form. A warm and a region reset go die by die: what the reset of one die leaves of it, of the other dies, of memory and of the
registers off the dies is said first.
-/
namespace Sys2Proof.Machine

/-! ### A cold or a module reset (R365) -/

section
variable (s : State) (last : Nat)

theorem State.get_resetAll_last : (s.resetAll last).get HUB_RESET.LAST = last % 16 := by
  unfold State.resetAll
  dsimp only
  rw [State.get_put_of_home_ne _ (by decide) _ (by decide) (by decide),
    State.get_put_of_home_ne _ (by decide) _ (by decide) (by decide), State.get_put_self]
  rfl

/-- Of the registers only the cause, the SVN floor of OTP and the pin PWR_EN differ from their reset values. -/
theorem SameRegs.resetAll :
    SameRegs State.reset (s.resetAll last) [HUB_RESET.LAST, HUB_IMG.SVN_FLOOR, HUB_PWR_STATE.PWR_EN] := by
  unfold State.resetAll
  have hreset : SameRegs State.reset { State.reset with
      pending := s.pending, out := s.out, ticket := s.ticket + 1, hub := s.hub.lasting
      mem := { cells := [], layers := [{ lo := 0, hi := memEnd, free := some s.ticket }] } }
      [HUB_RESET.LAST, HUB_IMG.SVN_FLOOR, HUB_PWR_STATE.PWR_EN] := .of_regs rfl _
  refine ((hreset.then_put ?_ _ ?_ ?_ ?_).then_put ?_ _ ?_ ?_ ?_).then_put ?_ _ ?_ ?_ ?_
  all_goals simp

end

/-- What a cold or a module reset of a state with the flash and the OTP of s leaves. -/
theorem completes_resetAll {i : Instr} {s u : State} {last : Nat} (hexec : exec i s = .next (u.resetAll last))
    (hlast : last < 16) (hslotA : u.hub.slotA = s.hub.slotA) (hslotB : u.hub.slotB = s.hub.slotB)
    (hfloor : u.hub.svnFloor = s.hub.svnFloor) :
    Completes i s (fun t => t.get HUB_RESET.LAST = last ∧ t.regions = State.reset.regions ∧
      t.parts = State.reset.parts ∧ t.links = State.reset.links ∧ t.stks = State.reset.stks ∧ t.mem.cells = [] ∧
      SameRegs State.reset t [HUB_RESET.LAST, HUB_IMG.SVN_FLOOR, HUB_PWR_STATE.PWR_EN] ∧
      t.hub.slotA = s.hub.slotA ∧ t.hub.slotB = s.hub.slotB ∧ t.hub.svnFloor = s.hub.svnFloor) :=
  ⟨_, hexec, (u.get_resetAll_last last).trans (Nat.mod_eq_of_lt hlast), rfl, rfl, rfl, rfl, rfl, .resetAll u last, hslotA,
    hslotB, hfloor⟩

theorem State.moduleReset_of_cause {cause : Nat} (h : 2 ≤ cause ∧ cause ≤ 4) (s : State) :
    s.moduleReset cause = s.resetAll cause := if_pos h

theorem State.moduleReset_of_other {cause : Nat} (h : cause < 2 ∨ 4 < cause) (s : State) : s.moduleReset cause = s :=
  if_neg (by omega)

/-! ### Passes over the regions -/

/-- A pass that updates every region by a function of its own. -/
theorem State.region_foldl_modRegion (g : Rgn → Region → Region) {l : List Rgn} (hl : l.Nodup) (s : State) (q : Rgn) :
    (l.foldl (fun t r => t.modRegion r (g r)) s).regions[q] = if q ∈ l then g q s.regions[q] else s.regions[q] := by
  induction l generalizing s with
  | nil => simp
  | cons r l ih =>
    obtain ⟨hr, hl⟩ := List.nodup_cons.1 hl
    rw [List.foldl_cons, ih hl]
    by_cases hq : q = r
    · subst hq
      rw [if_neg hr, if_pos List.mem_cons_self, State.modRegion_at]
    · rw [State.modRegion_ne _ _ _ _ hq]
      simp [hq]

/-- The clock stretch of a region that the rails in a dip leave (R362). -/
def Region.underRails (g : Region) (h : Hub) (r : Rgn) : Region :=
  { g with dipStretch := h.dipRails.contains r.val || h.dipRails.contains 4 }

section
variable (s : State)

theorem State.followRails_eq :
    s.followRails = allRegions.foldl (fun t r => t.modRegion r (fun g => g.underRails s.hub r)) s := rfl

theorem State.followRails_region (q : Rgn) : s.followRails.regions[q] = s.regions[q].underRails s.hub q := by
  rw [State.followRails_eq, State.region_foldl_modRegion (fun r g => g.underRails s.hub r) allRegions_nodup,
    if_pos (mem_allRegions q)]

theorem State.followRails_regs : s.followRails.regs = s.regs := rfl

theorem State.followRails_mem : s.followRails.mem = s.mem := rfl

theorem SameRegs.followEngines (r : Rgn) : SameRegs s (s.followEngines r) [SU_STAT.STATE] :=
  List.foldlRecOn (motive := (SameRegs s · [SU_STAT.STATE])) _ _ (.refl s _) fun t ht k hk =>
    ht.trans (.put t _ _ (by omega) (by have := List.mem_range.1 hk; omega) (by decide))

theorem OnlyRegs.followEngines (r : Rgn) : OnlyRegs s (s.followEngines r) := .foldl (fun t _ => .put t ..) _ s

end

/-! ### One die (R9, R365) -/

/-- The SRAM and the accumulators of a die. -/
def dieExtents (r : Rgn) : List Extent :=
  [{ lo := sramBase r, hi := sramBase r + 0x10000000 }, { lo := accBase r 0 0, hi := accBase r 16 0 }]

/-- Registers, region, links and stacks of a die at their reset state. -/
def State.wipeDie (s : State) (kept : List Nat) (r : Rgn) : State :=
  let u := { s with
    regs := s.regs.filter (fun x => !onDie r.val x.1 || kept.contains (keyHome x.1))
    live := s.live.filter (fun x => !onDie r.val x.1)
    dirty := s.dirty.filter (fun g => decide (g < stackBase (6 * r.val) / 65536) ||
      decide (stackBase (6 * r.val + 6) / 65536 ≤ g)) }.modRegion r (fun _ => Region.reset)
  { u with
    links := Vector.ofFn (fun l : Lnk => if l.val / 8 = r.val then Link.reset else s.links[l])
    stks := Vector.ofFn (fun k : Stk => if k.val / 6 = r.val then s.stks[k].afterReset else s.stks[k]) }

/-- A register off the dies, by the place of its field. -/
theorem onDie_of_home_lt {f : Fld} (h : f.home < 0x40000000) (r : Nat) {i j k : Nat} (hi : i < 65536) (hj : j < 65536)
    (hk : k < 65536) : onDie r (f.key i j k) = false := by
  have hbase : keyBase (f.key i j k) < 0x1000000 := by
    rw [keyBase, keyHome_key f hi hj hk]
    omega
  have h1 : ¬ 0x1000000 ≤ keyBase (f.key i j k) := by omega
  have h2 : ¬ 0x8000000 ≤ keyBase (f.key i j k) := by omega
  have h3 : ¬ 0xC000000 ≤ keyBase (f.key i j k) := by omega
  simp [onDie, h1, h2, h3]

section
variable (s : State) (kept : List Nat) (r : Rgn)

theorem State.resetDie_eq :
    s.resetDie kept r = ((s.wipeDie kept r).undefineAll (dieExtents r)).followRails.followEngines r := rfl

theorem State.wipeDie_region (q : Rgn) :
    (s.wipeDie kept r).regions[q] = if q = r then Region.reset else s.regions[q] := by
  change (s.modRegion r (fun _ => Region.reset)).regions[q] = _
  split
  next h =>
    subst h
    exact State.modRegion_at ..
  next h => exact State.modRegion_ne _ _ _ _ h

theorem State.resetDie_region (q : Rgn) : (s.resetDie kept r).regions[q] =
    (if q = r then Region.reset else s.regions[q]).underRails s.hub q := by
  rw [State.resetDie_eq, (OnlyRegs.followEngines _ r).regions, State.followRails_region, State.undefineAll_regions,
    State.wipeDie_region]
  rfl

theorem State.resetDie_region_ne {q : Rgn} (h : q ≠ r) :
    (s.resetDie kept r).regions[q] = s.regions[q].underRails s.hub q := by rw [State.resetDie_region, if_neg h]

theorem State.resetDie_links (l : Lnk) :
    (s.resetDie kept r).links[l] = if l.val / 8 = r.val then Link.reset else s.links[l] := by
  rw [State.resetDie_eq, (OnlyRegs.followEngines _ r).links]
  exact Vector.getElem_ofFn ..

/-- A register off the dies keeps its value. -/
theorem State.get_resetDie {f : Fld} (h : f.home < 0x40000000) {i j k : Nat} (hi : i < 65536) (hj : j < 65536)
    (hk : k < 65536) : (s.resetDie kept r).get f i j k = s.get f i j k := by
  have hsu : SU_STAT.STATE.home ≥ 0x40000000 := by decide
  rw [State.resetDie_eq, SameRegs.followEngines _ r f i j k hi hj hk (by simp; omega),
    State.get_of_regs (State.followRails_regs _), State.get_of_regs (State.undefineAll_regs _ _)]
  exact kget_filter (fun _ => by simp [onDie_of_home_lt h r hi hj hk]) ..

/-- Stack contents stay. -/
theorem State.read_resetDie {a : Nat} (ha : a < 0x18000000000) : (s.resetDie kept r).mem.read a = s.mem.read a := by
  rw [State.resetDie_eq, (OnlyRegs.followEngines _ r).mem]
  refine State.read_undefineAll (s.wipeDie kept r) fun x hx => .inl ?_
  simp only [dieExtents, List.mem_cons, List.not_mem_nil, or_false] at hx
  obtain rfl | rfl := hx
  · exact Nat.lt_of_lt_of_le (Nat.lt_trans ha (by decide)) (Nat.le_add_right 0x200000000000 _)
  · exact Nat.lt_of_lt_of_le (Nat.lt_trans ha (by decide)) (Nat.le_add_right 0x20000000000000000 _)

end

/-! ### A warm reset (R365) -/

/-- Queues, isolation and links of a die as its reset leaves them. -/
structure DieReset (r : Rgn) (t : State) : Prop where
  cmds : t.regions[r].cmds = []
  service : t.regions[r].isolated = false
  links : ∀ l : Lnk, l.val / 8 = r.val → t.links[l] = Link.reset

theorem State.resetDie_reset (s : State) (kept : List Nat) (r : Rgn) : DieReset r (s.resetDie kept r) where
  cmds := by rw [State.resetDie_region, if_pos rfl]; rfl
  service := by rw [State.resetDie_region, if_pos rfl]; rfl
  links l hl := by rw [State.resetDie_links, if_pos hl]

/-- The reset of another die leaves a die at its reset state. -/
theorem DieReset.resetDie {s : State} {r : Rgn} (h : DieReset r s) {q : Rgn} (hne : r ≠ q) (kept : List Nat) :
    DieReset r (s.resetDie kept q) where
  cmds := by rw [State.resetDie_region_ne s kept q hne]; exact h.cmds
  service := by rw [State.resetDie_region_ne s kept q hne]; exact h.service
  links l hl := by
    rw [State.resetDie_links]
    split
    · rfl
    · exact h.links l hl

section
variable (s : State)

/-- The four dies reset, with what a warm reset keeps of them. -/
def State.warmDies (s : State) : State := allRegions.foldl (fun t r => t.resetDie warmHomes r) s

theorem State.warmDies_reset (r : Rgn) : DieReset r s.warmDies :=
  foldl_each (f := fun (t : State) r => t.resetDie warmHomes r) (apart := (· ≠ ·)) (Before := fun _ _ => True)
    (After := DieReset) (fun t r _ => t.resetDie_reset warmHomes r) (fun _ _ _ _ _ => trivial) (fun _ _ _ hne h => h.resetDie hne _)
    allRegions_nodup (fun _ _ => trivial) r (mem_allRegions r)

theorem State.warmDies_links : s.warmDies.links = State.reset.links := by
  refine Vector.ext fun l hl => ?_
  have hreset := (s.warmDies_reset ⟨l / 8, by omega⟩).links ⟨l, hl⟩ rfl
  simpa [State.reset] using hreset

theorem State.get_warmDies {f : Fld} (h : f.home < 0x40000000) {i j k : Nat} (hi : i < 65536) (hj : j < 65536)
    (hk : k < 65536) : s.warmDies.get f i j k = s.get f i j k :=
  List.foldlRecOn (motive := fun t : State => t.get f i j k = s.get f i j k) _ _ rfl fun t ht r _ =>
    (t.get_resetDie warmHomes r h hi hj hk).trans ht

theorem State.read_warmDies {a : Nat} (ha : a < 0x18000000000) : s.warmDies.mem.read a = s.mem.read a :=
  List.foldlRecOn (motive := fun t : State => t.mem.read a = s.mem.read a) _ _ rfl fun t ht r _ =>
    (t.read_resetDie warmHomes r ha).trans ht

/-- Of the registers only those marked kept stay, of the hub what outlasts a warm reset. -/
def State.keepWarm (s u : State) : State :=
  { u with
    now := 0, live := [], watchId := [], parts := Vector.replicate 4 Part.reset
    regs := u.regs.filter (fun x => warmHomes.contains (keyHome x.1))
    hub := { u.hub.lasting with
      mainPower := s.hub.mainPower, strapsDue := false, perst := false, cap := s.hub.cap, untrained := s.hub.untrained
      worn := s.hub.worn, attempts := s.hub.attempts, retries := s.hub.retries } }

theorem State.get_keepWarm {f : Fld} (h : warmHomes.contains f.home = true) (u : State) {i j k : Nat} (hi : i < 65536)
    (hj : j < 65536) (hk : k < 65536) : (s.keepWarm u).get f i j k = u.get f i j k :=
  kget_filter (fun _ => by rw [keyHome_key f hi hj hk]; exact h) ..

theorem State.keepWarm_frame (u : State) : (s.keepWarm u).mem = u.mem ∧ (s.keepWarm u).regions = u.regions ∧
    (s.keepWarm u).links = u.links ∧ (s.keepWarm u).parts = State.reset.parts := ⟨rfl, rfl, rfl, rfl⟩

/-- A warm reset notes its cause, and what flash and pin say. -/
def State.noteWarm (s u : State) : State :=
  ((u.put HUB_RESET.LAST 1).put HUB_IMG.SVN_FLOOR s.hub.svnFloor).put HUB_PWR_STATE.PWR_EN (s.get HUB_PWR_STATE.PWR_EN)

/-- A dormant module stays dormant (R369). -/
def State.stayDormant (s u : State) : State :=
  if s.get HUB_PWR_STATE.STATE = 2 ∨ s.get HUB_PWR_STATE.STATE = 3 then
    u.put HUB_PWR_STATE.STATE (s.get HUB_PWR_STATE.STATE) else u

theorem State.warmReset_eq : s.warmReset =
    s.stayDormant (s.noteWarm (allRegions.foldl (fun t r => t.followEngines r) (s.keepWarm s.warmDies))) := rfl

theorem OnlyRegs.noteWarm (u : State) : OnlyRegs u (s.noteWarm u) := ((OnlyRegs.put ..).trans (.put ..)).trans (.put ..)

theorem SameRegs.noteWarm (u : State) :
    SameRegs u (s.noteWarm u) [HUB_RESET.LAST, HUB_IMG.SVN_FLOOR, HUB_PWR_STATE.PWR_EN] := by
  refine (((SameRegs.refl u _).then_put ?_ _ ?_ ?_ ?_).then_put ?_ _ ?_ ?_ ?_).then_put ?_ _ ?_ ?_ ?_
  all_goals simp

theorem State.get_noteWarm_last (u : State) : (s.noteWarm u).get HUB_RESET.LAST = 1 := by
  unfold State.noteWarm
  rw [State.get_put_of_home_ne _ (by decide) _ (by decide) (by decide),
    State.get_put_of_home_ne _ (by decide) _ (by decide) (by decide), State.get_put_self]
  rfl

theorem OnlyRegs.stayDormant (u : State) : OnlyRegs u (s.stayDormant u) := .ite (.put ..) (.refl u)

theorem SameRegs.stayDormant (u : State) : SameRegs u (s.stayDormant u) [HUB_PWR_STATE.STATE] :=
  .ite (.put u _ _ (by decide) (by decide) (by decide)) (.refl u _)

/-- What a warm reset does after the dies writes registers of the engines and of the hub alone. -/
theorem State.warmReset_frame : OnlyRegs (s.keepWarm s.warmDies) s.warmReset ∧ SameRegs (s.keepWarm s.warmDies) s.warmReset
    [SU_STAT.STATE, HUB_RESET.LAST, HUB_IMG.SVN_FLOOR, HUB_PWR_STATE.PWR_EN, HUB_PWR_STATE.STATE] := by
  rw [State.warmReset_eq]
  refine ⟨((OnlyRegs.foldl .followEngines allRegions _).trans (.noteWarm s _)).trans (.stayDormant s _),
    (SameRegs.mono (.foldl_each .followEngines allRegions _) ?_).trans ((SameRegs.mono (.noteWarm s _) ?_).trans
      (.mono (.stayDormant s _) ?_))⟩
  all_goals simp

theorem State.get_warmReset_last : s.warmReset.get HUB_RESET.LAST = 1 := by
  rw [State.warmReset_eq, SameRegs.stayDormant _ _ _ _ _ _ (by decide) (by decide) (by decide) (by decide),
    State.get_noteWarm_last]

theorem State.warmReset_dies : s.warmReset.mem = s.warmDies.mem ∧ s.warmReset.regions = s.warmDies.regions ∧
    s.warmReset.links = State.reset.links ∧ s.warmReset.parts = State.reset.parts := by
  obtain ⟨hframe, -⟩ := s.warmReset_frame
  obtain ⟨hmem, hregions, hlinks, hparts⟩ := s.keepWarm_frame s.warmDies
  exact ⟨hframe.mem.trans hmem, hframe.regions.trans hregions, (hframe.links.trans hlinks).trans s.warmDies_links,
    hframe.parts.trans hparts⟩

/-- Ownership is marked kept (R9). -/
theorem State.get_warmReset_owner {f : Fld} (hf : f ∈ [HUB_OWN.KIND, HUB_OWN.TAG]) {g : Nat} (hg : g < 1536) :
    s.warmReset.get f g = s.get f g := by
  have hwarm : ∀ f ∈ [HUB_OWN.KIND, HUB_OWN.TAG], warmHomes.contains f.home = true := by decide +kernel
  have hoff : ∀ f ∈ [HUB_OWN.KIND, HUB_OWN.TAG], f.home < 0x40000000 := by decide
  have hother : ∀ f ∈ [HUB_OWN.KIND, HUB_OWN.TAG], ∀ g ∈ [SU_STAT.STATE, HUB_RESET.LAST, HUB_IMG.SVN_FLOOR,
      HUB_PWR_STATE.PWR_EN, HUB_PWR_STATE.STATE], f.home ≠ g.home := by decide
  obtain ⟨-, hregs⟩ := s.warmReset_frame
  rw [hregs f g 0 0 (by omega) (by decide) (by decide) (hother f hf),
    State.get_keepWarm s (hwarm f hf) _ (by omega) (by decide) (by decide),
    State.get_warmDies s (hoff f hf) (by omega) (by decide) (by decide)]

theorem completes_warmReset : Completes .warmReset s (fun t =>
    t.get HUB_RESET.LAST = 1 ∧ (∀ a : Nat, a < 0x18000000000 → t.mem.read a = s.mem.read a) ∧
    (∀ g < 1536, t.get HUB_OWN.KIND g = s.get HUB_OWN.KIND g ∧ t.get HUB_OWN.TAG g = s.get HUB_OWN.TAG g) ∧
    t.parts = State.reset.parts ∧ t.links = State.reset.links ∧
    (∀ r : Rgn, t.regions[r].cmds = [] ∧ t.regions[r].isolated = false)) := by
  obtain ⟨hmem, hregions, hlinks, hparts⟩ := s.warmReset_dies
  refine ⟨s.warmReset, rfl, s.get_warmReset_last, fun a ha => ?memory, fun g hg => ?owner, hparts, hlinks,
    fun r => ?regions⟩
  case memory => rw [hmem, s.read_warmDies ha]
  case owner => exact ⟨s.get_warmReset_owner (by simp) hg, s.get_warmReset_owner (by simp) hg⟩
  case regions =>
    rw [hregions]
    exact ⟨(s.warmDies_reset r).cmds, (s.warmDies_reset r).service⟩

end

/-! ### A region reset (R19, R366) -/

section
variable (s : State) (r : Rgn)

/-- The six stacks of a region leave service. -/
def State.stacksOut (s : State) (r : Rgn) : State :=
  (List.range 6).foldl (fun s i => s.put SE_STAT.STATE 1 (6 * r.val + i)) s

theorem State.stacksOut_eq :
    s.stacksOut r = ((List.range 6).map (6 * r.val + ·)).foldl (fun s k => s.put SE_STAT.STATE 1 k) s :=
  by rw [List.foldl_map]; rfl

theorem State.get_stacksOut {i : Nat} (hi : i < 6) : (s.stacksOut r).get SE_STAT.STATE (6 * r.val + i) = 1 := by
  have hr := r.isLt
  rw [State.stacksOut_eq, State.get_foldl_put_index SE_STAT.STATE 1 (by omega) _ _ (by simp; omega), if_pos (by simp [hi])]
  rfl

theorem SameRegs.stacksOut : SameRegs s (s.stacksOut r) [SE_STAT.STATE] := by
  have hr := r.isLt
  rw [State.stacksOut_eq]
  exact .foldl_put_index _ _ _ _ (by simp; omega)

theorem OnlyRegs.stacksOut : OnlyRegs s (s.stacksOut r) := .foldl (fun t _ => .put t ..) _ s

/-- The region is isolated and its stacks leave service. -/
def State.markIsolated (s : State) (r : Rgn) : State := (s.modRegion r (fun g => { g with isolated := true })).stacksOut r

theorem SameRegs.markIsolated : SameRegs s (s.markIsolated r) [SE_STAT.STATE] := .stacksOut (s.modRegion r _) r

theorem State.markIsolated_partOf (q : Rgn) : (s.markIsolated r).partOf q = s.partOf q := by
  have hregions (p : Prt) : (s.markIsolated r).get PROC_PART_CFG.REGIONS p = s.get PROC_PART_CFG.REGIONS p :=
    SameRegs.markIsolated s r _ _ _ _ (by omega) (by decide) (by decide) (by decide)
  simp only [State.partOf, hregions]

theorem State.markIsolated_partState (p : Prt) : (s.markIsolated r).partState p = s.partState p :=
  (SameRegs.markIsolated s r).partState (by decide) p

theorem State.isolateRegion_eq : s.isolateRegion r =
    match s.partOf r with
    | some p => (s.markIsolated r).beginTeardown p 5
    | none => s.markIsolated r := by
  rw [← s.markIsolated_partOf r r]
  rfl

theorem State.isolateRegion_free (h : s.partOf r = none) : s.isolateRegion r = s.markIsolated r := by
  rw [State.isolateRegion_eq, h]

theorem State.isolateRegion_tears {p : Prt} (h : s.partOf r = some p) (hjob : s.partState p ≠ psEmpty)
    (hfirst : s.partState p ≠ psTearing) : (s.isolateRegion r).partState p = psTearing ∧
    (s.isolateRegion r).get PROC_TEAR_STAT.CAUSE p = 5 := by
  rw [State.isolateRegion_eq, h]
  exact State.get_beginTeardown (by rwa [State.markIsolated_partState]) (by rwa [State.markIsolated_partState]) (by decide)

theorem State.regionReset_eq : s.regionReset r = ((s.isolateRegion r).resetDie regionHomes r).markIsolated r := rfl

theorem State.markIsolated_region : (s.markIsolated r).regions[r] = { s.regions[r] with isolated := true } := by
  rw [State.markIsolated, (OnlyRegs.stacksOut _ r).regions, State.modRegion_at]

theorem State.markIsolated_region_ne {q : Rgn} (h : q ≠ r) : (s.markIsolated r).regions[q] = s.regions[q] := by
  rw [State.markIsolated, (OnlyRegs.stacksOut _ r).regions, State.modRegion_ne _ _ _ _ h]

/-- A region that is reset is out of service with its stacks, and its queues are empty. -/
theorem State.regionReset_outOfService : (s.regionReset r).regions[r].isolated = true ∧
    (∀ i < 6, (s.regionReset r).get SE_STAT.STATE (6 * r.val + i) = 1) ∧ (s.regionReset r).regions[r].cmds = [] := by
  rw [State.regionReset_eq, State.markIsolated_region]
  exact ⟨rfl, fun i hi => State.get_stacksOut _ r hi, (State.resetDie_reset _ _ r).cmds⟩

/-- The job of a region that is reset is torn down with CAUSE 5. -/
theorem State.regionReset_tears {p : Prt} (h : s.partOf r = some p) (hjob : s.partState p ≠ psEmpty)
    (hfirst : s.partState p ≠ psTearing) : (s.regionReset r).partState p = psTearing ∧
    (s.regionReset r).get PROC_TEAR_STAT.CAUSE p = 5 := by
  obtain ⟨hstate, hcause⟩ := s.isolateRegion_tears r h hjob hfirst
  have hkept {f : Fld} (hf : f ∈ [PROC_PART_CFG.STATE, PROC_TEAR_STAT.CAUSE]) :
      (s.regionReset r).get f p = (s.isolateRegion r).get f p := by
    have hoff : ∀ f ∈ [PROC_PART_CFG.STATE, PROC_TEAR_STAT.CAUSE],
        f.home < 0x40000000 ∧ f.home ≠ SE_STAT.STATE.home := by decide
    obtain ⟨hlow, hne⟩ := hoff f hf
    rw [State.regionReset_eq, SameRegs.markIsolated _ r f p 0 0 (by omega) (by decide) (by decide) (by simpa using hne),
      State.get_resetDie _ _ r hlow (by omega) (by decide) (by decide)]
  exact ⟨(hkept (by simp)).trans hstate, (hkept (by simp)).trans hcause⟩

/-- Where the region has no job, the other regions keep their queues. -/
theorem State.regionReset_others {q : Rgn} (hq : q ≠ r) (h : s.partOf r = none) :
    (s.regionReset r).regions[q].cmds = s.regions[q].cmds := by
  rw [State.regionReset_eq, State.markIsolated_region_ne _ _ hq, State.resetDie_region_ne _ _ _ hq,
    State.isolateRegion_free s r h, State.markIsolated_region_ne _ _ hq]
  rfl

end

/-! ### HUB_RESET (R371) -/

/-- Without its key, or by another than the PF (MODULE) or Icholt (REGION), HUB_RESET is a bad access. -/
theorem exec_hubReset_refused {i : Instr} {a : Actor} {key : Byte}
    (h : (i = .hubResetModule a key ∧ (key ≠ 0x5A ∨ a ≠ .pf)) ∨
      ∃ sel, i = .hubResetRegion a key sel ∧ (key ≠ 0x5A ∨ a ≠ .icholt)) (s : State) : exec i s = .next s.badAccess := by
  obtain ⟨rfl, hrefused⟩ | ⟨sel, rfl, hrefused⟩ := h
  · exact congrArg Host.Outcome.next (if_neg (by tauto))
  · exact congrArg Host.Outcome.next (if_neg (by tauto))

/-- Settles O54: a cold or module reset in closed form, a warm and a region reset die by die. -/
theorem resets : Obligations.Resets := by
  unfold Obligations.Resets
  intro s
  refine ⟨?all, fun cause h => ?none, completes_warmReset s, ?region, fun i a key h => ?refused⟩
  case all =>
    rintro i last (⟨rfl, rfl⟩ | ⟨rfl, rfl⟩ | ⟨cause, rfl, rfl, hcause⟩)
    · exact completes_resetAll (u := s.modHub fun h => { h with powered := true }) rfl (by decide) rfl rfl rfl
    · exact completes_resetAll (u := s) rfl (by decide) rfl rfl rfl
    · exact completes_resetAll (u := s) (congrArg _ (s.moduleReset_of_cause hcause)) cause.isLt rfl rfl rfl
  case none => exact congrArg _ (s.moduleReset_of_other h)
  case region =>
    intro r i hi
    have hexec : exec i s = .next (s.regionReset r) := by
      obtain rfl | rfl := hi
      all_goals rfl
    obtain ⟨hisolated, hstacks, hcmds⟩ := s.regionReset_outOfService r
    exact ⟨_, hexec, hisolated, hcmds, hstacks, fun p => s.regionReset_tears r, fun q => s.regionReset_others r⟩
  case refused => exact ⟨_, exec_hubReset_refused h s, s.get_badAccess, .badAccess s, .badAccess s⟩

end Sys2Proof.Machine
end

section
/-!
Pacing, dips and temperature (R357, R358, R360, R362, R364), and the settlement of O53. A dip is captured, and a first one
stretches and reduces; a level that resets ends the dip and resets the region or the module.
-/
namespace Sys2Proof.Machine

/-! ### Pacing (R358, R360) -/

/-- A region that is not paced. -/
def Region.unpaced (g : Region) : Region := { g with pacedMatrix := false, pacedAll := false }

/-- A region whose matrix issue is paced, and all its issue at 5 % more. -/
def Region.paceUp (g : Region) (plus5 : Bool) : Region := { g with pacedMatrix := true, pacedAll := g.pacedAll || plus5 }

theorem State.unpace_region (s : State) (r : Rgn) : s.unpace.regions[r] = s.regions[r].unpaced := by
  change (allRegions.foldl (fun t (r : Rgn) => t.modRegion r Region.unpaced) s).regions[r] = _
  rw [State.region_foldl_modRegion (fun _ => Region.unpaced) allRegions_nodup, if_pos (mem_allRegions r)]

theorem completes_subInterval (s : State) (energy : List Nat) : Completes (.subInterval energy) s (fun t =>
    (∀ r : Rgn, t.regions[r].pacedMatrix = false ∧ t.regions[r].pacedAll = false) ∧ t.hub.paced = [] ∧
    t.regs = s.regs ∧ t.mem = s.mem) := by
  refine ⟨s.subInterval energy, rfl, fun r => ?_, rfl, rfl, rfl⟩
  rw [State.subInterval, State.unpace_region]
  exact ⟨rfl, rfl⟩

section
variable (s : State) (plus5 : Bool)

theorem State.allotmentReached_region (r : Rgn) : s.allotmentReached r.val plus5 =
    (if s.regions[r].pacedMatrix then s else s.liveAdd PWR_ALLOT.PACED 1 r.val).modRegion r (·.paceUp plus5) :=
  dif_pos r.isLt

theorem completes_allotmentReached_region (r : Rgn) :
    Completes (.allotmentReached ⟨r.val, by omega⟩ plus5) s (fun t =>
      t.regions[r].pacedMatrix = true ∧ t.regions[r].pacedAll = (s.regions[r].pacedAll || plus5) ∧
      (∀ q, q ≠ r → t.regions[q] = s.regions[q]) ∧ t.regs = s.regs ∧ t.mem = s.mem) := by
  refine ⟨_, congrArg Host.Outcome.next (s.allotmentReached_region plus5 r), ?_⟩
  generalize hu : (if s.regions[r].pacedMatrix then s else s.liveAdd PWR_ALLOT.PACED 1 r.val) = u
  obtain ⟨hregions, hregs, hmem⟩ : u.regions = s.regions ∧ u.regs = s.regs ∧ u.mem = s.mem := by
    subst hu
    split
    all_goals exact ⟨rfl, rfl, rfl⟩
  rw [State.modRegion_at, hregions]
  exact ⟨rfl, rfl, fun q hq => by rw [State.modRegion_ne _ _ _ _ hq, hregions], hregs, hmem⟩

variable {c : Fin 10} (hc : 4 ≤ c.val)
include hc

theorem completes_allotmentReached_other (hhub : c.val < 9) (hnew : c.val ∉ s.hub.paced) :
    Completes (.allotmentReached c plus5) s (fun t =>
      t.hub.paced = s.hub.paced ++ [c.val] ∧ t.regions = s.regions ∧ t.regs = s.regs ∧ t.mem = s.mem) :=
  ⟨_, congrArg Host.Outcome.next ((dif_neg (by omega)).trans (if_pos (by simp [hhub, hnew]))), rfl, rfl, rfl, rfl⟩

theorem exec_allotmentReached_ignored (h : c.val = 9 ∨ c.val ∈ s.hub.paced) :
    exec (.allotmentReached c plus5) s = .next s := by
  refine congrArg Host.Outcome.next ((dif_neg (by omega)).trans (if_neg ?_))
  rcases h with h | h <;> simp [h]

end

/-! ### A dip below the warning level (R362) -/

section
variable (s : State) (k : Fin 5) (level : Nat)

/-- The lowest voltage of a rail with the level. -/
def State.lowest (s : State) (k level : Nat) : Nat :=
  if s.bit PWR_DROOP.VALID k then min level (s.get PWR_DROOP.MIN k) else level

theorem State.captureMin_eq :
    s.captureMin k level = (s.put PWR_DROOP.MIN (s.lowest k level) k).put PWR_DROOP.VALID 1 k := rfl

theorem State.get_captureMin : (s.captureMin k level).get PWR_DROOP.VALID k = 1 ∧
    (s.captureMin k level).get PWR_DROOP.MIN k = s.lowest k level % 2 ^ PWR_DROOP.MIN.width := by
  rw [State.captureMin_eq]
  refine ⟨State.get_put_self .., ?_⟩
  rw [State.get_put_of_home_ne _ (by decide) _ (by omega) (by decide), State.get_put_self]

theorem SameRegs.captureMin : SameRegs s (s.captureMin k level) [PWR_DROOP.VALID, PWR_DROOP.MIN] := by
  rw [State.captureMin_eq]
  have hput (t : State) {f : Fld} (v : Nat) (hf : f ∈ [PWR_DROOP.VALID, PWR_DROOP.MIN]) :
      SameRegs t (t.put f v k) [PWR_DROOP.VALID, PWR_DROOP.MIN] :=
    (SameRegs.put t f v (by omega) (by decide) (by decide)).mono (by simpa using hf)
  exact (hput _ _ (by simp)).trans (hput _ _ (by simp))

theorem OnlyRegs.captureMin : OnlyRegs s (s.captureMin k level) := (OnlyRegs.put ..).trans (.put ..)

/-- A first dip counts, stretches the clocks it reaches and reduces its consumers. -/
def State.firstDip (s : State) (k : Nat) : State :=
  let u := ((s.bump PWR_DROOP.EVENTS 1 k).modHub (fun h => { h with dipRails := h.dipRails ++ [k] })).followRails
  let v := (dipConsumers k).foldl (fun s c => s.dipReduce c) u
  { v with ticket := v.ticket + 10 }

theorem State.dipReduce_foldl (cs : List Nat) (u : State) : (cs.foldl (fun s c => s.dipReduce c) u).regs = u.regs ∧
    (cs.foldl (fun s c => s.dipReduce c) u).mem = u.mem ∧ (cs.foldl (fun s c => s.dipReduce c) u).regions = u.regions :=
  List.foldlRecOn (motive := fun t : State => t.regs = u.regs ∧ t.mem = u.mem ∧ t.regions = u.regions) cs _
    ⟨rfl, rfl, rfl⟩ fun _ ht _ _ => ht

theorem State.firstDip_frame : (s.firstDip k).regs = (s.bump PWR_DROOP.EVENTS 1 k).regs ∧ (s.firstDip k).mem = s.mem ∧
    ∀ r : Rgn, k.val = r.val ∨ k.val = 4 → (s.firstDip k).regions[r].dipStretch = true := by
  obtain ⟨hregs, hmem, hregions⟩ := State.dipReduce_foldl (dipConsumers k)
    ((s.bump PWR_DROOP.EVENTS 1 k).modHub (fun h => { h with dipRails := h.dipRails ++ [k.val] })).followRails
  refine ⟨hregs, hmem, fun r hr => ?_⟩
  rw [State.firstDip, hregions, State.followRails_region]
  simp only [Region.underRails, State.modHub_hub]
  rcases hr with hr | hr <;> simp [hr]

/-- A dip captures its level, and may be a first one. -/
def State.noteDip (s : State) (k level : Nat) : State :=
  if s.hub.dipRails.contains k then s.captureMin k level else (s.captureMin k level).firstDip k

theorem State.noteDip_first (h : k.val ∉ s.hub.dipRails) : s.noteDip k level = (s.captureMin k level).firstDip k :=
  if_neg (by simpa using h)

theorem State.noteDip_further (h : k.val ∈ s.hub.dipRails) : s.noteDip k level = s.captureMin k level :=
  if_pos (by simpa using h)

/-- A rail that crosses its reset level is in a dip no more. -/
def State.endDip (s : State) (k : Nat) : State :=
  (s.modHub (fun h => { h with
    dipRails := h.dipRails.filter (· != k), dips := h.dips.filter (fun x => !(dipConsumers k).contains x.1) })).followRails

theorem State.dip_eq : s.dip k level = if warnLevel k ≤ level then s else if level < resetLevel k then
    if h : k.val < 4 then ((s.noteDip k level).endDip k).regionReset ⟨k, h⟩
    else ((s.noteDip k level).endDip k).moduleReset 3
    else s.noteDip k level := by
  have hnote : (if (!s.hub.dipRails.contains k.val) = true then (s.captureMin k level).firstDip k
      else s.captureMin k level) = s.noteDip k level := by
    unfold State.noteDip
    cases s.hub.dipRails.contains k.val <;> rfl
  rw [← hnote]
  rfl

end

section
variable {s : State} {k : Fin 5} {level : BitVec 16}

theorem exec_dip_none (h : warnLevel k ≤ level.toNat) : exec (.dip k level) s = .next s :=
  congrArg Host.Outcome.next ((s.dip_eq k level.toNat).trans (if_pos h))

theorem exec_dip_warned (hlow : resetLevel k ≤ level.toNat) (hwarn : level.toNat < warnLevel k) :
    exec (.dip k level) s = .next (s.noteDip k level.toNat) := by
  refine congrArg Host.Outcome.next ((s.dip_eq k level.toNat).trans ?_)
  rw [if_neg (by omega), if_neg (by omega)]

theorem resetLevel_lt_warnLevel (k : Nat) : resetLevel k < warnLevel k := by
  unfold resetLevel warnLevel
  split
  all_goals decide

/-- A core rail that crosses its reset level resets its region. -/
theorem exec_dip_region (hlow : level.toNat < resetLevel k) {r : Rgn} (hr : k.val = r.val) :
    exec (.dip k level) s = .next (((s.noteDip k level.toNat).endDip k).regionReset r) := by
  have hwarn := resetLevel_lt_warnLevel k
  refine congrArg Host.Outcome.next ((s.dip_eq k level.toNat).trans ?_)
  rw [if_neg (by omega), if_pos hlow, dif_pos (by omega)]
  exact congrArg _ (Fin.ext hr)

/-- The 48 V input that crosses its reset level resets the module. -/
theorem exec_dip_module (hlow : level.toNat < resetLevel k) (hk : k.val = 4) :
    exec (.dip k level) s = .next (((s.noteDip k level.toNat).endDip k).resetAll 3) := by
  have hwarn := resetLevel_lt_warnLevel k
  refine congrArg Host.Outcome.next ((s.dip_eq k level.toNat).trans ?_)
  rw [if_neg (by omega), if_pos hlow, dif_neg (by omega), State.moduleReset_of_cause (by decide)]

theorem completes_dip_warned (hlow : resetLevel k ≤ level.toNat) (hwarn : level.toNat < warnLevel k) :
    Completes (.dip k level) s (fun t =>
      t.get PWR_DROOP.VALID k = 1 ∧ t.get PWR_DROOP.MIN k =
        (if s.bit PWR_DROOP.VALID k then min level.toNat (s.get PWR_DROOP.MIN k) else level.toNat) %
          2 ^ PWR_DROOP.MIN.width ∧ t.mem = s.mem ∧
      (k.val ∉ s.hub.dipRails → t.get PWR_DROOP.EVENTS k = min PWR_DROOP.EVENTS.max (s.get PWR_DROOP.EVENTS k + 1) ∧
        (∀ r : Rgn, k.val = r.val ∨ k.val = 4 → t.regions[r].dipStretch = true) ∧
        SameRegs s t [PWR_DROOP.EVENTS, PWR_DROOP.VALID, PWR_DROOP.MIN]) ∧
      (k.val ∈ s.hub.dipRails → t.regions = s.regions ∧ SameRegs s t [PWR_DROOP.VALID, PWR_DROOP.MIN])) := by
  obtain ⟨hvalid, hmin⟩ := s.get_captureMin k level.toNat
  have hcaptured := SameRegs.captureMin s k level.toNat
  refine ⟨_, exec_dip_warned hlow hwarn, ?_⟩
  by_cases hrail : k.val ∈ s.hub.dipRails
  · rw [State.noteDip_further _ _ _ hrail]
    exact ⟨hvalid, hmin, rfl, fun h => absurd hrail h, fun _ => ⟨rfl, hcaptured⟩⟩
  · rw [State.noteDip_first _ _ _ hrail]
    obtain ⟨hregs, hmem, hregions⟩ := (s.captureMin k level.toNat).firstDip_frame k
    have hbumped : SameRegs (s.captureMin k level.toNat) ((s.captureMin k level.toNat).firstDip k) [PWR_DROOP.EVENTS] :=
      (SameRegs.bump _ PWR_DROOP.EVENTS 1 (by omega) (by decide) (by decide)).trans (.of_regs hregs _)
    have hkept {f : Fld} (h : f.home ≠ PWR_DROOP.EVENTS.home) :
        ((s.captureMin k level.toNat).firstDip k).get f k = (s.captureMin k level.toNat).get f k :=
      hbumped _ _ _ _ (by omega) (by decide) (by decide) (by simpa using h)
    refine ⟨(hkept (by decide)).trans hvalid, (hkept (by decide)).trans hmin, hmem, fun _ => ⟨?events, hregions, ?regs⟩,
      fun h => absurd h hrail⟩
    case events =>
      rw [State.get_of_regs hregs, State.get_bump_self,
        hcaptured _ _ _ _ (by omega) (by decide) (by decide) (by decide)]
    case regs => exact (hcaptured.mono (by simp)).trans (hbumped.mono (by simp))

/-! ### Recovery (R357, R362) -/

theorem completes_dipRecovery (s : State) (k : Fin 5) : Completes (.dipRecovery k) s (fun t => t.regs = s.regs ∧
    t.mem = s.mem ∧ ∀ r : Rgn,
      (t.regions[r].dipStretch = true ↔ r.val ∈ s.hub.dipRails ∧ k.val ≠ r.val ∨ 4 ∈ s.hub.dipRails ∧ k.val ≠ 4) ∧
      t.regions[r].cmds = s.regions[r].cmds) := by
  refine ⟨s.dipRecovery k, rfl, State.followRails_regs _, State.followRails_mem _, fun r => ?_⟩
  rw [State.dipRecovery, State.followRails_region]
  refine ⟨?_, rfl⟩
  simp [Region.underRails, ne_comm]

/-! ### A die that trips (R364) -/

theorem exec_thermalTrip_region {d : Fin 29} {r : Rgn} (hr : r.val = (if d.val < 4 then d.val else (d.val - 4) / 6))
    (hd : d.val < 28) : exec (.thermalTrip d) s = .next ((s.bump PWR_THERM.TRIPS 1 d).regionReset r) := by
  refine congrArg Host.Outcome.next ?_
  unfold State.thermalTrip
  dsimp only
  by_cases hcore : d.val < 4
  · rw [dif_pos hcore]
    rw [if_pos hcore] at hr
    exact congrArg _ (Fin.ext hr.symm)
  · rw [dif_neg hcore, if_pos hd]
    rw [if_neg hcore] at hr
    exact congrArg _ (Fin.ext (show (d.val - 4) / 6 % 4 = r.val by omega))

theorem exec_thermalTrip_hub : exec (.thermalTrip 28) s = .next ((s.bump PWR_THERM.TRIPS 1 28).resetAll 4) := rfl

end

/-- Settles O53: pacing is a pass over the regions; a dip is captured, noted and ended; what resets is a region reset or the
module reset. -/
theorem powerAndPacing : Obligations.PowerAndPacing := by
  unfold Obligations.PowerAndPacing
  intro s
  refine ⟨completes_subInterval s, fun r plus5 => completes_allotmentReached_region s plus5 r,
    fun c plus5 hc => ⟨completes_allotmentReached_other s plus5 hc, exec_allotmentReached_ignored s plus5 hc⟩, ?dip,
    completes_dipRecovery s, ?trip, ⟨_, exec_thermalTrip_hub, State.get_resetAll_last _ 4, rfl⟩⟩
  case dip =>
    rintro k level _ _ rfl rfl
    refine ⟨exec_dip_none, completes_dip_warned, fun hlow => ⟨fun r hr => ?_, fun hk => ?_⟩⟩
    · obtain ⟨hisolated, hstacks, hcmds⟩ := ((s.noteDip k level.toNat).endDip k).regionReset_outOfService r
      exact ⟨_, exec_dip_region hlow hr, hisolated, hcmds, hstacks⟩
    · exact ⟨_, exec_dip_module hlow hk, State.get_resetAll_last _ 3, rfl⟩
  case trip =>
    intro d r hr hd
    exact ⟨_, exec_thermalTrip_region hr hd, (s.bump PWR_THERM.TRIPS 1 d).regionReset_outOfService r⟩

end Sys2Proof.Machine
end

section
/-!
What placing a job leaves of JOB_TAG and REGIONS (R285, R349). The steps that follow the configuration of the partition write
registers of the regions and their stacks, and other fields of the partition.
-/
namespace Sys2Proof.Machine

/-! ### JOB_TAG and REGIONS kept -/

/-- The fields that say which job runs where. -/
def jobFields : List Fld := [PROC_PART_CFG.JOB_TAG, PROC_PART_CFG.REGIONS]

/-- Every partition keeps its tag and its regions. -/
structure KeepsJob (s t : State) : Prop where
  get : ∀ f ∈ jobFields, ∀ p : Prt, t.get f p = s.get f p

theorem KeepsJob.refl (s : State) : KeepsJob s s := ⟨fun _ _ _ => rfl⟩

theorem KeepsJob.trans {s t u : State} (a : KeepsJob s t) (b : KeepsJob t u) : KeepsJob s u :=
  ⟨fun f hf p => (b.get f hf p).trans (a.get f hf p)⟩

theorem KeepsJob.of_regs {s t : State} (h : t.regs = s.regs) : KeepsJob s t := ⟨fun _ _ _ => State.get_of_regs h ..⟩

theorem KeepsJob.of_sameRegs {s t : State} {changed : List Fld} (h : SameRegs s t changed)
    (hc : ∀ f ∈ jobFields, ∀ g ∈ changed, f.home ≠ g.home) : KeepsJob s t :=
  ⟨fun f hf _ => h _ _ _ _ (by omega) (by decide) (by decide) (hc f hf)⟩

/-- A field of a higher home, at whatever indices: the registers of the regions and of the stacks. -/
theorem KeepsJob.put_above (s : State) {f : Fld} (h : ∀ g ∈ jobFields, g.home < f.home) (v i j k : Nat) :
    KeepsJob s (s.put f v i j k) :=
  ⟨fun g hg _ => State.get_put_of_home_lt _ (h g hg) _ _ _ _ (by omega) (by decide) (by decide)⟩

/-- Another field of a partition. -/
theorem KeepsJob.put_part (s : State) {f : Fld} (h : ∀ g ∈ jobFields, g.home ≠ f.home) (v : Nat) (p : Prt) :
    KeepsJob s (s.put f v p) := ⟨fun g hg q =>
  State.get_put_home _ _ _ _ _ _ _ _ _ _ (h g hg) (by omega) (by decide) (by decide) (by omega) (by decide) (by decide)⟩

theorem KeepsJob.modPart {s t : State} (h : KeepsJob s t) (p : Prt) (g : Part → Part) : KeepsJob s (t.modPart p g) :=
  h.trans (.of_regs rfl)

theorem KeepsJob.modHub {s t : State} (h : KeepsJob s t) (g : Hub → Hub) : KeepsJob s (t.modHub g) :=
  h.trans (.of_regs rfl)

theorem KeepsJob.store (s : State) (a : Nat) (bs : List Byte) : KeepsJob s (s.store a bs) := .of_regs rfl

theorem KeepsJob.ite {s a b : State} {c : Prop} [Decidable c] (x : KeepsJob s a) (y : KeepsJob s b) :
    KeepsJob s (if c then a else b) := by
  split <;> assumption

theorem KeepsJob.foldl {α : Type} {f : State → α → State} (l : List α) (hf : ∀ s, ∀ a ∈ l, KeepsJob s (f s a))
    (s : State) : KeepsJob s (l.foldl f s) :=
  List.foldlRecOn (motive := KeepsJob s) l _ (.refl s) fun t ht a ha => ht.trans (hf t a ha)

/-! ### LOAD of a partition (R213, R285) -/

section
variable (s : State)

theorem KeepsJob.loadPair (tag k p : Nat) : KeepsJob s (s.loadPair tag k p) := by
  have drained : KeepsJob s ((s.put SE_BUF1.DRAIN_PEND 0 k p).put SE_BUF1.DRAIN_NEXT 0 k p) :=
    (KeepsJob.put_above s (by decide) ..).trans (.put_above _ (by decide) ..)
  exact .ite drained ((drained.trans (.put_above _ (by decide) ..)).trans (.put_above _ (by decide) ..))

/-- The registers of a region that a job load clears (R45, R121, R129, R141, R152). -/
def State.clearRegion (s : State) (r : Rgn) : State :=
  let s := s.setSeq r sqIdle
  let s := (s.put RGN_SEQ_STAT.HOLD_FLAG 0 r).put RGN_SEQ_STAT.FALLBACK 0 r
  let s := (((s.put RGN_SEQ_ERR.CODE 0 r).put RGN_SEQ_ERR.ENGINE 0 r).put RGN_SEQ_ERR.MORE 0 r).put RGN_SEQ_ERR.SLOT 0 r
  let s := (s.put RGN_SEQ_ERR.ORDINAL 0 r).put RGN_GEN_STEP.STEP 0 r
  ((s.clearAt RGN_SEQ_SQ.VALUE r).clearAt RGN_TOK.VALUE r).clearAt RGN_TOK.LINK r

theorem KeepsJob.clearRegion (r : Rgn) : KeepsJob s (s.clearRegion r) := by
  have put (t : State) {f : Fld} (h : ∀ g ∈ jobFields, g.home < f.home) (v : Nat) : KeepsJob t (t.put f v r) :=
    .put_above t h v r 0 0
  have clear (t : State) {f : Fld} (h : ∀ g ∈ jobFields, ∀ k ∈ [f], g.home ≠ k.home) :
      KeepsJob t (t.clearAt f r) := .of_sameRegs (.clearAt t f r) h
  have faults (t : State) : KeepsJob t ((((t.put RGN_SEQ_ERR.CODE 0 r).put RGN_SEQ_ERR.ENGINE 0 r).put RGN_SEQ_ERR.MORE 0
      r).put RGN_SEQ_ERR.SLOT 0 r) :=
    (((put t (by decide) _).trans (put _ (by decide) _)).trans (put _ (by decide) _)).trans (put _ (by decide) _)
  have flags : KeepsJob s (((s.setSeq r sqIdle).put RGN_SEQ_STAT.HOLD_FLAG 0 r).put RGN_SEQ_STAT.FALLBACK 0 r) :=
    ((put s (by decide) _).trans (put _ (by decide) _)).trans (put _ (by decide) _)
  have steps (t : State) : KeepsJob t ((t.put RGN_SEQ_ERR.ORDINAL 0 r).put RGN_GEN_STEP.STEP 0 r) :=
    (put t (by decide) _).trans (put _ (by decide) _)
  exact ((((flags.trans (faults _)).trans (steps _)).trans (clear _ (by decide))).trans (clear _ (by decide))).trans
    (clear _ (by decide))

/-- What a job load clears of a region outside the registers. -/
def State.emptyRegion (s : State) (r : Rgn) : State :=
  let s := (s.clearPoisonAll r).modRegion r (fun g => { g with
    pos := 0, patches := [], ordinal := 0, nf := none, planNext := none, cmds := [], shadows := [], twins := []
    prev := none, late := false })
  { s with mem := s.mem.zero (accBase r 0 0) (accBase r 16 0) }

theorem State.emptyRegion_regs (r : Rgn) : (s.emptyRegion r).regs = s.regs := rfl

theorem State.loadRegion_eq (tag : Nat) (r : Rgn) : s.loadRegion tag r = (List.range 6).foldl (fun s i =>
    (s.listedPairs (6 * r.val + i)).foldl (fun s p => s.loadPair tag (6 * r.val + i) p) s)
    ((s.clearRegion r).emptyRegion r) := rfl

theorem KeepsJob.loadRegion (tag : Nat) (r : Rgn) : KeepsJob s (s.loadRegion tag r) := by
  have pairs (t : State) : KeepsJob t ((List.range 6).foldl (fun s i =>
      (s.listedPairs (6 * r.val + i)).foldl (fun s p => s.loadPair tag (6 * r.val + i) p) s) t) :=
    .foldl _ (fun u i _ => .foldl _ (fun v p _ => .loadPair v tag _ p) u) t
  rw [State.loadRegion_eq]
  exact ((KeepsJob.clearRegion s r).trans (.of_regs (State.emptyRegion_regs _ r))).trans (pairs _)

theorem KeepsJob.load (p : Prt) : KeepsJob s (s.load p) := by
  have put (t : State) {f : Fld} (h : ∀ g ∈ jobFields, g.home ≠ f.home) (v : Nat) : KeepsJob t (t.put f v p) :=
    .put_part t h v p
  have regions : KeepsJob s ((s.regionsOf p).foldl (fun t r => t.loadRegion (s.get PROC_PART_CFG.JOB_TAG p) r) s) :=
    .foldl _ (fun t r _ => .loadRegion t _ r) s
  have counted := (regions.trans (put _ (f := PROC_PART_BLOCK.BLOCKS) (by decide) 0)).trans
    (put _ (f := PROC_PART_CFG.LOAD) (by decide) 0)
  exact .ite (((counted.modPart p _).modHub _).trans (put _ (f := PROC_PART_CFG.STATE) (by decide) psLoaded)) (.refl s)

theorem KeepsJob.dbgLock (p : Prt) : KeepsJob s (s.dbgLock p) := .ite (.put_part s (by decide) 1 p) (.refl s)

/-! ### GO (R112) -/

theorem KeepsJob.regionFault (r : Rgn) (code engine slot ord : Nat) :
    KeepsJob s (s.regionFault r code engine slot ord) := by
  have put (t : State) {f : Fld} (h : ∀ g ∈ jobFields, g.home < f.home) (v : Nat) : KeepsJob t (t.put f v r) :=
    .put_above t h v r 0 0
  have noted : KeepsJob s ((((s.put RGN_SEQ_ERR.CODE code r).put RGN_SEQ_ERR.ENGINE engine r).put RGN_SEQ_ERR.SLOT slot
      r).put RGN_SEQ_ERR.ORDINAL ord r) :=
    (((put s (by decide) _).trans (put _ (by decide) _)).trans (put _ (by decide) _)).trans (put _ (by decide) _)
  exact .ite (put s (by decide) 1) ((noted.trans (put _ (f := RGN_SEQ_STAT.STATE) (by decide) sqFault)).trans
    (.of_sameRegs (.killWhere _ r _) (by decide)))

theorem KeepsJob.go (r : Rgn) : KeepsJob s (s.go r) := by
  unfold State.go
  split
  · exact .refl s
  · exact .ite (.ite (.put_above s (by decide) ..) ((KeepsJob.put_above s (by decide) ..).trans (.regionFault _ r _ _ _ _)))
      (.refl s)

/-! ### Sections (R348) -/

theorem KeepsJob.putBits {fs : List Fld} (h : ∀ f ∈ fs, ∀ g ∈ jobFields, g.home < f.home) (v i j k : Nat) :
    KeepsJob s (s.putBits fs v i j k) := .foldl fs (fun t f hf => .put_above t (h f hf) ..) s

/-- A section writes the memory of its region, and registers of the region and of its stacks. -/
theorem KeepsJob.writeSection (pkg : List Byte) (regs : List Rgn) (k : Nat) : KeepsJob s (s.writeSection pkg regs k) := by
  unfold State.writeSection
  dsimp only
  split
  · exact (KeepsJob.store s ..).trans (.put_above _ (by decide) ..)
  · exact .foldl _ (fun t w _ => .put_above t (by decide) ..) s
  · exact .store s ..
  · exact (KeepsJob.putBits s (by decide) ..).trans (.foldl _ (fun t w _ => .put_above t (by decide) ..) _)
  · exact .foldl _ (fun t c _ => (KeepsJob.putBits t (by decide) ..).trans (.put_above _ (by decide) ..)) s
  · exact .foldl _ (fun t c _ => .ite (.putBits t (by decide) ..) (.putBits t (by decide) ..)) s
  · exact .refl s

end

/-! ### Placing (R349) -/

section
variable (s : State) (m pkg : List Byte) (p : Prt) (plan : List (BitVec 16)) (mask tag : Nat) (ks : List Nat)

/-- The partition takes its regions from the others, and gets its tag. -/
def State.giveRegions (s : State) (p : Prt) (mask tag : Nat) : State :=
  let u := allRegions.foldl (fun s (q : Rgn) =>
    if q = p then s else s.put PROC_PART_CFG.REGIONS (s.get PROC_PART_CFG.REGIONS q &&& (15 - mask)) q) s
  (u.put PROC_PART_CFG.REGIONS mask p).put PROC_PART_CFG.JOB_TAG tag p

theorem State.get_giveRegions : (s.giveRegions p mask tag).get PROC_PART_CFG.JOB_TAG p = tag % 65536 ∧
    (s.giveRegions p mask tag).get PROC_PART_CFG.REGIONS p = mask % 16 := by
  unfold State.giveRegions
  refine ⟨State.get_put_self .., ?_⟩
  rw [State.get_put_part _ (by decide)]
  exact State.get_put_self ..

/-- The rest of the configuration of the partition. -/
def State.configure (s : State) (m : List Byte) (p : Prt) (plan : List (BitVec 16)) : State :=
  let s := s.put PROC_PART_CFG.MULTI (if plan.isEmpty then 0 else 1) p
  let s := s.modPart p (fun x => { x with members := plan.map (·.toNat) })
  (s.put HUB_JOB_SEED.SEED (leAt m 24 8) p).put (mapField p) (leAt m 32 1) 0

theorem KeepsJob.configure : KeepsJob s (s.configure m p plan) := by
  have hmap : ∀ q : Prt, ∀ g ∈ jobFields, g.home ≠ (mapField q).home := by decide
  exact (((KeepsJob.put_part s (by decide) _ p).modPart p _).trans (.put_part _ (by decide) _ p)).trans
    (.put_part _ (hmap p) _ 0)

/-- The job is loaded, locked and started as its flags ask. -/
def State.startJob (s : State) (p : Prt) (mask flags : Nat) : State :=
  let s := s.load p
  let s := if flags % 2 = 1 then s.dbgLock p else s
  if flags / 2 % 2 = 1 then (regionsIn mask).foldl (fun s r => s.go r) s else s

theorem KeepsJob.startJob (flags : Nat) : KeepsJob s (s.startJob p mask flags) := by
  have locked : KeepsJob s (if flags % 2 = 1 then (s.load p).dbgLock p else s.load p) :=
    .ite ((KeepsJob.load s p).trans (.dbgLock _ p)) (.load s p)
  exact .ite (locked.trans (.foldl _ (fun t r _ => .go t r) _)) locked

theorem State.placeJob_eq : s.placeJob m pkg p plan mask tag ks =
    (ks.foldl (fun s k => s.writeSection pkg (regionsIn mask) k) ((s.giveRegions p mask tag).configure m p plan)).startJob p
      mask (leAt m 33 1) := rfl

/-- A partition whose job is placed has its tag and its regions. -/
theorem State.get_placeJob (htag : tag < 65536) (hmask : mask < 16) :
    (s.placeJob m pkg p plan mask tag ks).get PROC_PART_CFG.JOB_TAG p = tag ∧
    (s.placeJob m pkg p plan mask tag ks).get PROC_PART_CFG.REGIONS p = mask := by
  have kept : KeepsJob (s.giveRegions p mask tag) (s.placeJob m pkg p plan mask tag ks) := by
    rw [State.placeJob_eq]
    exact ((KeepsJob.configure _ m p plan).trans (.foldl ks (fun t k _ => .writeSection t pkg _ k) _)).trans
      (.startJob _ p mask _)
  obtain ⟨hgivenTag, hgivenRegions⟩ := s.get_giveRegions p mask tag
  exact ⟨(kept.get _ (by simp [jobFields]) p).trans (hgivenTag.trans (Nat.mod_eq_of_lt htag)),
    (kept.get _ (by simp [jobFields]) p).trans (hgivenRegions.trans (Nat.mod_eq_of_lt hmask))⟩

end

end Sys2Proof.Machine
end

section
/-!
LOAD_JOB (R347-R349), and the settlement of O51. The answer is said first for the state with the message taken, check by
check in the order in which Icholt makes them; a message taken changes none of the registers that they look at.
-/
namespace Sys2Proof.Machine

/-! ### What a request asks for -/

/-- The request and the header of the package check (R348, R349). -/
def GoodPackage (m pkg : List Byte) : Prop :=
  packageOk pkg (leAt m 16 4) = true ∧ leAt m 8 8 % 4096 = 0 ∧ 0x400000000000 ≤ leAt m 8 8 ∧
    leAt m 8 8 + leAt m 16 4 ≤ 0x800000000000 ∧ leAt m 32 1 ≤ 63

/-- The job of a tag may claim a granule: one of nobody that is not worn, or one of its own (R232, R349). -/
def State.Claimable (s : State) (tag g : Nat) : Prop :=
  s.changing g = false ∧ (s.get HUB_OWN.KIND g = 0 ∧ s.isWorn g = false ∨
    s.get HUB_OWN.KIND g = 3 ∧ s.get HUB_OWN.TAG g = tag)

/-- The body of an answer: tag, partition, region set, index of a section. -/
def jobReply (p : Prt) (tag mask idx : Nat) : List Byte :=
  toLe 2 tag ++ [BitVec.ofNat 8 p.val, BitVec.ofNat 8 mask] ++ toLe 4 idx

/-- The body of an answer that places nothing. -/
def State.nothingPlaced (s : State) (p : Prt) (idx : Nat) : List Byte :=
  jobReply p (s.get PROC_PART_CFG.JOB_TAG p) 0 idx

/-- Whether a section of a build checks. -/
def goodSection (pkg : List Byte) (b : Nat × Nat × Nat) (k : Nat) : Bool := sectionOk pkg (regionsIn b.1).length k

/-- The sections of a build, and the granules that the good ones claim. -/
def sectionsOf (b : Nat × Nat × Nat) : List Nat := (List.range b.2.2).map (b.2.1 + ·)
def claimsOfBuild (pkg : List Byte) (b : Nat × Nat × Nat) : List Nat :=
  claimsOf pkg ((sectionsOf b).filter (goodSection pkg b))

/-- Icholt asks for the granules of nobody. -/
def State.askClaims (s : State) (gs : List Nat) (tag : Nat) : State :=
  (gs.filter (fun g => s.get HUB_OWN.KIND g == 0)).foldl (fun s g => s.askOwn g 3 tag false) s.nextTicket

/-- The answer for a build: the claims are checked before the other sections. -/
def State.buildAnswer (s : State) (m pkg : List Byte) (plan : List (BitVec 16)) (p : Prt) (tag : Nat)
    (b : Nat × Nat × Nat) : State × Nat × List Byte :=
  if (claimsOfBuild pkg b).any (fun g => s.changing g || (s.get HUB_OWN.KIND g == 0 && s.isWorn g) ||
      !(s.get HUB_OWN.KIND g == 0 || (s.get HUB_OWN.KIND g == 3 && s.get HUB_OWN.TAG g == tag))) then
    (s.nextTicket, rpRefused, s.nothingPlaced p 0xFFFFFFFF)
  else
    match (sectionsOf b).find? (fun k => !goodSection pkg b k) with
    | some k => (s.nextTicket, if Config.freeBit s.ticket then rpRefused else rpBad, s.nothingPlaced p k)
    | none => ((s.askClaims (claimsOfBuild pkg b) tag).placeJob m pkg p plan b.1 tag (sectionsOf b), rpOk,
        jobReply p tag b.1 0xFFFFFFFF)

/-- The answer for a partition. -/
def State.jobAnswer (s : State) (m pkg : List Byte) (plan : List (BitVec 16)) (p : Prt) : State × Nat × List Byte :=
  if leAt m 8 8 % 4096 ≠ 0 ∨ leAt m 8 8 < 0x400000000000 ∨ 0x800000000000 < leAt m 8 8 + leAt m 16 4 ∨
      63 < leAt m 32 1 ∨ !packageOk pkg (leAt m 16 4) then (s, rpBad, s.nothingPlaced p 0xFFFFFFFF)
  else if s.partState p != psEmpty then (s, rpBusy, s.nothingPlaced p 0xFFFFFFFF)
  else
    match s.chooseBuild (builds pkg) (leAt m 21 1 % 16) (s.assignTag (leAt m 22 2)) with
    | none => (s.nextTicket, rpRefused, s.nothingPlaced p 0xFFFFFFFF)
    | some b => s.buildAnswer m pkg plan p (s.assignTag (leAt m 22 2)) b

theorem State.reqLoadJob_eq (s : State) (n : Nat) (pkg : List Byte) (plan : List (BitVec 16)) :
    s.reqLoadJob n pkg plan = s.partRequest n 1 20 (fun s m p => s.jobAnswer m pkg plan p) := rfl

/-! ### The checks, in order (R349) -/

section
variable {u : State} {m pkg : List Byte} {plan : List (BitVec 16)} {p : Prt}

theorem not_goodPackage_iff : ¬ GoodPackage m pkg ↔ leAt m 8 8 % 4096 ≠ 0 ∨ leAt m 8 8 < 0x400000000000 ∨
    0x800000000000 < leAt m 8 8 + leAt m 16 4 ∨ 63 < leAt m 32 1 ∨ (!packageOk pkg (leAt m 16 4)) = true := by
  unfold GoodPackage
  cases packageOk pkg (leAt m 16 4)
  · simp
  · simp only [true_and, Bool.not_true, Bool.false_eq_true, or_false]
    omega

theorem State.jobAnswer_bad (h : ¬ GoodPackage m pkg) :
    u.jobAnswer m pkg plan p = (u, rpBad, u.nothingPlaced p 0xFFFFFFFF) := if_pos (not_goodPackage_iff.1 h)

variable (hgood : GoodPackage m pkg)
include hgood

theorem State.jobAnswer_busy (h : u.partState p ≠ psEmpty) :
    u.jobAnswer m pkg plan p = (u, rpBusy, u.nothingPlaced p 0xFFFFFFFF) :=
  (if_neg fun hbad => not_goodPackage_iff.2 hbad hgood).trans (if_pos (by simpa using h))

variable (hempty : u.partState p = psEmpty)
include hempty

theorem State.jobAnswer_free : u.jobAnswer m pkg plan p =
    match u.chooseBuild (builds pkg) (leAt m 21 1 % 16) (u.assignTag (leAt m 22 2)) with
    | none => (u.nextTicket, rpRefused, u.nothingPlaced p 0xFFFFFFFF)
    | some b => u.buildAnswer m pkg plan p (u.assignTag (leAt m 22 2)) b :=
  (if_neg fun hbad => not_goodPackage_iff.2 hbad hgood).trans (if_neg (by simpa using hempty))

theorem State.jobAnswer_noBuild
    (h : u.chooseBuild (builds pkg) (leAt m 21 1 % 16) (u.assignTag (leAt m 22 2)) = none) :
    u.jobAnswer m pkg plan p = (u.nextTicket, rpRefused, u.nothingPlaced p 0xFFFFFFFF) := by
  rw [State.jobAnswer_free hgood hempty, h]

theorem State.jobAnswer_build {b : Nat × Nat × Nat}
    (h : u.chooseBuild (builds pkg) (leAt m 21 1 % 16) (u.assignTag (leAt m 22 2)) = some b) :
    u.jobAnswer m pkg plan p = u.buildAnswer m pkg plan p (u.assignTag (leAt m 22 2)) b := by
  rw [State.jobAnswer_free hgood hempty, h]

end

section
variable {u : State} {m pkg : List Byte} {plan : List (BitVec 16)} {p : Prt} {tag : Nat} {b : Nat × Nat × Nat}

theorem State.not_claimable_iff {g : Nat} : ¬ u.Claimable tag g ↔
    (u.changing g || (u.get HUB_OWN.KIND g == 0 && u.isWorn g) ||
      !(u.get HUB_OWN.KIND g == 0 || (u.get HUB_OWN.KIND g == 3 && u.get HUB_OWN.TAG g == tag))) = true := by
  unfold State.Claimable
  cases u.changing g
  case true => simp
  case false =>
    by_cases hfree : u.get HUB_OWN.KIND g = 0
    · simp [hfree]
    · simp [hfree, Decidable.imp_iff_not_or]

theorem State.buildAnswer_refused (h : ∃ g ∈ claimsOfBuild pkg b, ¬ u.Claimable tag g) :
    u.buildAnswer m pkg plan p tag b = (u.nextTicket, rpRefused, u.nothingPlaced p 0xFFFFFFFF) := by
  obtain ⟨g, hg, hnot⟩ := h
  exact if_pos (List.any_eq_true.2 ⟨g, hg, State.not_claimable_iff.1 hnot⟩)

variable (hclaims : ∀ g ∈ claimsOfBuild pkg b, u.Claimable tag g)
include hclaims

theorem State.buildAnswer_claimed : u.buildAnswer m pkg plan p tag b =
    match (sectionsOf b).find? (fun k => !goodSection pkg b k) with
    | some k => (u.nextTicket, if Config.freeBit u.ticket then rpRefused else rpBad, u.nothingPlaced p k)
    | none => ((u.askClaims (claimsOfBuild pkg b) tag).placeJob m pkg p plan b.1 tag (sectionsOf b), rpOk,
        jobReply p tag b.1 0xFFFFFFFF) := by
  refine if_neg fun hany => ?_
  obtain ⟨g, hg, hnot⟩ := List.any_eq_true.1 hany
  exact State.not_claimable_iff.2 hnot (hclaims g hg)

/-- Which status a section that does not check draws is open. -/
theorem State.buildAnswer_badSection {k : Nat} (h : (sectionsOf b).find? (fun k => !goodSection pkg b k) = some k) :
    ∃ st, (st = rpRefused ∨ st = rpBad) ∧
      u.buildAnswer m pkg plan p tag b = (u.nextTicket, st, u.nothingPlaced p k) := by
  refine ⟨_, ?_, by rw [State.buildAnswer_claimed hclaims, h]⟩
  split
  · exact .inl rfl
  · exact .inr rfl

theorem State.buildAnswer_placed (h : ∀ k ∈ sectionsOf b, goodSection pkg b k = true) :
    u.buildAnswer m pkg plan p tag b = ((u.askClaims (claimsOfBuild pkg b) tag).placeJob m pkg p plan b.1 tag (sectionsOf b),
      rpOk, jobReply p tag b.1 0xFFFFFFFF) := by
  rw [State.buildAnswer_claimed hclaims, List.find?_eq_none.2 fun k hk => by simp [h k hk]]

end

/-! ### Tags, region sets and claims are in range -/

theorem State.assignTag_lt (u : State) {asked : Nat} (h : asked < 65536) : u.assignTag asked < 65536 := by
  unfold State.assignTag
  split
  · exact h
  · dsimp only
    generalize hfound : List.find? _ _ = found
    cases found with
    | none => decide
    | some t =>
      obtain ⟨i, -, rfl⟩ := List.mem_map.1 (List.mem_of_find?_eq_some hfound)
      simp only [Option.getD_some]
      omega

theorem State.chooseBuild_mem {u : State} {bs : List (Nat × Nat × Nat)} {mask tag : Nat} {b : Nat × Nat × Nat}
    (h : u.chooseBuild bs mask tag = some b) : b ∈ bs := by
  unfold State.chooseBuild at h
  dsimp only at h
  split at h
  · exact (List.mem_filter.1 (List.mem_of_find?_eq_some h)).1
  · refine List.foldlRecOn (motive := fun best : Option (Nat × Nat × Nat) => best = some b → b ∈ bs) _ _
      (show none = some b → b ∈ bs from fun hnone => nomatch hnone) (fun best hbest c hc hstep => ?_) h
    have hcbs : c ∈ bs := (List.mem_filter.1 hc).1
    split at hstep
    · exact Option.some.inj hstep ▸ hcbs
    · split at hstep
      · exact Option.some.inj hstep ▸ hcbs
      · exact hbest hstep

theorem builds_mask_lt {pkg : List Byte} {b : Nat × Nat × Nat} (h : b ∈ builds pkg) : b.1 < 16 := by
  obtain ⟨k, -, rfl⟩ := List.mem_map.1 h
  exact Nat.mod_lt _ (by decide)

/-- A section of claims checks only with granules that there are. -/
theorem claimsOf_lt {pkg : List Byte} {n : Nat} {ks : List Nat} (h : ∀ k ∈ ks, sectionOk pkg n k = true) :
    ∀ g ∈ claimsOf pkg ks, g < 1536 := by
  intro g hg
  obtain ⟨k, hk, hg⟩ := List.mem_flatMap.1 hg
  dsimp only at hg
  split at hg
  next hkind =>
    obtain ⟨c, hc, rfl⟩ := List.mem_map.1 hg
    have hok := h k hk
    unfold sectionOk at hok
    simp only [hkind, Bool.and_eq_true, List.all_eq_true, decide_eq_true_eq] at hok
    exact hok.2.2 c hc
  next => exact nomatch hg

theorem claimsOfBuild_lt {pkg : List Byte} {b : Nat × Nat × Nat} : ∀ g ∈ claimsOfBuild pkg b, g < 1536 :=
  claimsOf_lt fun _ hk => (List.mem_filter.1 hk).2

/-! ### The message taken -/

section
variable (s : State) (n : Fin 16) (p : Prt)

theorem State.nothingPlaced_takeMessage (idx : Nat) :
    (s.put PH_IN_STAT.FULL 0 n).nothingPlaced p idx = s.nothingPlaced p idx := by
  have htag : (s.put PH_IN_STAT.FULL 0 n).get PROC_PART_CFG.JOB_TAG p = s.get PROC_PART_CFG.JOB_TAG p :=
    SameRegs.takeMessage s n _ _ _ _ (by omega) (by decide) (by decide) (by decide)
  rw [State.nothingPlaced, htag, State.nothingPlaced]

theorem State.partState_takeMessage : (s.put PH_IN_STAT.FULL 0 n).partState p = s.partState p :=
  (SameRegs.takeMessage s n).partState (by decide) p

theorem State.claimable_takeMessage (tag : Nat) {g : Nat} (hg : g < 1536) :
    (s.put PH_IN_STAT.FULL 0 n).Claimable tag g ↔ s.Claimable tag g := by
  unfold State.Claimable
  rw [s.get_own_takeMessage n hg (by decide), s.get_own_takeMessage n hg (by decide), s.isWorn_takeMessage n hg]
  rfl

theorem State.askClaims_takeMessage {gs : List Nat} (hgs : ∀ g ∈ gs, g < 1536) (tag : Nat) :
    (s.put PH_IN_STAT.FULL 0 n).askClaims gs tag = (gs.filter (fun g => s.get HUB_OWN.KIND g == 0)).foldl
      (fun v g => v.askOwn g 3 tag false) (s.put PH_IN_STAT.FULL 0 n).nextTicket := by
  rw [State.askClaims, List.filter_congr fun g hg => by rw [s.get_own_takeMessage n (hgs g hg) (by decide)]]

theorem State.claims_takeMessage {pkg : List Byte} {b : Nat × Nat × Nat} {tag : Nat}
    (h : ∀ g ∈ claimsOfBuild pkg b, s.Claimable tag g) :
    ∀ g ∈ claimsOfBuild pkg b, (s.put PH_IN_STAT.FULL 0 n).Claimable tag g := fun g hg =>
  (s.claimable_takeMessage n tag (claimsOfBuild_lt g hg)).2 (h g hg)

end

/-! ### The answers -/

section
variable {s : State} {n : Fin 16} {pkg : List Byte} {plan : List (BitVec 16)}

theorem exec_loadJob_ignored
    (h : s.hub.booted = false ∨ s.bit PH_IN_STAT.FULL n = false ∨ leAt (s.message n) 0 2 ≠ 1) :
    exec (.loadJob n pkg plan) s = .next s :=
  congrArg Host.Outcome.next ((s.reqLoadJob_eq n pkg plan).trans (State.partRequest_eq.trans (State.request_ignored h)))

/-- With a build for a free region set, the answer is the build's. -/
theorem jobAnswer_of_build {p : Prt} (hgood : GoodPackage (s.message n) pkg) (hempty : s.partState p = psEmpty) {u : State}
    (hu : u = s.put PH_IN_STAT.FULL 0 n) {tag : Nat} (htag : tag = u.assignTag (leAt (s.message n) 22 2))
    {b : Nat × Nat × Nat} (hb : u.chooseBuild (builds pkg) (leAt (s.message n) 21 1 % 16) tag = some b) :
    u.jobAnswer (s.message n) pkg plan p = u.buildAnswer (s.message n) pkg plan p tag b := by
  subst hu htag
  exact State.jobAnswer_build hgood (by rwa [State.partState_takeMessage]) hb

variable (hask : s.Asks n 1)
include hask

theorem exec_loadJob_notPermitted (hsrc : 4 < s.get PH_IN_STAT.SRC n ∨
      s.get PH_IN_STAT.SRC n ≠ 0 ∧ leAt (s.message n) 20 1 + 1 ≠ s.get PH_IN_STAT.SRC n) :
    exec (.loadJob n pkg plan) s =
      .next ((s.put PH_IN_STAT.FULL 0 n).reply n 1 (leAt (s.message n) 2 2) rpNotPermitted []) :=
  congrArg Host.Outcome.next (State.partRequest_notPermitted hask hsrc)

theorem exec_loadJob_noPartition (hsrc : s.get PH_IN_STAT.SRC n = 0) (hp : 4 ≤ leAt (s.message n) 20 1) :
    exec (.loadJob n pkg plan) s =
      .next ((s.put PH_IN_STAT.FULL 0 n).reply n 1 (leAt (s.message n) 2 2) rpBad []) :=
  congrArg Host.Outcome.next (State.partRequest_none hask hsrc hp)

variable {p : Prt} (hsrc : s.get PH_IN_STAT.SRC n = 0 ∨ s.get PH_IN_STAT.SRC n = p.val + 1)
  (hp : leAt (s.message n) 20 1 = p.val)
include hsrc hp

theorem exec_loadJob_answer {t : State} {st : Nat} {body : List Byte}
    (ht : (s.put PH_IN_STAT.FULL 0 n).jobAnswer (s.message n) pkg plan p = (t, st, body)) :
    exec (.loadJob n pkg plan) s = .next (t.reply n 1 (leAt (s.message n) 2 2) st body) :=
  congrArg Host.Outcome.next (State.partRequest_permitted hask hsrc hp ht)

/-- An answer that places nothing names the tag that the partition had. -/
theorem exec_loadJob_nothing {t : State} {st idx : Nat}
    (ht : (s.put PH_IN_STAT.FULL 0 n).jobAnswer (s.message n) pkg plan p =
      (t, st, (s.put PH_IN_STAT.FULL 0 n).nothingPlaced p idx)) :
    exec (.loadJob n pkg plan) s = .next (t.reply n 1 (leAt (s.message n) 2 2) st (s.nothingPlaced p idx)) := by
  rw [State.nothingPlaced_takeMessage] at ht
  exact exec_loadJob_answer hask hsrc hp ht

theorem exec_loadJob_bad (h : ¬ GoodPackage (s.message n) pkg) : exec (.loadJob n pkg plan) s =
    .next ((s.put PH_IN_STAT.FULL 0 n).reply n 1 (leAt (s.message n) 2 2) rpBad (s.nothingPlaced p 0xFFFFFFFF)) :=
  exec_loadJob_nothing hask hsrc hp (State.jobAnswer_bad h)

variable (hgood : GoodPackage (s.message n) pkg)
include hgood

theorem exec_loadJob_busy (h : s.partState p ≠ psEmpty) : exec (.loadJob n pkg plan) s =
    .next ((s.put PH_IN_STAT.FULL 0 n).reply n 1 (leAt (s.message n) 2 2) rpBusy (s.nothingPlaced p 0xFFFFFFFF)) :=
  exec_loadJob_nothing hask hsrc hp (State.jobAnswer_busy hgood (by rwa [State.partState_takeMessage]))

variable (hempty : s.partState p = psEmpty) {u : State} (hu : u = s.put PH_IN_STAT.FULL 0 n) {tag : Nat}
  (htag : tag = u.assignTag (leAt (s.message n) 22 2))
include hempty hu htag

theorem exec_loadJob_noBuild (h : u.chooseBuild (builds pkg) (leAt (s.message n) 21 1 % 16) tag = none) :
    exec (.loadJob n pkg plan) s =
      .next (u.nextTicket.reply n 1 (leAt (s.message n) 2 2) rpRefused (s.nothingPlaced p 0xFFFFFFFF)) := by
  subst hu htag
  exact exec_loadJob_nothing hask hsrc hp (State.jobAnswer_noBuild hgood (by rwa [State.partState_takeMessage]) h)

variable {b : Nat × Nat × Nat} (hb : u.chooseBuild (builds pkg) (leAt (s.message n) 21 1 % 16) tag = some b)
include hb

theorem exec_loadJob_claims (h : ∃ g ∈ claimsOfBuild pkg b, ¬ s.Claimable tag g) : exec (.loadJob n pkg plan) s =
    .next (u.nextTicket.reply n 1 (leAt (s.message n) 2 2) rpRefused (s.nothingPlaced p 0xFFFFFFFF)) := by
  obtain ⟨g, hg, hnot⟩ := h
  have hjob := jobAnswer_of_build hgood hempty hu htag hb (plan := plan)
  subst hu
  rw [← s.claimable_takeMessage n tag (claimsOfBuild_lt g hg)] at hnot
  exact exec_loadJob_nothing hask hsrc hp (hjob.trans (State.buildAnswer_refused ⟨g, hg, hnot⟩))

variable (hclaims : ∀ g ∈ claimsOfBuild pkg b, s.Claimable tag g)
include hclaims

theorem exec_loadJob_badSection {k : Nat} (h : (sectionsOf b).find? (fun k => !goodSection pkg b k) = some k) :
    ∃ st, (st = rpRefused ∨ st = rpBad) ∧ exec (.loadJob n pkg plan) s =
      .next (u.nextTicket.reply n 1 (leAt (s.message n) 2 2) st (s.nothingPlaced p k)) := by
  have hjob := jobAnswer_of_build hgood hempty hu htag hb (plan := plan)
  have hclaims' := s.claims_takeMessage n hclaims
  rw [← hu] at hclaims'
  obtain ⟨st, hst, hanswer⟩ := State.buildAnswer_badSection hclaims' h (m := s.message n) (plan := plan) (p := p)
  subst hu
  exact ⟨st, hst, exec_loadJob_nothing hask hsrc hp (hjob.trans hanswer)⟩

theorem exec_loadJob_placed (h : ∀ k ∈ sectionsOf b, goodSection pkg b k = true) {v : State}
    (hv : v = ((((claimsOfBuild pkg b).filter (fun g => s.get HUB_OWN.KIND g == 0)).foldl
      (fun v g => v.askOwn g 3 tag false) u.nextTicket).placeJob (s.message n) pkg p plan b.1 tag (sectionsOf b))) :
    exec (.loadJob n pkg plan) s =
      .next (v.reply n 1 (leAt (s.message n) 2 2) rpOk (jobReply p tag b.1 0xFFFFFFFF)) ∧
    v.get PROC_PART_CFG.JOB_TAG p = tag ∧ v.get PROC_PART_CFG.REGIONS p = b.1 := by
  have hjob := jobAnswer_of_build hgood hempty hu htag hb (plan := plan)
  have hclaims' := s.claims_takeMessage n hclaims
  rw [← hu] at hclaims'
  have hanswer := State.buildAnswer_placed hclaims' h (m := s.message n) (plan := plan) (p := p)
  have htag' : tag < 65536 := htag ▸ u.assignTag_lt (leAt_lt (s.message n) 22 2)
  have hmask := builds_mask_lt (State.chooseBuild_mem hb)
  subst hu
  rw [s.askClaims_takeMessage n claimsOfBuild_lt, ← hv] at hanswer
  exact ⟨exec_loadJob_answer hask hsrc hp (hjob.trans hanswer), hv ▸ State.get_placeJob _ _ _ _ _ _ _ _ htag' hmask⟩

end

/-- Settles O51: a request is answered check by check; what is placed keeps its tag and its regions. -/
theorem jobPackagesArePlaced : Obligations.JobPackagesArePlaced := by
  unfold Obligations.JobPackagesArePlaced
  refine ⟨?answered, ?refused, fun s n pkg plan h => exec_loadJob_ignored h⟩
  case answered =>
    rintro s u n _ pkg plan p tag _ _ hbooted hfull rfl hu hop hsrc hp rfl rfl htag
    have hask : s.Asks n 1 := ⟨hbooted, hfull, hop⟩
    refine ⟨fun hbad => hu ▸ exec_loadJob_bad hask hsrc hp hbad,
      fun hgood hbusy => hu ▸ exec_loadJob_busy hask hsrc hp hgood hbusy,
      fun hgood hempty => ⟨exec_loadJob_noBuild hask hsrc hp hgood hempty hu htag, ?build⟩⟩
    rintro b _ _ hb rfl rfl _ rfl
    refine ⟨exec_loadJob_claims hask hsrc hp hgood hempty hu htag hb, fun hclaims =>
      ⟨fun k => exec_loadJob_badSection hask hsrc hp hgood hempty hu htag hb hclaims,
        fun h v => exec_loadJob_placed hask hsrc hp hgood hempty hu htag hb hclaims h⟩⟩
  case refused =>
    rintro s _ n _ pkg plan hbooted hfull rfl rfl hop
    have hask : s.Asks n 1 := ⟨hbooted, hfull, hop⟩
    exact ⟨exec_loadJob_notPermitted hask, exec_loadJob_noPartition hask⟩

end Sys2Proof.Machine
end
